-- ==== Sys2Proof/Word.lean ====
section
/-! DEFINITION. The plain number types of the machine: words, bytes and register numbers (R2, R185). -/

namespace Sys2Proof

/-- A 64-bit word: a general register, an address while it is computed, a record word. -/
abbrev Word := BitVec 64
/-- One 32-bit vector lane. -/
abbrev W32 := BitVec 32
/-- One 16-bit code word (R173). -/
abbrev W16 := BitVec 16
/-- One byte. -/
abbrev Byte := BitVec 8

/-- General register number, x0 to x63 (R185). -/
abbrev XReg := BitVec 6
/-- Vector register number, v0 to v31 (R185). -/
abbrev VReg := BitVec 5
/-- Mask register number, k0 to k7 (R185). -/
abbrev KReg := BitVec 3
/-- Accumulator number, a0 to a3 (R185). -/
abbrev AccReg := BitVec 2
/-- Ring descriptor number, ring0 to ring7 (R185). -/
abbrev RingReg := BitVec 3

/-- The eight 32-bit lanes of a vector register (R185), lane 0 first. -/
abbrev Lanes := Vector W32 8

end Sys2Proof
end

