-- ==== Sys2Proof/Config.lean ====
section
/-! DEFINITION. What the manual leaves to the part or leaves open, as constants without a body.
Nothing in Lean can evaluate them, so a statement about them holds for every value they could have. -/

namespace Sys2Proof.Config

/-- FREE VALUE (log 10). The n-th word whose value the manual leaves open, wherever no rule below
names a narrower one: bytes of a range that has just become Basin scratch (R72), destination bytes of
a copy that failed (R98), measured counts of R373, of R374 and of R368. -/
opaque freeWord : Nat → BitVec 64

/-- FREE VALUE (log 8). The n-th analog deviation of a detector sample, in units of 2^−128 of a code: the noise that R152
leaves open, of which detectorCode takes no more than the bounds there. -/
opaque detectorNoise : Nat → Int

/-- FREE VALUE (log 8). What the Balance loop has not corrected of a phase after its n-th update, by register, in units of
the register (R170, R280). -/
opaque phaseDeviation : Nat → Nat → BitVec 16

/-- FREE VALUE (log 12). The ticket key K that the security engine draws at the n-th launch (R85). -/
opaque ticketKey : Nat → BitVec 64

/-- IMPLEMENTATION (log 13). The package number that Crown reads from the module's slot (R18, R362). -/
opaque packageNumber : BitVec 8

/-- IMPLEMENTATION (log 13). The Dial domain of the package, 192 bits (R341), as Crown writes it. -/
opaque dialDomain : BitVec 192

/-- IMPLEMENTATION (log 13). The combining trees that Crown configures at bring-up (R350). -/
opaque dialTree : Nat → BitVec 64

/-- IMPLEMENTATION (log 47). The packages at the other ends of the ports, 8 bits each, on a combining tree (R298, R350). -/
opaque dialKids : Nat → BitVec 64

/-- FREE VALUE (log 63). The cluster in whose Pond the initial pair on a wire stands, by the queue and sequence of the launch
and the wire: the net image says it, and no field of the launch parameter block does (R196, R198, R316). -/
opaque initialPond : Nat → Nat → Nat → Nat

/-- IMPLEMENTATION (log 13). The module serial of an attestation report (R375). -/
opaque moduleSerial : BitVec 64

/-- IMPLEMENTATION (log 13). The identity public key that the security engine derives from the fused device secret and the
digest of the running Crown image (R365, R375), by byte. -/
opaque identityKey : BitVec 512 → Nat → BitVec 8

/-- IMPLEMENTATION (log 13). The Falcon-1024 signature with the identity key of an image over the bytes of an attestation
report (R365, R375), by byte. -/
opaque attestSign : BitVec 512 → List (BitVec 8) → Nat → BitVec 8

/-- IMPLEMENTATION (log 108). The limit to which the trend of a health indicator is extrapolated (R368). -/
opaque healthLimit : Nat → Nat

end Sys2Proof.Config
end

