-- ==== Sys2Proof/Machine/Fp.lean ====
section
/-! DEFINITION. Numbers and formats (R126 to R145): exact values, the one rounding, conversions with their flags, FP32
operations, block floating point, rescaling and quantisation. -/

namespace Sys2Proof.Machine

/-! ### Flags and rounding (R137, R138) -/

/-- Flags of FP.FLAGS [5:0]: SAT, NV, DZ, OF, UF, NX from bit 5 down (R138). -/
abbrev FpFlags := BitVec 6
def fNX : FpFlags := 1
def fUF : FpFlags := 2
def fOF : FpFlags := 4
def fDZ : FpFlags := 8
def fNV : FpFlags := 16
def fSAT : FpFlags := 32

/-- `f` if `b`, no flag otherwise. -/
def flagIf (b : Bool) (f : FpFlags) : FpFlags := if b then f else 0

/-- The rounding directions of R137. -/
inductive Rm where
  | rne | rz | ru | rd
  deriving DecidableEq, Repr

/-- Codes 0 to 3 of R137 and R138. -/
def Rm.of : Nat → Rm
  | 0 => .rne
  | 1 => .rz
  | 2 => .ru
  | _ => .rd

/-! ### Exact values -/

/-- A value before it is rounded: m·2^e with m above 0; with `st` it lies strictly between m·2^e and (m+1)·2^e. -/
inductive Num where
  | nan
  | inf (neg : Bool)
  | zero (neg : Bool)
  | fin (neg : Bool) (m : Nat) (e : Int) (st : Bool)
  deriving DecidableEq, Repr

/-- The sign of a value. -/
def Num.neg? : Num → Bool
  | .nan => false
  | .inf n => n
  | .zero n => n
  | .fin n _ _ _ => n

/-- The value with its sign inverted. -/
def Num.opp : Num → Num
  | .nan => .nan
  | .inf n => .inf !n
  | .zero n => .zero !n
  | .fin n m e st => .fin (!n) m e st

/-- m·2^e for a signed m; a zero takes the given sign. -/
def Num.ofInt (m e : Int) (zneg : Bool := false) : Num :=
  if m = 0 then .zero zneg else .fin (decide (m < 0)) m.natAbs e false

/-- The signed mantissa of a finite value over 2^e, for an e not above its own exponent. -/
def Num.scaled : Num → Int → Int
  | .fin n m e _, q => (if n then -1 else 1) * (m * 2 ^ (e - q).toNat : Nat)
  | _, _ => 0

/-- The exponent of a value's mantissa, 0 where it has none. -/
def Num.exp : Num → Int
  | .fin _ _ e _ => e
  | _ => 0

/-- Exact product: infinity times zero is NaN. -/
def Num.mul : Num → Num → Num
  | .nan, _ => .nan
  | _, .nan => .nan
  | .inf a, .zero _ => (fun _ => .nan) a
  | .zero _, .inf a => (fun _ => .nan) a
  | .inf a, b => .inf (a != b.neg?)
  | a, .inf b => .inf (a.neg? != b)
  | .zero a, b => .zero (a != b.neg?)
  | a, .zero b => .zero (a.neg? != b)
  | .fin a m e _, .fin b n f _ => .fin (a != b) (m * n) (e + f) false

/-- Exact sum: opposite infinities give NaN; a zero sum of operands of opposite sign takes the sign `z` (R140). -/
def Num.add (z : Bool) : Num → Num → Num
  | .nan, _ => .nan
  | _, .nan => .nan
  | .inf a, .inf b => if a = b then .inf a else .nan
  | .inf a, _ => .inf a
  | _, .inf b => .inf b
  | .zero a, .zero b => .zero (if a = b then a else z)
  | .zero _, b => b
  | a, .zero _ => a
  | .fin a m e s, .fin b n f t =>
    let q := if e ≤ f then e else f
    Num.ofInt ((Num.fin a m e s).scaled q + (Num.fin b n f t).scaled q) q z

/-- The sign of an exact zero sum under a rounding (R140). -/
def Rm.zeroNeg (rm : Rm) : Bool := rm == .rd

/-- Square root of a number, rounded down: `i` bits of the root remain to be found. -/
def isqrtFrom (n : Nat) : Nat → Nat → Nat
  | 0, r => r
  | i + 1, r => isqrtFrom n i (if (r + 2 ^ i) * (r + 2 ^ i) ≤ n then r + 2 ^ i else r)

/-- Square root rounded down. -/
def isqrt (n : Nat) : Nat := isqrtFrom n (Nat.log2 n / 2 + 1) 0

/-- Quotient of two values to 80 bits at least, with what is left as sticky. A zero divisor gives an infinity, zero by
zero and infinity by infinity NaN. -/
def Num.div : Num → Num → Num
  | .nan, _ => .nan
  | _, .nan => .nan
  | .inf a, .inf _ => (fun _ => .nan) a
  | .inf a, b => .inf (a != b.neg?)
  | a, .inf b => .zero (a.neg? != b)
  | .zero a, .zero _ => (fun _ => .nan) a
  | .zero a, b => .zero (a != b.neg?)
  | a, .zero b => .inf (a.neg? != b)
  | .fin a m e _, .fin b n f _ =>
    let k := 80 + Nat.log2 n
    .fin (a != b) (m * 2 ^ k / n) (e - f - k) (m * 2 ^ k % n != 0)

/-- Square root, to 64 bits at least. -/
def Num.sqrt : Num → Num
  | .nan => .nan
  | .zero n => .zero n
  | .inf false => .inf false
  | .inf true => .nan
  | .fin true _ _ _ => .nan
  | .fin false m e _ =>
    let (m, e) := if e % 2 = 0 then (m, e) else (2 * m, e - 1)
    let w := m * 2 ^ 128
    let r := isqrt w
    .fin false r (e / 2 - 64) (r * r != w)

/-- Reciprocal square root, to 64 bits at least. -/
def Num.rsqrt : Num → Num
  | .nan => .nan
  | .zero n => .inf n
  | .inf false => .zero false
  | .inf true => .nan
  | .fin true _ _ _ => .nan
  | .fin false m e _ =>
    let (m, e) := if e % 2 = 0 then (m, e) else (2 * m, e - 1)
    let k := 64 + Nat.log2 m
    let q := isqrt (2 ^ (2 * k) / m)
    .fin false q (-(e / 2) - k) (q * q * m != 2 ^ (2 * k))

/-! ### Formats (R126, R128) -/

/-- A floating-point format: exponent and mantissa bits, bias, the code of the largest finite value, and the codes of
infinity and of the canonical NaN where it has them. -/
structure FpFmt where
  ebits : Nat
  mbits : Nat
  bias : Nat
  max : Nat
  inf : Option Nat
  nan : Option Nat
  deriving DecidableEq, Repr

def fp32 : FpFmt := ⟨8, 23, 127, 0x7F7FFFFF, some 0x7F800000, some 0x7FC00000⟩
def bf16 : FpFmt := ⟨8, 7, 127, 0x7F7F, some 0x7F80, some 0x7FC0⟩
def fp16 : FpFmt := ⟨5, 10, 15, 0x7BFF, some 0x7C00, some 0x7E00⟩
def e4m3 : FpFmt := ⟨4, 3, 7, 0x7E, none, some 0x7F⟩
def e5m2 : FpFmt := ⟨5, 2, 15, 0x7B, some 0x7C, some 0x7E⟩
def e3m2 : FpFmt := ⟨3, 2, 3, 0x1F, none, none⟩
def e2m3 : FpFmt := ⟨2, 3, 1, 0x1F, none, none⟩
def e2m1 : FpFmt := ⟨2, 1, 1, 0x7, none, none⟩
/-- FP64, in which the Decomposition Engine computes (R160). -/
def fp64 : FpFmt := ⟨11, 52, 1023, 0x7FEFFFFFFFFFFFFF, some 0x7FF0000000000000, some 0x7FF8000000000000⟩

/-- The format of codes 0 to 7 (R126). -/
def fpFmtOf : Nat → FpFmt
  | 0 => fp32
  | 1 => bf16
  | 2 => fp16
  | 3 => e4m3
  | 4 => e5m2
  | 5 => e3m2
  | 6 => e2m3
  | _ => e2m1

/-- Bits of a format. -/
def FpFmt.width (f : FpFmt) : Nat := 1 + f.ebits + f.mbits

/-- The value of a code, of which only the format's bits count (R126, R127). -/
def FpFmt.decode (f : FpFmt) (code : Nat) : Num :=
  let c := code % 2 ^ (f.ebits + f.mbits)
  let neg := code / 2 ^ (f.ebits + f.mbits) % 2 = 1
  let e := c / 2 ^ f.mbits
  let m := c % 2 ^ f.mbits
  if f.max < c then (if f.inf = some c then .inf neg else .nan)
  else if c = 0 then .zero neg
  else if e = 0 then .fin neg m (1 - (f.bias : Int) - f.mbits) false
  else .fin neg (2 ^ f.mbits + m) ((e : Int) - f.bias - f.mbits) false

/-- The code with a sign. -/
def FpFmt.signed (f : FpFmt) (neg : Bool) (c : Nat) : Nat := if neg then 2 ^ (f.ebits + f.mbits) + c else c
/-- The canonical NaN of a format that has one (R128). -/
def FpFmt.nanCode (f : FpFmt) : Nat := f.nan.getD 0

/-- Does a rounding take the magnitude up, for the lowest kept bit, the half below it and what lies below that? -/
def Rm.up (rm : Rm) (neg odd half rest : Bool) : Bool :=
  match rm with
  | .rne => half && (rest || odd)
  | .rz => false
  | .ru => !neg && (half || rest)
  | .rd => neg && (half || rest)

/-- m·2^e rounded to a multiple of 2^q: the multiple and whether it differs from the value. -/
def roundAt (rm : Rm) (neg : Bool) (m : Nat) (e : Int) (st : Bool) (q : Int) : Nat × Bool :=
  if q ≤ e then (m * 2 ^ (e - q).toNat, st)
  else
    let d := (q - e).toNat
    let n := m / 2 ^ d
    let r := m % 2 ^ d
    let half := decide (2 ^ (d - 1) ≤ r)
    let rest := decide (r % 2 ^ (d - 1) ≠ 0) || st
    (n + (if rm.up neg (n % 2 = 1) half rest then 1 else 0), half || rest)

/-- Exponent of the spacing of a format at m·2^e, subnormal spacing included. -/
def FpFmt.spacing (f : FpFmt) (m : Nat) (e : Int) : Int :=
  let top := (Nat.log2 m : Int) + e
  let emin := 1 - (f.bias : Int)
  (if emin ≤ top then top else emin) - f.mbits

/-- The magnitude code of n·2^q, where 2^q is the spacing of the format at the value or its lower neighbour: it may lie
above the largest finite code. -/
def FpFmt.pack (f : FpFmt) (n : Nat) (q : Int) : Nat :=
  if n < 2 ^ f.mbits then n
  else (q + f.mbits + f.bias).toNat * 2 ^ f.mbits + (n - 2 ^ f.mbits)

/-- Rounds m·2^e to a format without bounding the exponent: magnitude code, inexact. -/
def FpFmt.roundMag (f : FpFmt) (rm : Rm) (neg : Bool) (m : Nat) (e : Int) (st : Bool) : Nat × Bool :=
  let q := f.spacing m e
  let (n, x) := roundAt rm neg m e st q
  (f.pack n q, x)

/-- UF and NX of the rounded magnitude that a conversion delivers (R136, R139). -/
def FpFmt.tiny (f : FpFmt) (c : Nat) (x : Bool) : FpFlags :=
  flagIf x fNX ||| flagIf (x && decide (c < 2 ^ f.mbits)) fUF

/-- IEEE 754 tininess after rounding (R140; log 57): m·2^e, rounded as if the exponent were unbounded, lies below the
smallest normal. -/
def FpFmt.tinyIeee (f : FpFmt) (rm : Rm) (neg : Bool) (m : Nat) (e : Int) (st : Bool) : Bool :=
  let top := (Nat.log2 m : Int) + e
  let emin := 1 - (f.bias : Int)
  decide (top < emin - 1) || (decide (top = emin - 1) && decide ((roundAt rm neg m e st (top - f.mbits)).1 < 2 ^ (f.mbits + 1)))

/-- IEEE 754 overflow: infinity or the largest finite value, as the rounding decides. -/
def FpFmt.overflow (f : FpFmt) (rm : Rm) (neg : Bool) : Nat :=
  let toInf := match rm with | .rne => true | .rz => false | .ru => !neg | .rd => neg
  f.signed neg (if toInf then f.inf.getD f.max else f.max)

/-- Rounds a result formed by arithmetic as IEEE 754 does (R136, R140). -/
def FpFmt.ieee (f : FpFmt) (rm : Rm) : Num → Nat × FpFlags
  | .nan => (f.nanCode, 0)
  | .inf n => (f.signed n (f.inf.getD f.max), 0)
  | .zero n => (f.signed n 0, 0)
  | .fin n m e st =>
    let (c, x) := f.roundMag rm n m e st
    if f.max < c then (f.overflow rm n, fOF ||| fNX)
    else (f.signed n c, flagIf x fNX ||| flagIf (x && f.tinyIeee rm n m e st) fUF)

/-- Range handling of a conversion after its one rounding: the code without bound, and the flags that the rounding
gives (R136). -/
def FpFmt.clampCode (f : FpFmt) (rm : Rm) (nanp : Bool) (n : Bool) (c : Nat) (fl : FpFlags) : Nat × FpFlags :=
  if f.max < c then
    (if nanp && f.inf.isSome then (f.overflow rm n, fOF ||| fNX) else (f.signed n f.max, fSAT ||| fOF ||| fNX))
  else (f.signed n c, fl)

/-- A conversion to a floating-point format: one rounding, then the table of R136. -/
def FpFmt.convert (f : FpFmt) (rm : Rm) (nanp : Bool) : Num → Nat × FpFlags
  | .nan => if f.nan.isSome then (f.nanCode, 0) else (0, fNV)
  | .inf n =>
    if nanp && f.inf.isSome then (f.signed n (f.inf.getD f.max), 0)
    else if nanp && f.nan.isSome then (f.nanCode, 0)
    else (f.signed n f.max, fSAT)
  | .zero n => (f.signed n 0, 0)
  | .fin n m e st =>
    let (c, x) := f.roundMag rm n m e st
    f.clampCode rm nanp n c (f.tiny c x)

/-- Range of the integer formats 8 to 12 (R126); INT32 for another code (R129). -/
def intRange : Nat → Int × Int
  | 8 => (-32768, 32767)
  | 9 => (-128, 127)
  | 10 => (0, 255)
  | 11 => (-8, 7)
  | 12 => (0, 15)
  | _ => (-2147483648, 2147483647)

/-- Width in bits of formats 0 to 15 (R126). -/
def fmtWidth : Nat → Nat
  | 0 => 32
  | 1 => 16
  | 2 => 16
  | 3 => 8
  | 4 => 8
  | 5 => 6
  | 6 => 6
  | 7 => 4
  | 8 => 16
  | 9 => 8
  | 10 => 8
  | 11 => 4
  | 12 => 4
  | 13 => 8
  | 14 => 6
  | _ => 4

/-- Width of the integer formats, 32 for INT32. -/
def intWidth (fmt : Nat) : Nat := if 8 ≤ fmt ∧ fmt ≤ 12 then fmtWidth fmt else 32

/-- The two's complement bits of an integer in `w` bits. -/
def intBits (w : Nat) (v : Int) : Nat := (v % (2 ^ w : Nat)).toNat

/-- The integer that the low bits of a code stand for in formats 8 to 12, INT32 for another code. -/
def intOf (fmt code : Nat) : Int :=
  let w := intWidth fmt
  let c := code % 2 ^ w
  if (intRange fmt).1 = 0 then c else if 2 ^ (w - 1) ≤ c then (c : Int) - (2 ^ w : Nat) else c

/-- A finite value rounded to an integer: the integer and whether it differs. -/
def Num.round (rm : Rm) : Num → Int × Bool
  | .fin n m e st =>
    let (k, x) := roundAt rm n m e st 0
    (if n then -(k : Int) else k, x)
  | _ => (0, false)

/-- Clamps to a range: SAT for a clamp, else NX if inexact (R136). -/
def clampInt (r : Int × Int) (v : Int) (x : Bool) : Int × FpFlags :=
  if v < r.1 then (r.1, fSAT) else if r.2 < v then (r.2, fSAT) else (v, flagIf x fNX)

/-- A conversion to an integer format with an integer zero point (R136, R143): zp is 0 for a plain conversion. -/
def convertInt (fmt : Nat) (rm : Rm) (zp : Int) (v : Num) : Nat × FpFlags :=
  let r := intRange fmt
  let w := intWidth fmt
  match v with
  | .nan => (intBits w zp, fNV)
  | .inf n => (intBits w (if n then r.1 else r.2), fSAT)
  | v =>
    let (k, x) := v.round rm
    let (y, fl) := clampInt r (k + zp) x
    (intBits w y, fl)

/-- A conversion to format 0 to 12, FP32 as 0 (R136). -/
def convertTo (fmt : Nat) (rm : Rm) (nanp : Bool) (v : Num) : Nat × FpFlags :=
  if fmt < 8 then (fpFmtOf fmt).convert rm nanp v else convertInt fmt rm 0 v

/-! ### FP32 operations (R140, R242) -/

/-- The value of an FP32 code. -/
def f32 (w : W32) : Num := fp32.decode w.toNat

/-- The canonical NaN (R128). -/
def nan32 : W32 := 0x7FC00000

/-- Is a lane a NaN? -/
def isNan32 (w : W32) : Bool := f32 w == .nan

/-- A lane that an operation hands on: a NaN becomes the canonical one (R128). -/
def canon32 (w : W32) : W32 := if isNan32 w then nan32 else w

/-- Rounds to FP32 with the flags. -/
def to32 (rm : Rm) (v : Num) : W32 × FpFlags :=
  let (c, fl) := fp32.ieee rm v
  (BitVec.ofNat 32 c, fl)

/-- Adds NV when an operation on operands without a NaN gives NaN. -/
def withInvalid (invalid : Bool) (r : W32 × FpFlags) : W32 × FpFlags := (r.1, r.2 ||| flagIf invalid fNV)

/-- VFADD (R140). -/
def fadd32 (rm : Rm) (a b : W32) : W32 × FpFlags :=
  let v := (f32 a).add rm.zeroNeg (f32 b)
  withInvalid (v == .nan && !isNan32 a && !isNan32 b) (to32 rm v)
/-- VFSUB (R140): a NaN stays NaN under the change of sign. -/
def fsub32 (rm : Rm) (a b : W32) : W32 × FpFlags :=
  let v := (f32 a).add rm.zeroNeg (f32 b).opp
  withInvalid (v == .nan && !isNan32 a && !isNan32 b) (to32 rm v)
/-- VFMUL (R140). -/
def fmul32 (rm : Rm) (a b : W32) : W32 × FpFlags :=
  let v := (f32 a).mul (f32 b)
  withInvalid (v == .nan && !isNan32 a && !isNan32 b) (to32 rm v)
/-- VFMA (R140): a·t + d, rounded once; 0·∞ is invalid whatever the addend. -/
def ffma32 (rm : Rm) (a t d : W32) : W32 × FpFlags :=
  let p := (f32 a).mul (f32 t)
  let v := p.add rm.zeroNeg (f32 d)
  let badMul := p == .nan && !isNan32 a && !isNan32 t
  withInvalid (badMul || (v == .nan && p != .nan && !isNan32 d)) (to32 rm v)
/-- VFDIV (R140). -/
def fdiv32 (rm : Rm) (a b : W32) : W32 × FpFlags :=
  let v := (f32 a).div (f32 b)
  let dz := (match f32 a, f32 b with | .fin _ _ _ _, .zero _ => true | _, _ => false)
  let r := withInvalid (v == .nan && !isNan32 a && !isNan32 b) (to32 rm v)
  (r.1, r.2 ||| flagIf dz fDZ)
/-- VFSQRT (R140, R242). -/
def fsqrt32 (rm : Rm) (a : W32) : W32 × FpFlags :=
  let v := (f32 a).sqrt
  withInvalid (v == .nan && !isNan32 a) (to32 rm v)
/-- VFRCP (R242). -/
def frcp32 (rm : Rm) (a : W32) : W32 × FpFlags := fdiv32 rm 0x3F800000 a
/-- VFRSQ (R242). -/
def frsq32 (rm : Rm) (a : W32) : W32 × FpFlags :=
  let v := (f32 a).rsqrt
  let dz := (match f32 a with | .zero _ => true | _ => false)
  let r := withInvalid (v == .nan && !isNan32 a) (to32 rm v)
  (r.1, r.2 ||| flagIf dz fDZ)

/-- A rank by which FP32 codes other than NaN are ordered, −0 below +0 (R140). -/
def rank32 (w : W32) : Int := if w.msb then -((w.toNat % 2 ^ 31 : Nat) : Int) - 1 else w.toNat
/-- VFMIN (R140). -/
def fmin32 (a b : W32) : W32 := if isNan32 a || isNan32 b then nan32 else if rank32 a ≤ rank32 b then a else b
/-- VFMAX (R140). -/
def fmax32 (a b : W32) : W32 := if isNan32 a || isNan32 b then nan32 else if rank32 a ≤ rank32 b then b else a
/-- VFABS (R242). -/
def fabs32 (a : W32) : W32 := if isNan32 a then nan32 else a &&& 0x7FFFFFFF
/-- VFNEG (R242). -/
def fneg32 (a : W32) : W32 := if isNan32 a then nan32 else a ^^^ 0x80000000

/-- A rank in which −0 equals +0, for comparisons (R243). -/
def cmpRank (w : W32) : Int := if w.msb then -((w.toNat % 2 ^ 31 : Nat) : Int) else w.toNat
/-- VFCMP.EQ (R243). -/
def feq32 (a b : W32) : Bool × FpFlags := (!isNan32 a && !isNan32 b && cmpRank a == cmpRank b, 0)
/-- VFCMP.LT (R243). -/
def flt32 (a b : W32) : Bool × FpFlags :=
  if isNan32 a || isNan32 b then (false, fNV) else (decide (cmpRank a < cmpRank b), 0)
/-- VFCMP.LE (R243). -/
def fle32 (a b : W32) : Bool × FpFlags :=
  if isNan32 a || isNan32 b then (false, fNV) else (decide (cmpRank a ≤ cmpRank b), 0)
/-- VFCMP.UN (R243). -/
def fun32 (a b : W32) : Bool × FpFlags := (isNan32 a || isNan32 b, 0)

/-! ### Conversions of lanes (R250, R252) -/

/-- VCVT `to` (R250): code 0 is INT32. -/
def cvtTo (fmt : Nat) (rm : Rm) (nanp : Bool) (w : W32) : W32 × FpFlags :=
  let (c, fl) := if fmt = 0 then convertInt 0 rm 0 (f32 w) else convertTo fmt rm nanp (f32 w)
  (BitVec.ofNat 32 c, fl)

/-- The exact value of a code of formats 1 to 12, of INT32 for 0. -/
def numOf (fmt code : Nat) : Num :=
  if fmt ≠ 0 ∧ fmt < 8 then (fpFmtOf fmt).decode code else Num.ofInt (intOf fmt code) 0

/-- VCVT `from` (R250). -/
def cvtFrom (fmt : Nat) (rm : Rm) (w : W32) : W32 × FpFlags := to32 rm (numOf fmt w.toNat)

/-- Stochastic rounding of n·2^q plus a fraction (R139): the multiple of the spacing, and whether it is inexact; `d`
bits of the FP32 value are discarded. -/
def srMultiple (m : Nat) (e q : Int) (d : Nat) (rb : W32) : Nat × Bool :=
  if q ≤ e then (m * 2 ^ (e - q).toNat, false)
  else
    let sh := (q - e).toNat
    let n := m / 2 ^ sh
    let r := m % 2 ^ sh
    let k := Nat.min d 16
    let fr := r * 2 ^ k / 2 ^ sh
    (if 2 ^ k ≤ fr + rb.toNat % 2 ^ k then n + 1 else n, r != 0)

/-- round_sr of R139 to format 0 to 12, where 0 is INT32. -/
def roundSr (fmt : Nat) (nanp : Bool) (w rb : W32) : W32 × FpFlags :=
  match f32 w with
  | .fin neg m e _ =>
    let ulp := fp32.spacing m e
    if fmt ≠ 0 ∧ fmt < 8 then
      let f := fpFmtOf fmt
      let q := f.spacing m e
      if q ≤ ulp then cvtTo fmt .rne nanp w
      else
        let (n, x) := srMultiple m e q (q - ulp).toNat rb
        let c := f.pack n q
        let (y, fl) := f.clampCode .rne nanp neg c (f.tiny c x)
        (BitVec.ofNat 32 y, if x then fl ||| fNX else fl)
    else if 0 ≤ ulp then cvtTo fmt .rne nanp w
    else
      let (n, x) := srMultiple m e 0 (0 - ulp).toNat rb
      let v : Int := if neg then -(n : Int) else n
      let (y, fl) := clampInt (intRange fmt) v x
      (BitVec.ofNat 32 (intBits (intWidth fmt) y), fl ||| flagIf x fNX)
  | _ => cvtTo fmt .rne nanp w

/-! ### Block floating point (R131, R132) -/

/-- 2^(b−1) of codes 13, 14 and 15. -/
def bfpHalf : Nat → Nat
  | 13 => 128
  | 14 => 32
  | _ => 8

/-- A stored mantissa of BFP width b: the least code is read as −M (R131). -/
def bfpMant (fmt code : Nat) : Int :=
  let h := bfpHalf fmt
  let c := code % (2 * h)
  let v : Int := if h ≤ c then (c : Int) - 2 * h else c
  if v < -((h : Int) - 1) then -((h : Int) - 1) else v

/-- The value of an element under a shared exponent code other than 0xFF (R131). -/
def bfpValue (fmt code shared : Nat) : Num :=
  Num.ofInt (bfpMant fmt code) ((shared : Int) - 127 - Nat.log2 (bfpHalf fmt))

/-- Least exponent with |x| ≤ (M/h)·2^ex for one finite non-zero value. -/
def bfpExp (h m : Nat) (e : Int) : Int :=
  -- |x| = m·2^e with 2^t ≤ m < 2^(t+1); the exponent is t + e + 1 or one more
  let ex := (Nat.log2 m : Int) + e + 1
  -- m·2^e ≤ (h-1)/h·2^ex iff m·h ≤ (h-1)·2^(t+1)
  if m * h ≤ (h - 1) * 2 ^ (Nat.log2 m + 1) then ex else ex + 1

/-- Conversion of 32 values to BFP (R132): mantissas, shared code, flags. -/
def bfpConvert (fmt : Nat) (xs : List W32) : List Int × Nat × FpFlags :=
  let h := bfpHalf fmt
  let vs := xs.map f32
  if vs.any (fun v => match v with | .nan => true | .inf _ => true | _ => false) then (xs.map (fun _ => 0), 0xFF, fNV)
  else
    let ex0 := vs.foldl (fun (a : Int) v => match v with
      | .fin _ m e _ => let x := bfpExp h m e; if a < x then x else a
      | _ => a) (-127)
    let sat := decide (127 < ex0)
    let ex : Int := if sat then 127 else ex0
    let one (v : Num) : Int × FpFlags :=
      match v with
      | .fin n m e st =>
        let w := Num.fin n m (e + Nat.log2 h - ex) st
        let (k, x) := w.round .rne
        let lim : Int := (h : Int) - 1
        if k < -lim then (-lim, fSAT ||| fNX)
        else if lim < k then (lim, fSAT ||| fNX)
        else (k, flagIf x fNX ||| flagIf (k == 0) fUF)
      | _ => (0, 0)
    let rs := vs.map one
    (rs.map (·.1), (ex + 127).toNat, rs.foldl (fun f r => f ||| r.2) (flagIf sat fSAT))

/-! ### Rescaling (R143) and affine quantisation (R144) -/

/-- An entry of a rescale table. -/
structure Resc where
  scale : W32
  bias : W32
  zp : Int
  nanp : Bool
  rm : Rm
  fmt : Nat
  deriving DecidableEq, Repr

/-- Reads an entry from its two words; none if R143 calls it bad. -/
def rescOf (w0 w1 : Word) : Option Resc :=
  let fmt := w1.toNat % 16
  let zc := w1.toNat / 256 % 256
  let signed := fmt == 8 || fmt == 9 || fmt == 11
  let zp : Int := if signed && decide (128 ≤ zc) then (zc : Int) - 256 else zc
  let r := intRange fmt
  if 13 ≤ fmt ∨ w1.toNat / 2 ^ 16 ≠ 0 ∨ w1.getLsbD 7 then none
  else if fmt < 8 ∧ zc ≠ 0 then none
  else if 8 ≤ fmt ∧ (zp < r.1 ∨ r.2 < zp) then none
  else some ⟨w0.setWidth 32, (w0 >>> 32).setWidth 32, zp, w1.getLsbD 6, Rm.of (w1.toNat / 16 % 4), fmt⟩

/-- acc·SCALE + BIAS and its conversion (R143): the output's bits and flags. An exact zero has the sign that IEEE 754 gives it
under the entry's RM (log 119). -/
def Resc.apply (r : Resc) (acc : Num) : Nat × FpFlags :=
  let v := (acc.mul (f32 r.scale)).add r.rm.zeroNeg (f32 r.bias)
  if r.fmt < 8 then (fpFmtOf r.fmt).convert r.rm r.nanp v else convertInt r.fmt r.rm r.zp v

/-- An accumulator or lane as FP32, or as INT32. -/
def accNum (int : Bool) (w : W32) : Num := if int then Num.ofInt w.toInt 0 else f32 w

/-- Bits of an affine code: 8 for UINT8, 4 for UINT4 (R254). -/
def affineBits (fmt : Nat) : Nat := if fmt = 12 then 4 else 8

/-- VSCAL (R144): s, m and flags. -/
def vscal32 (fmt : Nat) (lo hi : W32) : W32 × W32 × FpFlags :=
  match f32 lo, f32 hi with
  | .nan, _ => (nan32, nan32, fNV)
  | _, .nan => (nan32, nan32, fNV)
  | .inf _, _ => (nan32, nan32, fNV)
  | _, .inf _ => (nan32, nan32, fNV)
  | l, h =>
    match h.add false l.opp with
    | .zero _ => (0x3F800000, lo, 0)
    | d =>
      let (s, fl) := to32 .ru (d.div (Num.ofInt (2 ^ affineBits fmt - 1) 0))
      (s, lo, fl)

/-- VQNT (R144, R254): a NaN s or m gives 0 with NV. With s = 0 the quotient of 0 is NaN and any other infinite (log 118). -/
def vqnt32 (fmt : Nat) (x s m : W32) : W32 × FpFlags :=
  if isNan32 s || isNan32 m then (0, fNV)
  else
    let d := (f32 x).add false (f32 m).opp
    let (c, fl) := convertInt (if fmt = 12 then 12 else 10) .rne 0 (d.div (f32 s))
    (BitVec.ofNat 32 c, fl)

/-- VDQNT (R144): s·q + m rounded once, with the invalid operations of R140. -/
def vdqnt32 (fmt : Nat) (q s m : W32) : W32 × FpFlags :=
  let k := q.toNat % 2 ^ affineBits fmt
  ffma32 .rne (to32 .rne (Num.ofInt k 0)).1 s m

/-! ### Floating-point atomics (R146) -/

/-- FAMO.ADD. -/
def famoAdd32 (a b : W32) : W32 := (fadd32 .rne a b).1

/-! ### Accumulators (R130, R141, R142) -/

/-- sat32 of R130: the value and whether it clamped. -/
def sat32 (v : Int) : W32 × Bool :=
  let r := clampInt (intRange 0) v false
  (BitVec.ofInt 32 r.1, r.2 != 0)

/-- One floating-point tile step of an element (R141): the products' operands, the scale codes and the accumulator. -/
def tileF (ca cb : Nat) (ps : List (Num × Num)) (acc : W32) : W32 :=
  let ms := ps.map (fun p => p.1.mul p.2)
  let s := ms.foldl (Num.add false) (.zero false)
  if ca = 0xFF ∨ cb = 0xFF ∨ s = .nan then nan32
  else
    let s := match s with
      | .fin n m e st => Num.fin n m (e + (ca : Int) - 127 + (cb : Int) - 127) st
      | .zero _ => .zero false
      | s => s
    (to32 .rne ((f32 acc).add false s)).1

end Sys2Proof.Machine
end

