-- ==== Sys2Proof/Machine/Decomp.lean ====
section
/-! DEFINITION. The arithmetic of the Decomposition Engine (R159 to R162): FP64 with one rounding per operation, correctly
rounded functions, the one-sided Jacobi sweep, the factorisation into rotations, and the phase registers that result. -/

namespace Sys2Proof.Machine

/-! ### FP64 (R159) -/

/-- One rounding to FP64. -/
def r64 (v : Num) : Num := fp64.decode (fp64.ieee .rne v).1
def dadd (a b : Num) : Num := r64 (Num.add false a b)
def dsub (a b : Num) : Num := r64 (Num.add false a b.opp)
def dmul (a b : Num) : Num := r64 (Num.mul a b)
def ddiv (a b : Num) : Num := r64 (Num.div a b)
def dsqrt (a : Num) : Num := r64 (Num.sqrt a)
/-- The value of an integer. -/
def dint (i : Int) : Num := Num.ofInt i 0
/-- Magnitude. -/
def Num.abs : Num → Num
  | .inf _ => .inf false
  | .zero _ => .zero false
  | .fin _ m e s => .fin false m e s
  | .nan => .nan
/-- Is a below b? Both are finite. -/
def Num.lt (a b : Num) : Bool :=
  let q := if a.exp ≤ b.exp then a.exp else b.exp
  decide (a.scaled q < b.scaled q)
/-- Is a zero? -/
def Num.isZero (a : Num) : Bool := match a with | .zero _ => true | _ => false
/-- a·2^k, exactly. -/
def Num.shift (a : Num) (k : Int) : Num := match a with | .fin n m e s => .fin n m (e + k) s | v => v
/-- A sum in ascending order from +0, with one rounding per addition (R159). -/
def dsum (l : List Num) : Num := l.foldl dadd (.zero false)

/-! ### Functions of a real argument

Fixed point with `k` fractional bits, far beyond the 53 bits that remain. Their results are irrational for every argument but
zero, so that the last rounding has something left over. -/

/-- atan(t / 2^k)·2^k for t up to about 2^(k-3), by the series. -/
def atanSeries (k t : Nat) : Nat → Nat → Int → Int → Int
  | 0, _, _, acc => acc
  | fuel + 1, j, pw, acc =>
    if pw = 0 then acc
    else atanSeries k t fuel (j + 2) (-(pw * t / 2 ^ k * t / 2 ^ k)) (acc + pw / (j : Int))

/-- atan(t / 2^k)·2^k, after halving the angle `n` times. -/
def atanHalve (k : Nat) : Nat → Nat → Int
  | 0, t => atanSeries k t (k + 8) 1 t 0
  | n + 1, t => 2 * atanHalve k n (t * 2 ^ k / (2 ^ k + isqrt (2 ^ (2 * k) + t * t)))

/-- π·2^k, by Machin's formula with 64 bits to spare. -/
def piFix (k : Nat) : Nat :=
  let g := k + 64
  ((16 * atanHalve g 0 (2 ^ g / 5) - 4 * atanHalve g 0 (2 ^ g / 239)) / 2 ^ 64).toNat

/-- Fractional bits for a quotient p / q: 320, and as many more as it is small. -/
def fixBits (p q : Nat) : Nat := 320 + (Nat.log2 q - Nat.log2 p)

/-- atan(p / q) for p, q above 0: the value times 2^k, and k. -/
def atanQuot (p q : Nat) : Nat × Nat :=
  if q < p then
    let k := fixBits q p + 64
    ((piFix k : Int) / 2 - atanHalve k 4 (q * 2 ^ k / p) |>.toNat, k)
  else
    let k := fixBits p q + 64
    ((atanHalve k 4 (p * 2 ^ k / q)).toNat, k)

/-- A positive irrational value from its fixed-point form. -/
def fixNum (neg : Bool) (v k : Nat) : Num := if v = 0 then .zero neg else .fin neg v (-(k : Int)) true

/-- Numerator and denominator of |y| / |x|, both above 0. -/
def ratio (y x : Num) : Nat × Nat :=
  let q := if y.exp ≤ x.exp then y.exp else x.exp
  ((y.scaled q).natAbs, (x.scaled q).natAbs)

/-- π with a sign, correctly rounded. -/
def piNum (neg : Bool) : Num := r64 (fixNum neg (piFix 320) 320)

/-- atan2, correctly rounded: atan2(0, 0) is 0 (R161). -/
def datan2 (y x : Num) : Num :=
  match y, x with
  | .zero _, .zero _ => .zero false
  | .zero n, .fin true _ _ _ => piNum n
  | .zero n, _ => .zero n
  | .fin n _ _ _, .zero _ => r64 (fixNum n (piFix 320) 321)
  | .fin n m e s, x =>
    let (p, q) := ratio (.fin n m e s) x
    let (v, k) := atanQuot p q
    if x.neg? then r64 (fixNum n (piFix k - v) k) else r64 (fixNum n v k)
  | _, _ => .nan

/-- x mod π for x from −π to π (R161): evaluated with the real π and rounded once. -/
def modPi (x : Num) : Num :=
  match x with
  | .fin true m e _ => r64 (fixNum false ((piFix 400 : Int) - (Num.fin false m e false).scaled (min e (-400)) / 2 ^ (-400 - min e (-400)).toNat).toNat 400)
  | .zero _ => .zero false
  | x => x

/-- The terms of the sine series from x·2^k, or of the cosine series from 2^k. -/
def trigSeries (k : Nat) (x : Int) : Nat → Nat → Int → Int → Int
  | 0, _, _, acc => acc
  | fuel + 1, j, t, acc =>
    if t = 0 then acc
    else trigSeries k x fuel (j + 2) (-(t * x / 2 ^ k * x / 2 ^ k / ((j + 1 : Nat) * (j + 2 : Nat)))) (acc + t)

/-- Fixed-point form of a positive value, with bits enough for its size. -/
def toFix (m : Nat) (e : Int) : Int × Nat :=
  let k := 400 + (-(e + Nat.log2 m)).toNat
  ((if 0 ≤ e + k then m * 2 ^ (e + k).toNat else m / 2 ^ (-(e + k)).toNat : Nat), k)

/-- A value from a signed fixed-point form. -/
def fixInt (v : Int) (k : Nat) : Num := fixNum (decide (v < 0)) v.natAbs k

/-- sin a for a from 0 to π, correctly rounded. -/
def dsin : Num → Num
  | .fin _ m e _ => let (x, k) := toFix m e; r64 (fixInt (trigSeries k x (k + 8) 1 x 0) k)
  | v => v

/-- cos a for a from 0 to π, correctly rounded. -/
def dcos : Num → Num
  | .fin _ m e _ => let (x, k) := toFix m e; r64 (fixInt (trigSeries k x (k + 8) 0 (2 ^ k) 0) k)
  | _ => dint 1

/-- arcsin x for x from 0 to 1, correctly rounded. -/
def dasin (x : Num) : Num :=
  match x with
  | .fin _ m e _ =>
    if e ≥ 0 ∨ m = 2 ^ (-e).toNat then r64 (fixNum false (piFix 320) 321)
    else
      -- x = m / 2^d; arcsin x = atan(m / sqrt(2^(2d) - m²))
      let d := (-e).toNat
      let g := 400 + d
      let (v, k) := atanQuot (m * 2 ^ g) (isqrt ((2 ^ (2 * d) - m * m) * 2 ^ (2 * g)))
      r64 (fixNum false v k)
  | v => v

/-- round_rne(a·65536/π) for a from 0 (R162), with the real π. -/
def phaseUnits (a : Num) : Nat :=
  match a with
  | .fin _ m e _ =>
    let (x, k) := toFix m e
    (roundAt .rne false (x.toNat * 65536 * 2 ^ 64 / piFix k) (-64) true 0).1
  | _ => 0

/-- Is a FP64 value below the real π? -/
def belowPi (a : Num) : Bool := !(Num.lt (piNum false) a)

/-- 2π − a, rounded once. -/
def twoPiMinus (a : Num) : Num :=
  match a with
  | .fin _ m e _ => let (x, k) := toFix m e; r64 (fixInt (2 * (piFix k : Int) - x) k)
  | _ => r64 (fixNum false (piFix 320) 319)

/-- round_rne((a − π)·65536/π) (R162). -/
def phaseUnitsAbove (a : Num) : Nat :=
  match a with
  | .fin _ m e _ =>
    let (x, k) := toFix m e
    (roundAt .rne false ((x - (piFix k : Int)).toNat * 65536 * 2 ^ 64 / piFix k) (-64) true 0).1
  | _ => 0

/-! ### Matrices -/

/-- A matrix by rows. -/
abbrev Mat := Array (Array Num)

/-- Element (i, j). -/
def Mat.at (a : Mat) (i j : Nat) : Num := ((a[i]?.getD #[])[j]?).getD (.zero false)
/-- Replaces element (i, j). -/
def Mat.put (a : Mat) (i j : Nat) (v : Num) : Mat := a.modify i (fun r => r.setIfInBounds j v)
/-- The n × n matrix of a function. -/
def Mat.ofFn (n : Nat) (f : Nat → Nat → Num) : Mat :=
  ((List.range n).map (fun i => ((List.range n).map (f i)).toArray)).toArray
/-- The identity. -/
def Mat.one (n : Nat) : Mat := Mat.ofFn n (fun i j => if i = j then dint 1 else .zero false)
/-- The transpose. -/
def Mat.tr (a : Mat) (n : Nat) : Mat := Mat.ofFn n (fun i j => a.at j i)

/-! ### Jacobi (R160) -/

/-- Rotates columns p and q of a matrix in every row. -/
def rotCols (n : Nat) (c s : Num) (p q : Nat) (x : Mat) : Mat :=
  (List.range n).foldl (fun x i =>
    let a := x.at i p
    let b := x.at i q
    (x.put i p (dsub (dmul c a) (dmul s b))).put i q (dadd (dmul s a) (dmul c b))) x

/-- One pair of a sweep: A, V, and whether something rotated. -/
def jacobiPair (n : Nat) (st : Mat × Mat × Bool) (pq : Nat × Nat) : Mat × Mat × Bool :=
  let (a, v, rot) := st
  let (p, q) := pq
  let col (j : Nat) := (List.range n).map (fun i => a.at i j)
  let al := dsum ((col p).map (fun x => dmul x x))
  let be := dsum ((col q).map (fun x => dmul x x))
  let ga := dsum (((col p).zip (col q)).map (fun x => dmul x.1 x.2))
  if !ga.isZero && Num.lt ((dsqrt (dmul al be)).shift (-40)) ga.abs then
    let ze := ddiv (dsub be al) (dmul (dint 2) ga)
    let t := ddiv (dint (if ze.neg? && !ze.isZero then -1 else 1)) (dadd ze.abs (dsqrt (dadd (dint 1) (dmul ze ze))))
    let c := ddiv (dint 1) (dsqrt (dadd (dint 1) (dmul t t)))
    let s := dmul c t
    (rotCols n c s p q a, rotCols n c s p q v, true)
  else st

/-- At most 30 sweeps. -/
def jacobi (n : Nat) : Nat → Mat → Mat → Mat × Mat
  | 0, a, v => (a, v)
  | fuel + 1, a, v =>
    let pairs := (List.range n).flatMap (fun p => ((List.range n).filter (fun q => decide (p < q))).map (fun q => (p, q)))
    let (a, v, rot) := pairs.foldl (jacobiPair n) (a, v, false)
    if rot then jacobi n fuel a v else (a, v)

/-- The norm of a list of elements. -/
def norm (l : List Num) : Num := dsqrt (dsum (l.map (fun x => dmul x x)))

/-- Places an index before the first whose singular value is smaller: descending, the lower index first. -/
def insertDesc (s : Nat → Num) (i : Nat) : List Nat → List Nat
  | [] => [i]
  | j :: r => if Num.lt (s j) (s i) then i :: j :: r else j :: insertDesc s i r

/-- Index of the entry of largest magnitude, the lowest of a tie. -/
def largest (l : List Num) : Nat :=
  ((List.range l.length).foldl (fun b i =>
    if Num.lt ((l[b]?.getD (.zero false)).abs) ((l[i]?.getD (.zero false)).abs) then i else b) 0)

/-- The residual of e_m off the columns chosen, classical Gram–Schmidt (R160). -/
def residual (n : Nat) (us : List (List Num)) (m : Nat) : List Num :=
  us.foldl (fun r u =>
    let c := u[m]?.getD (.zero false)
    (r.zip u).map (fun x => dsub x.1 (dmul c x.2)))
    ((List.range n).map (fun j => if j = m then dint 1 else .zero false))

/-- The replacement column of a zero singular value (R160). -/
def replacement (n : Nat) (us : List (List Num)) : List Num :=
  let lim := ddiv (Num.ofInt 1 (-1)) (dsqrt (dint n))
  match (List.range n).find? (fun m => !(Num.lt (norm (residual n us m)) lim)) with
  | some m => let r := residual n us m; let nr := norm r; r.map (fun x => ddiv x nr)
  | none => List.replicate n (.zero false)

/-- U, the singular values in descending order, and V, by columns (R160). -/
def svd (n : Nat) (w : Mat) : List (List Num) × List Num × List (List Num) :=
  let (a, v) := jacobi n 30 w (Mat.one n)
  let col (x : Mat) (j : Nat) := (List.range n).map (fun i => x.at i j)
  let sv : Array Num := ((List.range n).map (fun j => norm (col a j))).toArray
  let s (j : Nat) := sv[j]?.getD (.zero false)
  let order := (List.range n).foldl (fun l i => insertDesc s i l) []
  let s0 := s (order.headD 0)
  let cols := order.map (fun j =>
    let vc := col v j
    let ac := col a j
    let neg := (vc[largest vc]?.getD (.zero false)).neg?
    if neg then (ac.map Num.opp, s j, vc.map Num.opp) else (ac, s j, vc))
  let (us, ss) := cols.foldl (fun (acc : List (List Num) × List Num) c =>
    if Num.lt (s0.shift (-40)) c.2.1 then (acc.1 ++ [c.1.map (fun x => ddiv x c.2.1)], acc.2 ++ [c.2.1])
    else (acc.1 ++ [replacement n acc.1], acc.2 ++ [.zero false])) ([], [])
  (us, ss, cols.map (·.2.2))

/-! ### Factorisation (R161) -/

/-- M·G_k(−a): columns k and k + 1. -/
def rightRot (n : Nat) (a : Num) (k : Nat) (m : Mat) : Mat :=
  let c := dcos a
  let s := dsin a
  (List.range n).foldl (fun m i =>
    let x := m.at i k
    let y := m.at i (k + 1)
    (m.put i k (dsub (dmul x c) (dmul y s))).put i (k + 1) (dadd (dmul x s) (dmul y c))) m

/-- G_k(a)·M: rows k and k + 1. -/
def leftRot (n : Nat) (a : Num) (k : Nat) (m : Mat) : Mat :=
  let c := dcos a
  let s := dsin a
  (List.range n).foldl (fun m j =>
    let x := m.at k j
    let y := m.at (k + 1) j
    (m.put k j (dsub (dmul c x) (dmul s y))).put (k + 1) j (dadd (dmul s x) (dmul c y))) m

/-- One nulling step: the matrix, the angles set, and the list L. -/
def nullStep (n : Nat) (st : Mat × List (Nat × Nat × Num) × List (Nat × Nat × Num)) (ij : Nat × Nat) :
    Mat × List (Nat × Nat × Num) × List (Nat × Nat × Num) :=
  let (m, ang, l) := st
  let (i, j) := ij
  if i % 2 = 1 then
    let k := i - j - 1
    let r := n - 1 - j
    let a := modPi (datan2 (m.at r k) (m.at r (k + 1)))
    (rightRot n a k m, (j, k, a) :: ang, l)
  else
    let k := n + j - i - 2
    let c := j - 1
    let a := modPi (datan2 (m.at (k + 1) c).opp (m.at k c))
    (leftRot n a k m, ang, (n - j, k, a) :: l)

/-- The signs d (true for −1) and the angle of every position (c, k) of Q (R161). -/
def factor (n : Nat) (q : Mat) : List Bool × List (Nat × Nat × Num) :=
  let steps := ((List.range n).filter (fun i => i ≠ 0)).flatMap (fun i =>
    if i % 2 = 1 then (List.range i).map (fun j => (i, j)) else (List.range i).map (fun j => (i, j + 1)))
  let (m, ang, l) := steps.foldl (nullStep n) (q, [], [])
  let d := (List.range n).map (fun i => match m.at i i with | .fin true _ _ _ => true | _ => false)
  (d, ang ++ l.map (fun (c, k, a) =>
    (c, k, if d[k]? = d[k + 1]? then twoPiMinus a else a)))

/-! ### Phase registers (R155, R162) -/

/-- Number of position (c, k) within a mesh (R155). -/
def mziNumber (c k : Nat) : Nat := 31 * (c / 2) + 16 * (c % 2) + k / 2

/-- θ and φ of an angle (R162). -/
def anglePhases (a : Num) : Nat × Nat :=
  let (t, p) := if belowPi a then (phaseUnits a, 0) else (phaseUnitsAbove a, 32768)
  if t = 65536 then (0, (p + 32768) % 65536) else (t, p)

/-- What the DE computes for a matrix: the phase registers that are not 0, and SIGMA (R162). -/
def decompose (n : Nat) (w : List (List W32)) : List (Nat × BitVec 16) × W32 :=
  let (us, ss, vs) := svd n ((w.map (fun r => (r.map f32).toArray)).toArray)
  let u : Mat := (Mat.tr ((us.map List.toArray).toArray) n)
  let vt : Mat := (vs.map List.toArray).toArray
  let mesh (q : Mat) (base screen : Nat) : List (Nat × BitVec 16) :=
    let (d, ang) := factor n q
    ang.flatMap (fun (c, k, a) =>
      let (t, p) := anglePhases a
      let m := base + mziNumber c k
      [(2 * m, BitVec.ofNat 16 t), (2 * m + 1, BitVec.ofNat 16 p)]) ++
    (d.zipIdx).map (fun (neg, k) => (screen + k, if neg then 32768 else 0))
  let s0 := ss.headD (.zero false)
  let sig := (ss.zipIdx).map (fun (s, i) =>
    (2 * (496 + i), BitVec.ofNat 16 (if s0.isZero then 0
      else let x := ddiv s s0; phaseUnits (dasin (if Num.lt (dint 1) x then dint 1 else x)))))
  ((mesh vt 0 2048 ++ mesh u 528 2080 ++ sig).filter (fun e => e.2 != 0), (to32 .rne s0).1)

end Sys2Proof.Machine
end

