-- ==== Sys2Proof/Machine/Maps.lean ====
section
/-! DEFINITION. Sparse maps by number, and memory as a canonical list of cells. -/

namespace Sys2Proof.Machine

/-- A map from numbers that lists only what was set: a number that is not listed has the default that the reader
names. -/
abbrev NMap (α : Type) := List (Nat × α)

/-- The value at `k`, or the default. -/
def NMap.get {α : Type} (m : NMap α) (dflt : α) (k : Nat) : α :=
  match m with
  | [] => dflt
  | (j, v) :: r => if j = k then v else NMap.get r dflt k

/-- The map with `v` at `k`. -/
def NMap.set {α : Type} (m : NMap α) (k : Nat) (v : α) : NMap α :=
  (k, v) :: m.filter (fun e => e.1 != k)

/-- The map without `k`. -/
def NMap.erase {α : Type} (m : NMap α) (k : Nat) : NMap α := m.filter (fun e => e.1 != k)

/-- The value at `k`, if it is listed. -/
def NMap.find? {α : Type} (m : NMap α) (k : Nat) : Option α :=
  match m with
  | [] => none
  | (j, v) :: r => if j = k then some v else NMap.find? r k

/-- Memory: the cells that do not read 0, by rising key (log 3). -/
abbrev Memory := List Host.Cell

/-- The byte at a key. An unlisted key reads 0 (log 3). -/
def Memory.read : Memory → Nat → Byte
  | [], _ => 0
  | (j, b) :: r, k => if j = k then b else Memory.read r k

/-- Writes a byte: a byte of 0 is not listed, so that equal memories are equal lists. -/
def Memory.write : Memory → Nat → Byte → Memory
  | [], k, b => if b = 0 then [] else [(k, b)]
  | (j, c) :: r, k, b =>
    if k < j then (if b = 0 then (j, c) :: r else (k, b) :: (j, c) :: r)
    else if k = j then (if b = 0 then r else (j, b) :: r)
    else (j, c) :: Memory.write r k b

/-- Keys strictly rise from `lo` and no listed byte is 0. -/
def Memory.wfFrom : Nat → Memory → Bool
  | _, [] => true
  | lo, (j, b) :: r => decide (lo ≤ j) && b != 0 && Memory.wfFrom (j + 1) r

/-- The canonical form: keys strictly rising, and no entry equal to what an unlisted key reads as. -/
def Memory.wf (m : Memory) : Bool := Memory.wfFrom 0 m

/-- The `n` bytes from a key, lowest first. -/
def Memory.bytes (m : Memory) (k : Nat) : Nat → List Byte
  | 0 => []
  | n + 1 => m.read k :: m.bytes (k + 1) n

/-- Writes bytes from a key upwards. -/
def Memory.writeBytes (m : Memory) (k : Nat) : List Byte → Memory
  | [] => m
  | b :: bs => (m.write k b).writeBytes (k + 1) bs

end Sys2Proof.Machine
end

