-- ==== Sys2Proof/Machine/Mesh.lean ====
section
/-! DEFINITION. The optical transfer of a bank's phase values (R153 to R155), and from it the detector codes of a vector and
what a probe measures (R148, R151, R171). Fixed point with 128 fractional bits stands for the real transfer (log 8). -/

namespace Sys2Proof.Machine

/-- Fractional bits of the transfer. -/
def meshBits : Nat := 128

/-- A field amplitude: real and imaginary part times 2^128. -/
structure Amp where
  re : Int
  im : Int
  deriving DecidableEq, Repr, Inhabited

/-- A product of fixed-point values. -/
def fmul (a b : Int) : Int := a * b / 2 ^ meshBits

/-- π times 2^128. -/
def meshPi : Nat := piFix meshBits

/-- Cosine and sine of u·2π/131072 for u below 32768. -/
def quarterAngle (u : Nat) : Int × Int :=
  if u = 0 then (2 ^ meshBits, 0)
  else
    let x : Int := (u * meshPi / 65536 : Nat)
    (trigSeries meshBits x 64 0 (2 ^ meshBits) 0, trigSeries meshBits x 64 1 x 0)

/-- Cosine and sine of u·2π/131072: exact at every quarter turn. -/
def angle (u : Nat) : Int × Int :=
  let (c, s) := quarterAngle (u % 32768)
  match u / 32768 % 4 with
  | 0 => (c, s)
  | 1 => (-s, c)
  | 2 => (-c, -s)
  | _ => (s, -c)

/-- An amplitude turned by the phase of a register value v, v·2π/65536 (R154). -/
def Amp.turn (a : Amp) (v : Nat) : Amp :=
  if v = 0 then a
  else let (c, s) := angle (2 * v); ⟨fmul c a.re - fmul s a.im, fmul s a.re + fmul c a.im⟩

/-- A real multiple. -/
def Amp.scale (a : Amp) (k : Int) : Amp := ⟨fmul k a.re, fmul k a.im⟩
/-- A sum. -/
def Amp.add (a b : Amp) : Amp := ⟨a.re + b.re, a.im + b.im⟩
/-- A difference. -/
def Amp.sub (a b : Amp) : Amp := ⟨a.re - b.re, a.im - b.im⟩

/-- The fields of the 32 modes as the light of each of the 32 inputs alone would give them: element (i, j) is mode i's field
for a unit on input j. -/
abbrev Fields := Array (Array Amp)

/-- Mode i's row. -/
def Fields.row (t : Fields) (i : Nat) : Array Amp := t[i]?.getD #[]

/-- The fields at the input modulators. -/
def Fields.one : Fields :=
  ((List.range 32).map (fun i => ((List.range 32).map (fun j => (⟨if i = j then 2 ^ meshBits else 0, 0⟩ : Amp))).toArray)).toArray

/-- A mesh MZI on modes k and k + 1 with register values θ and φ (R154). The bar state passes the light straight. -/
def Fields.mzi (t : Fields) (k th ph : Nat) : Fields :=
  if th = 0 ∧ ph = 0 then t
  else
    let (c, s) := angle th
    let a := t.row k
    let b := t.row (k + 1)
    (t.setIfInBounds k ((a.zip b).map (fun x => ((x.1.scale c).sub (x.2.scale s)).turn ph))).setIfInBounds (k + 1)
      ((a.zip b).map (fun x => ((x.1.scale s).add (x.2.scale c)).turn ph))

/-- Value of phase register `r`. -/
def phase (p : NMap (BitVec 16)) (r : Nat) : Nat := (NMap.get p 0 r).toNat

/-- The positions of a mesh in the order in which the light meets them (R153). -/
def meshPositions : List (Nat × Nat) :=
  (List.range 32).flatMap (fun c => ((List.range 31).filter (fun k => k % 2 == c % 2)).map (fun k => (c, k)))

/-- A mesh whose MZI numbers begin at `base` (R153 to R155). -/
def Fields.mesh (t : Fields) (p : NMap (BitVec 16)) (base : Nat) : Fields :=
  meshPositions.foldl (fun t (ck : Nat × Nat) =>
    let m := base + mziNumber ck.1 ck.2
    t.mzi ck.2 (phase p (2 * m)) (phase p (2 * m + 1))) t

/-- A screen whose registers begin at `base`. -/
def Fields.screen (t : Fields) (p : NMap (BitVec 16)) (base : Nat) : Fields :=
  (List.range 32).foldl (fun t k => t.modify k (fun r => r.map (fun a => a.turn (phase p (base + k))))) t

/-- The Σ row: mode i passes the MZI 496 + i. -/
def Fields.sigma (t : Fields) (p : NMap (BitVec 16)) : Fields :=
  (List.range 32).foldl (fun t i =>
    t.modify i (fun r => r.map (fun a => (a.scale (angle (phase p (2 * (496 + i)))).2).turn (phase p (2 * (496 + i) + 1))))) t

/-- The transfer of the phase values `p`, from input j to what the detector of mode i reads: the real part, times 2^128
(R153, R154). -/
def transfer (p : NMap (BitVec 16)) : Array (Array Int) :=
  let t := ((((Fields.one.mesh p 0).screen p 2048).sigma p).mesh p 528).screen p 2080
  t.map (fun r => r.map Amp.re)

/-- Σ_j T_ij·q_j of the 32 outputs, times 2^128: a_i in units of 1/128. -/
def detect (t : Array (Array Int)) (q : List Int) : List Int :=
  (List.range 32).map (fun i => ((t[i]?.getD #[]).toList.zip q).foldl (fun acc x => acc + x.1 * x.2) 0)

/-- round_rne(v / 2^k). -/
def rneShift (v : Int) (k : Nat) : Int :=
  let f := v / 2 ^ k
  let r := v % 2 ^ k * 2
  if r < 2 ^ k ∨ (r = 2 ^ k ∧ f % 2 = 0) then f else f + 1

/-- The n-th noise of a sample of an MU that declares `enob` effective bits, in units of 2^−128 of a code (R152, log 8): at
most half a step of that resolution, which is 2^(10 − ENOB) codes, and at most 128 codes, so that a gain of 3 never
clamps (R148). -/
def sampleNoise (enob n : Nat) : Int :=
  let most : Int := Nat.min (2 ^ (meshBits + 9 - enob)) (2 ^ (meshBits + 7))
  max (-most) (min most (Config.detectorNoise n))

/-- The code of an amplitude of a·2^128/128 under gain g, and whether it was clamped (R148). The n-th free value is the
noise (R152, log 8). -/
def detectorCode (a g : Int) (enob n : Nat) : Int × Bool :=
  let v := rneShift (a * 2 ^ (7 - g).toNat * 4 + sampleNoise enob n * 2 ^ 7) (meshBits + 7)
  (max (-511) (min 511 v), decide (v < -511) || decide (511 < v))

/-- Probe vector w (R171). -/
def probeVector (w : Nat) : List Int :=
  (List.range 32).map (fun j =>
    if ((List.range 5).filter (fun b => w.testBit b && j.testBit b)).length % 2 = 0 then 63 else -63)

/-- What a probe measures: DRIFT of the codes that the realised phases `ph` give against the loaded values `ld` (R171). -/
def probeDrift (ph ld : NMap (BitVec 16)) (n : Nat) : Nat :=
  let real := transfer ph
  let want := transfer ld
  let sq := (List.range 8).foldl (fun (acc : Nat) w =>
    ((detect real (probeVector w)).zip (detect want (probeVector w))).zipIdx.foldl (fun (acc : Nat) x =>
      let d := (detectorCode x.1.1 2 0 (n + 32 * w + x.2)).1 * 2 ^ meshBits - x.1.2
      acc + d.natAbs * d.natAbs) acc) 0
  -- 8·sqrt(sq / 256) / 2^128 = sqrt(sq) / 2^129
  let r := isqrt sq / 2 ^ (meshBits + 1)
  let h := (2 * r + 1) * 2 ^ meshBits
  min 65535 (if sq < h * h ∨ (sq = h * h ∧ r % 2 = 0) then r else r + 1)

end Sys2Proof.Machine
end

