-- ==== Sys2Proof/Syntax.lean ====
section
/-! DEFINITION. The instructions and events of the YX-64A: one constructor of `Instr` per row of
spec/opcode_table.json. An instruction carries its marker, the arrangement of its lead words and its resolved
operands; an event carries the plain data that the manual gives the step. -/

namespace Sys2Proof

/-- The four kinds of lead word that may stand before a base word (R175). -/
inductive Pfx where
  /-- Higher immediate bits (R176). -/
  | imx
  /-- Register widening (R177). -/
  | rgx
  /-- Opcode page and EXT (R178). -/
  | pgx
  /-- Third source, ordering kind and scope (R179). -/
  | trx
  deriving DecidableEq, Repr

/-- What every instruction carries beside its operands: the switch marker S (R183) and the kinds of its lead
words in address order (R180: they may stand in any order). -/
structure Head where
  s : Bool
  shape : List Pfx
  deriving DecidableEq, Repr

/-- Bytes of an instruction: two for each lead word and two for the base word (R180). -/
def Head.len (h : Head) : Nat := 2 * (h.shape.length + 1)

/-- Ordering kind and scope of an access (R105). -/
structure Order where
  ord : BitVec 2
  sc : BitVec 2
  deriving DecidableEq, Repr

/-- The operation of an atomic (R225, R227). -/
inductive AtomOp where
  | add | and | or | xor | min | max | minu | maxu | swap | cas | fadd | fadd2 | fmax | fmin
  deriving DecidableEq, Repr

/-- One atomic on its way to its executing point (R116): operation, size in bytes, memory key, virtual address, whether
the memory may be kept in L2, operand and comparison value. -/
structure Atom where
  op : AtomOp
  n : Nat
  key : Nat
  va : Word
  cached : Bool
  v : Word
  cmp : Word
  deriving DecidableEq, Repr

/-- What an outstanding result brings when it lands (R184), or the fault found after issue (R202). -/
inductive Landing where
  /-- General registers to be written. -/
  | regs (rs : List (XReg × Word))
  /-- A vector register to be written, by lane: a lane that is `none` is left as it is. -/
  | vec (r : VReg) (ls : List (Option W32))
  /-- Own-scratchpad bytes from an offset. -/
  | bytes (off : Nat) (bs : List Byte)
  /-- A fault detected after issue, with TVAL and TEXT. -/
  | fault (code : Nat) (tval text : Word)
  deriving DecidableEq, Repr

/-- A walk of the translation tables on its way (R78): the cluster whose TLB it fills, the MMU.ROOT it starts from, the
address, and whether a store asked. -/
structure Walk where
  cl : Nat
  root : Word
  va : Word
  wr : Bool
  deriving DecidableEq, Repr

/-- Where one word of a ticket fetch comes from (R87, R216): a key, with its virtual address. -/
inductive FetchSrc where
  | at (key : Nat) (va : Word)
  | masked
  | fault (code : Nat) (va : Word)
  deriving DecidableEq, Repr

/-- A ticket fetch request on its way to its ticket slice (R86). -/
structure TldReq where
  c : Nat
  entry : Nat
  gen : Nat
  colour : Nat
  words : Nat
  kind : Nat
  lease : Nat
  srcs : List FetchSrc
  deriving DecidableEq, Repr

/-- A redeem, drop or query on its way to its ticket slice (R89): form 0 RDM, 1 RDM.V, 2 RDM.S, 3 NRDM, 4 TKDROP,
5 TKQ. -/
structure Redeem where
  c : Nat
  lvl : Nat
  id : Nat
  pc : Word
  form : Nat
  reg : Nat
  soff : Nat
  ticket : Word
  colour : Nat
  node : Nat
  wire : Nat
  e : Nat
  deriving DecidableEq, Repr

/-- What a user message is (R228, R230). -/
inductive MsgKind where
  | msg | task | reply
  deriving DecidableEq, Repr

/-- A user message, task or reply (R55, R57). `a` holds the two payload words of a message or reply, or x4 to x7 of
a task, whose address is `code`. `lvl` and `pc` name the sending instruction (R229). `route` holds the routers that the
packet makes for, one for each leg, as they stood when it was injected: leg i uses buffer set i (R335). -/
structure UMsg where
  src : Nat
  tgt : Nat
  seq : BitVec 32
  cls : Nat
  typ : Nat
  kind : MsgKind
  a : List Word
  code : Word
  lvl : Nat
  pc : Word
  route : List Nat
  deriving DecidableEq, Repr

/-- One member's contribution to a group collective (R223). -/
structure Contribution where
  c : Nat
  lvl : Nat
  pc : Word
  gbc : Bool
  op : Nat
  root : Nat
  v : Word
  deriving DecidableEq, Repr

/-- A pair as a Pond holds it (R48). -/
structure PondPair where
  wire : Nat
  n0 : Nat
  n1 : Nat
  sym0 : Nat
  sym1 : Nat
  deriving DecidableEq, Repr

/-- A Dial flit as the receiver sees it (R417): the sending package, core and send number, the message's colour,
destination and length, the flit's place and bytes, the wavelength it failed on and whether its CRC held. -/
structure Flit where
  src : Nat
  c : Nat
  n : Nat
  colour : Nat
  dst : Word
  len : Nat
  off : Nat
  data : List Byte
  wl : Nat
  crcOk : Bool
  deriving DecidableEq, Repr

/-- The path by which a register write reaches the hub (R338, R367, R375). -/
inductive Path where
  | nql | crown | oob
  deriving DecidableEq, Repr

/-- A flash copy of the Crown image (R363): whether its signature verifies, its version, and its SHAKE256 digest. -/
structure BootCopy where
  signed : Bool
  version : BitVec 32
  digest : BitVec 512
  deriving DecidableEq, Repr

/-- What the module's flash and its Crown give the bring-up step (R362, R363): the flash copies of the Crown image in their
order, whether Crown raises the rollback counter to the version of the image that runs, and the code of a failure of the
step, if it fails. -/
structure BootInput where
  copies : List BootCopy
  raise : Bool
  fail : Option Nat
  deriving DecidableEq, Repr

/-- What a recovery is for (R408, R410): a stripe of an array, or a line of HBM4 that the ECC of its stack cannot correct. -/
inductive Recovery where
  | stripe (n : Nat)
  | line (n : Nat)
  deriving DecidableEq, Repr

/-- A child's partial result of a collective on the signal lane, with its operation (R298, R351). -/
structure DsigPart where
  op : Nat
  ws : List Word
  deriving DecidableEq, Repr

/-- Where an access from outside goes, and whether it is Crown's and not the host's (R336, R337, R364). -/
structure OutsideAddr where
  pa : Nat
  crown : Bool
  deriving DecidableEq, Repr

/-- What a debug access names in a stopped core, as one of its levels sees it (R369; log 37): a general register, a 64-bit word
of a vector register, a mask, the program counter, a system register, an accumulator element, or an 8-byte word of the
scratchpad. -/
inductive DebugItem where
  | x (r : XReg)
  | v (r : VReg) (j : Fin 4)
  | k (r : KReg)
  | pc
  | sys (n : Nat)
  | acc (a : Fin 4) (i : Fin 256)
  | pad (i : Fin 32768)
  | res (m : Fin 2) (buf : Fin 3) (i : Fin 32768)
  deriving DecidableEq, Repr

/-- A flit that its receiver found bad (R417): the core of its sender at the port's package and the send's number, which together
name the message; its offset in the message, and the wavelength it came on (R418). -/
structure FlitNak where
  c : Nat
  n : Nat
  off : Nat
  wl : Nat
  deriving DecidableEq, Repr

/-- One step of the part: an encoded instruction or an event of a unit. One constructor per row of the opcode
table, the events before the instructions; the docstring gives the row and its rule. -/
inductive Instr where
  /-- BREAKPOINT (R370). -/
  | breakpoint (c : Nat)
  /-- RESULT_LAND (R184). -/
  | resultLand (c lvl id : Nat) (pc : Word) (r : Landing)
  /-- STORE_ACK (R68). -/
  | storeAck (c : Nat)
  /-- ATOMIC_PERFORM (R116). -/
  | atomicPerform (c lvl id : Nat) (pc : Word) (d : XReg) (at_ : Atom)
  /-- TLB_WALK (R78). -/
  | tlbWalk (w : Walk)
  /-- TICKET_GRANT (R86). -/
  | ticketGrant (sl c : Nat)
  /-- GRANT_ARRIVE (R86). -/
  | grantArrive (c entry : Nat)
  /-- TLD_REQUEST_ARRIVE (R89). -/
  | tldRequestArrive (sl : Nat) (r : TldReq)
  /-- TICKET_FETCH_PERFORM (R87). -/
  | ticketFetchPerform (sl entry gen off : Nat) (srcs : List FetchSrc)
  /-- TICKET_DATA_ARRIVE (R89). -/
  | ticketDataArrive (sl entry gen off : Nat) (ws : List Word) (code : Nat) (fva : Word)
  /-- REDEEM_ARRIVE (R89). -/
  | redeemArrive (sl : Nat) (r : Redeem)
  /-- TKDROP_ARRIVE (R89). -/
  | tkdropArrive (sl : Nat) (r : Redeem)
  /-- TKQ_ARRIVE (R92). -/
  | tkqArrive (sl : Nat) (r : Redeem)
  /-- REDEEM_DELIVERY (R91). -/
  | redeemDelivery (r : Redeem) (ws : List Word) (code : Nat) (text : Word)
  /-- PACKAGE_TIMER_TICK (R93). -/
  | packageTimerTick
  /-- LEASE_EXPIRE (R89). -/
  | leaseExpire (sl entry : Nat)
  /-- SETEND (R41). -/
  | setend (cl w e : Nat) (p : Word)
  /-- REPLACE (R41). -/
  | replace (cl w e : Nat) (p : Word)
  /-- SPLICE (R41). -/
  | splice (cl w e w2 e2 : Nat)
  /-- ADOPT (R41). -/
  | adopt (cl w e : Nat) (p : Word)
  /-- RESOLVE (R42). -/
  | resolve (cl : Nat) (p : Word) (ow oe nw ne : Nat)
  /-- UNREF (R41). -/
  | unref (cl w d : Nat)
  /-- WFREE_MESSAGE (R41). -/
  | wfreeMessage (cl w : Nat)
  /-- NFREE_MESSAGE (R36). -/
  | nfreeMessage (cl n : Nat)
  /-- POND_REQUEST_ROUND (R50). -/
  | pondRequestRound (cl : Nat)
  /-- POND_WORK_REQUEST (R50). -/
  | pondWorkRequest (cl from_ : Nat) (rest : List Nat)
  /-- POND_HIGHM_ANNOUNCE (R50). -/
  | pondHighmAnnounce (cl from_ : Nat)
  /-- SPRING_STOCK_REFILL (R284). -/
  | springStockRefill (c : Nat)
  /-- TWIN_COMPARE (R414). -/
  | twinCompare (cl : Nat)
  /-- MSG_ARRIVE (R56). -/
  | msgArrive (c : Nat) (m : UMsg)
  /-- HANDLER_START (R56). -/
  | handlerStart (c : Nat)
  /-- TASK_START (R57). -/
  | taskStart (c : Nat)
  /-- MESSAGE_REFUSAL (R229). -/
  | messageRefusal (m : UMsg)
  /-- BARRIER_ARRIVAL (R396). -/
  | barrierArrival (cl slot c : Nat)
  /-- BARRIER_COMPLETION_NOTICE (R222). -/
  | barrierCompletionNotice (c slot phase : Nat)
  /-- COLLECTIVE_CONTRIBUTION (R223). -/
  | collectiveContribution (cl slot : Nat) (k : Contribution)
  /-- COLLECTIVE_RESULT (R223). -/
  | collectiveResult (c slot : Nat) (ok : Bool) (v : Word)
  /-- COPY_TRANSFER_START (R101). -/
  | copyTransferStart (cl : Nat)
  /-- COPY_TRANSFER_COMPLETE (R101). -/
  | copyTransferComplete (cl id : Nat)
  /-- TILE_STEP_START (R269). -/
  | tileStepStart (c : Nat)
  /-- TILE_STEP_RETIRE (R262). -/
  | tileStepRetire (c : Nat)
  /-- PHLD_TAKE_EFFECT (R275). -/
  | phldTakeEffect (mu : Nat)
  /-- SHADOW_SETTLE (R157). -/
  | shadowSettle (mu : Nat)
  /-- PHRD_TAKE_EFFECT (R275). -/
  | phrdTakeEffect (mu : Nat)
  /-- PHWR_TAKE_EFFECT (R275). -/
  | phwrTakeEffect (mu : Nat)
  /-- PTRIM_TAKE_EFFECT (R275). -/
  | ptrimTakeEffect (mu : Nat)
  /-- PASS_BOUNDARY (R157). -/
  | passBoundary (mu : Nat)
  /-- TRIM_SETTLE (R422). -/
  | trimSettle (mu : Nat)
  /-- PASS_START (R166). -/
  | passStart (mu : Nat)
  /-- PASS_HEADER_WRITE (R166). -/
  | passHeaderWrite (mu : Nat)
  /-- PROBE_EVALUATION (R171). -/
  | probeEvaluation (mu : Nat)
  /-- PROBE_COMPLETE (R171). -/
  | probeComplete (mu : Nat)
  /-- PCAL_COMPLETE (R280). -/
  | pcalComplete (mu : Nat)
  /-- DE_COMPLETE (R159). -/
  | deComplete (die : Nat)
  /-- DE_BANK_LOAD (R159). -/
  | deBankLoad (mu : Nat)
  /-- BALANCE_HEATER_UPDATE (R170). -/
  | balanceHeaterUpdate (mu : Nat)
  /-- COMB_LOSS (R416). -/
  | combLoss (die w : Nat)
  /-- MOD_STUCK (R416). -/
  | modStuck (mu w j : Nat)
  /-- PARITY_RECOVERY (R408); with `ecc` a line of HBM4 that the stack's ECC cannot correct, in place of a stripe (R410). -/
  | parityRecovery (what : Recovery) (lvl c : Nat) (pc : Word)
  /-- SCRUB (R408). -/
  | scrub (sl : Nat)
  /-- ASYNC_FAULT_TAKE (R384). -/
  | asyncFaultTake (c : Nat)
  /-- FP_EXC_WINDOW_CLOSE (R405). -/
  | fpExcWindowClose (cl : Nat)
  /-- TICK_MISS (R397). -/
  | tickMiss (c : Nat)
  /-- QUIET_NOTICE (R64). -/
  | quietNotice (cl : Nat)
  /-- COMPLETION_WAVE (R64). -/
  | completionWave (colour : Nat)
  /-- WAVE_REPORT (R64). -/
  | waveReport (colour : Nat)
  /-- SUBMISSION_TAKE (R312). -/
  | submissionTake (q : Nat)
  /-- DISPATCH_SELECT (R323). -/
  | dispatchSelect
  /-- PREEMPTION (R326). -/
  | preemption (colour : Nat)
  /-- RESUMPTION (R326). -/
  | resumption (colour : Nat)
  /-- JOB_END (R319). -/
  | jobEnd (colour : Nat)
  /-- COMPLETION_EVENT_WRITE (R339). -/
  | completionEventWrite (q seq : Nat)
  /-- Q_CFG_WRITE (R311). -/
  | qCfgWrite (q : Nat) (v : Word)
  /-- DISP_KILL (R391). -/
  | dispKill (v : Word)
  /-- CONT_RECT_DEFINE (R388). -/
  | contRectDefine (n : Nat) (v : Word)
  /-- CONT_RECT_GO (R388). -/
  | contRectGo (n : Nat)
  /-- CONTAINMENT (R389). -/
  | containment (n : Nat)
  /-- BASIN_SPLIT_WRITE (R72). -/
  | basinSplitWrite (die : Nat) (v : Word)
  /-- BASIN_SPLIT_DONE (R72). -/
  | basinSplitDone (die : Nat)
  /-- DIAL_COMMIT (R342). -/
  | dialCommit
  /-- DIAL_ENABLE (R343). -/
  | dialEnable (en : Bool)
  /-- DIAL_ROTATION_START (R344). -/
  | dialRotationStart
  /-- DIAL_WINDOW_OPEN (R346). -/
  | dialWindowOpen (port e : Nat)
  /-- DIAL_MESSAGE_END (R346). -/
  | dialMessageEnd (port : Nat)
  /-- DIAL_FLIT_RECEIVE (R417). -/
  | dialFlitReceive (port : Nat) (f : Flit)
  /-- DIAL_FLIT_NAK (R417). -/
  | dialFlitNak (port : Nat) (f : FlitNak)
  /-- DIAL_MESSAGE_DELIVERED (R347). -/
  | dialMessageDelivered (src n : Nat)
  /-- DIAL_ACK (R349). -/
  | dialAck (pkg c n code : Nat)
  /-- DIAL_TIMER_DRIFT (R345). -/
  | dialTimerDrift
  /-- LOSS_OF_RETURN_LIGHT (R364). -/
  | lossOfReturnLight (port : Nat)
  /-- DIAL_PRESENCE_LOSS (R419). -/
  | dialPresenceLoss (pkg : Nat)
  /-- DSIG_PARTIAL_ARRIVE (R351). -/
  | dsigPartialArrive (tree port : Nat) (part : DsigPart)
  /-- DSIG_RESULT_ARRIVE (R351). -/
  | dsigResultArrive (tree : Nat) (ws : List Word)
  /-- NQL_LINK_DOWN (R420). -/
  | nqlLinkDown
  /-- NQL_FAIL (R420). -/
  | nqlFail
  /-- NQL_RETRAIN (R420). -/
  | nqlRetrain
  /-- HOST_MEM_ACCESS (R337), or an access of Crown through the hub (R364, R375). -/
  | hostMemAccess (at_ : OutsideAddr) (wr : Option (List (BitVec 8))) (n : Nat)
  /-- REG_UNSUPPORTED_ACCESS (R336). -/
  | regUnsupportedAccess (off : Nat) (wr : Bool)
  /-- REGISTER_WRITE (R5). -/
  | registerWrite (off : Nat) (v : Word) (path : Path)
  /-- NOC_GRID_SAMPLE (R374). -/
  | nocGridSample
  /-- FCAST_UPDATE (R331). -/
  | fcastUpdate
  /-- PCAP_LIMIT_WRITE (R367). -/
  | pcapLimitWrite (v : Word) (oob : Bool)
  /-- PCAP_WINDOW_END (R367). -/
  | pcapWindowEnd (watts : Nat)
  /-- FAST_CLAMP (R367). -/
  | fastClamp
  /-- CLAMP_RELEASE (R367). -/
  | clampRelease
  /-- THERMAL_TRIP (R421). -/
  | thermalTrip (die : Nat)
  /-- THERMAL_RECOVERY (R421). -/
  | thermalRecovery (die : Nat)
  /-- HEALTH_UPDATE (R368). -/
  | healthUpdate
  /-- COLD_RESET (R362). -/
  | coldReset (b : BootInput)
  /-- ATTEST_GO (R375). -/
  | attestGo (v : Word)
  /-- ATTEST_REPORT_DONE (R365). -/
  | attestReportDone
  /-- DEBUG_STOP (R369). -/
  | debugStop (v : Word)
  /-- DEBUG_ACCESS (R369). -/
  | debugAccess (c : Nat) (lvl : Fin 4) (t : DebugItem) (wr : Option Word)
  /-- SINGLE_STEP (R371). -/
  | singleStep (c : Nat)
  /-- STEP_UNTIL_DRAINED (R371). -/
  | stepUntilDrained (c : Nat)
  /-- POND_HANDOVER (R50). -/
  | pondHandover (cl from_ : Nat) (ps : List PondPair) (rest : List Nat)
  /-- DIAL_TIMER_ALIGNED (R345). -/
  | dialTimerAligned
  /-- MODULE_INSERTION (R419). -/
  | moduleInsertion (pkg : Nat)
  /-- RETURN_LIGHT_RESTORED (R364). -/
  | returnLightRestored (port : Nat)
  /-- SPARE_LINE_PROBE (R416). -/
  | spareLineProbe (die : Nat)
  /-- ILL (R234). -/
  | ill (h : Head) (d a : BitVec 6)
  /-- NOP (R234). -/
  | nop (h : Head)
  /-- TICK (R235). -/
  | tick (h : Head)
  /-- HALT (R236). -/
  | halt (h : Head)
  /-- MOV (R206). -/
  | mov (h : Head) (d a : XReg)
  /-- NOT (R206). -/
  | not (h : Head) (d a : XReg)
  /-- NEG (R206). -/
  | neg (h : Head) (d a : XReg)
  /-- CLZ (R206). -/
  | clz (h : Head) (d a : XReg)
  /-- ADD (R204). -/
  | add (h : Head) (d a : XReg) (t : Option XReg)
  /-- SUB (R204). -/
  | sub (h : Head) (d a : XReg) (t : Option XReg)
  /-- AND (R204). -/
  | and (h : Head) (d a : XReg) (t : Option XReg)
  /-- OR (R204). -/
  | or (h : Head) (d a : XReg) (t : Option XReg)
  /-- XOR (R204). -/
  | xor (h : Head) (d a : XReg) (t : Option XReg)
  /-- SHL (R204). -/
  | shl (h : Head) (d a : XReg) (t : Option XReg)
  /-- SHR (R204). -/
  | shr (h : Head) (d a : XReg) (t : Option XReg)
  /-- SAR (R204). -/
  | sar (h : Head) (d a : XReg) (t : Option XReg)
  /-- MIN (R204). -/
  | min (h : Head) (d a : XReg) (t : Option XReg)
  /-- MAX (R204). -/
  | max (h : Head) (d a : XReg) (t : Option XReg)
  /-- MINU (R204). -/
  | minu (h : Head) (d a : XReg) (t : Option XReg)
  /-- MAXU (R204). -/
  | maxu (h : Head) (d a : XReg) (t : Option XReg)
  /-- SEQ (R204). -/
  | seq (h : Head) (d a : XReg) (t : Option XReg)
  /-- SNE (R204). -/
  | sne (h : Head) (d a : XReg) (t : Option XReg)
  /-- SLT (R204). -/
  | slt (h : Head) (d a : XReg) (t : Option XReg)
  /-- SLTU (R204). -/
  | sltu (h : Head) (d a : XReg) (t : Option XReg)
  /-- MUL (R204). -/
  | mul (h : Head) (d a : XReg) (t : Option XReg)
  /-- MULH (R204). -/
  | mulh (h : Head) (d a : XReg) (t : Option XReg)
  /-- MULHU (R204). -/
  | mulhu (h : Head) (d a : XReg) (t : Option XReg)
  /-- POPC (R206). -/
  | popc (h : Head) (d a : XReg)
  /-- DIV (R205). -/
  | div (h : Head) (d a : XReg) (t : Option XReg)
  /-- DIVU (R205). -/
  | divu (h : Head) (d a : XReg) (t : Option XReg)
  /-- REM (R205). -/
  | rem (h : Head) (d a : XReg) (t : Option XReg)
  /-- REMU (R205). -/
  | remu (h : Head) (d a : XReg) (t : Option XReg)
  /-- ADDI (R207). -/
  | addi (h : Head) (d : XReg) (imm : Word)
  /-- LI (R207). -/
  | li (h : Head) (d : XReg) (imm : Word)
  /-- ANDI (R207). -/
  | andi (h : Head) (d : XReg) (imm : Word)
  /-- SHLI (R207). -/
  | shli (h : Head) (d : XReg) (n : BitVec 6)
  /-- SHRI (R207). -/
  | shri (h : Head) (d : XReg) (n : BitVec 6)
  /-- SARI (R207). -/
  | sari (h : Head) (d : XReg) (n : BitVec 6)
  /-- LD_B (R213). -/
  | ldB (h : Head) (d a : XReg) (disp : Word) (o : Order)
  /-- LD_H (R213). -/
  | ldH (h : Head) (d a : XReg) (disp : Word) (o : Order)
  /-- LD_W (R213). -/
  | ldW (h : Head) (d a : XReg) (disp : Word) (o : Order)
  /-- LD_D (R213). -/
  | ldD (h : Head) (d a : XReg) (disp : Word) (o : Order)
  /-- LDZ_B (R213). -/
  | ldzB (h : Head) (d a : XReg) (disp : Word) (o : Order)
  /-- LDZ_H (R213). -/
  | ldzH (h : Head) (d a : XReg) (disp : Word) (o : Order)
  /-- LDZ_W (R213). -/
  | ldzW (h : Head) (d a : XReg) (disp : Word) (o : Order)
  /-- ST_B (R213). -/
  | stB (h : Head) (d a : XReg) (disp : Word) (o : Order)
  /-- ST_H (R213). -/
  | stH (h : Head) (d a : XReg) (disp : Word) (o : Order)
  /-- ST_W (R213). -/
  | stW (h : Head) (d a : XReg) (disp : Word) (o : Order)
  /-- ST_D (R213). -/
  | stD (h : Head) (d a : XReg) (disp : Word) (o : Order)
  /-- TLD_8 (R215). -/
  | tld8 (h : Head) (d a : XReg) (disp : Word) (t : XReg) (o : Order)
  /-- TLD_32 (R215). -/
  | tld32 (h : Head) (d a : XReg) (disp : Word) (t : XReg) (o : Order)
  /-- TLD_64 (R215). -/
  | tld64 (h : Head) (d a : XReg) (disp : Word) (t : XReg) (o : Order)
  /-- TLD_256 (R215). -/
  | tld256 (h : Head) (d a : XReg) (disp : Word) (t : XReg) (o : Order)
  /-- RDM (R217). -/
  | rdm (h : Head) (d a : XReg)
  /-- RDM_V (R217). -/
  | rdmV (h : Head) (d : VReg) (a : XReg)
  /-- RDM_S (R217). -/
  | rdmS (h : Head) (d a : XReg) (disp : Word)
  /-- TKQ (R218). -/
  | tkq (h : Head) (d a : XReg)
  /-- BR (R219). -/
  | br (h : Head) (off : Word)
  /-- CALL (R219). -/
  | call (h : Head) (off : Word)
  /-- BZ (R219). -/
  | bz (h : Head) (d : XReg) (imm : Word)
  /-- BNZ (R219). -/
  | bnz (h : Head) (d : XReg) (imm : Word)
  /-- LOOP (R219). -/
  | loop (h : Head) (d : XReg) (imm : Word)
  /-- JR (R219). -/
  | jr (h : Head) (a : XReg)
  /-- CALLR (R219). -/
  | callr (h : Head) (a : XReg)
  /-- RET (R219). -/
  | ret (h : Head)
  /-- JTAB (R220). -/
  | jtab (h : Head) (d a : XReg) (n : Word)
  /-- MFS (R199). -/
  | mfs (h : Head) (d : XReg) (n : BitVec 10)
  /-- MTS (R199). -/
  | mts (h : Head) (d : XReg) (n : BitVec 10)
  /-- FENCE (R114). -/
  | fence (h : Head) (sc : BitVec 3) (kind : BitVec 2)
  /-- BAR (R222). -/
  | bar (h : Head) (a : XReg)
  /-- BARA (R222). -/
  | bara (h : Head) (d a : XReg)
  /-- BARW (R222). -/
  | barw (h : Head) (d a : XReg)
  /-- BARQ (R222). -/
  | barq (h : Head) (d a : XReg)
  /-- TRAP (R237). -/
  | trap (h : Head) (n : BitVec 10)
  /-- ROL (R204). -/
  | rol (h : Head) (d a : XReg) (t : Option XReg)
  /-- ROR (R204). -/
  | ror (h : Head) (d a : XReg) (t : Option XReg)
  /-- BSWAP (R206). -/
  | bswap (h : Head) (d a : XReg)
  /-- CTZ (R206). -/
  | ctz (h : Head) (d a : XReg)
  /-- EXT (R208). -/
  | ext (h : Head) (d a : XReg) (lo wm : BitVec 6)
  /-- EXTZ (R208). -/
  | extz (h : Head) (d a : XReg) (lo wm : BitVec 6)
  /-- DEP (R208). -/
  | dep (h : Head) (d a : XReg) (lo wm : BitVec 6)
  /-- DEPZ (R208). -/
  | depz (h : Head) (d a : XReg) (lo wm : BitVec 6)
  /-- LEA (R209). -/
  | lea (h : Head) (d a : XReg) (t : Option XReg) (sh : BitVec 2) (disp : Word)
  /-- MADD (R210). -/
  | madd (h : Head) (d a t : XReg)
  /-- MSUB (R210). -/
  | msub (h : Head) (d a t : XReg)
  /-- CSELZ (R210). -/
  | cselz (h : Head) (d a t : XReg)
  /-- CSELNZ (R210). -/
  | cselnz (h : Head) (d a t : XReg)
  /-- SEXT_B (R206). -/
  | sextB (h : Head) (d a : XReg)
  /-- SEXT_H (R206). -/
  | sextH (h : Head) (d a : XReg)
  /-- SEXT_W (R206). -/
  | sextW (h : Head) (d a : XReg)
  /-- ZEXT_W (R206). -/
  | zextW (h : Head) (d a : XReg)
  /-- HASH (R211). -/
  | hash (h : Head) (d a : XReg) (t : Option XReg)
  /-- CRC (R211). -/
  | crc (h : Head) (d a : XReg) (t : Option XReg)
  /-- GEO (R212). -/
  | geo (h : Head) (d : XReg) (sel : BitVec 6)
  /-- ADDS (R204). -/
  | adds (h : Head) (d a : XReg) (t : Option XReg)
  /-- SUBS (R204). -/
  | subs (h : Head) (d a : XReg) (t : Option XReg)
  /-- ADDUS (R204). -/
  | addus (h : Head) (d a : XReg) (t : Option XReg)
  /-- SUBUS (R204). -/
  | subus (h : Head) (d a : XReg) (t : Option XReg)
  /-- VADD (R241). -/
  | vadd (h : Head) (d a : VReg) (m : KReg)
  /-- VSUB (R241). -/
  | vsub (h : Head) (d a : VReg) (m : KReg)
  /-- VMUL (R241). -/
  | vmul (h : Head) (d a : VReg) (m : KReg)
  /-- VMULH (R241). -/
  | vmulh (h : Head) (d a : VReg) (m : KReg)
  /-- VAND (R241). -/
  | vand (h : Head) (d a : VReg) (m : KReg)
  /-- VOR (R241). -/
  | vor (h : Head) (d a : VReg) (m : KReg)
  /-- VXOR (R241). -/
  | vxor (h : Head) (d a : VReg) (m : KReg)
  /-- VANDN (R241). -/
  | vandn (h : Head) (d a : VReg) (m : KReg)
  /-- VSHL (R241). -/
  | vshl (h : Head) (d a : VReg) (m : KReg)
  /-- VSHR (R241). -/
  | vshr (h : Head) (d a : VReg) (m : KReg)
  /-- VSAR (R241). -/
  | vsar (h : Head) (d a : VReg) (m : KReg)
  /-- VROL (R241). -/
  | vrol (h : Head) (d a : VReg) (m : KReg)
  /-- VMIN (R241). -/
  | vmin (h : Head) (d a : VReg) (m : KReg)
  /-- VMAX (R241). -/
  | vmax (h : Head) (d a : VReg) (m : KReg)
  /-- VMINU (R241). -/
  | vminu (h : Head) (d a : VReg) (m : KReg)
  /-- VMAXU (R241). -/
  | vmaxu (h : Head) (d a : VReg) (m : KReg)
  /-- VFADD (R242). -/
  | vfadd (h : Head) (d a : VReg) (m : KReg) (rc : BitVec 3)
  /-- VFSUB (R242). -/
  | vfsub (h : Head) (d a : VReg) (m : KReg) (rc : BitVec 3)
  /-- VFMUL (R242). -/
  | vfmul (h : Head) (d a : VReg) (m : KReg) (rc : BitVec 3)
  /-- VFMA (R242). -/
  | vfma (h : Head) (d a t : VReg) (rc : BitVec 3) (m : BitVec 2)
  /-- VFMIN (R242). -/
  | vfmin (h : Head) (d a : VReg) (m : KReg)
  /-- VFMAX (R242). -/
  | vfmax (h : Head) (d a : VReg) (m : KReg)
  /-- VFABS (R242). -/
  | vfabs (h : Head) (d a : VReg) (m : KReg)
  /-- VFNEG (R242). -/
  | vfneg (h : Head) (d a : VReg) (m : KReg)
  /-- VFDIV (R242). -/
  | vfdiv (h : Head) (d a : VReg) (m : KReg) (rc : BitVec 3)
  /-- VFSQRT (R242). -/
  | vfsqrt (h : Head) (d a : VReg) (m : KReg) (rc : BitVec 3)
  /-- VFRCP (R242). -/
  | vfrcp (h : Head) (d a : VReg) (m : KReg) (rc : BitVec 3)
  /-- VFRSQ (R242). -/
  | vfrsq (h : Head) (d a : VReg) (m : KReg) (rc : BitVec 3)
  /-- VCMP_EQ (R243). -/
  | vcmpEq (h : Head) (d : KReg) (a b : VReg) (m : KReg)
  /-- VCMP_LT (R243). -/
  | vcmpLt (h : Head) (d : KReg) (a b : VReg) (m : KReg)
  /-- VCMP_LTU (R243). -/
  | vcmpLtu (h : Head) (d : KReg) (a b : VReg) (m : KReg)
  /-- VCMP_NE (R243). -/
  | vcmpNe (h : Head) (d : KReg) (a b : VReg) (m : KReg)
  /-- VFCMP_EQ (R243). -/
  | vfcmpEq (h : Head) (d : KReg) (a b : VReg) (m : KReg)
  /-- VFCMP_LT (R243). -/
  | vfcmpLt (h : Head) (d : KReg) (a b : VReg) (m : KReg)
  /-- VFCMP_LE (R243). -/
  | vfcmpLe (h : Head) (d : KReg) (a b : VReg) (m : KReg)
  /-- VFCMP_UN (R243). -/
  | vfcmpUn (h : Head) (d : KReg) (a b : VReg) (m : KReg)
  /-- VLD (R245). -/
  | vld (h : Head) (d : VReg) (a : XReg) (m : KReg) (disp : Word) (o : Order)
  /-- VST (R245). -/
  | vst (h : Head) (d : VReg) (a : XReg) (m : KReg) (disp : Word) (o : Order)
  /-- VLDG (R246). -/
  | vldg (h : Head) (d : VReg) (a : XReg) (i : VReg) (m : KReg) (disp : Word) (o : Order)
  /-- VSTS (R246). -/
  | vsts (h : Head) (d : VReg) (a : XReg) (i : VReg) (m : KReg) (disp : Word) (o : Order)
  /-- VLDL (R247). -/
  | vldl (h : Head) (d a : VReg) (m : KReg) (disp : Word) (o : Order)
  /-- VSTL (R247). -/
  | vstl (h : Head) (d a : VReg) (m : KReg) (disp : Word) (o : Order)
  /-- VBCST (R248). -/
  | vbcst (h : Head) (d : VReg) (a : XReg) (m : KReg)
  /-- VEXT (R248). -/
  | vext (h : Head) (d : XReg) (a : VReg) (n : BitVec 3) (z : Bool)
  /-- VSEL (R248). -/
  | vsel (h : Head) (d a b : VReg) (k : KReg)
  /-- VPERM (R248). -/
  | vperm (h : Head) (d a : VReg) (m : KReg)
  /-- VLROT (R248). -/
  | vlrot (h : Head) (d a : VReg) (n : BitVec 3) (m : KReg)
  /-- VMOV (R248). -/
  | vmov (h : Head) (d a : VReg) (m : KReg)
  /-- VRADD (R249). -/
  | vradd (h : Head) (d : XReg) (a : VReg) (m : KReg)
  /-- VRFADD (R249). -/
  | vrfadd (h : Head) (d : XReg) (a : VReg) (m : KReg) (rc : BitVec 3)
  /-- VRMAX (R249). -/
  | vrmax (h : Head) (d : XReg) (a : VReg) (m : KReg)
  /-- VRMIN (R249). -/
  | vrmin (h : Head) (d : XReg) (a : VReg) (m : KReg)
  /-- KAND (R244). -/
  | kand (h : Head) (d a : KReg) (t : Option KReg)
  /-- KOR (R244). -/
  | kor (h : Head) (d a : KReg) (t : Option KReg)
  /-- KXOR (R244). -/
  | kxor (h : Head) (d a : KReg) (t : Option KReg)
  /-- KNOT (R244). -/
  | knot (h : Head) (d a : KReg)
  /-- KANY (R244). -/
  | kany (h : Head) (d : XReg) (a : KReg)
  /-- KALL (R244). -/
  | kall (h : Head) (d : XReg) (a : KReg)
  /-- KCNT (R244). -/
  | kcnt (h : Head) (d : XReg) (a : KReg)
  /-- KFIRST (R244). -/
  | kfirst (h : Head) (d : XReg) (a : KReg)
  /-- KMOV (R244). -/
  | kmov (h : Head) (d : KReg) (a : XReg)
  /-- KMOVX (R244). -/
  | kmovx (h : Head) (d : XReg) (a : KReg)
  /-- VCVT (R250). -/
  | vcvt (h : Head) (d a : VReg) (m : KReg) (fmt : BitVec 4) (dir : Bool)
  /-- VCVTS (R252). -/
  | vcvts (h : Head) (d a : VReg) (m : KReg) (fmt : BitVec 4)
  /-- VQNT (R254). -/
  | vqnt (h : Head) (d a : VReg) (m : KReg) (fmt : BitVec 4)
  /-- VDQNT (R254). -/
  | vdqnt (h : Head) (d a : VReg) (m : KReg) (fmt : BitVec 4)
  /-- VRESC (R255). -/
  | vresc (h : Head) (d : VReg) (a : XReg) (m : KReg) (disp : Word) (i32 : Bool)
  /-- VSCAL (R254). -/
  | vscal (h : Head) (d a : VReg) (m : KReg) (fmt : BitVec 4)
  /-- VPACK (R253). -/
  | vpack (h : Head) (d a : VReg) (w : BitVec 2) (p : BitVec 3)
  /-- VUNPK (R253). -/
  | vunpk (h : Head) (d a : VReg) (w : BitVec 2) (p : BitVec 3)
  /-- TMMA_F32 (R262). -/
  | tmmaF32 (h : Head) (acc : AccReg) (ra rb : RingReg) (z k : Bool) (t : Option XReg)
  /-- TMMA_BF (R262). -/
  | tmmaBf (h : Head) (acc : AccReg) (ra rb : RingReg) (z k : Bool) (t : Option XReg)
  /-- TMMA_H (R262). -/
  | tmmaH (h : Head) (acc : AccReg) (ra rb : RingReg) (z k : Bool) (t : Option XReg)
  /-- TMMA_HB (R262). -/
  | tmmaHb (h : Head) (acc : AccReg) (ra rb : RingReg) (z k : Bool) (t : Option XReg) (x : Bool)
  /-- TMMA_E4 (R262). -/
  | tmmaE4 (h : Head) (acc : AccReg) (ra rb : RingReg) (z k : Bool) (t : Option XReg)
  /-- TMMA_E5 (R262). -/
  | tmmaE5 (h : Head) (acc : AccReg) (ra rb : RingReg) (z k : Bool) (t : Option XReg)
  /-- TMMA_E45 (R262). -/
  | tmmaE45 (h : Head) (acc : AccReg) (ra rb : RingReg) (z k : Bool) (t : Option XReg) (x : Bool)
  /-- TMMA_E3 (R262). -/
  | tmmaE3 (h : Head) (acc : AccReg) (ra rb : RingReg) (z k : Bool) (t : Option XReg)
  /-- TMMA_E2 (R262). -/
  | tmmaE2 (h : Head) (acc : AccReg) (ra rb : RingReg) (z k : Bool) (t : Option XReg)
  /-- TMMA_E1 (R262). -/
  | tmmaE1 (h : Head) (acc : AccReg) (ra rb : RingReg) (z k : Bool) (t : Option XReg)
  /-- TMMA_I8 (R262). -/
  | tmmaI8 (h : Head) (acc : AccReg) (ra rb : RingReg) (z k : Bool) (t : Option XReg) (x : Bool)
  /-- TMMA_IZ8 (R262). -/
  | tmmaIz8 (h : Head) (acc : AccReg) (ra rb : RingReg) (z k : Bool) (t : Option XReg)
  /-- TMMA_I4 (R262). -/
  | tmmaI4 (h : Head) (acc : AccReg) (ra rb : RingReg) (z k : Bool) (t : Option XReg)
  /-- TMMA_IZ4 (R262). -/
  | tmmaIz4 (h : Head) (acc : AccReg) (ra rb : RingReg) (z k : Bool) (t : Option XReg)
  /-- TCOMMIT (R263). -/
  | tcommit (h : Head) (d : XReg) (u : BitVec 4)
  /-- TWAITB (R263). -/
  | twaitb (h : Head) (d a : XReg)
  /-- TBATQ (R263). -/
  | tbatq (h : Head) (d a : XReg)
  /-- TLDA (R264). -/
  | tlda (h : Head) (d : AccReg) (a : XReg) (t : Option XReg) (disp : Word)
  /-- TSTA (R264). -/
  | tsta (h : Head) (d : AccReg) (a : XReg) (t : Option XReg) (disp : Word)
  /-- TSTA_Q (R265). -/
  | tstaQ (h : Head) (d : AccReg) (a t : XReg) (disp : Word) (i32 : Bool)
  /-- TZERO (R264). -/
  | tzero (h : Head) (d : AccReg) (u : BitVec 4)
  /-- TACCQ (R264). -/
  | taccq (h : Head) (d : XReg) (u : BitVec 4)
  /-- RCFG (R259). -/
  | rcfg (h : Head) (d : RingReg) (a : XReg)
  /-- RPUSH (R259). -/
  | rpush (h : Head) (d : RingReg) (u : BitVec 4)
  /-- RPOS (R259). -/
  | rpos (h : Head) (d : XReg) (a : RingReg)
  /-- RRST (R259). -/
  | rrst (h : Head) (d : RingReg) (u : BitVec 4)
  /-- TGEO (R266). -/
  | tgeo (h : Head) (d : XReg) (sel : BitVec 6)
  /-- PSEL (R273). -/
  | psel (h : Head) (a : XReg)
  /-- PSTAT (R279). -/
  | pstat (h : Head) (d a : XReg)
  /-- PGAIN (R279). -/
  | pgain (h : Head) (d a : XReg)
  /-- PSERIAL (R279). -/
  | pserial (h : Head) (d : XReg)
  /-- PHLD (R275). -/
  | phld (h : Head) (a : XReg)
  /-- PHSW (R275). -/
  | phsw (h : Head)
  /-- PHRD (R275). -/
  | phrd (h : Head) (d a : XReg)
  /-- PHWR (R275). -/
  | phwr (h : Head) (d a : XReg)
  /-- PDEC (R276). -/
  | pdec (h : Head) (d a : XReg)
  /-- PDECQ (R276). -/
  | pdecq (h : Head) (d a : XReg)
  /-- PPASS (R277). -/
  | ppass (h : Head) (a : XReg)
  /-- PPASSA (R277). -/
  | ppassa (h : Head) (a : XReg)
  /-- PFLUSH (R278). -/
  | pflush (h : Head) (d : XReg)
  /-- PWAIT (R278). -/
  | pwait (h : Head) (d a : XReg)
  /-- PPROBE (R280). -/
  | pprobe (h : Head)
  /-- PTRIM (R275). -/
  | ptrim (h : Head) (d a : XReg)
  /-- PLOOP (R277). -/
  | ploop (h : Head) (d a : XReg)
  /-- PCAL (R280). -/
  | pcal (h : Head) (a : XReg)
  /-- PAIR (R282). -/
  | pair (h : Head)
  /-- PAIRN (R282). -/
  | pairn (h : Head)
  /-- PUSHP (R283). -/
  | pushp (h : Head) (a : XReg)
  /-- PONDQ (R283). -/
  | pondq (h : Head) (d : XReg)
  /-- NALLOC (R284). -/
  | nalloc (h : Head) (d : XReg)
  /-- WALLOC (R284). -/
  | walloc (h : Head) (d : XReg)
  /-- NFREE (R284). -/
  | nfree (h : Head) (a : XReg)
  /-- WFREE (R284). -/
  | wfree (h : Head) (a : XReg)
  /-- NLD (R285). -/
  | nld (h : Head) (d a : XReg) (w : BitVec 2)
  /-- NST (R285). -/
  | nst (h : Head) (d a : XReg) (w : BitVec 2)
  /-- WSET (R286). -/
  | wset (h : Head) (d a : XReg)
  /-- WREPL (R286). -/
  | wrepl (h : Head) (d a : XReg)
  /-- WSPLICE (R286). -/
  | wsplice (h : Head) (d a : XReg)
  /-- WRES (R286). -/
  | wres (h : Head) (d a : XReg)
  /-- RETIRE (R288). -/
  | retire (h : Head)
  /-- RULE (R289). -/
  | rule (h : Head) (d a : XReg)
  /-- YIELDP (R283). -/
  | yieldp (h : Head)
  /-- ENGW (R51). -/
  | engw (h : Head) (a : XReg)
  /-- NRDM (R52). -/
  | nrdm (h : Head) (d a : XReg)
  /-- NVAL (R287). -/
  | nval (h : Head) (d a : XReg)
  /-- TLDN (R215). -/
  | tldn (h : Head) (d a : XReg) (disp : Word) (t : XReg) (o : Order)
  /-- TLDG (R216). -/
  | tldg (h : Head) (d a : XReg) (disp : Word) (t : XReg) (o : Order)
  /-- TKDROP (R218). -/
  | tkdrop (h : Head) (a : XReg)
  /-- AMO_ADD (R225). -/
  | amoAdd (h : Head) (d a : XReg) (disp : Word) (w : Bool) (o : Order)
  /-- AMO_AND (R225). -/
  | amoAnd (h : Head) (d a : XReg) (disp : Word) (w : Bool) (o : Order)
  /-- AMO_OR (R225). -/
  | amoOr (h : Head) (d a : XReg) (disp : Word) (w : Bool) (o : Order)
  /-- AMO_XOR (R225). -/
  | amoXor (h : Head) (d a : XReg) (disp : Word) (w : Bool) (o : Order)
  /-- AMO_MIN (R225). -/
  | amoMin (h : Head) (d a : XReg) (disp : Word) (w u : Bool) (o : Order)
  /-- AMO_MAX (R225). -/
  | amoMax (h : Head) (d a : XReg) (disp : Word) (w u : Bool) (o : Order)
  /-- AMO_SWAP (R225). -/
  | amoSwap (h : Head) (d a : XReg) (disp : Word) (w : Bool) (o : Order)
  /-- AMO_CAS (R225). -/
  | amoCas (h : Head) (d a t : XReg) (disp : Word) (w : Bool) (o : Order)
  /-- FAMO_ADD (R227). -/
  | famoAdd (h : Head) (d a : XReg) (disp : Word) (o : Order)
  /-- FAMO_ADD2 (R227). -/
  | famoAdd2 (h : Head) (d a : XReg) (disp : Word) (o : Order)
  /-- FAMO_MAX (R227). -/
  | famoMax (h : Head) (d a : XReg) (disp : Word) (o : Order)
  /-- FAMO_MIN (R227). -/
  | famoMin (h : Head) (d a : XReg) (disp : Word) (o : Order)
  /-- MSG (R228). -/
  | msg (h : Head) (d a t : XReg)
  /-- CALLAT (R230). -/
  | callat (h : Head) (d a t : XReg)
  /-- MRET (R230). -/
  | mret (h : Head)
  /-- HRET (R231). -/
  | hret (h : Head)
  /-- CLSM (R232). -/
  | clsm (h : Head) (a : XReg)
  /-- CLSU (R232). -/
  | clsu (h : Head) (a : XReg)
  /-- MCLOSE (R233). -/
  | mclose (h : Head) (d a : XReg)
  /-- MPOLL (R233). -/
  | mpoll (h : Head) (d a : XReg)
  /-- CPSET (R291). -/
  | cpset (h : Head) (d : XReg) (i : BitVec 3)
  /-- CPGO (R291). -/
  | cpgo (h : Head) (d : XReg)
  /-- CPWAIT (R292). -/
  | cpwait (h : Head) (d a : XReg)
  /-- CPQ (R292). -/
  | cpq (h : Head) (d a : XReg)
  /-- CSHAPE (R293). -/
  | cshape (h : Head) (d a : XReg)
  /-- CPMC (R294). -/
  | cpmc (h : Head) (d a : XReg)
  /-- GRED (R223). -/
  | gred (h : Head) (d a : XReg)
  /-- GBC (R223). -/
  | gbc (h : Head) (d a : XReg)
  /-- DSEND (R296). -/
  | dsend (h : Head) (d a : XReg)
  /-- DPOLL (R297). -/
  | dpoll (h : Head) (d a : XReg)
  /-- DSLOT (R297). -/
  | dslot (h : Head) (d a : XReg)
  /-- DSIG (R298). -/
  | dsig (h : Head) (d a : XReg)
  /-- RFT (R300). -/
  | rft (h : Head)
  /-- RFT_NEXT (R300). -/
  | rftNext (h : Head)
  /-- TRREC (R300). -/
  | trrec (h : Head) (d a : XReg) (disp : Word)
  /-- MFP (R301). -/
  | mfp (h : Head) (d a : XReg) (disp : Word)
  /-- MTP (R301). -/
  | mtp (h : Head) (d a : XReg) (disp : Word)
  /-- TLBI (R302). -/
  | tlbi (h : Head) (d a : XReg)
  /-- TLBIA (R302). -/
  | tlbia (h : Head) (a : XReg)
  /-- XBSET (R303). -/
  | xbset (h : Head) (a : XReg)
  /-- CFLUSH (R304). -/
  | cflush (h : Head) (a : XReg) (disp : Word)
  /-- CINV (R304). -/
  | cinv (h : Head) (a : XReg) (disp : Word)
  /-- CZERO (R304). -/
  | czero (h : Head) (a : XReg) (disp : Word)
  /-- DSTOP (R305). -/
  | dstop (h : Head) (a : XReg)
  /-- TRMARK (R305). -/
  | trmark (h : Head) (a : XReg)
  /-- EVSEL (R306). -/
  | evsel (h : Head) (d a : XReg)
  /-- EVRD (R306). -/
  | evrd (h : Head) (d a : XReg)
  /-- RPCAP_CAPTURE (R307). -/
  | rpcapCapture (h : Head) (d a t : XReg)
  /-- RPCAP_REPLAY (R307). -/
  | rpcapReplay (h : Head) (d a t : XReg)
  /-- RPCAP_END (R307). -/
  | rpcapEnd (h : Head) (d a t : XReg)
  /-- RPCAP_RELEASE (R307). -/
  | rpcapRelease (h : Head) (d a t : XReg)
  /-- RPSTAT (R307). -/
  | rpstat (h : Head) (d a : XReg)
  /-- TPERT (R308). -/
  | tpert (h : Head) (d a : XReg)
  /-- INJ (R308). -/
  | inj (h : Head) (d a : XReg) (disp : Word)
  /-- PWRF (R309). -/
  | pwrf (h : Head) (d a : XReg)
  deriving DecidableEq, Repr

end Sys2Proof
end

