-- ==== Sys2Proof/WellFormed.lean ====
section
/-! DEFINITION. Which instruction terms the manual gives a meaning: the conditions of R181 that are not about where
the bits stand. Whether a term's operands fit its lead words is `Instr.fits`, in Decode.lean. -/

namespace Sys2Proof

/-- At most four lead words, and at most one each of RGX, PGX and TRX (R180). -/
def Head.ok (h : Head) : Bool :=
  h.shape.length ≤ 4 && h.shape.count .rgx ≤ 1 && h.shape.count .pgx ≤ 1 && h.shape.count .trx ≤ 1

/-- A plain access carries scope 0 (R105). -/
def Order.okAccess (o : Order) : Bool := o.ord != 0 || o.sc == 0

/-- An even vector register number. -/
def even (r : VReg) : Bool := r.toNat % 2 == 0

/-- The affine format codes, `uint8` and `uint4` (R254). -/
def affine (fmt : BitVec 4) : Bool := fmt == 10 || fmt == 12

/-- The register and mask conditions of VCVT (R251): BFP formats take register groups and no mask. -/
def cvtOk (d a : VReg) (m : KReg) (fmt : BitVec 4) (dir : Bool) : Bool :=
  fmt.toNat < 13 ||
    (m == 0 && (if dir then even a && d.toNat % 4 == 0 else even d && a.toNat % 4 == 0))

/-- The format and register conditions of VQNT (R254). -/
def qntOk (d a : VReg) (m : KReg) (fmt : BitVec 4) : Bool :=
  (affine fmt && even d) || (13 ≤ fmt.toNat && m == 0 && even d && a.toNat % 4 == 0)

/-- A term with a meaning: its lead words are legal and its operands satisfy the conditions of its row (R105, R114,
R181, R208, R239, R251 to R254, R291). Every event is well-formed. -/
def Instr.wf : Instr → Bool
  | .ill h .. => h.ok
  | .nop h => h.ok
  | .tick h => h.ok
  | .halt h => h.ok
  | .mov h .. => h.ok
  | .not h .. => h.ok
  | .neg h .. => h.ok
  | .clz h .. => h.ok
  | .add h .. => h.ok
  | .sub h .. => h.ok
  | .and h .. => h.ok
  | .or h .. => h.ok
  | .xor h .. => h.ok
  | .shl h .. => h.ok
  | .shr h .. => h.ok
  | .sar h .. => h.ok
  | .min h .. => h.ok
  | .max h .. => h.ok
  | .minu h .. => h.ok
  | .maxu h .. => h.ok
  | .seq h .. => h.ok
  | .sne h .. => h.ok
  | .slt h .. => h.ok
  | .sltu h .. => h.ok
  | .mul h .. => h.ok
  | .mulh h .. => h.ok
  | .mulhu h .. => h.ok
  | .popc h .. => h.ok
  | .div h .. => h.ok
  | .divu h .. => h.ok
  | .rem h .. => h.ok
  | .remu h .. => h.ok
  | .addi h .. => h.ok
  | .li h .. => h.ok
  | .andi h .. => h.ok
  | .shli h .. => h.ok
  | .shri h .. => h.ok
  | .sari h .. => h.ok
  | .ldB h _ _ _ o => h.ok && (o.okAccess)
  | .ldH h _ _ _ o => h.ok && (o.okAccess)
  | .ldW h _ _ _ o => h.ok && (o.okAccess)
  | .ldD h _ _ _ o => h.ok && (o.okAccess)
  | .ldzB h _ _ _ o => h.ok && (o.okAccess)
  | .ldzH h _ _ _ o => h.ok && (o.okAccess)
  | .ldzW h _ _ _ o => h.ok && (o.okAccess)
  | .stB h _ _ _ o => h.ok && (o.okAccess)
  | .stH h _ _ _ o => h.ok && (o.okAccess)
  | .stW h _ _ _ o => h.ok && (o.okAccess)
  | .stD h _ _ _ o => h.ok && (o.okAccess)
  | .tld8 h _ _ _ _ o => h.ok && (o.okAccess && o.ord != 3)
  | .tld32 h _ _ _ _ o => h.ok && (o.okAccess && o.ord != 3)
  | .tld64 h _ _ _ _ o => h.ok && (o.okAccess && o.ord != 3)
  | .tld256 h _ _ _ _ o => h.ok && (o.okAccess && o.ord != 3)
  | .rdm h .. => h.ok
  | .rdmV h .. => h.ok
  | .rdmS h .. => h.ok
  | .tkq h .. => h.ok
  | .br h .. => h.ok
  | .call h .. => h.ok
  | .bz h .. => h.ok
  | .bnz h .. => h.ok
  | .loop h .. => h.ok
  | .jr h .. => h.ok
  | .callr h .. => h.ok
  | .ret h => h.ok
  | .jtab h .. => h.ok
  | .mfs h .. => h.ok
  | .mts h .. => h.ok
  | .fence h sc _ => h.ok && (h.shape == [] && sc != 7)
  | .bar h .. => h.ok
  | .bara h .. => h.ok
  | .barw h .. => h.ok
  | .barq h .. => h.ok
  | .trap h .. => h.ok
  | .rol h .. => h.ok
  | .ror h .. => h.ok
  | .bswap h .. => h.ok
  | .ctz h .. => h.ok
  | .ext h _ _ lo wm => h.ok && (lo.toNat + wm.toNat < 64)
  | .extz h _ _ lo wm => h.ok && (lo.toNat + wm.toNat < 64)
  | .dep h _ _ lo wm => h.ok && (lo.toNat + wm.toNat < 64)
  | .depz h _ _ lo wm => h.ok && (lo.toNat + wm.toNat < 64)
  | .lea h .. => h.ok
  | .madd h .. => h.ok
  | .msub h .. => h.ok
  | .cselz h .. => h.ok
  | .cselnz h .. => h.ok
  | .sextB h .. => h.ok
  | .sextH h .. => h.ok
  | .sextW h .. => h.ok
  | .zextW h .. => h.ok
  | .hash h .. => h.ok
  | .crc h .. => h.ok
  | .geo h .. => h.ok
  | .adds h .. => h.ok
  | .subs h .. => h.ok
  | .addus h .. => h.ok
  | .subus h .. => h.ok
  | .vadd h .. => h.ok
  | .vsub h .. => h.ok
  | .vmul h .. => h.ok
  | .vmulh h .. => h.ok
  | .vand h .. => h.ok
  | .vor h .. => h.ok
  | .vxor h .. => h.ok
  | .vandn h .. => h.ok
  | .vshl h .. => h.ok
  | .vshr h .. => h.ok
  | .vsar h .. => h.ok
  | .vrol h .. => h.ok
  | .vmin h .. => h.ok
  | .vmax h .. => h.ok
  | .vminu h .. => h.ok
  | .vmaxu h .. => h.ok
  | .vfadd h _ _ _ rc => h.ok && (rc.toNat < 5)
  | .vfsub h _ _ _ rc => h.ok && (rc.toNat < 5)
  | .vfmul h _ _ _ rc => h.ok && (rc.toNat < 5)
  | .vfma h _ _ _ rc _ => h.ok && (rc.toNat < 5)
  | .vfmin h .. => h.ok
  | .vfmax h .. => h.ok
  | .vfabs h .. => h.ok
  | .vfneg h .. => h.ok
  | .vfdiv h _ _ _ rc => h.ok && (rc.toNat < 5)
  | .vfsqrt h _ _ _ rc => h.ok && (rc.toNat < 5)
  | .vfrcp h _ _ _ rc => h.ok && (rc.toNat < 5)
  | .vfrsq h _ _ _ rc => h.ok && (rc.toNat < 5)
  | .vcmpEq h .. => h.ok
  | .vcmpLt h .. => h.ok
  | .vcmpLtu h .. => h.ok
  | .vcmpNe h .. => h.ok
  | .vfcmpEq h .. => h.ok
  | .vfcmpLt h .. => h.ok
  | .vfcmpLe h .. => h.ok
  | .vfcmpUn h .. => h.ok
  | .vld h _ _ _ _ o => h.ok && (o.okAccess)
  | .vst h _ _ _ _ o => h.ok && (o.okAccess)
  | .vldg h _ _ _ _ _ o => h.ok && (o.okAccess)
  | .vsts h _ _ _ _ _ o => h.ok && (o.okAccess)
  | .vldl h _ _ _ _ o => h.ok && (o.okAccess)
  | .vstl h _ _ _ _ o => h.ok && (o.okAccess)
  | .vbcst h .. => h.ok
  | .vext h .. => h.ok
  | .vsel h .. => h.ok
  | .vperm h .. => h.ok
  | .vlrot h .. => h.ok
  | .vmov h .. => h.ok
  | .vradd h .. => h.ok
  | .vrfadd h _ _ _ rc => h.ok && (rc.toNat < 5)
  | .vrmax h .. => h.ok
  | .vrmin h .. => h.ok
  | .kand h .. => h.ok
  | .kor h .. => h.ok
  | .kxor h .. => h.ok
  | .knot h .. => h.ok
  | .kany h .. => h.ok
  | .kall h .. => h.ok
  | .kcnt h .. => h.ok
  | .kfirst h .. => h.ok
  | .kmov h .. => h.ok
  | .kmovx h .. => h.ok
  | .vcvt h d a m fmt dir => h.ok && (cvtOk d a m fmt dir)
  | .vcvts h _ _ _ fmt => h.ok && (fmt.toNat < 13)
  | .vqnt h d a m fmt => h.ok && (qntOk d a m fmt)
  | .vdqnt h d _ _ fmt => h.ok && (affine fmt && even d)
  | .vresc h .. => h.ok
  | .vscal h d a _ fmt => h.ok && (affine fmt && even d && even a)
  | .vpack h _ _ w p => h.ok && (w != 3 && p.toNat < 2 ^ (w.toNat + 1))
  | .vunpk h _ _ w p => h.ok && (w != 3 && p.toNat < 2 ^ (w.toNat + 1))
  | .tmmaF32 h .. => h.ok
  | .tmmaBf h .. => h.ok
  | .tmmaH h .. => h.ok
  | .tmmaHb h .. => h.ok
  | .tmmaE4 h .. => h.ok
  | .tmmaE5 h .. => h.ok
  | .tmmaE45 h .. => h.ok
  | .tmmaE3 h .. => h.ok
  | .tmmaE2 h .. => h.ok
  | .tmmaE1 h .. => h.ok
  | .tmmaI8 h .. => h.ok
  | .tmmaIz8 h .. => h.ok
  | .tmmaI4 h .. => h.ok
  | .tmmaIz4 h .. => h.ok
  | .tcommit h .. => h.ok
  | .twaitb h .. => h.ok
  | .tbatq h .. => h.ok
  | .tlda h .. => h.ok
  | .tsta h .. => h.ok
  | .tstaQ h .. => h.ok
  | .tzero h .. => h.ok
  | .taccq h .. => h.ok
  | .rcfg h .. => h.ok
  | .rpush h .. => h.ok
  | .rpos h .. => h.ok
  | .rrst h .. => h.ok
  | .tgeo h .. => h.ok
  | .psel h .. => h.ok
  | .pstat h .. => h.ok
  | .pgain h .. => h.ok
  | .pserial h .. => h.ok
  | .phld h .. => h.ok
  | .phsw h => h.ok
  | .phrd h .. => h.ok
  | .phwr h .. => h.ok
  | .pdec h .. => h.ok
  | .pdecq h .. => h.ok
  | .ppass h .. => h.ok
  | .ppassa h .. => h.ok
  | .pflush h .. => h.ok
  | .pwait h .. => h.ok
  | .pprobe h => h.ok
  | .ptrim h .. => h.ok
  | .ploop h .. => h.ok
  | .pcal h .. => h.ok
  | .pair h => h.ok
  | .pairn h => h.ok
  | .pushp h .. => h.ok
  | .pondq h .. => h.ok
  | .nalloc h .. => h.ok
  | .walloc h .. => h.ok
  | .nfree h .. => h.ok
  | .wfree h .. => h.ok
  | .nld h .. => h.ok
  | .nst h .. => h.ok
  | .wset h .. => h.ok
  | .wrepl h .. => h.ok
  | .wsplice h .. => h.ok
  | .wres h .. => h.ok
  | .retire h => h.ok
  | .rule h .. => h.ok
  | .yieldp h => h.ok
  | .engw h .. => h.ok
  | .nrdm h .. => h.ok
  | .nval h .. => h.ok
  | .tldn h _ _ _ _ o => h.ok && (o.okAccess && o.ord != 3)
  | .tldg h _ _ _ _ o => h.ok && (o.okAccess && o.ord.toNat < 2)
  | .tkdrop h .. => h.ok
  | .amoAdd h _ _ _ _ o => h.ok && (o.okAccess)
  | .amoAnd h _ _ _ _ o => h.ok && (o.okAccess)
  | .amoOr h _ _ _ _ o => h.ok && (o.okAccess)
  | .amoXor h _ _ _ _ o => h.ok && (o.okAccess)
  | .amoMin h _ _ _ _ _ o => h.ok && (o.okAccess)
  | .amoMax h _ _ _ _ _ o => h.ok && (o.okAccess)
  | .amoSwap h _ _ _ _ o => h.ok && (o.okAccess)
  | .amoCas h _ _ _ _ _ o => h.ok && (o.okAccess)
  | .famoAdd h _ _ _ o => h.ok && (o.okAccess)
  | .famoAdd2 h _ _ _ o => h.ok && (o.okAccess)
  | .famoMax h _ _ _ o => h.ok && (o.okAccess)
  | .famoMin h _ _ _ o => h.ok && (o.okAccess)
  | .msg h .. => h.ok
  | .callat h .. => h.ok
  | .mret h => h.ok
  | .hret h => h.ok
  | .clsm h .. => h.ok
  | .clsu h .. => h.ok
  | .mclose h .. => h.ok
  | .mpoll h .. => h.ok
  | .cpset h _ i => h.ok && (i != 7)
  | .cpgo h .. => h.ok
  | .cpwait h .. => h.ok
  | .cpq h .. => h.ok
  | .cshape h .. => h.ok
  | .cpmc h .. => h.ok
  | .gred h .. => h.ok
  | .gbc h .. => h.ok
  | .dsend h .. => h.ok
  | .dpoll h .. => h.ok
  | .dslot h .. => h.ok
  | .dsig h .. => h.ok
  | .rft h => h.ok
  | .rftNext h => h.ok
  | .trrec h .. => h.ok
  | .mfp h .. => h.ok
  | .mtp h .. => h.ok
  | .tlbi h .. => h.ok
  | .tlbia h .. => h.ok
  | .xbset h .. => h.ok
  | .cflush h .. => h.ok
  | .cinv h .. => h.ok
  | .czero h .. => h.ok
  | .dstop h .. => h.ok
  | .trmark h .. => h.ok
  | .evsel h .. => h.ok
  | .evrd h .. => h.ok
  | .rpcapCapture h .. => h.ok
  | .rpcapReplay h .. => h.ok
  | .rpcapEnd h .. => h.ok
  | .rpcapRelease h .. => h.ok
  | .rpstat h .. => h.ok
  | .tpert h .. => h.ok
  | .inj h .. => h.ok
  | .pwrf h .. => h.ok
  | .breakpoint .. => true
  | .resultLand .. => true
  | .storeAck .. => true
  | .atomicPerform .. => true
  | .tlbWalk .. => true
  | .ticketGrant .. => true
  | .grantArrive .. => true
  | .tldRequestArrive .. => true
  | .ticketFetchPerform .. => true
  | .ticketDataArrive .. => true
  | .redeemArrive .. => true
  | .tkdropArrive .. => true
  | .tkqArrive .. => true
  | .redeemDelivery .. => true
  | .packageTimerTick => true
  | .leaseExpire .. => true
  | .setend .. => true
  | .replace .. => true
  | .splice .. => true
  | .adopt .. => true
  | .resolve .. => true
  | .unref .. => true
  | .wfreeMessage .. => true
  | .nfreeMessage .. => true
  | .pondRequestRound .. => true
  | .pondWorkRequest .. => true
  | .pondHighmAnnounce .. => true
  | .springStockRefill .. => true
  | .twinCompare .. => true
  | .msgArrive .. => true
  | .handlerStart .. => true
  | .taskStart .. => true
  | .messageRefusal .. => true
  | .barrierArrival .. => true
  | .barrierCompletionNotice .. => true
  | .collectiveContribution .. => true
  | .collectiveResult .. => true
  | .copyTransferStart .. => true
  | .copyTransferComplete .. => true
  | .tileStepStart .. => true
  | .tileStepRetire .. => true
  | .phldTakeEffect .. => true
  | .shadowSettle .. => true
  | .phrdTakeEffect .. => true
  | .phwrTakeEffect .. => true
  | .ptrimTakeEffect .. => true
  | .passBoundary .. => true
  | .trimSettle .. => true
  | .passStart .. => true
  | .passHeaderWrite .. => true
  | .probeEvaluation .. => true
  | .probeComplete .. => true
  | .pcalComplete .. => true
  | .deComplete .. => true
  | .deBankLoad .. => true
  | .balanceHeaterUpdate .. => true
  | .combLoss .. => true
  | .modStuck .. => true
  | .parityRecovery .. => true
  | .scrub .. => true
  | .asyncFaultTake .. => true
  | .fpExcWindowClose .. => true
  | .tickMiss .. => true
  | .quietNotice .. => true
  | .completionWave .. => true
  | .waveReport .. => true
  | .submissionTake .. => true
  | .dispatchSelect => true
  | .preemption .. => true
  | .resumption .. => true
  | .jobEnd .. => true
  | .completionEventWrite .. => true
  | .qCfgWrite .. => true
  | .dispKill .. => true
  | .contRectDefine .. => true
  | .contRectGo .. => true
  | .containment .. => true
  | .basinSplitWrite .. => true
  | .basinSplitDone .. => true
  | .dialCommit => true
  | .dialEnable .. => true
  | .dialRotationStart => true
  | .dialWindowOpen .. => true
  | .dialMessageEnd .. => true
  | .dialFlitReceive .. => true
  | .dialFlitNak .. => true
  | .dialMessageDelivered .. => true
  | .dialAck .. => true
  | .dialTimerDrift => true
  | .lossOfReturnLight .. => true
  | .dialPresenceLoss .. => true
  | .dsigPartialArrive .. => true
  | .dsigResultArrive .. => true
  | .nqlLinkDown => true
  | .nqlFail => true
  | .nqlRetrain => true
  | .hostMemAccess .. => true
  | .regUnsupportedAccess .. => true
  | .registerWrite .. => true
  | .nocGridSample => true
  | .fcastUpdate => true
  | .pcapLimitWrite .. => true
  | .pcapWindowEnd .. => true
  | .fastClamp => true
  | .clampRelease => true
  | .thermalTrip .. => true
  | .thermalRecovery .. => true
  | .healthUpdate => true
  | .coldReset .. => true
  | .attestGo .. => true
  | .attestReportDone => true
  | .debugStop .. => true
  | .debugAccess .. => true
  | .singleStep .. => true
  | .stepUntilDrained .. => true
  | .pondHandover .. => true
  | .dialTimerAligned => true
  | .moduleInsertion .. => true
  | .returnLightRestored .. => true
  | .spareLineProbe .. => true

end Sys2Proof
end

