-- ==== Sys2Proof/Decode.lean ====
section
/-! DEFINITION. From bytes to instructions (R173 to R181, R189, R190) and back. `decode` is total: it answers an
instruction with its length, or says by name why the words are none. `encode` is written from the same tables. -/

namespace Sys2Proof

/-- Why words are no instruction (R181). Every one of them is the illegal-instruction trap. -/
inductive DecodeError where
  /-- The words end before the base word: a straddle of XB (R180). -/
  | truncated
  /-- A lead word with S = 1 (R180). -/
  | markedLead
  /-- A fifth lead word (R180). -/
  | tooManyLeads
  /-- A second RGX, PGX or TRX (R180). -/
  | duplicateLead
  /-- RGX with P[1:0] not 0 (R177). -/
  | rgxLowBits
  /-- PGX that selects page 0 (R178). -/
  | pageZero
  /-- High register bits for a field that needs TRX, without one (R177). -/
  | strayHighBits
  /-- An opcode, function or operand combination that R181 refuses. -/
  | badInstruction
  deriving DecidableEq, Repr

/-! ### Parts: the fields of an encoded instruction -/

/-- The fields of one instruction, widened by its lead words: register fields D, A and T of 6 bits (R177), the F
field, page and EXT (R178), ORD and scope (R179), and the IMX bytes in address order (R176). -/
structure Parts where
  s : Bool
  shape : List Pfx
  page : BitVec 3
  ext : BitVec 5
  op : BitVec 5
  d : BitVec 6
  a : BitVec 6
  t : BitVec 6
  f : BitVec 2
  ord : BitVec 2
  sc : BitVec 2
  imx : List Byte
  deriving DecidableEq, Repr

/-- Marker and lead words of the instruction. -/
def Parts.head (p : Parts) : Head := ⟨p.s, p.shape⟩

/-- Parts with every operand field 0. -/
def Parts.base (h : Head) (page : BitVec 3) (op : BitVec 5) (f : BitVec 2) : Parts :=
  { s := h.s, shape := h.shape, page := page, ext := 0, op := op, d := 0, a := 0, t := 0, f := f,
    ord := 0, sc := 0, imx := [] }

/-- The unsigned number that IMX bytes spell, first byte highest (R176). -/
def imxVal (bs : List Byte) : Nat := bs.foldl (fun v b => v * 256 + b.toNat) 0

/-- `n` bytes of `v`, highest first. -/
def immBytes : Nat → Nat → List Byte
  | 0, _ => []
  | n + 1, v => immBytes n (v / 256) ++ [BitVec.ofNat 8 v]

/-- The low `w` bits of `raw` read as a signed number, in 64 bits (R176). -/
def sextNat (w raw : Nat) : Word :=
  if w = 0 then 0
  else if raw % 2 ^ w < 2 ^ (w - 1) then BitVec.ofNat 64 (raw % 2 ^ w)
  else BitVec.ofInt 64 ((raw % 2 ^ w : Nat) - (2 ^ w : Nat))

/-- How many IMX words stand before the base word. -/
def Head.nImx (h : Head) : Nat := h.shape.count .imx

/-- Has the instruction a TRX? -/
def Head.trx (h : Head) : Bool := h.shape.contains .trx

/-! ### Words to parts (R180) -/

/-- The value of a lead word of kind code `k` with `p` in its low byte (R175). -/
def leadWord (k : BitVec 2) (p : Byte) : W16 := (0x1F : BitVec 6) ++ k ++ p

/-- The P byte of the RGX of these parts (R177). -/
def Parts.rgxByte (p : Parts) : Byte :=
  p.d.extractLsb' 4 2 ++ p.a.extractLsb' 4 2 ++ p.t.extractLsb' 4 2 ++ (0 : BitVec 2)

/-- The P byte of the PGX of these parts (R178). -/
def Parts.pgxByte (p : Parts) : Byte := p.ext ++ p.page

/-- The P byte of the TRX of these parts (R179). -/
def Parts.trxByte (p : Parts) : Byte := p.t.extractLsb' 0 4 ++ p.ord ++ p.sc

/-- The base word of these parts, in the RR layout, which the other forms share bit by bit (R173). -/
def Parts.baseWord (p : Parts) : W16 :=
  BitVec.ofBool p.s ++ p.op ++ p.d.extractLsb' 0 4 ++ p.a.extractLsb' 0 4 ++ p.f

/-- Takes the register widening of an RGX byte into the parts (R177). -/
def Parts.withRgx (p : Parts) (b : Byte) : Parts :=
  { p with
    shape := p.shape ++ [.rgx]
    d := b.extractLsb' 6 2 ++ p.d.extractLsb' 0 4
    a := b.extractLsb' 4 2 ++ p.a.extractLsb' 0 4
    t := b.extractLsb' 2 2 ++ p.t.extractLsb' 0 4 }

/-- Takes page and EXT of a PGX byte into the parts (R178). -/
def Parts.withPgx (p : Parts) (b : Byte) : Parts :=
  { p with shape := p.shape ++ [.pgx], page := b.extractLsb' 0 3, ext := b.extractLsb' 3 5 }

/-- Takes T, ORD and scope of a TRX byte into the parts (R179). -/
def Parts.withTrx (p : Parts) (b : Byte) : Parts :=
  { p with
    shape := p.shape ++ [.trx]
    t := p.t.extractLsb' 4 2 ++ b.extractLsb' 4 4
    ord := b.extractLsb' 2 2
    sc := b.extractLsb' 0 2 }

/-- Takes an IMX byte into the parts (R176). -/
def Parts.withImx (p : Parts) (b : Byte) : Parts :=
  { p with shape := p.shape ++ [.imx], imx := p.imx ++ [b] }

/-- Takes the base word into the parts (R173). -/
def Parts.withBase (p : Parts) (w : W16) : Parts :=
  { p with
    s := w.getLsbD 15
    op := w.extractLsb' 10 5
    d := p.d.extractLsb' 4 2 ++ w.extractLsb' 6 4
    a := p.a.extractLsb' 4 2 ++ w.extractLsb' 2 4
    f := w.extractLsb' 0 2 }

/-- One lead word, as the loop of R180 takes it. -/
def Parts.lead (p : Parts) (w : W16) : Except DecodeError Parts :=
  let b : Byte := w.extractLsb' 0 8
  if w.getLsbD 15 then .error .markedLead
  else if p.shape.length = 4 then .error .tooManyLeads
  else match (w.extractLsb' 8 2).toNat with
    | 0 => .ok (p.withImx b)
    | 1 => if p.shape.contains .rgx then .error .duplicateLead
           else if b.extractLsb' 0 2 != 0 then .error .rgxLowBits else .ok (p.withRgx b)
    | 2 => if p.shape.contains .pgx then .error .duplicateLead
           else if b.extractLsb' 0 3 == 0 then .error .pageZero else .ok (p.withPgx b)
    | _ => if p.shape.contains .trx then .error .duplicateLead else .ok (p.withTrx b)

/-- The loop of R180 over the words at the program counter. -/
def parse : Parts → List W16 → Except DecodeError Parts
  | _, [] => .error .truncated
  | p, w :: ws =>
    if w.extractLsb' 10 5 == 31 then
      match p.lead w with
      | .error e => .error e
      | .ok p' => parse p' ws
    else
      let q := p.withBase w
      if !q.shape.contains .trx && q.t != 0 then .error .strayHighBits else .ok q

/-- How many words the loop of R180 reads, up to the base word or to the lead word that it refuses. -/
def wordsRead : Parts → List W16 → Nat
  | _, [] => 0
  | p, w :: ws =>
    if w.extractLsb' 10 5 == 31 then
      match p.lead w with
      | .error _ => 1
      | .ok p' => wordsRead p' ws + 1
    else 1

/-- The parts before any word is read. -/
def Parts.empty : Parts := Parts.base ⟨false, []⟩ 0 0 0

/-- The lead words of an instruction in the order of its shape, the IMX bytes taken in turn. -/
def Parts.leadWords (p : Parts) : List Pfx → List Byte → List W16
  | [], _ => []
  | .imx :: r, b :: bs => leadWord 0 b :: p.leadWords r bs
  | .imx :: r, [] => leadWord 0 0 :: p.leadWords r []
  | .rgx :: r, bs => leadWord 1 p.rgxByte :: p.leadWords r bs
  | .pgx :: r, bs => leadWord 2 p.pgxByte :: p.leadWords r bs
  | .trx :: r, bs => leadWord 3 p.trxByte :: p.leadWords r bs

/-- The words of the instruction with these parts. -/
def Parts.words (p : Parts) : List W16 := p.leadWords p.shape p.imx ++ [p.baseWord]

/-- Do the lead words named by the shape carry these fields? PGX exactly when the page is not 0, RGX when a register
number needs its high bits, TRX when T, ORD or scope is not 0, one IMX for each byte. -/
def Parts.fits (p : Parts) : Bool :=
  (p.shape.contains .pgx == (p.page != 0)) && (p.page != 0 || p.ext == 0) &&
  (p.shape.contains .rgx || (p.d.toNat < 16 && p.a.toNat < 16 && p.t.toNat < 16)) &&
  (p.shape.contains .trx || (p.t == 0 && p.ord == 0 && p.sc == 0)) &&
  p.imx.length == p.shape.count .imx && p.op != 31

/-! ### Operand forms: one pair of functions for each, from operands to parts and back -/

/-- EXT, ORD and scope are 0 and there is no IMX. -/
def Parts.plain (p : Parts) : Bool := p.ext == 0 && p.ord == 0 && p.sc == 0 && p.imx == []

/-- The I6 field (R173), which stands where A and F stand. -/
def Parts.i6 (p : Parts) : Nat := p.a.toNat % 16 * 4 + p.f.toNat
/-- The I10 field (R173), which stands where D, A and F stand. -/
def Parts.i10 (p : Parts) : Nat := p.d.toNat % 16 * 64 + p.i6

/-- Writes an I6 field and the IMX bytes above it (R176). -/
def Parts.setI6 (p : Parts) (n v : Nat) : Parts :=
  { p with a := BitVec.ofNat 6 (v / 4 % 16), f := BitVec.ofNat 2 v, imx := immBytes n (v / 64) }
/-- Writes an I10 field and the IMX bytes above it (R176). -/
def Parts.setI10 (p : Parts) (n v : Nat) : Parts :=
  { p with d := BitVec.ofNat 6 (v / 64 % 16), a := BitVec.ofNat 6 (v / 4 % 16), f := BitVec.ofNat 2 v,
           imx := immBytes n (v / 1024) }

/-- The displacement of a memory operand: signed, 0 without IMX (R176). -/
def Parts.disp (p : Parts) : Word := sextNat (8 * p.imx.length) (imxVal p.imx)
/-- A displacement fits `n` IMX words. -/
def dispFits (n : Nat) (v : Word) : Bool := sextNat (8 * n) v.toNat == v
/-- A signed immediate with a base field of `b` bits fits `n` IMX words. -/
def immFits (b n : Nat) (v : Word) : Bool := sextNat (8 * n + b) v.toNat == v

/-- The optional third source: present exactly with TRX (R179, R203). -/
def Parts.tOpt (p : Parts) : Option XReg := if p.shape.contains .trx then some p.t else none

/-- A field that names a vector register (R239). -/
def vOk (r : BitVec 6) : Bool := r.toNat < 32
/-- A field that names a mask or a ring (R239, R259). -/
def kOk (r : BitVec 6) : Bool := r.toNat < 8
/-- A field that names an accumulator (R264). -/
def accOk (r : BitVec 6) : Bool := r.toNat < 4

/-- ORD and scope are 0 and EXT is 0; IMX may stand. -/
def Parts.plainI (p : Parts) : Bool := p.ext == 0 && p.ord == 0 && p.sc == 0
/-- ORD and scope are 0 and there is no IMX; EXT may stand. -/
def Parts.plainT (p : Parts) : Bool := p.ord == 0 && p.sc == 0 && p.imx == []

noncomputable section

/-- The rows of page 0 (R189, R190). -/
def decodePage0 (p : Parts) : Option Instr :=
  match p.op.toNat, p.f.toNat with
  | 0, 0 => if p.plain && p.t == 0 then some (.ill p.head p.d p.a)
      else none
  | 0, 1 => if p.plain && p.t == 0 && p.d == 0 && p.a == 0 then some (.nop p.head)
      else none
  | 0, 2 => if p.plain && p.t == 0 && p.d == 0 && p.a == 0 then some (.tick p.head)
      else none
  | 0, 3 => if p.plain && p.t == 0 && p.d == 0 && p.a == 0 then some (.halt p.head)
      else none
  | 1, 0 => if p.plain && p.t == 0 then some (.mov p.head p.d p.a)
      else none
  | 1, 1 => if p.plain && p.t == 0 then some (.not p.head p.d p.a)
      else none
  | 1, 2 => if p.plain && p.t == 0 then some (.neg p.head p.d p.a)
      else none
  | 1, 3 => if p.plain && p.t == 0 then some (.clz p.head p.d p.a)
      else none
  | 2, 0 => if p.plain then some (.add p.head p.d p.a p.tOpt)
      else none
  | 2, 1 => if p.plain then some (.sub p.head p.d p.a p.tOpt)
      else none
  | 2, 2 => if p.plain then some (.and p.head p.d p.a p.tOpt)
      else none
  | 2, 3 => if p.plain then some (.or p.head p.d p.a p.tOpt)
      else none
  | 3, 0 => if p.plain then some (.xor p.head p.d p.a p.tOpt)
      else none
  | 3, 1 => if p.plain then some (.shl p.head p.d p.a p.tOpt)
      else none
  | 3, 2 => if p.plain then some (.shr p.head p.d p.a p.tOpt)
      else none
  | 3, 3 => if p.plain then some (.sar p.head p.d p.a p.tOpt)
      else none
  | 4, 0 => if p.plain then some (.min p.head p.d p.a p.tOpt)
      else none
  | 4, 1 => if p.plain then some (.max p.head p.d p.a p.tOpt)
      else none
  | 4, 2 => if p.plain then some (.minu p.head p.d p.a p.tOpt)
      else none
  | 4, 3 => if p.plain then some (.maxu p.head p.d p.a p.tOpt)
      else none
  | 5, 0 => if p.plain then some (.seq p.head p.d p.a p.tOpt)
      else none
  | 5, 1 => if p.plain then some (.sne p.head p.d p.a p.tOpt)
      else none
  | 5, 2 => if p.plain then some (.slt p.head p.d p.a p.tOpt)
      else none
  | 5, 3 => if p.plain then some (.sltu p.head p.d p.a p.tOpt)
      else none
  | 6, 0 => if p.plain then some (.mul p.head p.d p.a p.tOpt)
      else none
  | 6, 1 => if p.plain then some (.mulh p.head p.d p.a p.tOpt)
      else none
  | 6, 2 => if p.plain then some (.mulhu p.head p.d p.a p.tOpt)
      else none
  | 6, 3 => if p.plain && p.t == 0 then some (.popc p.head p.d p.a)
      else none
  | 7, 0 => if p.plain then some (.div p.head p.d p.a p.tOpt)
      else none
  | 7, 1 => if p.plain then some (.divu p.head p.d p.a p.tOpt)
      else none
  | 7, 2 => if p.plain then some (.rem p.head p.d p.a p.tOpt)
      else none
  | 7, 3 => if p.plain then some (.remu p.head p.d p.a p.tOpt)
      else none
  | 8, _ => if p.plainI && p.t == 0 && p.a.toNat < 16 then some (.addi p.head p.d (sextNat (8 * p.imx.length + 6) (imxVal p.imx * 64 + p.i6)))
      else none
  | 9, _ => if p.plainI && p.t == 0 && p.a.toNat < 16 then some (.li p.head p.d (sextNat (8 * p.imx.length + 6) (imxVal p.imx * 64 + p.i6)))
      else none
  | 10, _ => if p.plainI && p.t == 0 && p.a.toNat < 16 then some (.andi p.head p.d (sextNat (8 * p.imx.length + 6) (imxVal p.imx * 64 + p.i6)))
      else none
  | 11, _ => if p.plain && p.t == 0 && p.a.toNat < 16 then some (.shli p.head p.d (BitVec.ofNat 6 p.i6))
      else none
  | 12, _ => if p.plain && p.t == 0 && p.a.toNat < 16 then some (.shri p.head p.d (BitVec.ofNat 6 p.i6))
      else none
  | 13, _ => if p.plain && p.t == 0 && p.a.toNat < 16 then some (.sari p.head p.d (BitVec.ofNat 6 p.i6))
      else none
  | 14, 0 => if p.ext == 0 && p.t == 0 && (⟨p.ord, p.sc⟩ : Order).okAccess then some (.ldB p.head p.d p.a p.disp ⟨p.ord, p.sc⟩)
      else none
  | 14, 1 => if p.ext == 0 && p.t == 0 && (⟨p.ord, p.sc⟩ : Order).okAccess then some (.ldH p.head p.d p.a p.disp ⟨p.ord, p.sc⟩)
      else none
  | 14, 2 => if p.ext == 0 && p.t == 0 && (⟨p.ord, p.sc⟩ : Order).okAccess then some (.ldW p.head p.d p.a p.disp ⟨p.ord, p.sc⟩)
      else none
  | 14, 3 => if p.ext == 0 && p.t == 0 && (⟨p.ord, p.sc⟩ : Order).okAccess then some (.ldD p.head p.d p.a p.disp ⟨p.ord, p.sc⟩)
      else none
  | 15, 0 => if p.ext == 0 && p.t == 0 && (⟨p.ord, p.sc⟩ : Order).okAccess then some (.ldzB p.head p.d p.a p.disp ⟨p.ord, p.sc⟩)
      else none
  | 15, 1 => if p.ext == 0 && p.t == 0 && (⟨p.ord, p.sc⟩ : Order).okAccess then some (.ldzH p.head p.d p.a p.disp ⟨p.ord, p.sc⟩)
      else none
  | 15, 2 => if p.ext == 0 && p.t == 0 && (⟨p.ord, p.sc⟩ : Order).okAccess then some (.ldzW p.head p.d p.a p.disp ⟨p.ord, p.sc⟩)
      else none
  | 16, 0 => if p.ext == 0 && p.t == 0 && (⟨p.ord, p.sc⟩ : Order).okAccess then some (.stB p.head p.d p.a p.disp ⟨p.ord, p.sc⟩)
      else none
  | 16, 1 => if p.ext == 0 && p.t == 0 && (⟨p.ord, p.sc⟩ : Order).okAccess then some (.stH p.head p.d p.a p.disp ⟨p.ord, p.sc⟩)
      else none
  | 16, 2 => if p.ext == 0 && p.t == 0 && (⟨p.ord, p.sc⟩ : Order).okAccess then some (.stW p.head p.d p.a p.disp ⟨p.ord, p.sc⟩)
      else none
  | 16, 3 => if p.ext == 0 && p.t == 0 && (⟨p.ord, p.sc⟩ : Order).okAccess then some (.stD p.head p.d p.a p.disp ⟨p.ord, p.sc⟩)
      else none
  | 17, 0 => if p.ext == 0 && p.ord != 3 && (⟨p.ord, p.sc⟩ : Order).okAccess then some (.tld8 p.head p.d p.a p.disp p.t ⟨p.ord, p.sc⟩)
      else none
  | 17, 1 => if p.ext == 0 && p.ord != 3 && (⟨p.ord, p.sc⟩ : Order).okAccess then some (.tld32 p.head p.d p.a p.disp p.t ⟨p.ord, p.sc⟩)
      else none
  | 17, 2 => if p.ext == 0 && p.ord != 3 && (⟨p.ord, p.sc⟩ : Order).okAccess then some (.tld64 p.head p.d p.a p.disp p.t ⟨p.ord, p.sc⟩)
      else none
  | 17, 3 => if p.ext == 0 && p.ord != 3 && (⟨p.ord, p.sc⟩ : Order).okAccess then some (.tld256 p.head p.d p.a p.disp p.t ⟨p.ord, p.sc⟩)
      else none
  | 18, 0 => if p.plain && p.t == 0 then some (.rdm p.head p.d p.a)
      else none
  | 18, 1 => if p.plain && p.t == 0 && vOk p.d then some (.rdmV p.head (p.d.setWidth 5) p.a)
      else none
  | 18, 2 => if p.plainI && p.t == 0 then some (.rdmS p.head p.d p.a p.disp)
      else none
  | 18, 3 => if p.plain && p.t == 0 then some (.tkq p.head p.d p.a)
      else none
  | 19, _ => if p.plainI && p.t == 0 && p.d.toNat < 16 && p.a.toNat < 16 then some (.br p.head (sextNat (8 * p.imx.length + 10) (imxVal p.imx * 1024 + p.i10)))
      else none
  | 20, _ => if p.plainI && p.t == 0 && p.d.toNat < 16 && p.a.toNat < 16 then some (.call p.head (sextNat (8 * p.imx.length + 10) (imxVal p.imx * 1024 + p.i10)))
      else none
  | 21, _ => if p.plainI && p.t == 0 && p.a.toNat < 16 then some (.bz p.head p.d (sextNat (8 * p.imx.length + 6) (imxVal p.imx * 64 + p.i6)))
      else none
  | 22, _ => if p.plainI && p.t == 0 && p.a.toNat < 16 then some (.bnz p.head p.d (sextNat (8 * p.imx.length + 6) (imxVal p.imx * 64 + p.i6)))
      else none
  | 23, _ => if p.plainI && p.t == 0 && p.a.toNat < 16 then some (.loop p.head p.d (sextNat (8 * p.imx.length + 6) (imxVal p.imx * 64 + p.i6)))
      else none
  | 24, 0 => if p.plain && p.t == 0 && p.d == 0 then some (.jr p.head p.a)
      else none
  | 24, 1 => if p.plain && p.t == 0 && p.d == 0 then some (.callr p.head p.a)
      else none
  | 24, 2 => if p.plain && p.t == 0 && p.d == 0 && p.a == 0 then some (.ret p.head)
      else none
  | 24, 3 => if p.plainI && p.t == 0 then some (.jtab p.head p.d p.a (BitVec.ofNat 64 (imxVal p.imx)))
      else none
  | 25, _ => if p.plainI && p.t == 0 && p.a.toNat < 16 && decide (imxVal p.imx * 64 + p.i6 < 1024) then some (.mfs p.head p.d (BitVec.ofNat 10 (imxVal p.imx * 64 + p.i6)))
      else none
  | 26, _ => if p.plainI && p.t == 0 && p.a.toNat < 16 && decide (imxVal p.imx * 64 + p.i6 < 1024) then some (.mts p.head p.d (BitVec.ofNat 10 (imxVal p.imx * 64 + p.i6)))
      else none
  | 27, 0 => if p.plain && p.t == 0 && p.shape == [] && p.d.toNat < 7 && p.a.toNat < 4 then some (.fence p.head (p.d.setWidth 3) (p.a.setWidth 2))
      else none
  | 28, 0 => if p.plain && p.t == 0 && p.d == 0 then some (.bar p.head p.a)
      else none
  | 28, 1 => if p.plain && p.t == 0 then some (.bara p.head p.d p.a)
      else none
  | 28, 2 => if p.plain && p.t == 0 then some (.barw p.head p.d p.a)
      else none
  | 28, 3 => if p.plain && p.t == 0 then some (.barq p.head p.d p.a)
      else none
  | 29, _ => if p.plain && p.t == 0 && p.d.toNat < 16 && p.a.toNat < 16 then some (.trap p.head (BitVec.ofNat 10 p.i10))
      else none
  | _, _ => none

/-- The rows of page 1 (R189, R190). -/
def decodePage1 (p : Parts) : Option Instr :=
  match p.op.toNat, p.f.toNat with
  | 0, 0 => if p.plain then some (.rol p.head p.d p.a p.tOpt)
      else none
  | 0, 1 => if p.plain then some (.ror p.head p.d p.a p.tOpt)
      else none
  | 0, 2 => if p.plain && p.t == 0 then some (.bswap p.head p.d p.a)
      else none
  | 0, 3 => if p.plain && p.t == 0 then some (.ctz p.head p.d p.a)
      else none
  | 1, 0 => if p.plainI && p.t == 0 && decide (imxVal p.imx < 4096) && decide (imxVal p.imx % 64 + imxVal p.imx / 64 < 64) then some (.ext p.head p.d p.a (BitVec.ofNat 6 (imxVal p.imx)) (BitVec.ofNat 6 (imxVal p.imx / 64)))
      else none
  | 1, 1 => if p.plainI && p.t == 0 && decide (imxVal p.imx < 4096) && decide (imxVal p.imx % 64 + imxVal p.imx / 64 < 64) then some (.extz p.head p.d p.a (BitVec.ofNat 6 (imxVal p.imx)) (BitVec.ofNat 6 (imxVal p.imx / 64)))
      else none
  | 1, 2 => if p.plainI && p.t == 0 && decide (imxVal p.imx < 4096) && decide (imxVal p.imx % 64 + imxVal p.imx / 64 < 64) then some (.dep p.head p.d p.a (BitVec.ofNat 6 (imxVal p.imx)) (BitVec.ofNat 6 (imxVal p.imx / 64)))
      else none
  | 1, 3 => if p.plainI && p.t == 0 && decide (imxVal p.imx < 4096) && decide (imxVal p.imx % 64 + imxVal p.imx / 64 < 64) then some (.depz p.head p.d p.a (BitVec.ofNat 6 (imxVal p.imx)) (BitVec.ofNat 6 (imxVal p.imx / 64)))
      else none
  | 2, _ => if p.plainI then some (.lea p.head p.d p.a p.tOpt p.f p.disp)
      else none
  | 3, 0 => if p.plain then some (.madd p.head p.d p.a p.t)
      else none
  | 3, 1 => if p.plain then some (.msub p.head p.d p.a p.t)
      else none
  | 4, 0 => if p.plain then some (.cselz p.head p.d p.a p.t)
      else none
  | 4, 1 => if p.plain then some (.cselnz p.head p.d p.a p.t)
      else none
  | 5, 0 => if p.plain && p.t == 0 then some (.sextB p.head p.d p.a)
      else none
  | 5, 1 => if p.plain && p.t == 0 then some (.sextH p.head p.d p.a)
      else none
  | 5, 2 => if p.plain && p.t == 0 then some (.sextW p.head p.d p.a)
      else none
  | 5, 3 => if p.plain && p.t == 0 then some (.zextW p.head p.d p.a)
      else none
  | 6, 0 => if p.plain then some (.hash p.head p.d p.a p.tOpt)
      else none
  | 6, 1 => if p.plain then some (.crc p.head p.d p.a p.tOpt)
      else none
  | 7, _ => if p.plain && p.t == 0 && p.a.toNat < 16 then some (.geo p.head p.d (BitVec.ofNat 6 p.i6))
      else none
  | 8, 0 => if p.plain then some (.adds p.head p.d p.a p.tOpt)
      else none
  | 8, 1 => if p.plain then some (.subs p.head p.d p.a p.tOpt)
      else none
  | 8, 2 => if p.plain then some (.addus p.head p.d p.a p.tOpt)
      else none
  | 8, 3 => if p.plain then some (.subus p.head p.d p.a p.tOpt)
      else none
  | _, _ => none

/-- The rows of page 2 (R189, R190). -/
def decodePage2 (p : Parts) : Option Instr :=
  match p.op.toNat, p.f.toNat with
  | 0, 0 => if p.plain && vOk p.d && vOk p.a && kOk p.t then some (.vadd p.head (p.d.setWidth 5) (p.a.setWidth 5) (p.t.setWidth 3))
      else none
  | 0, 1 => if p.plain && vOk p.d && vOk p.a && kOk p.t then some (.vsub p.head (p.d.setWidth 5) (p.a.setWidth 5) (p.t.setWidth 3))
      else none
  | 0, 2 => if p.plain && vOk p.d && vOk p.a && kOk p.t then some (.vmul p.head (p.d.setWidth 5) (p.a.setWidth 5) (p.t.setWidth 3))
      else none
  | 0, 3 => if p.plain && vOk p.d && vOk p.a && kOk p.t then some (.vmulh p.head (p.d.setWidth 5) (p.a.setWidth 5) (p.t.setWidth 3))
      else none
  | 1, 0 => if p.plain && vOk p.d && vOk p.a && kOk p.t then some (.vand p.head (p.d.setWidth 5) (p.a.setWidth 5) (p.t.setWidth 3))
      else none
  | 1, 1 => if p.plain && vOk p.d && vOk p.a && kOk p.t then some (.vor p.head (p.d.setWidth 5) (p.a.setWidth 5) (p.t.setWidth 3))
      else none
  | 1, 2 => if p.plain && vOk p.d && vOk p.a && kOk p.t then some (.vxor p.head (p.d.setWidth 5) (p.a.setWidth 5) (p.t.setWidth 3))
      else none
  | 1, 3 => if p.plain && vOk p.d && vOk p.a && kOk p.t then some (.vandn p.head (p.d.setWidth 5) (p.a.setWidth 5) (p.t.setWidth 3))
      else none
  | 2, 0 => if p.plain && vOk p.d && vOk p.a && kOk p.t then some (.vshl p.head (p.d.setWidth 5) (p.a.setWidth 5) (p.t.setWidth 3))
      else none
  | 2, 1 => if p.plain && vOk p.d && vOk p.a && kOk p.t then some (.vshr p.head (p.d.setWidth 5) (p.a.setWidth 5) (p.t.setWidth 3))
      else none
  | 2, 2 => if p.plain && vOk p.d && vOk p.a && kOk p.t then some (.vsar p.head (p.d.setWidth 5) (p.a.setWidth 5) (p.t.setWidth 3))
      else none
  | 2, 3 => if p.plain && vOk p.d && vOk p.a && kOk p.t then some (.vrol p.head (p.d.setWidth 5) (p.a.setWidth 5) (p.t.setWidth 3))
      else none
  | 3, 0 => if p.plain && vOk p.d && vOk p.a && kOk p.t then some (.vmin p.head (p.d.setWidth 5) (p.a.setWidth 5) (p.t.setWidth 3))
      else none
  | 3, 1 => if p.plain && vOk p.d && vOk p.a && kOk p.t then some (.vmax p.head (p.d.setWidth 5) (p.a.setWidth 5) (p.t.setWidth 3))
      else none
  | 3, 2 => if p.plain && vOk p.d && vOk p.a && kOk p.t then some (.vminu p.head (p.d.setWidth 5) (p.a.setWidth 5) (p.t.setWidth 3))
      else none
  | 3, 3 => if p.plain && vOk p.d && vOk p.a && kOk p.t then some (.vmaxu p.head (p.d.setWidth 5) (p.a.setWidth 5) (p.t.setWidth 3))
      else none
  | 4, 0 => if p.plainT && p.ext.toNat < 5 && vOk p.d && vOk p.a && kOk p.t then some (.vfadd p.head (p.d.setWidth 5) (p.a.setWidth 5) (p.t.setWidth 3) (p.ext.setWidth 3))
      else none
  | 4, 1 => if p.plainT && p.ext.toNat < 5 && vOk p.d && vOk p.a && kOk p.t then some (.vfsub p.head (p.d.setWidth 5) (p.a.setWidth 5) (p.t.setWidth 3) (p.ext.setWidth 3))
      else none
  | 4, 2 => if p.plainT && p.ext.toNat < 5 && vOk p.d && vOk p.a && kOk p.t then some (.vfmul p.head (p.d.setWidth 5) (p.a.setWidth 5) (p.t.setWidth 3) (p.ext.setWidth 3))
      else none
  | 4, 3 => if p.plainT && p.ext.toNat % 8 < 5 && vOk p.d && vOk p.a && vOk p.t then some (.vfma p.head (p.d.setWidth 5) (p.a.setWidth 5) (p.t.setWidth 5) (p.ext.setWidth 3) (p.ext.extractLsb' 3 2))
      else none
  | 5, 0 => if p.plain && vOk p.d && vOk p.a && kOk p.t then some (.vfmin p.head (p.d.setWidth 5) (p.a.setWidth 5) (p.t.setWidth 3))
      else none
  | 5, 1 => if p.plain && vOk p.d && vOk p.a && kOk p.t then some (.vfmax p.head (p.d.setWidth 5) (p.a.setWidth 5) (p.t.setWidth 3))
      else none
  | 5, 2 => if p.plain && vOk p.d && vOk p.a && kOk p.t then some (.vfabs p.head (p.d.setWidth 5) (p.a.setWidth 5) (p.t.setWidth 3))
      else none
  | 5, 3 => if p.plain && vOk p.d && vOk p.a && kOk p.t then some (.vfneg p.head (p.d.setWidth 5) (p.a.setWidth 5) (p.t.setWidth 3))
      else none
  | 6, 0 => if p.plainT && p.ext.toNat < 5 && vOk p.d && vOk p.a && kOk p.t then some (.vfdiv p.head (p.d.setWidth 5) (p.a.setWidth 5) (p.t.setWidth 3) (p.ext.setWidth 3))
      else none
  | 6, 1 => if p.plainT && p.ext.toNat < 5 && vOk p.d && vOk p.a && kOk p.t then some (.vfsqrt p.head (p.d.setWidth 5) (p.a.setWidth 5) (p.t.setWidth 3) (p.ext.setWidth 3))
      else none
  | 6, 2 => if p.plainT && p.ext.toNat < 5 && vOk p.d && vOk p.a && kOk p.t then some (.vfrcp p.head (p.d.setWidth 5) (p.a.setWidth 5) (p.t.setWidth 3) (p.ext.setWidth 3))
      else none
  | 6, 3 => if p.plainT && p.ext.toNat < 5 && vOk p.d && vOk p.a && kOk p.t then some (.vfrsq p.head (p.d.setWidth 5) (p.a.setWidth 5) (p.t.setWidth 3) (p.ext.setWidth 3))
      else none
  | 7, 0 => if p.plainT && kOk p.d && vOk p.a && kOk p.t then some (.vcmpEq p.head (p.d.setWidth 3) (p.a.setWidth 5) p.ext (p.t.setWidth 3))
      else none
  | 7, 1 => if p.plainT && kOk p.d && vOk p.a && kOk p.t then some (.vcmpLt p.head (p.d.setWidth 3) (p.a.setWidth 5) p.ext (p.t.setWidth 3))
      else none
  | 7, 2 => if p.plainT && kOk p.d && vOk p.a && kOk p.t then some (.vcmpLtu p.head (p.d.setWidth 3) (p.a.setWidth 5) p.ext (p.t.setWidth 3))
      else none
  | 7, 3 => if p.plainT && kOk p.d && vOk p.a && kOk p.t then some (.vcmpNe p.head (p.d.setWidth 3) (p.a.setWidth 5) p.ext (p.t.setWidth 3))
      else none
  | 8, 0 => if p.plainT && kOk p.d && vOk p.a && kOk p.t then some (.vfcmpEq p.head (p.d.setWidth 3) (p.a.setWidth 5) p.ext (p.t.setWidth 3))
      else none
  | 8, 1 => if p.plainT && kOk p.d && vOk p.a && kOk p.t then some (.vfcmpLt p.head (p.d.setWidth 3) (p.a.setWidth 5) p.ext (p.t.setWidth 3))
      else none
  | 8, 2 => if p.plainT && kOk p.d && vOk p.a && kOk p.t then some (.vfcmpLe p.head (p.d.setWidth 3) (p.a.setWidth 5) p.ext (p.t.setWidth 3))
      else none
  | 8, 3 => if p.plainT && kOk p.d && vOk p.a && kOk p.t then some (.vfcmpUn p.head (p.d.setWidth 3) (p.a.setWidth 5) p.ext (p.t.setWidth 3))
      else none
  | 9, 0 => if p.ext == 0 && vOk p.d && kOk p.t && (⟨p.ord, p.sc⟩ : Order).okAccess then some (.vld p.head (p.d.setWidth 5) p.a (p.t.setWidth 3) p.disp ⟨p.ord, p.sc⟩)
      else none
  | 9, 1 => if p.ext == 0 && vOk p.d && kOk p.t && (⟨p.ord, p.sc⟩ : Order).okAccess then some (.vst p.head (p.d.setWidth 5) p.a (p.t.setWidth 3) p.disp ⟨p.ord, p.sc⟩)
      else none
  | 9, 2 => if vOk p.d && kOk p.t && (⟨p.ord, p.sc⟩ : Order).okAccess then some (.vldg p.head (p.d.setWidth 5) p.a p.ext (p.t.setWidth 3) p.disp ⟨p.ord, p.sc⟩)
      else none
  | 9, 3 => if vOk p.d && kOk p.t && (⟨p.ord, p.sc⟩ : Order).okAccess then some (.vsts p.head (p.d.setWidth 5) p.a p.ext (p.t.setWidth 3) p.disp ⟨p.ord, p.sc⟩)
      else none
  | 10, 0 => if p.ext == 0 && vOk p.d && vOk p.a && kOk p.t && (⟨p.ord, p.sc⟩ : Order).okAccess then some (.vldl p.head (p.d.setWidth 5) (p.a.setWidth 5) (p.t.setWidth 3) p.disp ⟨p.ord, p.sc⟩)
      else none
  | 10, 1 => if p.ext == 0 && vOk p.d && vOk p.a && kOk p.t && (⟨p.ord, p.sc⟩ : Order).okAccess then some (.vstl p.head (p.d.setWidth 5) (p.a.setWidth 5) (p.t.setWidth 3) p.disp ⟨p.ord, p.sc⟩)
      else none
  | 10, 2 => if p.plain && vOk p.d && kOk p.t then some (.vbcst p.head (p.d.setWidth 5) p.a (p.t.setWidth 3))
      else none
  | 10, 3 => if p.plainT && p.t == 0 && p.ext.toNat < 16 && vOk p.a then some (.vext p.head p.d (p.a.setWidth 5) (p.ext.setWidth 3) (p.ext.getLsbD 3))
      else none
  | 11, 0 => if p.plainT && vOk p.d && vOk p.a && kOk p.t then some (.vsel p.head (p.d.setWidth 5) (p.a.setWidth 5) p.ext (p.t.setWidth 3))
      else none
  | 11, 1 => if p.plain && vOk p.d && vOk p.a && kOk p.t then some (.vperm p.head (p.d.setWidth 5) (p.a.setWidth 5) (p.t.setWidth 3))
      else none
  | 11, 2 => if p.plainT && p.ext.toNat < 8 && vOk p.d && vOk p.a && kOk p.t then some (.vlrot p.head (p.d.setWidth 5) (p.a.setWidth 5) (p.ext.setWidth 3) (p.t.setWidth 3))
      else none
  | 11, 3 => if p.plain && vOk p.d && vOk p.a && kOk p.t then some (.vmov p.head (p.d.setWidth 5) (p.a.setWidth 5) (p.t.setWidth 3))
      else none
  | 12, 0 => if p.plain && vOk p.a && kOk p.t then some (.vradd p.head p.d (p.a.setWidth 5) (p.t.setWidth 3))
      else none
  | 12, 1 => if p.plainT && p.ext.toNat < 5 && vOk p.a && kOk p.t then some (.vrfadd p.head p.d (p.a.setWidth 5) (p.t.setWidth 3) (p.ext.setWidth 3))
      else none
  | 12, 2 => if p.plain && vOk p.a && kOk p.t then some (.vrmax p.head p.d (p.a.setWidth 5) (p.t.setWidth 3))
      else none
  | 12, 3 => if p.plain && vOk p.a && kOk p.t then some (.vrmin p.head p.d (p.a.setWidth 5) (p.t.setWidth 3))
      else none
  | 13, 0 => if p.plain && kOk p.d && kOk p.a && kOk p.t then some (.kand p.head (p.d.setWidth 3) (p.a.setWidth 3) (p.tOpt.map (·.setWidth 3)))
      else none
  | 13, 1 => if p.plain && kOk p.d && kOk p.a && kOk p.t then some (.kor p.head (p.d.setWidth 3) (p.a.setWidth 3) (p.tOpt.map (·.setWidth 3)))
      else none
  | 13, 2 => if p.plain && kOk p.d && kOk p.a && kOk p.t then some (.kxor p.head (p.d.setWidth 3) (p.a.setWidth 3) (p.tOpt.map (·.setWidth 3)))
      else none
  | 13, 3 => if p.plain && p.t == 0 && kOk p.d && kOk p.a then some (.knot p.head (p.d.setWidth 3) (p.a.setWidth 3))
      else none
  | 14, 0 => if p.plain && p.t == 0 && kOk p.a then some (.kany p.head p.d (p.a.setWidth 3))
      else none
  | 14, 1 => if p.plain && p.t == 0 && kOk p.a then some (.kall p.head p.d (p.a.setWidth 3))
      else none
  | 14, 2 => if p.plain && p.t == 0 && kOk p.a then some (.kcnt p.head p.d (p.a.setWidth 3))
      else none
  | 14, 3 => if p.plain && p.t == 0 && kOk p.a then some (.kfirst p.head p.d (p.a.setWidth 3))
      else none
  | 15, 0 => if p.plain && p.t == 0 && kOk p.d then some (.kmov p.head (p.d.setWidth 3) p.a)
      else none
  | 15, 1 => if p.plain && p.t == 0 && kOk p.a then some (.kmovx p.head p.d (p.a.setWidth 3))
      else none
  | 15, 2 => if p.plainT && vOk p.d && vOk p.a && kOk p.t && cvtOk (p.d.setWidth 5) (p.a.setWidth 5) (p.t.setWidth 3) (p.ext.setWidth 4) (p.ext.getLsbD 4) then some (.vcvt p.head (p.d.setWidth 5) (p.a.setWidth 5) (p.t.setWidth 3) (p.ext.setWidth 4) (p.ext.getLsbD 4))
      else none
  | 15, 3 => if p.plainT && p.ext.toNat < 16 && vOk p.d && vOk p.a && kOk p.t && p.ext.toNat < 13 then some (.vcvts p.head (p.d.setWidth 5) (p.a.setWidth 5) (p.t.setWidth 3) (p.ext.setWidth 4))
      else none
  | 16, 0 => if p.plainT && p.ext.toNat < 16 && vOk p.d && vOk p.a && kOk p.t && qntOk (p.d.setWidth 5) (p.a.setWidth 5) (p.t.setWidth 3) (p.ext.setWidth 4) then some (.vqnt p.head (p.d.setWidth 5) (p.a.setWidth 5) (p.t.setWidth 3) (p.ext.setWidth 4))
      else none
  | 16, 1 => if p.plainT && p.ext.toNat < 16 && vOk p.d && vOk p.a && kOk p.t && affine (p.ext.setWidth 4) && even (p.d.setWidth 5) then some (.vdqnt p.head (p.d.setWidth 5) (p.a.setWidth 5) (p.t.setWidth 3) (p.ext.setWidth 4))
      else none
  | 16, 2 => if p.ord == 0 && p.sc == 0 && p.ext.toNat < 2 && vOk p.d && kOk p.t then some (.vresc p.head (p.d.setWidth 5) p.a (p.t.setWidth 3) p.disp (p.ext.getLsbD 0))
      else none
  | 16, 3 => if p.plainT && p.ext.toNat < 16 && vOk p.d && vOk p.a && kOk p.t && affine (p.ext.setWidth 4) && even (p.d.setWidth 5) && even (p.a.setWidth 5) then some (.vscal p.head (p.d.setWidth 5) (p.a.setWidth 5) (p.t.setWidth 3) (p.ext.setWidth 4))
      else none
  | 17, 0 => if p.plainT && p.t == 0 && vOk p.d && vOk p.a && p.ext.toNat % 4 != 3 && decide (p.ext.toNat / 4 < 2 ^ (p.ext.toNat % 4 + 1)) then some (.vpack p.head (p.d.setWidth 5) (p.a.setWidth 5) (p.ext.setWidth 2) (p.ext.extractLsb' 2 3))
      else none
  | 17, 1 => if p.plainT && p.t == 0 && vOk p.d && vOk p.a && p.ext.toNat % 4 != 3 && decide (p.ext.toNat / 4 < 2 ^ (p.ext.toNat % 4 + 1)) then some (.vunpk p.head (p.d.setWidth 5) (p.a.setWidth 5) (p.ext.setWidth 2) (p.ext.extractLsb' 2 3))
      else none
  | _, _ => none

/-- The rows of page 3 (R189, R190). -/
def decodePage3 (p : Parts) : Option Instr :=
  match p.op.toNat, p.f.toNat with
  | 0, _ => if p.plain && p.d.toNat < 16 && p.a.toNat < 16 then some (.tmmaF32 p.head (p.d.extractLsb' 2 2) (p.d.extractLsb' 0 2 ++ p.a.extractLsb' 3 1) (p.a.setWidth 3) (p.f.getLsbD 0) (p.f.getLsbD 1) p.tOpt)
      else none
  | 1, _ => if p.plain && p.d.toNat < 16 && p.a.toNat < 16 then some (.tmmaBf p.head (p.d.extractLsb' 2 2) (p.d.extractLsb' 0 2 ++ p.a.extractLsb' 3 1) (p.a.setWidth 3) (p.f.getLsbD 0) (p.f.getLsbD 1) p.tOpt)
      else none
  | 2, _ => if p.plain && p.d.toNat < 16 && p.a.toNat < 16 then some (.tmmaH p.head (p.d.extractLsb' 2 2) (p.d.extractLsb' 0 2 ++ p.a.extractLsb' 3 1) (p.a.setWidth 3) (p.f.getLsbD 0) (p.f.getLsbD 1) p.tOpt)
      else none
  | 3, _ => if p.plainT && p.ext.toNat < 2 && p.d.toNat < 16 && p.a.toNat < 16 then some (.tmmaHb p.head (p.d.extractLsb' 2 2) (p.d.extractLsb' 0 2 ++ p.a.extractLsb' 3 1) (p.a.setWidth 3) (p.f.getLsbD 0) (p.f.getLsbD 1) p.tOpt (p.ext.getLsbD 0))
      else none
  | 4, _ => if p.plain && p.d.toNat < 16 && p.a.toNat < 16 then some (.tmmaE4 p.head (p.d.extractLsb' 2 2) (p.d.extractLsb' 0 2 ++ p.a.extractLsb' 3 1) (p.a.setWidth 3) (p.f.getLsbD 0) (p.f.getLsbD 1) p.tOpt)
      else none
  | 5, _ => if p.plain && p.d.toNat < 16 && p.a.toNat < 16 then some (.tmmaE5 p.head (p.d.extractLsb' 2 2) (p.d.extractLsb' 0 2 ++ p.a.extractLsb' 3 1) (p.a.setWidth 3) (p.f.getLsbD 0) (p.f.getLsbD 1) p.tOpt)
      else none
  | 6, _ => if p.plainT && p.ext.toNat < 2 && p.d.toNat < 16 && p.a.toNat < 16 then some (.tmmaE45 p.head (p.d.extractLsb' 2 2) (p.d.extractLsb' 0 2 ++ p.a.extractLsb' 3 1) (p.a.setWidth 3) (p.f.getLsbD 0) (p.f.getLsbD 1) p.tOpt (p.ext.getLsbD 0))
      else none
  | 7, _ => if p.plain && p.d.toNat < 16 && p.a.toNat < 16 then some (.tmmaE3 p.head (p.d.extractLsb' 2 2) (p.d.extractLsb' 0 2 ++ p.a.extractLsb' 3 1) (p.a.setWidth 3) (p.f.getLsbD 0) (p.f.getLsbD 1) p.tOpt)
      else none
  | 8, _ => if p.plain && p.d.toNat < 16 && p.a.toNat < 16 then some (.tmmaE2 p.head (p.d.extractLsb' 2 2) (p.d.extractLsb' 0 2 ++ p.a.extractLsb' 3 1) (p.a.setWidth 3) (p.f.getLsbD 0) (p.f.getLsbD 1) p.tOpt)
      else none
  | 9, _ => if p.plain && p.d.toNat < 16 && p.a.toNat < 16 then some (.tmmaE1 p.head (p.d.extractLsb' 2 2) (p.d.extractLsb' 0 2 ++ p.a.extractLsb' 3 1) (p.a.setWidth 3) (p.f.getLsbD 0) (p.f.getLsbD 1) p.tOpt)
      else none
  | 10, _ => if p.plainT && p.ext.toNat < 2 && p.d.toNat < 16 && p.a.toNat < 16 then some (.tmmaI8 p.head (p.d.extractLsb' 2 2) (p.d.extractLsb' 0 2 ++ p.a.extractLsb' 3 1) (p.a.setWidth 3) (p.f.getLsbD 0) (p.f.getLsbD 1) p.tOpt (p.ext.getLsbD 0))
      else none
  | 11, _ => if p.plain && p.d.toNat < 16 && p.a.toNat < 16 then some (.tmmaIz8 p.head (p.d.extractLsb' 2 2) (p.d.extractLsb' 0 2 ++ p.a.extractLsb' 3 1) (p.a.setWidth 3) (p.f.getLsbD 0) (p.f.getLsbD 1) p.tOpt)
      else none
  | 12, _ => if p.plain && p.d.toNat < 16 && p.a.toNat < 16 then some (.tmmaI4 p.head (p.d.extractLsb' 2 2) (p.d.extractLsb' 0 2 ++ p.a.extractLsb' 3 1) (p.a.setWidth 3) (p.f.getLsbD 0) (p.f.getLsbD 1) p.tOpt)
      else none
  | 13, _ => if p.plain && p.d.toNat < 16 && p.a.toNat < 16 then some (.tmmaIz4 p.head (p.d.extractLsb' 2 2) (p.d.extractLsb' 0 2 ++ p.a.extractLsb' 3 1) (p.a.setWidth 3) (p.f.getLsbD 0) (p.f.getLsbD 1) p.tOpt)
      else none
  | 14, 0 => if p.plain && p.t == 0 && p.a.toNat < 16 then some (.tcommit p.head p.d (p.a.setWidth 4))
      else none
  | 14, 1 => if p.plain && p.t == 0 then some (.twaitb p.head p.d p.a)
      else none
  | 14, 2 => if p.plain && p.t == 0 then some (.tbatq p.head p.d p.a)
      else none
  | 15, 0 => if p.plainI && accOk p.d then some (.tlda p.head (p.d.setWidth 2) p.a p.tOpt p.disp)
      else none
  | 15, 1 => if p.plainI && accOk p.d then some (.tsta p.head (p.d.setWidth 2) p.a p.tOpt p.disp)
      else if p.ord == 0 && p.sc == 0 && accOk p.d && p.shape.contains .trx && p.ext.extractLsb' 2 3 == 0 && p.ext.getLsbD 0 then some (.tstaQ p.head (p.d.setWidth 2) p.a p.t p.disp (p.ext.getLsbD 1))
      else none
  | 15, 2 => if p.plain && p.t == 0 && accOk p.d && p.a.toNat < 16 then some (.tzero p.head (p.d.setWidth 2) (p.a.setWidth 4))
      else none
  | 15, 3 => if p.plain && p.t == 0 && p.a.toNat < 16 then some (.taccq p.head p.d (p.a.setWidth 4))
      else none
  | 16, 0 => if p.plain && p.t == 0 && kOk p.d then some (.rcfg p.head (p.d.setWidth 3) p.a)
      else none
  | 16, 1 => if p.plain && p.t == 0 && kOk p.d && p.a.toNat < 16 then some (.rpush p.head (p.d.setWidth 3) (p.a.setWidth 4))
      else none
  | 16, 2 => if p.plain && p.t == 0 && kOk p.a then some (.rpos p.head p.d (p.a.setWidth 3))
      else none
  | 16, 3 => if p.plain && p.t == 0 && kOk p.d && p.a.toNat < 16 then some (.rrst p.head (p.d.setWidth 3) (p.a.setWidth 4))
      else none
  | 17, _ => if p.plain && p.t == 0 && p.a.toNat < 16 then some (.tgeo p.head p.d (BitVec.ofNat 6 p.i6))
      else none
  | _, _ => none

/-- The rows of page 4 (R189, R190). -/
def decodePage4 (p : Parts) : Option Instr :=
  match p.op.toNat, p.f.toNat with
  | 0, 0 => if p.plain && p.t == 0 && p.d == 0 then some (.psel p.head p.a)
      else none
  | 0, 1 => if p.plain && p.t == 0 then some (.pstat p.head p.d p.a)
      else none
  | 0, 2 => if p.plain && p.t == 0 then some (.pgain p.head p.d p.a)
      else none
  | 0, 3 => if p.plain && p.t == 0 && p.a == 0 then some (.pserial p.head p.d)
      else none
  | 1, 0 => if p.plain && p.t == 0 && p.d == 0 then some (.phld p.head p.a)
      else none
  | 1, 1 => if p.plain && p.t == 0 && p.d == 0 && p.a == 0 then some (.phsw p.head)
      else none
  | 1, 2 => if p.plain && p.t == 0 then some (.phrd p.head p.d p.a)
      else none
  | 1, 3 => if p.plain && p.t == 0 then some (.phwr p.head p.d p.a)
      else none
  | 2, 0 => if p.plain && p.t == 0 then some (.pdec p.head p.d p.a)
      else none
  | 2, 1 => if p.plain && p.t == 0 then some (.pdecq p.head p.d p.a)
      else none
  | 3, 0 => if p.plain && p.t == 0 && p.d == 0 then some (.ppass p.head p.a)
      else none
  | 3, 1 => if p.plain && p.t == 0 && p.d == 0 then some (.ppassa p.head p.a)
      else none
  | 3, 2 => if p.plain && p.t == 0 && p.a == 0 then some (.pflush p.head p.d)
      else none
  | 3, 3 => if p.plain && p.t == 0 then some (.pwait p.head p.d p.a)
      else none
  | 4, 0 => if p.plain && p.t == 0 && p.d == 0 && p.a == 0 then some (.pprobe p.head)
      else none
  | 4, 1 => if p.plain && p.t == 0 then some (.ptrim p.head p.d p.a)
      else none
  | 4, 2 => if p.plain && p.t == 0 then some (.ploop p.head p.d p.a)
      else none
  | 4, 3 => if p.plain && p.t == 0 && p.d == 0 then some (.pcal p.head p.a)
      else none
  | _, _ => none

/-- The rows of page 5 (R189, R190). -/
def decodePage5 (p : Parts) : Option Instr :=
  match p.op.toNat, p.f.toNat with
  | 0, 0 => if p.plain && p.t == 0 && p.d == 10 && p.a == 0 then some (.pair p.head)
      else none
  | 0, 1 => if p.plain && p.t == 0 && p.d == 10 && p.a == 0 then some (.pairn p.head)
      else none
  | 0, 2 => if p.plain && p.t == 0 && p.d == 0 then some (.pushp p.head p.a)
      else none
  | 0, 3 => if p.plain && p.t == 0 && p.a == 0 then some (.pondq p.head p.d)
      else none
  | 1, 0 => if p.plain && p.t == 0 && p.a == 0 then some (.nalloc p.head p.d)
      else none
  | 1, 1 => if p.plain && p.t == 0 && p.a == 0 then some (.walloc p.head p.d)
      else none
  | 1, 2 => if p.plain && p.t == 0 && p.d == 0 then some (.nfree p.head p.a)
      else none
  | 1, 3 => if p.plain && p.t == 0 && p.d == 0 then some (.wfree p.head p.a)
      else none
  | 2, _ => if p.plain && p.t == 0 then some (.nld p.head p.d p.a p.f)
      else none
  | 3, _ => if p.plain && p.t == 0 then some (.nst p.head p.d p.a p.f)
      else none
  | 4, 0 => if p.plain && p.t == 0 then some (.wset p.head p.d p.a)
      else none
  | 4, 1 => if p.plain && p.t == 0 then some (.wrepl p.head p.d p.a)
      else none
  | 4, 2 => if p.plain && p.t == 0 then some (.wsplice p.head p.d p.a)
      else none
  | 4, 3 => if p.plain && p.t == 0 then some (.wres p.head p.d p.a)
      else none
  | 5, 0 => if p.plain && p.t == 0 && p.d == 0 && p.a == 0 then some (.retire p.head)
      else none
  | 5, 1 => if p.plain && p.t == 0 then some (.rule p.head p.d p.a)
      else none
  | 5, 2 => if p.plain && p.t == 0 && p.d == 0 && p.a == 0 then some (.yieldp p.head)
      else none
  | 5, 3 => if p.plain && p.t == 0 && p.d == 0 then some (.engw p.head p.a)
      else none
  | 6, 0 => if p.plain && p.t == 0 then some (.nrdm p.head p.d p.a)
      else none
  | 6, 1 => if p.plain && p.t == 0 then some (.nval p.head p.d p.a)
      else none
  | _, _ => none

/-- The rows of page 6 (R189, R190). -/
def decodePage6 (p : Parts) : Option Instr :=
  match p.op.toNat, p.f.toNat with
  | 0, 0 => if p.ext == 0 && p.ord != 3 && (⟨p.ord, p.sc⟩ : Order).okAccess then some (.tldn p.head p.d p.a p.disp p.t ⟨p.ord, p.sc⟩)
      else none
  | 0, 1 => if p.ext == 0 && p.ord.toNat < 2 && (⟨p.ord, p.sc⟩ : Order).okAccess then some (.tldg p.head p.d p.a p.disp p.t ⟨p.ord, p.sc⟩)
      else none
  | 0, 2 => if p.plain && p.t == 0 && p.d == 0 then some (.tkdrop p.head p.a)
      else none
  | 1, 0 => if p.ext.toNat < 2 && p.t == 0 && (⟨p.ord, p.sc⟩ : Order).okAccess then some (.amoAdd p.head p.d p.a p.disp (p.ext.getLsbD 0) ⟨p.ord, p.sc⟩)
      else none
  | 1, 1 => if p.ext.toNat < 2 && p.t == 0 && (⟨p.ord, p.sc⟩ : Order).okAccess then some (.amoAnd p.head p.d p.a p.disp (p.ext.getLsbD 0) ⟨p.ord, p.sc⟩)
      else none
  | 1, 2 => if p.ext.toNat < 2 && p.t == 0 && (⟨p.ord, p.sc⟩ : Order).okAccess then some (.amoOr p.head p.d p.a p.disp (p.ext.getLsbD 0) ⟨p.ord, p.sc⟩)
      else none
  | 1, 3 => if p.ext.toNat < 2 && p.t == 0 && (⟨p.ord, p.sc⟩ : Order).okAccess then some (.amoXor p.head p.d p.a p.disp (p.ext.getLsbD 0) ⟨p.ord, p.sc⟩)
      else none
  | 2, 0 => if p.ext.toNat < 4 && p.t == 0 && (⟨p.ord, p.sc⟩ : Order).okAccess then some (.amoMin p.head p.d p.a p.disp (p.ext.getLsbD 0) (p.ext.getLsbD 1) ⟨p.ord, p.sc⟩)
      else none
  | 2, 1 => if p.ext.toNat < 4 && p.t == 0 && (⟨p.ord, p.sc⟩ : Order).okAccess then some (.amoMax p.head p.d p.a p.disp (p.ext.getLsbD 0) (p.ext.getLsbD 1) ⟨p.ord, p.sc⟩)
      else none
  | 2, 2 => if p.ext.toNat < 2 && p.t == 0 && (⟨p.ord, p.sc⟩ : Order).okAccess then some (.amoSwap p.head p.d p.a p.disp (p.ext.getLsbD 0) ⟨p.ord, p.sc⟩)
      else none
  | 2, 3 => if p.ext.toNat < 2 && (⟨p.ord, p.sc⟩ : Order).okAccess then some (.amoCas p.head p.d p.a p.t p.disp (p.ext.getLsbD 0) ⟨p.ord, p.sc⟩)
      else none
  | 3, 0 => if p.ext == 0 && p.t == 0 && (⟨p.ord, p.sc⟩ : Order).okAccess then some (.famoAdd p.head p.d p.a p.disp ⟨p.ord, p.sc⟩)
      else none
  | 3, 1 => if p.ext == 0 && p.t == 0 && (⟨p.ord, p.sc⟩ : Order).okAccess then some (.famoAdd2 p.head p.d p.a p.disp ⟨p.ord, p.sc⟩)
      else none
  | 3, 2 => if p.ext == 0 && p.t == 0 && (⟨p.ord, p.sc⟩ : Order).okAccess then some (.famoMax p.head p.d p.a p.disp ⟨p.ord, p.sc⟩)
      else none
  | 3, 3 => if p.ext == 0 && p.t == 0 && (⟨p.ord, p.sc⟩ : Order).okAccess then some (.famoMin p.head p.d p.a p.disp ⟨p.ord, p.sc⟩)
      else none
  | 4, 0 => if p.plain then some (.msg p.head p.d p.a p.t)
      else none
  | 4, 1 => if p.plain then some (.callat p.head p.d p.a p.t)
      else none
  | 4, 2 => if p.plain && p.t == 0 && p.d == 0 && p.a == 0 then some (.mret p.head)
      else none
  | 4, 3 => if p.plain && p.t == 0 && p.d == 0 && p.a == 0 then some (.hret p.head)
      else none
  | 5, 0 => if p.plain && p.t == 0 && p.d == 0 then some (.clsm p.head p.a)
      else none
  | 5, 1 => if p.plain && p.t == 0 && p.d == 0 then some (.clsu p.head p.a)
      else none
  | 5, 2 => if p.plain && p.t == 0 then some (.mclose p.head p.d p.a)
      else none
  | 5, 3 => if p.plain && p.t == 0 then some (.mpoll p.head p.d p.a)
      else none
  | 6, 0 => if p.plain && p.t == 0 && p.a.toNat < 7 then some (.cpset p.head p.d (p.a.setWidth 3))
      else none
  | 6, 1 => if p.plain && p.t == 0 && p.a == 0 then some (.cpgo p.head p.d)
      else none
  | 6, 2 => if p.plain && p.t == 0 then some (.cpwait p.head p.d p.a)
      else none
  | 6, 3 => if p.plain && p.t == 0 then some (.cpq p.head p.d p.a)
      else none
  | 7, 0 => if p.plain && p.t == 0 then some (.cshape p.head p.d p.a)
      else none
  | 7, 1 => if p.plain && p.t == 0 then some (.cpmc p.head p.d p.a)
      else none
  | 8, 0 => if p.plain && p.t == 0 then some (.gred p.head p.d p.a)
      else none
  | 8, 1 => if p.plain && p.t == 0 then some (.gbc p.head p.d p.a)
      else none
  | 9, 0 => if p.plain && p.t == 0 then some (.dsend p.head p.d p.a)
      else none
  | 9, 1 => if p.plain && p.t == 0 then some (.dpoll p.head p.d p.a)
      else none
  | 9, 2 => if p.plain && p.t == 0 then some (.dslot p.head p.d p.a)
      else none
  | 9, 3 => if p.plain && p.t == 0 then some (.dsig p.head p.d p.a)
      else none
  | _, _ => none

/-- The rows of page 7 (R189, R190). -/
def decodePage7 (p : Parts) : Option Instr :=
  match p.op.toNat, p.f.toNat with
  | 0, 0 => if p.plain && p.t == 0 && p.d == 0 && p.a == 1 then some (.rft p.head)
      else if p.plain && p.t == 0 && p.d == 0 && p.a == 2 then some (.rftNext p.head)
      else none
  | 0, 1 => if p.plainI && p.t == 0 then some (.trrec p.head p.d p.a p.disp)
      else none
  | 1, 0 => if p.plainI && p.t == 0 then some (.mfp p.head p.d p.a p.disp)
      else none
  | 1, 1 => if p.plainI && p.t == 0 then some (.mtp p.head p.d p.a p.disp)
      else none
  | 2, 0 => if p.plain && p.t == 0 then some (.tlbi p.head p.d p.a)
      else none
  | 2, 1 => if p.plain && p.t == 0 && p.d == 0 then some (.tlbia p.head p.a)
      else none
  | 2, 2 => if p.plain && p.t == 0 && p.d == 0 then some (.xbset p.head p.a)
      else none
  | 3, 0 => if p.plainI && p.t == 0 && p.d == 0 then some (.cflush p.head p.a p.disp)
      else none
  | 3, 1 => if p.plainI && p.t == 0 && p.d == 0 then some (.cinv p.head p.a p.disp)
      else none
  | 3, 2 => if p.plainI && p.t == 0 && p.d == 0 then some (.czero p.head p.a p.disp)
      else none
  | 4, 0 => if p.plain && p.t == 0 && p.d == 0 then some (.dstop p.head p.a)
      else none
  | 4, 1 => if p.plain && p.t == 0 && p.d == 0 then some (.trmark p.head p.a)
      else none
  | 4, 2 => if p.plain && p.t == 0 then some (.evsel p.head p.d p.a)
      else none
  | 4, 3 => if p.plain && p.t == 0 then some (.evrd p.head p.d p.a)
      else none
  | 5, 0 => if p.plain then some (.rpcapCapture p.head p.d p.a p.t)
      else none
  | 5, 1 => if p.plain && p.t == 0 then some (.rpstat p.head p.d p.a)
      else none
  | 6, 0 => if p.plain && p.t == 0 then some (.tpert p.head p.d p.a)
      else none
  | 6, 1 => if p.plainI && p.t == 0 then some (.inj p.head p.d p.a p.disp)
      else none
  | 7, 0 => if p.plain && p.t == 0 then some (.pwrf p.head p.d p.a)
      else none
  | _, _ => none

/-- The instruction with these parts, if R181 refuses none of them. -/
def decodeParts (p : Parts) : Option Instr :=
  match p.page.toNat with
  | 0 => decodePage0 p
  | 1 => decodePage1 p
  | 2 => decodePage2 p
  | 3 => decodePage3 p
  | 4 => decodePage4 p
  | 5 => decodePage5 p
  | 6 => decodePage6 p
  | _ => decodePage7 p

/-- Decodes the instruction at the front of the words (R180): the instruction and its length in bytes. -/
def decodeWords (ws : List W16) : Except DecodeError (Instr × Nat) :=
  match parse Parts.empty ws with
  | .error e => .error e
  | .ok p =>
    match decodeParts p with
    | some i => .ok (i, p.head.len)
    | none => .error .badInstruction

/-- Words from bytes, little-endian (R2). A last odd byte is dropped. -/
def wordsOfBytes : List Byte → List W16
  | lo :: hi :: r => (hi ++ lo : W16) :: wordsOfBytes r
  | _ => []

/-- Bytes of words, little-endian (R2). -/
def bytesOfWords : List W16 → List Byte
  | [] => []
  | w :: r => w.extractLsb' 0 8 :: w.extractLsb' 8 8 :: bytesOfWords r

/-- Decodes the instruction at the front of any bytes. -/
def decode (bs : List Byte) : Except DecodeError (Instr × Nat) := decodeWords (wordsOfBytes bs)

/-- The instruction that the decoder reads from a table word (log 5): spec/opcode_table.json numbers a 32-bit row
with its PGX word, which stands first in memory, in bits [31:16]. -/
def decodeTableWord (nbits w : Nat) : Option Instr :=
  let ws := if nbits ≤ 16 then [BitVec.ofNat 16 w] else [BitVec.ofNat 16 (w / 65536), BitVec.ofNat 16 w]
  match decode (bytesOfWords ws) with
  | .ok (i, _) => some i
  | .error _ => none

end

/-! ### The encoder, from the same tables -/

/-- The parts of an instruction; an event has none. -/
def Instr.parts : Instr → Option Parts
  | .ill h d a => some { Parts.base h 0 0 0 with d := d, a := a }
  | .nop h => some (Parts.base h 0 0 1)
  | .tick h => some (Parts.base h 0 0 2)
  | .halt h => some (Parts.base h 0 0 3)
  | .mov h d a => some { Parts.base h 0 1 0 with d := d, a := a }
  | .not h d a => some { Parts.base h 0 1 1 with d := d, a := a }
  | .neg h d a => some { Parts.base h 0 1 2 with d := d, a := a }
  | .clz h d a => some { Parts.base h 0 1 3 with d := d, a := a }
  | .add h d a t => some { Parts.base h 0 2 0 with d := d, a := a, t := t.getD 0 }
  | .sub h d a t => some { Parts.base h 0 2 1 with d := d, a := a, t := t.getD 0 }
  | .and h d a t => some { Parts.base h 0 2 2 with d := d, a := a, t := t.getD 0 }
  | .or h d a t => some { Parts.base h 0 2 3 with d := d, a := a, t := t.getD 0 }
  | .xor h d a t => some { Parts.base h 0 3 0 with d := d, a := a, t := t.getD 0 }
  | .shl h d a t => some { Parts.base h 0 3 1 with d := d, a := a, t := t.getD 0 }
  | .shr h d a t => some { Parts.base h 0 3 2 with d := d, a := a, t := t.getD 0 }
  | .sar h d a t => some { Parts.base h 0 3 3 with d := d, a := a, t := t.getD 0 }
  | .min h d a t => some { Parts.base h 0 4 0 with d := d, a := a, t := t.getD 0 }
  | .max h d a t => some { Parts.base h 0 4 1 with d := d, a := a, t := t.getD 0 }
  | .minu h d a t => some { Parts.base h 0 4 2 with d := d, a := a, t := t.getD 0 }
  | .maxu h d a t => some { Parts.base h 0 4 3 with d := d, a := a, t := t.getD 0 }
  | .seq h d a t => some { Parts.base h 0 5 0 with d := d, a := a, t := t.getD 0 }
  | .sne h d a t => some { Parts.base h 0 5 1 with d := d, a := a, t := t.getD 0 }
  | .slt h d a t => some { Parts.base h 0 5 2 with d := d, a := a, t := t.getD 0 }
  | .sltu h d a t => some { Parts.base h 0 5 3 with d := d, a := a, t := t.getD 0 }
  | .mul h d a t => some { Parts.base h 0 6 0 with d := d, a := a, t := t.getD 0 }
  | .mulh h d a t => some { Parts.base h 0 6 1 with d := d, a := a, t := t.getD 0 }
  | .mulhu h d a t => some { Parts.base h 0 6 2 with d := d, a := a, t := t.getD 0 }
  | .popc h d a => some { Parts.base h 0 6 3 with d := d, a := a }
  | .div h d a t => some { Parts.base h 0 7 0 with d := d, a := a, t := t.getD 0 }
  | .divu h d a t => some { Parts.base h 0 7 1 with d := d, a := a, t := t.getD 0 }
  | .rem h d a t => some { Parts.base h 0 7 2 with d := d, a := a, t := t.getD 0 }
  | .remu h d a t => some { Parts.base h 0 7 3 with d := d, a := a, t := t.getD 0 }
  | .addi h d imm => some (({ Parts.base h 0 8 0 with d := d }).setI6 h.nImx imm.toNat)
  | .li h d imm => some (({ Parts.base h 0 9 0 with d := d }).setI6 h.nImx imm.toNat)
  | .andi h d imm => some (({ Parts.base h 0 10 0 with d := d }).setI6 h.nImx imm.toNat)
  | .shli h d n => some (({ Parts.base h 0 11 0 with d := d }).setI6 0 n.toNat)
  | .shri h d n => some (({ Parts.base h 0 12 0 with d := d }).setI6 0 n.toNat)
  | .sari h d n => some (({ Parts.base h 0 13 0 with d := d }).setI6 0 n.toNat)
  | .ldB h d a disp o => some { Parts.base h 0 14 0 with d := d, a := a, ord := o.ord, sc := o.sc, imx := immBytes h.nImx disp.toNat }
  | .ldH h d a disp o => some { Parts.base h 0 14 1 with d := d, a := a, ord := o.ord, sc := o.sc, imx := immBytes h.nImx disp.toNat }
  | .ldW h d a disp o => some { Parts.base h 0 14 2 with d := d, a := a, ord := o.ord, sc := o.sc, imx := immBytes h.nImx disp.toNat }
  | .ldD h d a disp o => some { Parts.base h 0 14 3 with d := d, a := a, ord := o.ord, sc := o.sc, imx := immBytes h.nImx disp.toNat }
  | .ldzB h d a disp o => some { Parts.base h 0 15 0 with d := d, a := a, ord := o.ord, sc := o.sc, imx := immBytes h.nImx disp.toNat }
  | .ldzH h d a disp o => some { Parts.base h 0 15 1 with d := d, a := a, ord := o.ord, sc := o.sc, imx := immBytes h.nImx disp.toNat }
  | .ldzW h d a disp o => some { Parts.base h 0 15 2 with d := d, a := a, ord := o.ord, sc := o.sc, imx := immBytes h.nImx disp.toNat }
  | .stB h d a disp o => some { Parts.base h 0 16 0 with d := d, a := a, ord := o.ord, sc := o.sc, imx := immBytes h.nImx disp.toNat }
  | .stH h d a disp o => some { Parts.base h 0 16 1 with d := d, a := a, ord := o.ord, sc := o.sc, imx := immBytes h.nImx disp.toNat }
  | .stW h d a disp o => some { Parts.base h 0 16 2 with d := d, a := a, ord := o.ord, sc := o.sc, imx := immBytes h.nImx disp.toNat }
  | .stD h d a disp o => some { Parts.base h 0 16 3 with d := d, a := a, ord := o.ord, sc := o.sc, imx := immBytes h.nImx disp.toNat }
  | .tld8 h d a disp t o => some { Parts.base h 0 17 0 with d := d, a := a, t := t, ord := o.ord, sc := o.sc, imx := immBytes h.nImx disp.toNat }
  | .tld32 h d a disp t o => some { Parts.base h 0 17 1 with d := d, a := a, t := t, ord := o.ord, sc := o.sc, imx := immBytes h.nImx disp.toNat }
  | .tld64 h d a disp t o => some { Parts.base h 0 17 2 with d := d, a := a, t := t, ord := o.ord, sc := o.sc, imx := immBytes h.nImx disp.toNat }
  | .tld256 h d a disp t o => some { Parts.base h 0 17 3 with d := d, a := a, t := t, ord := o.ord, sc := o.sc, imx := immBytes h.nImx disp.toNat }
  | .rdm h d a => some { Parts.base h 0 18 0 with d := d, a := a }
  | .rdmV h d a => some { Parts.base h 0 18 1 with d := d.setWidth 6, a := a }
  | .rdmS h d a disp => some { Parts.base h 0 18 2 with d := d, a := a, imx := immBytes h.nImx disp.toNat }
  | .tkq h d a => some { Parts.base h 0 18 3 with d := d, a := a }
  | .br h off => some ((Parts.base h 0 19 0).setI10 h.nImx off.toNat)
  | .call h off => some ((Parts.base h 0 20 0).setI10 h.nImx off.toNat)
  | .bz h d imm => some (({ Parts.base h 0 21 0 with d := d }).setI6 h.nImx imm.toNat)
  | .bnz h d imm => some (({ Parts.base h 0 22 0 with d := d }).setI6 h.nImx imm.toNat)
  | .loop h d imm => some (({ Parts.base h 0 23 0 with d := d }).setI6 h.nImx imm.toNat)
  | .jr h a => some { Parts.base h 0 24 0 with a := a }
  | .callr h a => some { Parts.base h 0 24 1 with a := a }
  | .ret h => some (Parts.base h 0 24 2)
  | .jtab h d a n => some { Parts.base h 0 24 3 with d := d, a := a, imx := immBytes h.nImx n.toNat }
  | .mfs h d n => some (({ Parts.base h 0 25 0 with d := d }).setI6 h.nImx n.toNat)
  | .mts h d n => some (({ Parts.base h 0 26 0 with d := d }).setI6 h.nImx n.toNat)
  | .fence h sc kind => some { Parts.base h 0 27 0 with d := sc.setWidth 6, a := kind.setWidth 6 }
  | .bar h a => some { Parts.base h 0 28 0 with a := a }
  | .bara h d a => some { Parts.base h 0 28 1 with d := d, a := a }
  | .barw h d a => some { Parts.base h 0 28 2 with d := d, a := a }
  | .barq h d a => some { Parts.base h 0 28 3 with d := d, a := a }
  | .trap h n => some ((Parts.base h 0 29 0).setI10 0 n.toNat)
  | .rol h d a t => some { Parts.base h 1 0 0 with d := d, a := a, t := t.getD 0 }
  | .ror h d a t => some { Parts.base h 1 0 1 with d := d, a := a, t := t.getD 0 }
  | .bswap h d a => some { Parts.base h 1 0 2 with d := d, a := a }
  | .ctz h d a => some { Parts.base h 1 0 3 with d := d, a := a }
  | .ext h d a lo wm => some { Parts.base h 1 1 0 with d := d, a := a, imx := immBytes h.nImx (wm.toNat * 64 + lo.toNat) }
  | .extz h d a lo wm => some { Parts.base h 1 1 1 with d := d, a := a, imx := immBytes h.nImx (wm.toNat * 64 + lo.toNat) }
  | .dep h d a lo wm => some { Parts.base h 1 1 2 with d := d, a := a, imx := immBytes h.nImx (wm.toNat * 64 + lo.toNat) }
  | .depz h d a lo wm => some { Parts.base h 1 1 3 with d := d, a := a, imx := immBytes h.nImx (wm.toNat * 64 + lo.toNat) }
  | .lea h d a t sh disp => some { Parts.base h 1 2 0 with d := d, a := a, t := t.getD 0, f := sh, imx := immBytes h.nImx disp.toNat }
  | .madd h d a t => some { Parts.base h 1 3 0 with d := d, a := a, t := t }
  | .msub h d a t => some { Parts.base h 1 3 1 with d := d, a := a, t := t }
  | .cselz h d a t => some { Parts.base h 1 4 0 with d := d, a := a, t := t }
  | .cselnz h d a t => some { Parts.base h 1 4 1 with d := d, a := a, t := t }
  | .sextB h d a => some { Parts.base h 1 5 0 with d := d, a := a }
  | .sextH h d a => some { Parts.base h 1 5 1 with d := d, a := a }
  | .sextW h d a => some { Parts.base h 1 5 2 with d := d, a := a }
  | .zextW h d a => some { Parts.base h 1 5 3 with d := d, a := a }
  | .hash h d a t => some { Parts.base h 1 6 0 with d := d, a := a, t := t.getD 0 }
  | .crc h d a t => some { Parts.base h 1 6 1 with d := d, a := a, t := t.getD 0 }
  | .geo h d sel => some (({ Parts.base h 1 7 0 with d := d }).setI6 0 sel.toNat)
  | .adds h d a t => some { Parts.base h 1 8 0 with d := d, a := a, t := t.getD 0 }
  | .subs h d a t => some { Parts.base h 1 8 1 with d := d, a := a, t := t.getD 0 }
  | .addus h d a t => some { Parts.base h 1 8 2 with d := d, a := a, t := t.getD 0 }
  | .subus h d a t => some { Parts.base h 1 8 3 with d := d, a := a, t := t.getD 0 }
  | .vadd h d a m => some { Parts.base h 2 0 0 with d := d.setWidth 6, a := a.setWidth 6, t := m.setWidth 6 }
  | .vsub h d a m => some { Parts.base h 2 0 1 with d := d.setWidth 6, a := a.setWidth 6, t := m.setWidth 6 }
  | .vmul h d a m => some { Parts.base h 2 0 2 with d := d.setWidth 6, a := a.setWidth 6, t := m.setWidth 6 }
  | .vmulh h d a m => some { Parts.base h 2 0 3 with d := d.setWidth 6, a := a.setWidth 6, t := m.setWidth 6 }
  | .vand h d a m => some { Parts.base h 2 1 0 with d := d.setWidth 6, a := a.setWidth 6, t := m.setWidth 6 }
  | .vor h d a m => some { Parts.base h 2 1 1 with d := d.setWidth 6, a := a.setWidth 6, t := m.setWidth 6 }
  | .vxor h d a m => some { Parts.base h 2 1 2 with d := d.setWidth 6, a := a.setWidth 6, t := m.setWidth 6 }
  | .vandn h d a m => some { Parts.base h 2 1 3 with d := d.setWidth 6, a := a.setWidth 6, t := m.setWidth 6 }
  | .vshl h d a m => some { Parts.base h 2 2 0 with d := d.setWidth 6, a := a.setWidth 6, t := m.setWidth 6 }
  | .vshr h d a m => some { Parts.base h 2 2 1 with d := d.setWidth 6, a := a.setWidth 6, t := m.setWidth 6 }
  | .vsar h d a m => some { Parts.base h 2 2 2 with d := d.setWidth 6, a := a.setWidth 6, t := m.setWidth 6 }
  | .vrol h d a m => some { Parts.base h 2 2 3 with d := d.setWidth 6, a := a.setWidth 6, t := m.setWidth 6 }
  | .vmin h d a m => some { Parts.base h 2 3 0 with d := d.setWidth 6, a := a.setWidth 6, t := m.setWidth 6 }
  | .vmax h d a m => some { Parts.base h 2 3 1 with d := d.setWidth 6, a := a.setWidth 6, t := m.setWidth 6 }
  | .vminu h d a m => some { Parts.base h 2 3 2 with d := d.setWidth 6, a := a.setWidth 6, t := m.setWidth 6 }
  | .vmaxu h d a m => some { Parts.base h 2 3 3 with d := d.setWidth 6, a := a.setWidth 6, t := m.setWidth 6 }
  | .vfadd h d a m rc => some { Parts.base h 2 4 0 with d := d.setWidth 6, a := a.setWidth 6, t := m.setWidth 6, ext := rc.setWidth 5 }
  | .vfsub h d a m rc => some { Parts.base h 2 4 1 with d := d.setWidth 6, a := a.setWidth 6, t := m.setWidth 6, ext := rc.setWidth 5 }
  | .vfmul h d a m rc => some { Parts.base h 2 4 2 with d := d.setWidth 6, a := a.setWidth 6, t := m.setWidth 6, ext := rc.setWidth 5 }
  | .vfma h d a t rc m => some { Parts.base h 2 4 3 with d := d.setWidth 6, a := a.setWidth 6, t := t.setWidth 6, ext := m ++ rc }
  | .vfmin h d a m => some { Parts.base h 2 5 0 with d := d.setWidth 6, a := a.setWidth 6, t := m.setWidth 6 }
  | .vfmax h d a m => some { Parts.base h 2 5 1 with d := d.setWidth 6, a := a.setWidth 6, t := m.setWidth 6 }
  | .vfabs h d a m => some { Parts.base h 2 5 2 with d := d.setWidth 6, a := a.setWidth 6, t := m.setWidth 6 }
  | .vfneg h d a m => some { Parts.base h 2 5 3 with d := d.setWidth 6, a := a.setWidth 6, t := m.setWidth 6 }
  | .vfdiv h d a m rc => some { Parts.base h 2 6 0 with d := d.setWidth 6, a := a.setWidth 6, t := m.setWidth 6, ext := rc.setWidth 5 }
  | .vfsqrt h d a m rc => some { Parts.base h 2 6 1 with d := d.setWidth 6, a := a.setWidth 6, t := m.setWidth 6, ext := rc.setWidth 5 }
  | .vfrcp h d a m rc => some { Parts.base h 2 6 2 with d := d.setWidth 6, a := a.setWidth 6, t := m.setWidth 6, ext := rc.setWidth 5 }
  | .vfrsq h d a m rc => some { Parts.base h 2 6 3 with d := d.setWidth 6, a := a.setWidth 6, t := m.setWidth 6, ext := rc.setWidth 5 }
  | .vcmpEq h d a b m => some { Parts.base h 2 7 0 with d := d.setWidth 6, a := a.setWidth 6, t := m.setWidth 6, ext := b }
  | .vcmpLt h d a b m => some { Parts.base h 2 7 1 with d := d.setWidth 6, a := a.setWidth 6, t := m.setWidth 6, ext := b }
  | .vcmpLtu h d a b m => some { Parts.base h 2 7 2 with d := d.setWidth 6, a := a.setWidth 6, t := m.setWidth 6, ext := b }
  | .vcmpNe h d a b m => some { Parts.base h 2 7 3 with d := d.setWidth 6, a := a.setWidth 6, t := m.setWidth 6, ext := b }
  | .vfcmpEq h d a b m => some { Parts.base h 2 8 0 with d := d.setWidth 6, a := a.setWidth 6, t := m.setWidth 6, ext := b }
  | .vfcmpLt h d a b m => some { Parts.base h 2 8 1 with d := d.setWidth 6, a := a.setWidth 6, t := m.setWidth 6, ext := b }
  | .vfcmpLe h d a b m => some { Parts.base h 2 8 2 with d := d.setWidth 6, a := a.setWidth 6, t := m.setWidth 6, ext := b }
  | .vfcmpUn h d a b m => some { Parts.base h 2 8 3 with d := d.setWidth 6, a := a.setWidth 6, t := m.setWidth 6, ext := b }
  | .vld h d a m disp o => some { Parts.base h 2 9 0 with d := d.setWidth 6, a := a, t := m.setWidth 6, ord := o.ord, sc := o.sc, imx := immBytes h.nImx disp.toNat }
  | .vst h d a m disp o => some { Parts.base h 2 9 1 with d := d.setWidth 6, a := a, t := m.setWidth 6, ord := o.ord, sc := o.sc, imx := immBytes h.nImx disp.toNat }
  | .vldg h d a i m disp o => some { Parts.base h 2 9 2 with d := d.setWidth 6, a := a, t := m.setWidth 6, ext := i, ord := o.ord, sc := o.sc, imx := immBytes h.nImx disp.toNat }
  | .vsts h d a i m disp o => some { Parts.base h 2 9 3 with d := d.setWidth 6, a := a, t := m.setWidth 6, ext := i, ord := o.ord, sc := o.sc, imx := immBytes h.nImx disp.toNat }
  | .vldl h d a m disp o => some { Parts.base h 2 10 0 with d := d.setWidth 6, a := a.setWidth 6, t := m.setWidth 6, ord := o.ord, sc := o.sc, imx := immBytes h.nImx disp.toNat }
  | .vstl h d a m disp o => some { Parts.base h 2 10 1 with d := d.setWidth 6, a := a.setWidth 6, t := m.setWidth 6, ord := o.ord, sc := o.sc, imx := immBytes h.nImx disp.toNat }
  | .vbcst h d a m => some { Parts.base h 2 10 2 with d := d.setWidth 6, a := a, t := m.setWidth 6 }
  | .vext h d a n z => some { Parts.base h 2 10 3 with d := d, a := a.setWidth 6, ext := (BitVec.ofBool z ++ n).setWidth 5 }
  | .vsel h d a b k => some { Parts.base h 2 11 0 with d := d.setWidth 6, a := a.setWidth 6, t := k.setWidth 6, ext := b }
  | .vperm h d a m => some { Parts.base h 2 11 1 with d := d.setWidth 6, a := a.setWidth 6, t := m.setWidth 6 }
  | .vlrot h d a n m => some { Parts.base h 2 11 2 with d := d.setWidth 6, a := a.setWidth 6, t := m.setWidth 6, ext := n.setWidth 5 }
  | .vmov h d a m => some { Parts.base h 2 11 3 with d := d.setWidth 6, a := a.setWidth 6, t := m.setWidth 6 }
  | .vradd h d a m => some { Parts.base h 2 12 0 with d := d, a := a.setWidth 6, t := m.setWidth 6 }
  | .vrfadd h d a m rc => some { Parts.base h 2 12 1 with d := d, a := a.setWidth 6, t := m.setWidth 6, ext := rc.setWidth 5 }
  | .vrmax h d a m => some { Parts.base h 2 12 2 with d := d, a := a.setWidth 6, t := m.setWidth 6 }
  | .vrmin h d a m => some { Parts.base h 2 12 3 with d := d, a := a.setWidth 6, t := m.setWidth 6 }
  | .kand h d a t => some { Parts.base h 2 13 0 with d := d.setWidth 6, a := a.setWidth 6, t := (t.getD 0).setWidth 6 }
  | .kor h d a t => some { Parts.base h 2 13 1 with d := d.setWidth 6, a := a.setWidth 6, t := (t.getD 0).setWidth 6 }
  | .kxor h d a t => some { Parts.base h 2 13 2 with d := d.setWidth 6, a := a.setWidth 6, t := (t.getD 0).setWidth 6 }
  | .knot h d a => some { Parts.base h 2 13 3 with d := d.setWidth 6, a := a.setWidth 6 }
  | .kany h d a => some { Parts.base h 2 14 0 with d := d, a := a.setWidth 6 }
  | .kall h d a => some { Parts.base h 2 14 1 with d := d, a := a.setWidth 6 }
  | .kcnt h d a => some { Parts.base h 2 14 2 with d := d, a := a.setWidth 6 }
  | .kfirst h d a => some { Parts.base h 2 14 3 with d := d, a := a.setWidth 6 }
  | .kmov h d a => some { Parts.base h 2 15 0 with d := d.setWidth 6, a := a }
  | .kmovx h d a => some { Parts.base h 2 15 1 with d := d, a := a.setWidth 6 }
  | .vcvt h d a m fmt dir => some { Parts.base h 2 15 2 with d := d.setWidth 6, a := a.setWidth 6, t := m.setWidth 6, ext := BitVec.ofBool dir ++ fmt }
  | .vcvts h d a m fmt => some { Parts.base h 2 15 3 with d := d.setWidth 6, a := a.setWidth 6, t := m.setWidth 6, ext := fmt.setWidth 5 }
  | .vqnt h d a m fmt => some { Parts.base h 2 16 0 with d := d.setWidth 6, a := a.setWidth 6, t := m.setWidth 6, ext := fmt.setWidth 5 }
  | .vdqnt h d a m fmt => some { Parts.base h 2 16 1 with d := d.setWidth 6, a := a.setWidth 6, t := m.setWidth 6, ext := fmt.setWidth 5 }
  | .vresc h d a m disp i32 => some { Parts.base h 2 16 2 with d := d.setWidth 6, a := a, t := m.setWidth 6, ext := (BitVec.ofBool i32).setWidth 5, imx := immBytes h.nImx disp.toNat }
  | .vscal h d a m fmt => some { Parts.base h 2 16 3 with d := d.setWidth 6, a := a.setWidth 6, t := m.setWidth 6, ext := fmt.setWidth 5 }
  | .vpack h d a w p => some { Parts.base h 2 17 0 with d := d.setWidth 6, a := a.setWidth 6, ext := p ++ w }
  | .vunpk h d a w p => some { Parts.base h 2 17 1 with d := d.setWidth 6, a := a.setWidth 6, ext := p ++ w }
  | .tmmaF32 h acc ra rb z k t => some { Parts.base h 3 0 0 with d := (acc ++ ra.extractLsb' 1 2).setWidth 6, a := (ra.extractLsb' 0 1 ++ rb).setWidth 6, t := t.getD 0, f := BitVec.ofBool k ++ BitVec.ofBool z }
  | .tmmaBf h acc ra rb z k t => some { Parts.base h 3 1 0 with d := (acc ++ ra.extractLsb' 1 2).setWidth 6, a := (ra.extractLsb' 0 1 ++ rb).setWidth 6, t := t.getD 0, f := BitVec.ofBool k ++ BitVec.ofBool z }
  | .tmmaH h acc ra rb z k t => some { Parts.base h 3 2 0 with d := (acc ++ ra.extractLsb' 1 2).setWidth 6, a := (ra.extractLsb' 0 1 ++ rb).setWidth 6, t := t.getD 0, f := BitVec.ofBool k ++ BitVec.ofBool z }
  | .tmmaHb h acc ra rb z k t x => some { Parts.base h 3 3 0 with d := (acc ++ ra.extractLsb' 1 2).setWidth 6, a := (ra.extractLsb' 0 1 ++ rb).setWidth 6, t := t.getD 0, f := BitVec.ofBool k ++ BitVec.ofBool z, ext := (BitVec.ofBool x).setWidth 5 }
  | .tmmaE4 h acc ra rb z k t => some { Parts.base h 3 4 0 with d := (acc ++ ra.extractLsb' 1 2).setWidth 6, a := (ra.extractLsb' 0 1 ++ rb).setWidth 6, t := t.getD 0, f := BitVec.ofBool k ++ BitVec.ofBool z }
  | .tmmaE5 h acc ra rb z k t => some { Parts.base h 3 5 0 with d := (acc ++ ra.extractLsb' 1 2).setWidth 6, a := (ra.extractLsb' 0 1 ++ rb).setWidth 6, t := t.getD 0, f := BitVec.ofBool k ++ BitVec.ofBool z }
  | .tmmaE45 h acc ra rb z k t x => some { Parts.base h 3 6 0 with d := (acc ++ ra.extractLsb' 1 2).setWidth 6, a := (ra.extractLsb' 0 1 ++ rb).setWidth 6, t := t.getD 0, f := BitVec.ofBool k ++ BitVec.ofBool z, ext := (BitVec.ofBool x).setWidth 5 }
  | .tmmaE3 h acc ra rb z k t => some { Parts.base h 3 7 0 with d := (acc ++ ra.extractLsb' 1 2).setWidth 6, a := (ra.extractLsb' 0 1 ++ rb).setWidth 6, t := t.getD 0, f := BitVec.ofBool k ++ BitVec.ofBool z }
  | .tmmaE2 h acc ra rb z k t => some { Parts.base h 3 8 0 with d := (acc ++ ra.extractLsb' 1 2).setWidth 6, a := (ra.extractLsb' 0 1 ++ rb).setWidth 6, t := t.getD 0, f := BitVec.ofBool k ++ BitVec.ofBool z }
  | .tmmaE1 h acc ra rb z k t => some { Parts.base h 3 9 0 with d := (acc ++ ra.extractLsb' 1 2).setWidth 6, a := (ra.extractLsb' 0 1 ++ rb).setWidth 6, t := t.getD 0, f := BitVec.ofBool k ++ BitVec.ofBool z }
  | .tmmaI8 h acc ra rb z k t x => some { Parts.base h 3 10 0 with d := (acc ++ ra.extractLsb' 1 2).setWidth 6, a := (ra.extractLsb' 0 1 ++ rb).setWidth 6, t := t.getD 0, f := BitVec.ofBool k ++ BitVec.ofBool z, ext := (BitVec.ofBool x).setWidth 5 }
  | .tmmaIz8 h acc ra rb z k t => some { Parts.base h 3 11 0 with d := (acc ++ ra.extractLsb' 1 2).setWidth 6, a := (ra.extractLsb' 0 1 ++ rb).setWidth 6, t := t.getD 0, f := BitVec.ofBool k ++ BitVec.ofBool z }
  | .tmmaI4 h acc ra rb z k t => some { Parts.base h 3 12 0 with d := (acc ++ ra.extractLsb' 1 2).setWidth 6, a := (ra.extractLsb' 0 1 ++ rb).setWidth 6, t := t.getD 0, f := BitVec.ofBool k ++ BitVec.ofBool z }
  | .tmmaIz4 h acc ra rb z k t => some { Parts.base h 3 13 0 with d := (acc ++ ra.extractLsb' 1 2).setWidth 6, a := (ra.extractLsb' 0 1 ++ rb).setWidth 6, t := t.getD 0, f := BitVec.ofBool k ++ BitVec.ofBool z }
  | .tcommit h d u => some { Parts.base h 3 14 0 with d := d, a := u.setWidth 6 }
  | .twaitb h d a => some { Parts.base h 3 14 1 with d := d, a := a }
  | .tbatq h d a => some { Parts.base h 3 14 2 with d := d, a := a }
  | .tlda h d a t disp => some { Parts.base h 3 15 0 with d := d.setWidth 6, a := a, t := t.getD 0, imx := immBytes h.nImx disp.toNat }
  | .tsta h d a t disp => some { Parts.base h 3 15 1 with d := d.setWidth 6, a := a, t := t.getD 0, imx := immBytes h.nImx disp.toNat }
  | .tstaQ h d a t disp i32 => some { Parts.base h 3 15 1 with d := d.setWidth 6, a := a, t := t, ext := (BitVec.ofBool i32 ++ (1 : BitVec 1)).setWidth 5, imx := immBytes h.nImx disp.toNat }
  | .tzero h d u => some { Parts.base h 3 15 2 with d := d.setWidth 6, a := u.setWidth 6 }
  | .taccq h d u => some { Parts.base h 3 15 3 with d := d, a := u.setWidth 6 }
  | .rcfg h d a => some { Parts.base h 3 16 0 with d := d.setWidth 6, a := a }
  | .rpush h d u => some { Parts.base h 3 16 1 with d := d.setWidth 6, a := u.setWidth 6 }
  | .rpos h d a => some { Parts.base h 3 16 2 with d := d, a := a.setWidth 6 }
  | .rrst h d u => some { Parts.base h 3 16 3 with d := d.setWidth 6, a := u.setWidth 6 }
  | .tgeo h d sel => some (({ Parts.base h 3 17 0 with d := d }).setI6 0 sel.toNat)
  | .psel h a => some { Parts.base h 4 0 0 with a := a }
  | .pstat h d a => some { Parts.base h 4 0 1 with d := d, a := a }
  | .pgain h d a => some { Parts.base h 4 0 2 with d := d, a := a }
  | .pserial h d => some { Parts.base h 4 0 3 with d := d }
  | .phld h a => some { Parts.base h 4 1 0 with a := a }
  | .phsw h => some (Parts.base h 4 1 1)
  | .phrd h d a => some { Parts.base h 4 1 2 with d := d, a := a }
  | .phwr h d a => some { Parts.base h 4 1 3 with d := d, a := a }
  | .pdec h d a => some { Parts.base h 4 2 0 with d := d, a := a }
  | .pdecq h d a => some { Parts.base h 4 2 1 with d := d, a := a }
  | .ppass h a => some { Parts.base h 4 3 0 with a := a }
  | .ppassa h a => some { Parts.base h 4 3 1 with a := a }
  | .pflush h d => some { Parts.base h 4 3 2 with d := d }
  | .pwait h d a => some { Parts.base h 4 3 3 with d := d, a := a }
  | .pprobe h => some (Parts.base h 4 4 0)
  | .ptrim h d a => some { Parts.base h 4 4 1 with d := d, a := a }
  | .ploop h d a => some { Parts.base h 4 4 2 with d := d, a := a }
  | .pcal h a => some { Parts.base h 4 4 3 with a := a }
  | .pair h => some { Parts.base h 5 0 0 with d := 10 }
  | .pairn h => some { Parts.base h 5 0 1 with d := 10 }
  | .pushp h a => some { Parts.base h 5 0 2 with a := a }
  | .pondq h d => some { Parts.base h 5 0 3 with d := d }
  | .nalloc h d => some { Parts.base h 5 1 0 with d := d }
  | .walloc h d => some { Parts.base h 5 1 1 with d := d }
  | .nfree h a => some { Parts.base h 5 1 2 with a := a }
  | .wfree h a => some { Parts.base h 5 1 3 with a := a }
  | .nld h d a w => some { Parts.base h 5 2 0 with d := d, a := a, f := w }
  | .nst h d a w => some { Parts.base h 5 3 0 with d := d, a := a, f := w }
  | .wset h d a => some { Parts.base h 5 4 0 with d := d, a := a }
  | .wrepl h d a => some { Parts.base h 5 4 1 with d := d, a := a }
  | .wsplice h d a => some { Parts.base h 5 4 2 with d := d, a := a }
  | .wres h d a => some { Parts.base h 5 4 3 with d := d, a := a }
  | .retire h => some (Parts.base h 5 5 0)
  | .rule h d a => some { Parts.base h 5 5 1 with d := d, a := a }
  | .yieldp h => some (Parts.base h 5 5 2)
  | .engw h a => some { Parts.base h 5 5 3 with a := a }
  | .nrdm h d a => some { Parts.base h 5 6 0 with d := d, a := a }
  | .nval h d a => some { Parts.base h 5 6 1 with d := d, a := a }
  | .tldn h d a disp t o => some { Parts.base h 6 0 0 with d := d, a := a, t := t, ord := o.ord, sc := o.sc, imx := immBytes h.nImx disp.toNat }
  | .tldg h d a disp t o => some { Parts.base h 6 0 1 with d := d, a := a, t := t, ord := o.ord, sc := o.sc, imx := immBytes h.nImx disp.toNat }
  | .tkdrop h a => some { Parts.base h 6 0 2 with a := a }
  | .amoAdd h d a disp w o => some { Parts.base h 6 1 0 with d := d, a := a, ext := (BitVec.ofBool w).setWidth 5, ord := o.ord, sc := o.sc, imx := immBytes h.nImx disp.toNat }
  | .amoAnd h d a disp w o => some { Parts.base h 6 1 1 with d := d, a := a, ext := (BitVec.ofBool w).setWidth 5, ord := o.ord, sc := o.sc, imx := immBytes h.nImx disp.toNat }
  | .amoOr h d a disp w o => some { Parts.base h 6 1 2 with d := d, a := a, ext := (BitVec.ofBool w).setWidth 5, ord := o.ord, sc := o.sc, imx := immBytes h.nImx disp.toNat }
  | .amoXor h d a disp w o => some { Parts.base h 6 1 3 with d := d, a := a, ext := (BitVec.ofBool w).setWidth 5, ord := o.ord, sc := o.sc, imx := immBytes h.nImx disp.toNat }
  | .amoMin h d a disp w u o => some { Parts.base h 6 2 0 with d := d, a := a, ext := (BitVec.ofBool u ++ BitVec.ofBool w).setWidth 5, ord := o.ord, sc := o.sc, imx := immBytes h.nImx disp.toNat }
  | .amoMax h d a disp w u o => some { Parts.base h 6 2 1 with d := d, a := a, ext := (BitVec.ofBool u ++ BitVec.ofBool w).setWidth 5, ord := o.ord, sc := o.sc, imx := immBytes h.nImx disp.toNat }
  | .amoSwap h d a disp w o => some { Parts.base h 6 2 2 with d := d, a := a, ext := (BitVec.ofBool w).setWidth 5, ord := o.ord, sc := o.sc, imx := immBytes h.nImx disp.toNat }
  | .amoCas h d a t disp w o => some { Parts.base h 6 2 3 with d := d, a := a, t := t, ext := (BitVec.ofBool w).setWidth 5, ord := o.ord, sc := o.sc, imx := immBytes h.nImx disp.toNat }
  | .famoAdd h d a disp o => some { Parts.base h 6 3 0 with d := d, a := a, ord := o.ord, sc := o.sc, imx := immBytes h.nImx disp.toNat }
  | .famoAdd2 h d a disp o => some { Parts.base h 6 3 1 with d := d, a := a, ord := o.ord, sc := o.sc, imx := immBytes h.nImx disp.toNat }
  | .famoMax h d a disp o => some { Parts.base h 6 3 2 with d := d, a := a, ord := o.ord, sc := o.sc, imx := immBytes h.nImx disp.toNat }
  | .famoMin h d a disp o => some { Parts.base h 6 3 3 with d := d, a := a, ord := o.ord, sc := o.sc, imx := immBytes h.nImx disp.toNat }
  | .msg h d a t => some { Parts.base h 6 4 0 with d := d, a := a, t := t }
  | .callat h d a t => some { Parts.base h 6 4 1 with d := d, a := a, t := t }
  | .mret h => some (Parts.base h 6 4 2)
  | .hret h => some (Parts.base h 6 4 3)
  | .clsm h a => some { Parts.base h 6 5 0 with a := a }
  | .clsu h a => some { Parts.base h 6 5 1 with a := a }
  | .mclose h d a => some { Parts.base h 6 5 2 with d := d, a := a }
  | .mpoll h d a => some { Parts.base h 6 5 3 with d := d, a := a }
  | .cpset h d i => some { Parts.base h 6 6 0 with d := d, a := i.setWidth 6 }
  | .cpgo h d => some { Parts.base h 6 6 1 with d := d }
  | .cpwait h d a => some { Parts.base h 6 6 2 with d := d, a := a }
  | .cpq h d a => some { Parts.base h 6 6 3 with d := d, a := a }
  | .cshape h d a => some { Parts.base h 6 7 0 with d := d, a := a }
  | .cpmc h d a => some { Parts.base h 6 7 1 with d := d, a := a }
  | .gred h d a => some { Parts.base h 6 8 0 with d := d, a := a }
  | .gbc h d a => some { Parts.base h 6 8 1 with d := d, a := a }
  | .dsend h d a => some { Parts.base h 6 9 0 with d := d, a := a }
  | .dpoll h d a => some { Parts.base h 6 9 1 with d := d, a := a }
  | .dslot h d a => some { Parts.base h 6 9 2 with d := d, a := a }
  | .dsig h d a => some { Parts.base h 6 9 3 with d := d, a := a }
  | .rft h => some { Parts.base h 7 0 0 with a := 1 }
  | .rftNext h => some { Parts.base h 7 0 0 with a := 2 }
  | .trrec h d a disp => some { Parts.base h 7 0 1 with d := d, a := a, imx := immBytes h.nImx disp.toNat }
  | .mfp h d a disp => some { Parts.base h 7 1 0 with d := d, a := a, imx := immBytes h.nImx disp.toNat }
  | .mtp h d a disp => some { Parts.base h 7 1 1 with d := d, a := a, imx := immBytes h.nImx disp.toNat }
  | .tlbi h d a => some { Parts.base h 7 2 0 with d := d, a := a }
  | .tlbia h a => some { Parts.base h 7 2 1 with a := a }
  | .xbset h a => some { Parts.base h 7 2 2 with a := a }
  | .cflush h a disp => some { Parts.base h 7 3 0 with a := a, imx := immBytes h.nImx disp.toNat }
  | .cinv h a disp => some { Parts.base h 7 3 1 with a := a, imx := immBytes h.nImx disp.toNat }
  | .czero h a disp => some { Parts.base h 7 3 2 with a := a, imx := immBytes h.nImx disp.toNat }
  | .dstop h a => some { Parts.base h 7 4 0 with a := a }
  | .trmark h a => some { Parts.base h 7 4 1 with a := a }
  | .evsel h d a => some { Parts.base h 7 4 2 with d := d, a := a }
  | .evrd h d a => some { Parts.base h 7 4 3 with d := d, a := a }
  | .rpcapCapture h d a t => some { Parts.base h 7 5 0 with d := d, a := a, t := t }
  | .rpcapReplay h d a t => some { Parts.base h 7 5 0 with d := d, a := a, t := t }
  | .rpcapEnd h d a t => some { Parts.base h 7 5 0 with d := d, a := a, t := t }
  | .rpcapRelease h d a t => some { Parts.base h 7 5 0 with d := d, a := a, t := t }
  | .rpstat h d a => some { Parts.base h 7 5 1 with d := d, a := a }
  | .tpert h d a => some { Parts.base h 7 6 0 with d := d, a := a }
  | .inj h d a disp => some { Parts.base h 7 6 1 with d := d, a := a, imx := immBytes h.nImx disp.toNat }
  | .pwrf h d a => some { Parts.base h 7 7 0 with d := d, a := a }
  | .breakpoint .. => none
  | .resultLand .. => none
  | .storeAck .. => none
  | .atomicPerform .. => none
  | .tlbWalk .. => none
  | .ticketGrant .. => none
  | .grantArrive .. => none
  | .tldRequestArrive .. => none
  | .ticketFetchPerform .. => none
  | .ticketDataArrive .. => none
  | .redeemArrive .. => none
  | .tkdropArrive .. => none
  | .tkqArrive .. => none
  | .redeemDelivery .. => none
  | .packageTimerTick => none
  | .leaseExpire .. => none
  | .setend .. => none
  | .replace .. => none
  | .splice .. => none
  | .adopt .. => none
  | .resolve .. => none
  | .unref .. => none
  | .wfreeMessage .. => none
  | .nfreeMessage .. => none
  | .pondRequestRound .. => none
  | .pondWorkRequest .. => none
  | .pondHighmAnnounce .. => none
  | .springStockRefill .. => none
  | .twinCompare .. => none
  | .msgArrive .. => none
  | .handlerStart .. => none
  | .taskStart .. => none
  | .messageRefusal .. => none
  | .barrierArrival .. => none
  | .barrierCompletionNotice .. => none
  | .collectiveContribution .. => none
  | .collectiveResult .. => none
  | .copyTransferStart .. => none
  | .copyTransferComplete .. => none
  | .tileStepStart .. => none
  | .tileStepRetire .. => none
  | .phldTakeEffect .. => none
  | .shadowSettle .. => none
  | .phrdTakeEffect .. => none
  | .phwrTakeEffect .. => none
  | .ptrimTakeEffect .. => none
  | .passBoundary .. => none
  | .trimSettle .. => none
  | .passStart .. => none
  | .passHeaderWrite .. => none
  | .probeEvaluation .. => none
  | .probeComplete .. => none
  | .pcalComplete .. => none
  | .deComplete .. => none
  | .deBankLoad .. => none
  | .balanceHeaterUpdate .. => none
  | .combLoss .. => none
  | .modStuck .. => none
  | .parityRecovery .. => none
  | .scrub .. => none
  | .asyncFaultTake .. => none
  | .fpExcWindowClose .. => none
  | .tickMiss .. => none
  | .quietNotice .. => none
  | .completionWave .. => none
  | .waveReport .. => none
  | .submissionTake .. => none
  | .dispatchSelect => none
  | .preemption .. => none
  | .resumption .. => none
  | .jobEnd .. => none
  | .completionEventWrite .. => none
  | .qCfgWrite .. => none
  | .dispKill .. => none
  | .contRectDefine .. => none
  | .contRectGo .. => none
  | .containment .. => none
  | .basinSplitWrite .. => none
  | .basinSplitDone .. => none
  | .dialCommit => none
  | .dialEnable .. => none
  | .dialRotationStart => none
  | .dialWindowOpen .. => none
  | .dialMessageEnd .. => none
  | .dialFlitReceive .. => none
  | .dialFlitNak .. => none
  | .dialMessageDelivered .. => none
  | .dialAck .. => none
  | .dialTimerDrift => none
  | .lossOfReturnLight .. => none
  | .dialPresenceLoss .. => none
  | .dsigPartialArrive .. => none
  | .dsigResultArrive .. => none
  | .nqlLinkDown => none
  | .nqlFail => none
  | .nqlRetrain => none
  | .hostMemAccess .. => none
  | .regUnsupportedAccess .. => none
  | .registerWrite .. => none
  | .nocGridSample => none
  | .fcastUpdate => none
  | .pcapLimitWrite .. => none
  | .pcapWindowEnd .. => none
  | .fastClamp => none
  | .clampRelease => none
  | .thermalTrip .. => none
  | .thermalRecovery .. => none
  | .healthUpdate => none
  | .coldReset .. => none
  | .attestGo .. => none
  | .attestReportDone => none
  | .debugStop .. => none
  | .debugAccess .. => none
  | .singleStep .. => none
  | .stepUntilDrained .. => none
  | .pondHandover .. => none
  | .dialTimerAligned => none
  | .moduleInsertion .. => none
  | .returnLightRestored .. => none
  | .spareLineProbe .. => none

/-- Does the immediate or optional operand of the instruction fit its lead words? -/
def Instr.immOk : Instr → Bool
  | .ill .. => true
  | .nop .. => true
  | .tick .. => true
  | .halt .. => true
  | .mov .. => true
  | .not .. => true
  | .neg .. => true
  | .clz .. => true
  | .add h _ _ t => h.trx == t.isSome
  | .sub h _ _ t => h.trx == t.isSome
  | .and h _ _ t => h.trx == t.isSome
  | .or h _ _ t => h.trx == t.isSome
  | .xor h _ _ t => h.trx == t.isSome
  | .shl h _ _ t => h.trx == t.isSome
  | .shr h _ _ t => h.trx == t.isSome
  | .sar h _ _ t => h.trx == t.isSome
  | .min h _ _ t => h.trx == t.isSome
  | .max h _ _ t => h.trx == t.isSome
  | .minu h _ _ t => h.trx == t.isSome
  | .maxu h _ _ t => h.trx == t.isSome
  | .seq h _ _ t => h.trx == t.isSome
  | .sne h _ _ t => h.trx == t.isSome
  | .slt h _ _ t => h.trx == t.isSome
  | .sltu h _ _ t => h.trx == t.isSome
  | .mul h _ _ t => h.trx == t.isSome
  | .mulh h _ _ t => h.trx == t.isSome
  | .mulhu h _ _ t => h.trx == t.isSome
  | .popc .. => true
  | .div h _ _ t => h.trx == t.isSome
  | .divu h _ _ t => h.trx == t.isSome
  | .rem h _ _ t => h.trx == t.isSome
  | .remu h _ _ t => h.trx == t.isSome
  | .addi h _ imm => immFits 6 h.nImx imm
  | .li h _ imm => immFits 6 h.nImx imm
  | .andi h _ imm => immFits 6 h.nImx imm
  | .shli .. => true
  | .shri .. => true
  | .sari .. => true
  | .ldB h _ _ disp _ => dispFits h.nImx disp
  | .ldH h _ _ disp _ => dispFits h.nImx disp
  | .ldW h _ _ disp _ => dispFits h.nImx disp
  | .ldD h _ _ disp _ => dispFits h.nImx disp
  | .ldzB h _ _ disp _ => dispFits h.nImx disp
  | .ldzH h _ _ disp _ => dispFits h.nImx disp
  | .ldzW h _ _ disp _ => dispFits h.nImx disp
  | .stB h _ _ disp _ => dispFits h.nImx disp
  | .stH h _ _ disp _ => dispFits h.nImx disp
  | .stW h _ _ disp _ => dispFits h.nImx disp
  | .stD h _ _ disp _ => dispFits h.nImx disp
  | .tld8 h _ _ disp _ _ => dispFits h.nImx disp
  | .tld32 h _ _ disp _ _ => dispFits h.nImx disp
  | .tld64 h _ _ disp _ _ => dispFits h.nImx disp
  | .tld256 h _ _ disp _ _ => dispFits h.nImx disp
  | .rdm .. => true
  | .rdmV .. => true
  | .rdmS h _ _ disp => dispFits h.nImx disp
  | .tkq .. => true
  | .br h off => immFits 10 h.nImx off
  | .call h off => immFits 10 h.nImx off
  | .bz h _ imm => immFits 6 h.nImx imm
  | .bnz h _ imm => immFits 6 h.nImx imm
  | .loop h _ imm => immFits 6 h.nImx imm
  | .jr .. => true
  | .callr .. => true
  | .ret .. => true
  | .jtab h _ _ n => decide (n.toNat < 256 ^ h.nImx)
  | .mfs h _ n => decide (n.toNat < 64 * 256 ^ h.nImx)
  | .mts h _ n => decide (n.toNat < 64 * 256 ^ h.nImx)
  | .fence .. => true
  | .bar .. => true
  | .bara .. => true
  | .barw .. => true
  | .barq .. => true
  | .trap .. => true
  | .rol h _ _ t => h.trx == t.isSome
  | .ror h _ _ t => h.trx == t.isSome
  | .bswap .. => true
  | .ctz .. => true
  | .ext h _ _ lo wm => decide (wm.toNat * 64 + lo.toNat < 256 ^ h.nImx)
  | .extz h _ _ lo wm => decide (wm.toNat * 64 + lo.toNat < 256 ^ h.nImx)
  | .dep h _ _ lo wm => decide (wm.toNat * 64 + lo.toNat < 256 ^ h.nImx)
  | .depz h _ _ lo wm => decide (wm.toNat * 64 + lo.toNat < 256 ^ h.nImx)
  | .lea h _ _ t _ disp => h.trx == t.isSome && dispFits h.nImx disp
  | .madd .. => true
  | .msub .. => true
  | .cselz .. => true
  | .cselnz .. => true
  | .sextB .. => true
  | .sextH .. => true
  | .sextW .. => true
  | .zextW .. => true
  | .hash h _ _ t => h.trx == t.isSome
  | .crc h _ _ t => h.trx == t.isSome
  | .geo .. => true
  | .adds h _ _ t => h.trx == t.isSome
  | .subs h _ _ t => h.trx == t.isSome
  | .addus h _ _ t => h.trx == t.isSome
  | .subus h _ _ t => h.trx == t.isSome
  | .vadd .. => true
  | .vsub .. => true
  | .vmul .. => true
  | .vmulh .. => true
  | .vand .. => true
  | .vor .. => true
  | .vxor .. => true
  | .vandn .. => true
  | .vshl .. => true
  | .vshr .. => true
  | .vsar .. => true
  | .vrol .. => true
  | .vmin .. => true
  | .vmax .. => true
  | .vminu .. => true
  | .vmaxu .. => true
  | .vfadd .. => true
  | .vfsub .. => true
  | .vfmul .. => true
  | .vfma .. => true
  | .vfmin .. => true
  | .vfmax .. => true
  | .vfabs .. => true
  | .vfneg .. => true
  | .vfdiv .. => true
  | .vfsqrt .. => true
  | .vfrcp .. => true
  | .vfrsq .. => true
  | .vcmpEq .. => true
  | .vcmpLt .. => true
  | .vcmpLtu .. => true
  | .vcmpNe .. => true
  | .vfcmpEq .. => true
  | .vfcmpLt .. => true
  | .vfcmpLe .. => true
  | .vfcmpUn .. => true
  | .vld h _ _ _ disp _ => dispFits h.nImx disp
  | .vst h _ _ _ disp _ => dispFits h.nImx disp
  | .vldg h _ _ _ _ disp _ => dispFits h.nImx disp
  | .vsts h _ _ _ _ disp _ => dispFits h.nImx disp
  | .vldl h _ _ _ disp _ => dispFits h.nImx disp
  | .vstl h _ _ _ disp _ => dispFits h.nImx disp
  | .vbcst .. => true
  | .vext .. => true
  | .vsel .. => true
  | .vperm .. => true
  | .vlrot .. => true
  | .vmov .. => true
  | .vradd .. => true
  | .vrfadd .. => true
  | .vrmax .. => true
  | .vrmin .. => true
  | .kand h _ _ t => h.trx == t.isSome
  | .kor h _ _ t => h.trx == t.isSome
  | .kxor h _ _ t => h.trx == t.isSome
  | .knot .. => true
  | .kany .. => true
  | .kall .. => true
  | .kcnt .. => true
  | .kfirst .. => true
  | .kmov .. => true
  | .kmovx .. => true
  | .vcvt .. => true
  | .vcvts .. => true
  | .vqnt .. => true
  | .vdqnt .. => true
  | .vresc h _ _ _ disp _ => dispFits h.nImx disp
  | .vscal .. => true
  | .vpack .. => true
  | .vunpk .. => true
  | .tmmaF32 h _ _ _ _ _ t => h.trx == t.isSome
  | .tmmaBf h _ _ _ _ _ t => h.trx == t.isSome
  | .tmmaH h _ _ _ _ _ t => h.trx == t.isSome
  | .tmmaHb h _ _ _ _ _ t _ => h.trx == t.isSome
  | .tmmaE4 h _ _ _ _ _ t => h.trx == t.isSome
  | .tmmaE5 h _ _ _ _ _ t => h.trx == t.isSome
  | .tmmaE45 h _ _ _ _ _ t _ => h.trx == t.isSome
  | .tmmaE3 h _ _ _ _ _ t => h.trx == t.isSome
  | .tmmaE2 h _ _ _ _ _ t => h.trx == t.isSome
  | .tmmaE1 h _ _ _ _ _ t => h.trx == t.isSome
  | .tmmaI8 h _ _ _ _ _ t _ => h.trx == t.isSome
  | .tmmaIz8 h _ _ _ _ _ t => h.trx == t.isSome
  | .tmmaI4 h _ _ _ _ _ t => h.trx == t.isSome
  | .tmmaIz4 h _ _ _ _ _ t => h.trx == t.isSome
  | .tcommit .. => true
  | .twaitb .. => true
  | .tbatq .. => true
  | .tlda h _ _ t disp => h.trx == t.isSome && dispFits h.nImx disp
  | .tsta h _ _ t disp => h.trx == t.isSome && dispFits h.nImx disp
  | .tstaQ h _ _ _ disp _ => h.trx && dispFits h.nImx disp
  | .tzero .. => true
  | .taccq .. => true
  | .rcfg .. => true
  | .rpush .. => true
  | .rpos .. => true
  | .rrst .. => true
  | .tgeo .. => true
  | .psel .. => true
  | .pstat .. => true
  | .pgain .. => true
  | .pserial .. => true
  | .phld .. => true
  | .phsw .. => true
  | .phrd .. => true
  | .phwr .. => true
  | .pdec .. => true
  | .pdecq .. => true
  | .ppass .. => true
  | .ppassa .. => true
  | .pflush .. => true
  | .pwait .. => true
  | .pprobe .. => true
  | .ptrim .. => true
  | .ploop .. => true
  | .pcal .. => true
  | .pair .. => true
  | .pairn .. => true
  | .pushp .. => true
  | .pondq .. => true
  | .nalloc .. => true
  | .walloc .. => true
  | .nfree .. => true
  | .wfree .. => true
  | .nld .. => true
  | .nst .. => true
  | .wset .. => true
  | .wrepl .. => true
  | .wsplice .. => true
  | .wres .. => true
  | .retire .. => true
  | .rule .. => true
  | .yieldp .. => true
  | .engw .. => true
  | .nrdm .. => true
  | .nval .. => true
  | .tldn h _ _ disp _ _ => dispFits h.nImx disp
  | .tldg h _ _ disp _ _ => dispFits h.nImx disp
  | .tkdrop .. => true
  | .amoAdd h _ _ disp _ _ => dispFits h.nImx disp
  | .amoAnd h _ _ disp _ _ => dispFits h.nImx disp
  | .amoOr h _ _ disp _ _ => dispFits h.nImx disp
  | .amoXor h _ _ disp _ _ => dispFits h.nImx disp
  | .amoMin h _ _ disp _ _ _ => dispFits h.nImx disp
  | .amoMax h _ _ disp _ _ _ => dispFits h.nImx disp
  | .amoSwap h _ _ disp _ _ => dispFits h.nImx disp
  | .amoCas h _ _ _ disp _ _ => dispFits h.nImx disp
  | .famoAdd h _ _ disp _ => dispFits h.nImx disp
  | .famoAdd2 h _ _ disp _ => dispFits h.nImx disp
  | .famoMax h _ _ disp _ => dispFits h.nImx disp
  | .famoMin h _ _ disp _ => dispFits h.nImx disp
  | .msg .. => true
  | .callat .. => true
  | .mret .. => true
  | .hret .. => true
  | .clsm .. => true
  | .clsu .. => true
  | .mclose .. => true
  | .mpoll .. => true
  | .cpset .. => true
  | .cpgo .. => true
  | .cpwait .. => true
  | .cpq .. => true
  | .cshape .. => true
  | .cpmc .. => true
  | .gred .. => true
  | .gbc .. => true
  | .dsend .. => true
  | .dpoll .. => true
  | .dslot .. => true
  | .dsig .. => true
  | .rft .. => true
  | .rftNext .. => true
  | .trrec h _ _ disp => dispFits h.nImx disp
  | .mfp h _ _ disp => dispFits h.nImx disp
  | .mtp h _ _ disp => dispFits h.nImx disp
  | .tlbi .. => true
  | .tlbia .. => true
  | .xbset .. => true
  | .cflush h _ disp => dispFits h.nImx disp
  | .cinv h _ disp => dispFits h.nImx disp
  | .czero h _ disp => dispFits h.nImx disp
  | .dstop .. => true
  | .trmark .. => true
  | .evsel .. => true
  | .evrd .. => true
  | .rpcapCapture .. => true
  | .rpcapReplay .. => true
  | .rpcapEnd .. => true
  | .rpcapRelease .. => true
  | .rpstat .. => true
  | .tpert .. => true
  | .inj h _ _ disp => dispFits h.nImx disp
  | .pwrf .. => true
  | .breakpoint .. => true
  | .resultLand .. => true
  | .storeAck .. => true
  | .atomicPerform .. => true
  | .tlbWalk .. => true
  | .ticketGrant .. => true
  | .grantArrive .. => true
  | .tldRequestArrive .. => true
  | .ticketFetchPerform .. => true
  | .ticketDataArrive .. => true
  | .redeemArrive .. => true
  | .tkdropArrive .. => true
  | .tkqArrive .. => true
  | .redeemDelivery .. => true
  | .packageTimerTick => true
  | .leaseExpire .. => true
  | .setend .. => true
  | .replace .. => true
  | .splice .. => true
  | .adopt .. => true
  | .resolve .. => true
  | .unref .. => true
  | .wfreeMessage .. => true
  | .nfreeMessage .. => true
  | .pondRequestRound .. => true
  | .pondWorkRequest .. => true
  | .pondHighmAnnounce .. => true
  | .springStockRefill .. => true
  | .twinCompare .. => true
  | .msgArrive .. => true
  | .handlerStart .. => true
  | .taskStart .. => true
  | .messageRefusal .. => true
  | .barrierArrival .. => true
  | .barrierCompletionNotice .. => true
  | .collectiveContribution .. => true
  | .collectiveResult .. => true
  | .copyTransferStart .. => true
  | .copyTransferComplete .. => true
  | .tileStepStart .. => true
  | .tileStepRetire .. => true
  | .phldTakeEffect .. => true
  | .shadowSettle .. => true
  | .phrdTakeEffect .. => true
  | .phwrTakeEffect .. => true
  | .ptrimTakeEffect .. => true
  | .passBoundary .. => true
  | .trimSettle .. => true
  | .passStart .. => true
  | .passHeaderWrite .. => true
  | .probeEvaluation .. => true
  | .probeComplete .. => true
  | .pcalComplete .. => true
  | .deComplete .. => true
  | .deBankLoad .. => true
  | .balanceHeaterUpdate .. => true
  | .combLoss .. => true
  | .modStuck .. => true
  | .parityRecovery .. => true
  | .scrub .. => true
  | .asyncFaultTake .. => true
  | .fpExcWindowClose .. => true
  | .tickMiss .. => true
  | .quietNotice .. => true
  | .completionWave .. => true
  | .waveReport .. => true
  | .submissionTake .. => true
  | .dispatchSelect => true
  | .preemption .. => true
  | .resumption .. => true
  | .jobEnd .. => true
  | .completionEventWrite .. => true
  | .qCfgWrite .. => true
  | .dispKill .. => true
  | .contRectDefine .. => true
  | .contRectGo .. => true
  | .containment .. => true
  | .basinSplitWrite .. => true
  | .basinSplitDone .. => true
  | .dialCommit => true
  | .dialEnable .. => true
  | .dialRotationStart => true
  | .dialWindowOpen .. => true
  | .dialMessageEnd .. => true
  | .dialFlitReceive .. => true
  | .dialFlitNak .. => true
  | .dialMessageDelivered .. => true
  | .dialAck .. => true
  | .dialTimerDrift => true
  | .lossOfReturnLight .. => true
  | .dialPresenceLoss .. => true
  | .dsigPartialArrive .. => true
  | .dsigResultArrive .. => true
  | .nqlLinkDown => true
  | .nqlFail => true
  | .nqlRetrain => true
  | .hostMemAccess .. => true
  | .regUnsupportedAccess .. => true
  | .registerWrite .. => true
  | .nocGridSample => true
  | .fcastUpdate => true
  | .pcapLimitWrite .. => true
  | .pcapWindowEnd .. => true
  | .fastClamp => true
  | .clampRelease => true
  | .thermalTrip .. => true
  | .thermalRecovery .. => true
  | .healthUpdate => true
  | .coldReset .. => true
  | .attestGo .. => true
  | .attestReportDone => true
  | .debugStop .. => true
  | .debugAccess .. => true
  | .singleStep .. => true
  | .stepUntilDrained .. => true
  | .pondHandover .. => true
  | .dialTimerAligned => true
  | .moduleInsertion .. => true
  | .returnLightRestored .. => true
  | .spareLineProbe .. => true

/-- The operands of the instruction fit its lead words, so that it has an encoding. An event has none. -/
def Instr.fits (i : Instr) : Bool :=
  match i.parts with
  | some p => p.fits && i.immOk
  | none => false

/-- The words of an instruction that fits (R173 to R181). -/
def encode (i : Instr) : List W16 :=
  match i.parts with
  | some p => p.words
  | none => []

noncomputable section

/-- An instruction as its words read. The four rows of RPCAP share their words, which decode to the first: the control
word that selects among them is in a register (R307). -/
def Instr.asRead : Instr → Instr
  | .rpcapReplay h d a t => .rpcapCapture h d a t
  | .rpcapEnd h d a t => .rpcapCapture h d a t
  | .rpcapRelease h d a t => .rpcapCapture h d a t
  | i => i

end

/-- Marker and lead words of an instruction. -/
def Instr.head (i : Instr) : Head :=
  match i.parts with
  | some p => p.head
  | none => ⟨false, []⟩

end Sys2Proof
end

