-- ==== Sys2Proof/Machine/State.lean ====
section
/-! DEFINITION. The state of the package: cores, clusters, Matrix Units, dies, slices, jobs and the hub, as plain data.
A map lists only what differs from its default. The line of INVENTORY.md under '## State' names each field's rule. -/

namespace Sys2Proof.Machine

/-! ### Stops -/

/-- How a run can stop with a fault. The machine takes every fault of the manual as a next state; this model's own
stop is the one below. -/
inductive Fault where
  /-- Raised by `step` when the module has failed bring-up and nothing is left that could act (R362: a failed step
  leaves every later step undone). Safe: nothing happens after it on the part either, except accesses that an event
  of the agenda would stand for. -/
  | bringUpStopped
  deriving DecidableEq, Repr

/-- Why a step has no meaning. -/
inductive Refusal where
  /-- Raised by an arm of `exec` whose instruction has no meaning yet. Safe: no claim about such a step holds. -/
  | notModelled (mnemonic : String)
  deriving DecidableEq, Repr

/-! ### A core -/

/-- Why a level sleeps in a blocking instruction (R63, R401). `interlock` is awake for quiescence (R397). -/
inductive WaitReason where
  | ticket | barrier | pond | wire | engine | window | ext | awake
  deriving DecidableEq, Repr

/-- The wait of a level (R63, R382): the blocking instruction at `pc`, a number that the instruction noted when it
began to wait (the phase of BAR, the count of DPOLL, the serial of PSERIAL), and the change count at which it last looked. -/
structure Wait where
  reason : WaitReason
  pc : Word
  arg : Word
  stamp : Nat
  /-- The instruction has not issued: it is held at its marker or at an interlock (R184, R223). -/
  gate : Bool := false
  /-- The instruction is a FENCE (R114). -/
  fence : Bool := false
  deriving DecidableEq, Repr

/-- A fault detected after issue, waiting for a boundary of its level (R202), or held by the core as a pending class
1 fault (R381). -/
structure PendFault where
  code : Nat
  pc : Word
  tval : Word
  text : Word
  /-- Delivered through a ticket (R91, R380). -/
  tk : Bool := false
  deriving DecidableEq, Repr

/-- An outstanding result (R184): its number, its destination (general register r as r, vector register r as 64 + r,
scratchpad bytes as 128), and whether it is a redeem's (R235). -/
structure Out where
  id : Nat
  slot : Nat
  redeem : Bool
  deriving DecidableEq, Repr

/-- What each handler level has for itself (R186). -/
structure Level where
  /-- x0 to x31; the entry of x0 is never read (R185). -/
  x : Vector Word 32
  /-- v16 to v31. -/
  v : Vector Lanes 16
  pc : Word
  /-- FP.CTL: TEN [13:8], NANP [2], RM [1:0] (R138). -/
  ten : BitVec 6
  nanp : Bool
  rm : BitVec 2
  /-- FP.FLAGS [5:0] (R138). -/
  flags : BitVec 6
  tpc : Word
  tcause : Word
  tval : Word
  text : Word
  /-- Supervisor privilege (R379, R380; log 11). -/
  sup : Bool
  /-- MSG.SRC (R201). -/
  msgSrc : Word
  /-- The outstanding variable-latency results in issue order (R184). -/
  out : List Out
  /-- Registers whose interlocked result has not landed (R223, R275, R279). -/
  locks : List XReg
  wait : Option Wait
  /-- A wait kept across a trap taken in it (R382). -/
  kept : Option Wait
  /-- Faults detected after issue while the level was not running (R202). -/
  faults : List PendFault
  /-- Address of the instruction issued last at this level: TVAL of an overlay entry (R82). -/
  prev : Word
  /-- Where the rule, handler or task entered last at this level begins, for trace records (R372; log 88). -/
  entry : Word
  deriving DecidableEq, Repr

/-- A level as every register of every level is at a launch (R186, log 6). -/
def Level.zero : Level :=
  { x := Vector.replicate 32 0, v := Vector.replicate 16 (Vector.replicate 8 0), pc := 0, ten := 0,
    nanp := false, rm := 0, flags := 0, tpc := 0, tcause := 0, tval := 0, text := 0, sup := false,
    msgSrc := 0, out := [], locks := [], wait := none, kept := none, faults := [], prev := 0, entry := 0 }

/-- A core's standing (R65, R318, R397). -/
inductive CoreStatus where
  /-- On the core free list: not started. -/
  | off
  | running
  | halted
  | fenced
  deriving DecidableEq, Repr

/-- A ring descriptor (R258). -/
structure Ring where
  held : Nat
  ready : Nat
  head : Nat
  tail : Nat
  slots : Nat
  /-- Scratchpad offset in units of 64 bytes. -/
  base : Nat
  deriving DecidableEq, Repr

/-- A matrix step of a batch (R262): the row of R261, EXT[0], accumulator, Z, the ring and slot of A, of B, whether
B's slot was claimed, and the scale word. -/
structure TileStep where
  form : Nat
  ext : Bool
  acc : Nat
  z : Bool
  ra : Nat
  sa : Nat
  rb : Nat
  sb : Nat
  claimB : Bool
  scale : W32
  deriving DecidableEq, Repr

/-- An ENGW binding (R51): the wire end and the completion node allocated for it. -/
structure Binding where
  wire : Nat
  e : Nat
  node : Nat
  deriving DecidableEq, Repr

/-- A committed batch in flight (R260): its number, the steps not retired, whether the first has started, its status
so far, all its steps, and its binding. -/
structure Batch where
  num : Nat
  steps : List TileStep
  started : Bool
  status : Nat
  all : List TileStep
  bind : Option Binding
  deriving DecidableEq, Repr

/-- The activation in progress (R33, R34): the nodes delivered in x11 and x12, the wire in x10, the two principal
words, whether a net instruction of R283 has run, the wires allocated in it (R286), the cluster whose Pond held the
pair, and for deterministic mode the pair's path and the allocation counts (R54, R413). -/
structure Activation where
  a : Nat
  b : Nat
  wire : Nat
  wa : Nat
  wb : Nat
  dirty : Bool
  wires : List Nat
  pond : Nat
  pair : PondPair
  entry : Word
  path : Word
  kn : Nat
  kw : Nat
  /-- Nodes that ENGW and NRDM have allocated, which R54 does not count. -/
  ke : Nat
  deriving DecidableEq, Repr

/-- A sorted window (R58): the count fixed by MCLOSE, and the parked messages in arrival order. -/
structure SWindow where
  expect : Option Nat
  msgs : List UMsg
  /-- An MCLOSE issued after the first message: the count of the next window. -/
  next : Option Nat
  deriving DecidableEq, Repr

/-- An event counter (R306). -/
structure EvCounter where
  event : BitVec 12
  mode : BitVec 2
  count : BitVec 48
  deriving DecidableEq, Repr

/-- Debug standing of a core (R369 to R371). -/
inductive DebugState where
  | run
  /-- A stop is asked for and lands at the next stop point. -/
  | stopping
  | stopped
  /-- One instruction is to issue, then the core stops; with `drain` the stop holds until its engines are done. -/
  | stepping (drain : Bool)
  | draining
  /-- Released at a break bit: the next instruction issues whatever its bit (R370). -/
  | passing
  deriving DecidableEq, Repr

/-- One held item of a twin's stream (R413): the kind of R413 and the operands. -/
structure TwinItem where
  kind : Nat
  a : Word
  b : Word
  c : Word
  deriving DecidableEq, Repr

/-- A twin's part in a pair run twice (R412): the cluster and number of the twin run, and which of the runs this is
(0 primary, 1 partner, 2 third). -/
structure TwinRole where
  cl : Nat
  run : Nat
  which : Nat
  deriving DecidableEq, Repr

/-- A core (R185, R186, R200, R258, R284). -/
structure Core where
  status : CoreStatus
  lv : Vector Level 4
  /-- The running level, and the levels it interrupted, innermost first (R56). -/
  lvl : Fin 4
  under : List (Fin 4)
  /-- x32 to x63, v0 to v15, k0 to k7 and a0 to a3, shared by the levels (R186). -/
  xs : Vector Word 32
  vs : Vector Lanes 16
  k : Vector (BitVec 8) 8
  /-- Accumulator elements by 256·a + 16·i + j. -/
  acc : NMap W32
  asat : BitVec 4
  /-- CORE.XB.XB and INOVL (R80). -/
  xb : BitVec 11
  inovl : Bool
  ovec : BitVec 18
  grp : Word
  tickLimit : BitVec 32
  tickCount : BitVec 32
  inact : Bool
  intask : Bool
  dtabBase : Word
  /-- The core's copy of the dispatch table (R201, R228). -/
  dtab : List Word
  cmask : BitVec 8
  lease : BitVec 16
  /-- MMU.ROOT (R75): BASE [47:16] and COLOUR. -/
  root : Word
  /-- CORE.RETAIN (R65): V and COLOUR. -/
  retainV : Bool
  retainCol : BitVec 12
  /-- TRAP.DELEG, TRAP.UVEC and SUP.VEC (R379). -/
  delegTkt : Bool
  delegFp : Bool
  uvec : BitVec 18
  svec : BitVec 18
  /-- Spring (R36, R37, R284): tops, heads of the free lists, and the stocks. -/
  ntop : Nat
  wtop : Nat
  nfree : List Nat
  wfree : List Nat
  /-- How many of the slots that R36 would give next are at the core (R284). -/
  nstock : Nat
  wstock : Nat
  act : Option Activation
  /-- A pair whose rule lookup faulted, kept for the next PAIR (R282). -/
  kept : Option PondPair
  bind : Option Binding
  twin : Option TwinRole
  /-- Twin pairs offered to this core's next PAIR (R412): the twin run, which run this is, the pair and its rule entry. -/
  offer : List (TwinRole × PondPair × Word)
  /-- Stores not acknowledged (R114). -/
  stores : Nat
  grants : List Nat
  seq : BitVec 32
  /-- Handler queues of levels 1 to 3 (R56), task queue (R57), windows by type (R58), and the messages in the holding
  slots of the classes, in arrival order (R232). -/
  hq : Vector (List UMsg) 4
  tq : List UMsg
  win : NMap SWindow
  hold : List UMsg
  /-- A task ran last between activations: a pair is next (R57). Where level 0 goes on after the task. -/
  taskLast : Bool
  taskRet : Word
  /-- ARRIVED and the phase arrived in, by group slot (R222). -/
  arrived : NMap Nat
  /-- Collectives in flight by group slot: level, instruction address and destination (R223). -/
  coll : NMap (Nat × Word × XReg)
  ring : Vector Ring 8
  openB : List TileStep
  batches : List Batch
  lastBatch : BitVec 32
  bstat : List (Nat × Nat)
  tpert : Option (Nat × W32)
  cp : Vector Word 7
  cpIds : List Nat
  selMu : Nat
  /-- Passes and probes issued and not finished (R278): a number for each, by MU. -/
  unfinished : List Nat
  muNext : Nat
  /-- Header word 0 of the pass finished last, its serial, and the passes' serials by issue number (R278, R279). -/
  lastHdr : Word
  lastSerial : BitVec 32
  recent : Option (Nat × Option Nat)
  /-- PSERIALs that wait for a pass to start: level, destination, issue number (R279). -/
  serials : List (Nat × XReg × Nat)
  deNum : BitVec 32
  deStat : List (Nat × Nat)
  dsNum : BitVec 32
  dsOut : List Nat
  evc : Vector EvCounter 4
  pend : List PendFault
  /-- Offsets of the 2-byte words whose break bit is set (R370). -/
  brk : List Nat
  dbg : DebugState
  /-- Cause BREAK of a core that has stopped at a break bit, as the debugger learns it (R370). -/
  broke : Bool
  /-- Replay signature of the running pass (R307). -/
  sig : Word
  deriving DecidableEq, Repr

/-- A core on the free list, as after reset (R201, R37, R138, R379; log 6). -/
def Core.initial (c : Nat) : Core :=
  { status := .off, lv := Vector.replicate 4 Level.zero, lvl := 0, under := [],
    xs := Vector.replicate 32 0, vs := Vector.replicate 16 (Vector.replicate 8 0), k := Vector.replicate 8 0,
    acc := [], asat := 0, xb := 0, inovl := false, ovec := 0, grp := 0, tickLimit := 0, tickCount := 0,
    inact := false, intask := false, dtabBase := 0, dtab := [], cmask := 0, lease := 0, root := 0,
    retainV := false, retainCol := 0, delegTkt := false, delegFp := false, uvec := 0, svec := 0,
    ntop := 1, wtop := 1, nfree := [], wfree := [], nstock := 0, wstock := 0, act := none, kept := none,
    bind := none, twin := none, offer := [], stores := 0, grants := [], seq := 0,
    hq := Vector.replicate 4 [], tq := [], win := [], hold := [], taskLast := false, taskRet := 0, arrived := [], coll := [],
    ring := Vector.replicate 8 ⟨0, 0, 0, 0, 0, 0⟩, openB := [], batches := [], lastBatch := 0, bstat := [],
    tpert := none, cp := Vector.replicate 7 0, cpIds := [], selMu := c / 8 % 2, unfinished := [], muNext := 0,
    lastHdr := 0, lastSerial := 0, recent := none, serials := [], deNum := 0, deStat := [], dsNum := 0, dsOut := [],
    evc := Vector.replicate 4 ⟨0, 0, 0⟩, pend := [], brk := [], dbg := .run, broke := false, sig := 0 }

/-! ### A cluster -/

/-- A TLB entry (R74, R78): the page's first VA and the level of its leaf, its colour unless global, the page's PA,
MT, supervisor-only, W and R, and whether it was filled with D = 1. -/
structure TlbEntry where
  va : Nat
  level : Nat
  colour : Option Nat
  pa : Nat
  mt : Nat
  sup : Bool
  w : Bool
  r : Bool
  d : Bool
  deriving DecidableEq, Repr

/-- A transfer of the Copy Engine (R95): the snapshot of the issuing core's control registers and shape record. -/
structure Copy where
  id : Nat
  c : Nat
  regs : Vector Word 7
  shape : Option (List Word)
  bind : Option Binding
  running : Bool
  /-- Everything is written but what waits for a held ring slot; the status that the transfer then ends with (R354). -/
  moved : Bool
  status : Nat
  /-- The privilege of the code that did CPGO (R79). -/
  sup : Bool
  deriving DecidableEq, Repr

/-- Barrier and collective state of a group at its Weir (R61, R223, R396): phase number, members arrived, and the
contributions by collective number of each member. -/
structure Group where
  phase : Nat
  here : List Nat
  contrib : List (Nat × Contribution)
  deriving DecidableEq, Repr

/-- A twin run (R412 to R414): the cores that run it, primary first, the pair and rule entry, the streams held, the runs
that have retired with their counts of nodes and wires taken, and the slots taken from the primary's Spring (true for
a wire). -/
structure TwinRun where
  id : Nat
  cores : List Nat
  pair : PondPair
  entry : Word
  streams : List (List TwinItem)
  done : List (Nat × Nat × Nat)
  slots : List (Bool × Nat)
  deriving DecidableEq, Repr

/-- The reports of a collection window (R405). -/
structure FpReport where
  c : Nat
  pc : Word
  lane : Nat
  flags : BitVec 6
  deriving DecidableEq, Repr

/-- An entry of a die's walker pool (R78): the colour, the level of the table entry that it holds, the VA bits above what
that entry maps, and the entry. -/
structure PoolEntry where
  colour : Nat
  level : Nat
  va : Nat
  pte : Word
  deriving DecidableEq, Repr

/-- A cluster: Pond, Weir, rule cache, TLB, Copy Engine (R32, R47 to R50, R62, R78, R101). -/
structure Cluster where
  /-- Colour of the resident job, if any. -/
  job : Option Nat
  det : Bool
  steal : Bool
  highm : Nat
  lowm : Nat
  /-- Pairs held in hardware and spilled, oldest first (R48). -/
  pond : List PondPair
  spill : Nat
  /-- Pairs written to the spill region since the launch (R48; log 52). -/
  spilled : Nat
  /-- Pairs that wait for room in the spill region (R48). -/
  stalled : List PondPair
  /-- A request round runs; the last round failed everywhere; the pair count at the last look (R50). -/
  round : Bool
  failed : Bool
  wasLow : Bool
  wasHigh : Bool
  msgs : BitVec 32
  loops : Nat
  /-- Shunts held, by wire, with the end that a SPLICE consumed (R41, R47). -/
  shunts : NMap Nat
  rules : List (Nat × Nat × Word)
  tlb : List TlbEntry
  lastCp : BitVec 32
  copies : List Copy
  cpStat : List (Nat × Nat)
  fp : List FpReport
  fpOpen : Bool
  quietDirty : Bool
  noticed : Bool
  acts : Nat
  sent : Nat
  recv : Nat
  groups : NMap Group
  trRead : BitVec 32
  trWrite : BitVec 32
  twins : List TwinRun
  twinNext : Nat
  /-- MODEL (log 1): how often something has changed here. -/
  chg : Nat
  deriving DecidableEq, Repr

/-- A cluster after reset (R47, R49; log 24). -/
def Cluster.initial : Cluster :=
  { job := none, det := false, steal := true, highm := 512, lowm := 32, pond := [], spill := 0, spilled := 0, stalled := [],
    round := false, failed := false, wasLow := false, wasHigh := false, msgs := 0, loops := 0, shunts := [],
    rules := [], tlb := [], lastCp := 0, copies := [], cpStat := [], fp := [], fpOpen := false,
    quietDirty := false, noticed := false, acts := 0, sent := 0, recv := 0, groups := [], trRead := 0,
    trWrite := 0, twins := [], twinNext := 0, chg := 0 }

/-! ### Matrix Units and Decomposition Engines -/

/-- A command of an MU queue (R274): its place in arrival order, the issuing core, level, address and issue number, and
the command. -/
inductive MuOp where
  | phld (loc : Word)
  | phsw
  | phrd (sel : Word) (d : XReg)
  | phwr (sel v : Word)
  | ptrim (sel v : Word)
  | pass (desc : Word) (acc : Bool) (last : Bool)
  | probe
  | pcal (kind : Nat)
  deriving DecidableEq, Repr

structure MuCmd where
  stamp : Nat
  c : Nat
  lvl : Nat
  pc : Word
  num : Nat
  op : List MuOp
  bind : Option Binding
  /-- A pass of a PLOOP has started: the command is no longer cancelled (R278). -/
  begun : Bool
  deriving DecidableEq, Repr

/-- A probe in progress (R171, R415): the core that issued it, if one did, its number, and the serials of the passes that
had started since the last probe that passed. -/
structure ProbeRun where
  c : Option Nat
  num : Option Nat
  since : List Nat
  deriving DecidableEq, Repr

/-- A phase bank (R156): registers and loaded values. -/
structure Bank where
  ph : NMap (BitVec 16)
  ld : NMap (BitVec 16)
  sigma : W32
  lsigma : W32
  order : BitVec 6
  lorder : BitVec 6
  image : Word
  bad : Bool
  deriving DecidableEq, Repr

/-- A bank after cold reset (R156). -/
def Bank.zero : Bank := ⟨[], [], 0, 0, 0, 0, 0, false⟩

/-- A pass in progress (R166): who issued it, its number and serial, its descriptor, whether it adds, and the last pass
of its command. -/
structure Pass where
  c : Nat
  num : Nat
  serial : Nat
  desc : Word
  acc : Bool
  last : Bool
  suspect : Bool
  satf : Bool
  nanv : Bool
  bank : Nat
  /-- IMAGE ID and SIGMA of the bank as the pass used it (R166). -/
  image : Word
  sigma : W32
  bind : Option Binding
  deriving DecidableEq, Repr

/-- A Matrix Unit (R153 to R172, R415, R416). -/
structure Mu where
  banks : Vector Bank 2
  active : Fin 2
  swpend : Bool
  ldbusy : Bool
  /-- The core whose PHLD has not settled (R275). -/
  ldCore : Option Nat
  drift : BitVec 16
  enob : BitVec 4
  pser : BitVec 16
  probing : Option ProbeRun
  dfault : Bool
  balok : Bool
  dlim : BitVec 16
  serial : BitVec 32
  next : BitVec 32
  wgt : Word
  /-- Queues in order of arrival, all cores; round-robin position: the core being served, commands left in its turn,
  and the weight-0 core served last (R169). -/
  q : List MuCmd
  rr : Nat
  left : Nat
  w0 : Nat
  stamps : Nat
  /-- Active-bank writes that wait for the boundary: index, value, and whether it is a trim (R157). -/
  writes : List (Nat × Word × Bool)
  hold : Bool
  /-- The cores whose exchange, write or trim waits for that boundary or for its shifters (R114). -/
  owners : List Nat
  evalOk : Bool
  /-- A calibration in progress: the core and the kind (R280). -/
  cal : Option (Nat × Nat)
  stream : List Pass
  /-- Bank loads that the DE has placed (R159): place in arrival order and the bank. -/
  loads : List (Nat × Bank)
  /-- Serials of the passes since the last probe that passed, oldest first (R415). -/
  since : List Nat
  /-- State of each wavelength: 0 normal, 1 on its spare, 2 lost (R416); a switch is due; commands are not served. -/
  lam : Vector Nat 8
  due : List Nat
  pauseMu : Bool
  stuck : List (Nat × Nat)
  /-- What the Balance loop has not corrected of the realised phases, if anything: the number of its free values (R170,
  R280; log 8). -/
  dev : Option Nat
  deriving DecidableEq, Repr

/-- An MU after cold reset (R156, R166, R169, R172): MU m serves cores 8·(m mod 2) to 8·(m mod 2) + 7. -/
def Mu.initial (m : Nat) : Mu :=
  { banks := Vector.replicate 2 Bank.zero, active := 0, swpend := false, ldbusy := false, ldCore := none, drift := 0, enob := 0,
    pser := 0, probing := none, dfault := false, balok := false, dlim := 16, serial := 0, next := 1,
    wgt := if m % 2 = 0 then 0x11111111 else 0x1111111100000000, q := [], rr := 15, left := 0, w0 := 15, stamps := 0,
    writes := [], hold := false, owners := [], evalOk := false, cal := none, stream := [], loads := [], since := [],
    lam := Vector.replicate 8 0, due := [], pauseMu := false, stuck := [], dev := none }

/-- A command of a Decomposition Engine (R276): core, number, and the four descriptor words. -/
structure DeCmd where
  c : Nat
  num : Nat
  wva : Word
  rstr : Int
  iva : Word
  mu : Option Nat
  n : Nat
  /-- The privilege of the code that did PDEC (R79). -/
  sup : Bool
  deriving DecidableEq, Repr

/-- A record of a fault log (R387). -/
structure LogRec where
  w0 : Word
  w1 : Word
  w2 : Word
  w3 : Word
  deriving DecidableEq, Repr

/-- A message in a virtual output queue or on its way (R296, R346): sending core, level, instruction and send number,
colour, source, destination, length and package; once it has departed, its bytes (R417). -/
structure DialMsg where
  c : Nat
  lvl : Nat
  pc : Word
  n : Nat
  colour : Nat
  src : Word
  dst : Word
  len : Nat
  pkg : Nat
  data : List Byte
  deriving DecidableEq, Repr

/-- A die (R72, R159, R341, R346, R386). -/
structure Die where
  scr : Nat
  /-- The size a split in progress comes from (R72). -/
  oldScr : Option Nat
  de : List DeCmd
  log : List LogRec
  next : Nat
  lost : Nat
  tail : Nat
  voq : NMap (List DialMsg)
  pool : List PoolEntry
  deriving DecidableEq, Repr

/-- A die after reset (R72, R386). -/
def Die.initial : Die :=
  { scr := 4, oldScr := none, de := [], log := [], next := 0, lost := 0, tail := 0, voq := [], pool := [] }

/-- A Dial port (R341, R346, R364, R417, R418). -/
structure Port where
  n : Nat
  spares : Nat
  dark : Bool
  noLight : Bool
  sending : Option DialMsg
  unacked : List DialMsg
  /-- Flits to resend, ahead of the queue, each with its message and its offset (R417), and the slot whose window is open. -/
  resend : List (DialMsg × Nat)
  window : Option Nat
  /-- The instant of the open window that the port has reached, in units of 1/(25·n) ns from its start (R346). -/
  used : Nat
  /-- CRC failures by wavelength in this rotation: at this receiver, and at the one at the other end as its negative
  acknowledgements tell (R417, R418). -/
  fails : NMap Nat
  farFails : NMap Nat
  deriving DecidableEq, Repr

/-- A port after bring-up (R341; log 24). -/
def Port.initial : Port :=
  { n := 16, spares := 2, dark := false, noLight := false, sending := none, unacked := [], resend := [],
    window := none, used := 0, fails := [], farFails := [] }

/-! ### Slices -/

/-- State of a ticket entry (R88). -/
inductive TkState where
  | free | granted | flight | arrived | pending | spent | expired
  deriving DecidableEq, Repr

/-- A ticket table entry (R88). `left` counts the words of a fetch that have not come; `used` is the order of use. -/
structure TkEntry where
  st : TkState
  gen : Nat
  colour : Nat
  words : Nat
  kind : Nat
  frozen : Bool
  fault : Nat
  lease : Nat
  rd : Option Redeem
  fva : Word
  data : List Word
  left : Nat
  used : Nat
  core : Nat
  deriving DecidableEq, Repr

/-- A ticket entry after bring-up step 5 (R362; log 6). -/
def TkEntry.initial : TkEntry :=
  { st := .free, gen := 0, colour := 0, words := 0, kind := 0, frozen := false, fault := 0, lease := 0, rd := none,
    fva := 0, data := [], left := 0, used := 0, core := 0 }

/-- A Basin slice's ticket side (R86, R89, R94): table, next entry never granted of each half, alternation, order of
use, held events and orphans. -/
structure Slice where
  tk : NMap TkEntry
  lastOdd : Bool
  clock : Nat
  held : List (Nat × Instr)
  orphans : Nat
  deriving DecidableEq, Repr

/-- A slice after reset (R86, R94). -/
def Slice.initial : Slice := { tk := [], lastOdd := true, clock := 0, held := [], orphans := 0 }

/-! ### On the way -/

/-- An event on its way, on its channel: only the first of a channel can come about next (R39, R333; log 1). -/
structure Flight where
  chan : Nat
  ev : Instr
  deriving DecidableEq, Repr

/-- A store that waits for a ring slot to be released (R118, R354): the storing core, whether it waits for an
acknowledgement, and the bytes. -/
structure HeldWrite where
  c : Nat
  ack : Bool
  key : Nat
  bytes : List Byte
  /-- The Copy Engine transfer that writes: its cluster and ID (R354). -/
  cp : Option (Nat × Nat)
  deriving DecidableEq, Repr

/-! ### Jobs, queues and the hub -/

/-- How a resident job ends (R314). -/
structure Ending where
  status : Nat
  detail : Nat
  value : Word
  deriving DecidableEq, Repr

/-- A launch consumed and not completed (R312), a condition, or a job. `lpb` holds the launch parameter block's 32
words. -/
structure Launch where
  q : Nat
  seq : Nat
  cond : Bool
  mode : Nat
  pa : Nat
  cmp : Word
  deps : List (Nat × Nat × Bool)
  lpb : List Word
  deriving DecidableEq, Repr

/-- A group of the job's group table, as read at dispatch (R59, R318): its members in rank order, and the geometry word. -/
structure GroupDef where
  members : List Nat
  geo : Word
  deriving DecidableEq, Repr

/-- A job, resident or switched out (R24, R316, R326): its launch, effective priority, colour, partition, cores started,
ticket key, and where its pre-emption or end stands. -/
structure Job where
  launch : Launch
  prio : Nat
  colour : Nat
  cx : Nat
  cy : Nat
  w : Nat
  h : Nat
  cores : Nat
  key : Word
  groups : NMap GroupDef
  order : Nat
  out : Bool
  preempting : Bool
  /-- The launch that pre-empts the job, with its origin: it takes the clusters once the job is switched out (R325, R326). -/
  heir : Option (Launch × Nat × Nat)
  ending : Option Ending
  /-- The end of the job contains its partition (R388, R391). -/
  contain : Bool
  rootNode : Option Nat
  hung : Bool
  hangAt : Nat × Nat × Nat
  wave : Bool
  again : Bool
  scrAt : List Nat
  saved : List Nat
  savedMem : List Host.Cell
  savedCores : List (Nat × Core)
  savedClusters : List (Nat × Cluster)
  savedMus : List (Nat × Mu)
  /-- Dial sends that had not departed, with their die (R326). -/
  savedMsgs : List (Nat × DialMsg)
  /-- Messages that wait for room at its cores and Weirs. -/
  savedFlights : List Flight
  /-- A core has missed its Tick during the pre-emption, which then ends the job (R397). -/
  missed : Bool
  /-- Activations counted when the job left its partition, before its record could be published (R389, R420). -/
  acts : Nat
  deriving DecidableEq, Repr

/-- A submission queue (R311, R320). -/
structure Queue where
  base : Word
  cbase : Word
  prio : Nat
  log2d : Nat
  en : Bool
  consumed : BitVec 32
  completed : BitVec 32
  stats : List (Nat × Nat)
  deriving DecidableEq, Repr

/-- A queue after reset (R311). -/
def Queue.initial : Queue :=
  { base := 0, cbase := 0, prio := 63, log2d := 4, en := false, consumed := 1, completed := 1, stats := [] }

/-- What a read of the host or of the debugger returns: bytes with or without the link's poison indication, a word, the
status IN_FLIGHT, or the unsupported-request status with its data (R336, R371, R410). -/
inductive Answer where
  | none
  | data (bs : List Byte) (poison : Bool)
  | word (w : Word)
  | inFlight
  | unsupported (w : Option Word)
  deriving DecidableEq, Repr

/-- A replay session (R307). -/
structure Replay where
  colour : Nat
  part : Nat
  run : Bool
  mismatch : Bool
  ovf : Bool
  host : Bool
  passes : Nat
  blocks : List Nat
  /-- Signatures of cores of the pass that have left their job. -/
  acc : Word
  sig0 : Word
  sigN : Word
  deriving DecidableEq, Repr

/-- A package's own contribution to a collective of the signal lane (R298): its number, the operation, the core with its
level, and the scratchpad offset and words. -/
structure Dsig where
  id : Nat
  op : Nat
  c : Nat
  lvl : Nat
  pc : Word
  off : Nat
  own : List Word
  deriving DecidableEq, Repr

/-- A collective in progress on a tree (R351): its operation, the own contribution, the partial results of children by port,
and whether the result of this package has gone up. -/
structure DsigRun where
  tree : Nat
  op : Nat
  own : Option Dsig
  parts : List (Nat × List Word)
  sent : Bool
  deriving DecidableEq, Repr

/-- What a package sends on the signal lanes (R348 to R351, R417): the fate of a message, to the package, core and send
number that sent it (0 delivered, else the fault that its sender takes); the fate of one of its flits; a partial result
towards the parent; a result towards a child. -/
inductive LaneMsg where
  | fate (pkg c n code : Nat)
  | flit (pkg c n off wl : Nat) (ok : Bool)
  | part (tree port op : Nat) (ws : List Word)
  | result (tree port : Nat) (ws : List Word)
  deriving DecidableEq, Repr

/-- A message that is being received (R347, R417): its number here, the sending package, core and send number, the colour,
the length, the flit offsets that have come, and the fault that discards it, 0 for none. -/
structure Incoming where
  id : Nat
  src : Nat
  c : Nat
  n : Nat
  colour : Nat
  len : Nat
  got : List Nat
  bad : Nat
  deriving DecidableEq, Repr

/-- Standing of the host link (R420). -/
inductive LinkState where
  | up | down | failed
  deriving DecidableEq, Repr

/-- Power standing of a die's islands: full, or as a thermal trip leaves them (R421). -/
inductive PowerState where
  | full | tripped
  deriving DecidableEq, Repr

/-- The hub's registers and the Dispatcher's tables. -/
structure Hub where
  step : Nat
  fail : Bool
  code : Nat
  time : Word
  table : List Launch
  lastQ : NMap Nat
  evaddr : Word
  evmask : BitVec 128
  rcls : NMap Word
  link : LinkState
  /-- Stores and accesses to host memory that wait for the link: their number (R420). -/
  dialEn : Bool
  pendCommit : Bool
  rot : Nat
  drops : Nat
  dom : BitVec 192
  /-- Packages whose presence is lost and that the next rotation boundary takes out of the domain; and MODEL: the packages
  that have gone, and that have come, since the domain was first made, for the next bring-up step 6 (R419; log 112). -/
  lost : List Nat
  gone : BitVec 192
  come : BitVec 192
  aligned : Bool
  dest : NMap Word
  dtime : NMap Word
  destIn : NMap Word
  dtimeIn : NMap Word
  tree : NMap Word
  /-- The packages at the other ends of the ports, 8 bits each, by tree (R298, R350; log 47). -/
  kids : NMap Word
  dsigs : List DsigRun
  incoming : List Incoming
  /-- MODEL: what has left on the signal lanes, oldest first (log 76). -/
  lane : List LaneMsg
  rotating : Bool
  /-- The domain epoch E, the start of the rotation that runs, in 10 ns units of the package reference timer, and the slot
  whose windows are open (R344, R345). -/
  epoch : Nat
  rotAt : Nat
  slotAt : Option Nat
  /-- Receive counters by colour and source package (R297, R347, R361). -/
  rcv : NMap (NMap Nat)
  limit : Nat
  limitOob : Bool
  window : Nat
  actual : Nat
  trip : Bool
  clampW : Bool
  clamped : Bool
  floor : Bool
  capping : Bool
  health : NMap Word
  /-- VALUE of each indicator at the last updates, the latest first, and the lines that each HBM4 stack has lost (R368,
  R410). -/
  trend : NMap (List Nat)
  ecc : NMap Nat
  fcast : NMap Word
  rect : NMap Word
  svec : BitVec 18
  fwwin : Word
  nonce : NMap Word
  attr : Word
  /-- Destination and nonce of the report in progress (R365, R375). -/
  attrReq : Option (Nat × List Byte)
  /-- The fused rollback counter, the Crown image that runs, with the number of its flash copy, and the digest from which the
  identity key was derived (R363, R365). -/
  rollback : BitVec 32
  image : Option (Nat × BootCopy)
  idKey : Option (BitVec 512)
  rplay : Word
  replays : List Replay
  /-- Sessions that have been released, of each colour the last (R307). -/
  released : List Replay
  /-- MODEL: what the last read from outside has returned (log 76). -/
  answer : Answer
  bbase : Word
  trace : Word
  grid : Word
  gridN : Nat
  power : NMap PowerState
  deriving DecidableEq, Repr

/-- The hub after cold reset (R201, R307, R339, R341, R342, R362, R367, R375; log 24). -/
def Hub.initial : Hub :=
  { step := 1, fail := false, code := 0, time := 0, table := [], lastQ := [], evaddr := 0,
    evmask := 0, rcls := [], link := .up, dialEn := false, pendCommit := false, rot := 0, drops := 0, dom := 0,
    lost := [], gone := 0, come := 0,
    aligned := true, dest := [], dtime := [], destIn := [], dtimeIn := [], tree := [],
    kids := [], dsigs := [], incoming := [], lane := [], rotating := false, epoch := 0, rotAt := 0, slotAt := none, rcv := [],
    limit := 1800, limitOob := false, window := 100, actual := 0, trip := false, clampW := false, clamped := false,
    floor := false, capping := false, health := [], fcast := [], rect := [], svec := 0, fwwin := 0, nonce := [],
    attr := 0, attrReq := none, rollback := 0, image := none, idKey := none, rplay := 0x0001000000000000, replays := []
    released := [], answer := .none, trend := [], ecc := [], bbase := 0, trace := 0x3000000000000000, grid := 0,
    gridN := 0, power := [] }

/-! ### The package -/

/-- The state of the package. -/
structure State where
  cores : NMap Core
  clusters : NMap Cluster
  mus : NMap Mu
  dies : NMap Die
  slices : NMap Slice
  ports : NMap Port
  queues : NMap Queue
  jobs : List Job
  hub : Hub
  /-- Every byte of the package, by key (Machine/Ops.lean gives the keys). -/
  mem : Memory
  /-- The bytes of HBM4 and host memory that an L2 line holds dirty, with what lies under them (R67, R304). -/
  under : NMap Byte
  /-- The core that stored last to a 64-byte line of L2, for the lines that a containment writes back (R389). -/
  dirtyBy : NMap Nat
  /-- 64-byte lines that are poisoned (R410), and words whose parity does not match, with the bits that differ (R407). -/
  poison : List Nat
  damage : NMap Word
  heldWrites : List HeldWrite
  /-- MODEL (log 1): events on their way, the tape that says which agent moves next, a step count, a change count. -/
  agenda : List Flight
  turn : List Nat
  seq : Nat
  stamp : Nat
  /-- MODEL (log 10): how many free values have been taken. -/
  free : Nat
  /-- MODEL (log 1): the core whose instruction `exec` runs, and the number of the next event channel and result. -/
  cur : Nat
  ids : Nat
  /-- Package number: CORE.ID.PKG of every core (R18). -/
  pkg : BitVec 8
  deriving DecidableEq, Repr

/-- The machine right after cold reset: bring-up is at step 1 (R362), no core is started, memory lists nothing. -/
def State.reset : State :=
  { cores := [], clusters := [], mus := [], dies := [], slices := [], ports := [], queues := [], jobs := [],
    hub := Hub.initial, mem := [], under := [], dirtyBy := [], poison := [], damage := [], heldWrites := [], agenda := [],
    turn := [], seq := 0, stamp := 0, free := 0, cur := 0, ids := 0, pkg := 0xFF }

/-- Core `c`. -/
def State.core (s : State) (c : Nat) : Core := s.cores.get (Core.initial c) c
/-- Cluster `cl`. -/
def State.cluster (s : State) (cl : Nat) : Cluster := s.clusters.get Cluster.initial cl
/-- MU `m`: cluster m div 2, MU m mod 2. -/
def State.mu (s : State) (m : Nat) : Mu := s.mus.get (Mu.initial m) m
/-- Die `d`. -/
def State.die (s : State) (d : Nat) : Die := s.dies.get Die.initial d
/-- Slice `sl`. -/
def State.slice (s : State) (sl : Nat) : Slice := s.slices.get Slice.initial sl
/-- Dial port `p`. -/
def State.port (s : State) (p : Nat) : Port := s.ports.get Port.initial p
/-- Submission queue `q`. -/
def State.queue (s : State) (q : Nat) : Queue := s.queues.get Queue.initial q

/-- Replaces core `c`. -/
def State.setCore (s : State) (c : Nat) (k : Core) : State := { s with cores := s.cores.set c k }
/-- Replaces cluster `cl`. -/
def State.setCluster (s : State) (cl : Nat) (k : Cluster) : State := { s with clusters := s.clusters.set cl k }
/-- Replaces MU `m`. -/
def State.setMu (s : State) (m : Nat) (k : Mu) : State := { s with mus := s.mus.set m k }
/-- Replaces die `d`. -/
def State.setDie (s : State) (d : Nat) (k : Die) : State := { s with dies := s.dies.set d k }
/-- Replaces slice `sl`. -/
def State.setSlice (s : State) (sl : Nat) (k : Slice) : State := { s with slices := s.slices.set sl k }
/-- Replaces port `p`. -/
def State.setPort (s : State) (p : Nat) (k : Port) : State := { s with ports := s.ports.set p k }
/-- Replaces queue `q`. -/
def State.setQueue (s : State) (q : Nat) (k : Queue) : State := { s with queues := s.queues.set q k }
/-- Replaces the hub. -/
def State.setHub (s : State) (k : Hub) : State := { s with hub := k }

end Sys2Proof.Machine
end

