-- ==== Sys2Proof/Machine/Ops.lean ====
section
/-! DEFINITION. The named operations over the state that every family shares: where units stand, registers, events on
their way, waiting, memory by key, and the ends of an instruction. -/

namespace Sys2Proof.Machine

/-! ### Where units stand (R15 to R17) -/

/-- Cluster of a core (R17). -/
def clusterOf (c : Nat) : Nat := c / 16
/-- Die of a cluster (R16). -/
def dieOfCluster (cl : Nat) : Nat := 2 * (cl / 8 / 2) + cl % 8 / 4
/-- Die of a core. -/
def dieOf (c : Nat) : Nat := dieOfCluster (clusterOf c)
/-- Router of a core, x and y (R17). -/
def routerOf (c : Nat) : Nat × Nat :=
  (2 * (clusterOf c % 8) + c % 16 / 2 % 2, 4 * (clusterOf c / 8) + c % 16 / 2 / 2)
/-- The slice on a core's router, which is its ticket slice (R17, R86). -/
def sliceOf (c : Nat) : Nat := (routerOf c).2 * 16 + (routerOf c).1
/-- Global number of local slice `l` of die `d` (R69, R77). -/
def sliceOfDie (d l : Nat) : Nat := (8 * (d / 2) + l / 8) * 16 + (8 * (d % 2) + l % 8)
/-- Die of a slice (R15). -/
def dieOfSlice (sl : Nat) : Nat := 2 * (sl / 16 / 8) + sl % 16 / 8
/-- The core named by its sector index, seen from core `c` (R17). -/
def sectorCore (c sc : Nat) : Nat := (clusterOf c / 8 * 8 + clusterOf c % 8 / 4 * 4 + sc / 16) * 16 + sc % 16
/-- Sector of a cluster, package-wide (R16). -/
def sectorOfCluster (cl : Nat) : Nat := 2 * dieOfCluster cl + cl / 8 % 2

/-- The two cores of a slice's router, even core first (R17). -/
def coresOfSlice (sl : Nat) : List Nat :=
  let x := sl % 16
  let y := sl / 16
  let c := (y / 4 * 8 + x / 2) * 16 + 2 * (y % 4 * 2 + x % 2)
  [c, c + 1]

/-- Home slice of a physical address (R77). -/
def homeSlice (pa : Nat) : Nat :=
  let die := if pa < 0x6000000000 then pa / 0xC00000000 / 2 else (pa / 256 % 4) ^^^ (pa / 0x100000 % 4)
  sliceOfDie die ((pa / 0x100 % 64) ^^^ (pa / 0x4000 % 64) ^^^ (pa / 0x100000 % 64))

/-! ### Registers (R185, R186) -/

/-- Changes level `l` of a core. -/
def Core.upLv (k : Core) (l : Fin 4) (f : Level → Level) : Core := { k with lv := k.lv.set l (f k.lv[l]) }

/-- A general register as level `l` reads it: x0 reads 0. -/
def Core.getX (k : Core) (l : Fin 4) (r : XReg) : Word :=
  if r = 0 then 0
  else if r.toNat < 32 then k.lv[l].x[r.toNat]?.getD 0
  else k.xs[r.toNat - 32]?.getD 0

/-- Writes a general register of level `l`: a write to x0 is discarded. -/
def Core.setX (k : Core) (l : Fin 4) (r : XReg) (w : Word) : Core :=
  if r = 0 then k
  else if r.toNat < 32 then k.upLv l (fun v => { v with x := v.x.setIfInBounds r.toNat w })
  else { k with xs := k.xs.setIfInBounds (r.toNat - 32) w }

/-- A vector register as level `l` reads it. -/
def Core.getV (k : Core) (l : Fin 4) (r : VReg) : Lanes :=
  if r.toNat < 16 then k.vs[r.toNat]?.getD (Vector.replicate 8 0)
  else k.lv[l].v[r.toNat - 16]?.getD (Vector.replicate 8 0)

/-- Writes a vector register of level `l`. -/
def Core.setV (k : Core) (l : Fin 4) (r : VReg) (w : Lanes) : Core :=
  if r.toNat < 16 then { k with vs := k.vs.setIfInBounds r.toNat w }
  else k.upLv l (fun v => { v with v := v.v.setIfInBounds (r.toNat - 16) w })

/-- A mask register: k0 reads 0xFF. -/
def Core.getK (k : Core) (r : KReg) : BitVec 8 := if r = 0 then 0xFF else k.k[r.toNat]?.getD 0

/-- Writes a mask register: a write to k0 is discarded. -/
def Core.setK (k : Core) (r : KReg) (w : BitVec 8) : Core :=
  if r = 0 then k else { k with k := k.k.setIfInBounds r.toNat w }

/-- The executing core. -/
def State.me (s : State) : Core := s.core s.cur
/-- The running level of the executing core. -/
def State.lev (s : State) : Level := s.me.lv[s.me.lvl]
/-- Changes core `c`. -/
def State.upCore (s : State) (c : Nat) (f : Core → Core) : State := s.setCore c (f (s.core c))
/-- Changes the executing core. -/
def State.upMe (s : State) (f : Core → Core) : State := s.upCore s.cur f
/-- Changes the running level of the executing core. -/
def State.upLev (s : State) (f : Level → Level) : State := s.upMe (fun k => k.upLv k.lvl f)
/-- Changes cluster `cl`. -/
def State.upCluster (s : State) (cl : Nat) (f : Cluster → Cluster) : State := s.setCluster cl (f (s.cluster cl))
/-- Changes MU `m`. -/
def State.upMu (s : State) (m : Nat) (f : Mu → Mu) : State := s.setMu m (f (s.mu m))
/-- Changes die `d`. -/
def State.upDie (s : State) (d : Nat) (f : Die → Die) : State := s.setDie d (f (s.die d))
/-- Changes slice `sl`. -/
def State.upSlice (s : State) (sl : Nat) (f : Slice → Slice) : State := s.setSlice sl (f (s.slice sl))
/-- Changes port `p`. -/
def State.upPort (s : State) (p : Nat) (f : Port → Port) : State := s.setPort p (f (s.port p))
/-- Changes queue `q`. -/
def State.upQueue (s : State) (q : Nat) (f : Queue → Queue) : State := s.setQueue q (f (s.queue q))
/-- Changes the hub. -/
def State.upHub (s : State) (f : Hub → Hub) : State := s.setHub (f s.hub)

/-- x[r] of the running level. -/
def State.getX (s : State) (r : XReg) : Word := s.me.getX s.me.lvl r
/-- x[r] := w at the running level. -/
def State.setX (s : State) (r : XReg) (w : Word) : State := s.upMe (fun k => k.setX k.lvl r w)
/-- v[r] of the running level. -/
def State.getV (s : State) (r : VReg) : Lanes := s.me.getV s.me.lvl r
/-- v[r] := w at the running level. -/
def State.setV (s : State) (r : VReg) (w : Lanes) : State := s.upMe (fun k => k.setV k.lvl r w)
/-- k[r]. -/
def State.getK (s : State) (r : KReg) : BitVec 8 := s.me.getK r
/-- k[r] := w. -/
def State.setK (s : State) (r : KReg) (w : BitVec 8) : State := s.upMe (fun k => k.setK r w)

/-- Address of the instruction's first word. -/
def State.pc (s : State) : Word := s.lev.pc
/-- Cluster of the executing core. -/
def State.cl (s : State) : Nat := clusterOf s.cur
/-- Colour of a core's job (R75). -/
def Core.colour (k : Core) : Nat := k.root.toNat % 4096
/-- The job of a colour. -/
def State.job? (s : State) (colour : Nat) : Option Job := s.jobs.find? (fun j => j.colour == colour)
/-- Changes the job of a colour. -/
def State.upJob (s : State) (colour : Nat) (f : Job → Job) : State :=
  { s with jobs := s.jobs.map (fun j => if j.colour == colour then f j else j) }

/-- Is a core inside a job's partition (R24)? -/
def Job.holds (j : Job) (c : Nat) : Bool :=
  let cl := clusterOf c
  decide (c < 512) && decide (j.cx ≤ cl % 8) && decide (cl % 8 < j.cx + j.w) && decide (j.cy ≤ cl / 8) &&
    decide (cl / 8 < j.cy + j.h)

/-- Clusters of a partition in index order (R54). -/
def Job.clusters (j : Job) : List Nat :=
  (List.range 32).filter (fun cl => j.holds (cl * 16))

/-- Cores of a job whose state stands in the clusters, and not with the job (R326): those of clusters that were not taken. -/
def Job.present (j : Job) : List Nat :=
  (j.clusters.filter (fun cl => !(j.out && j.saved.contains cl))).flatMap (fun cl => (List.range 16).map (cl * 16 + ·))
/-- Cores of a partition in rank order (R54). -/
def Job.allCores (j : Job) : List Nat := j.clusters.flatMap (fun cl => (List.range 16).map (cl * 16 + ·))

/-- Is core `c` in the partition of the executing core's job? A core without a job stands alone. -/
def State.inPartition (s : State) (c : Nat) : Bool :=
  match s.job? s.me.colour with
  | some j => j.holds c
  | none => c == s.cur

/-! ### The ends of an instruction -/

/-- The instruction is done: the program counter moves past it (R180). -/
def State.advance (s : State) (h : Head) : State :=
  s.upLev (fun v => { v with prev := v.pc, pc := v.pc + BitVec.ofNat 64 h.len, wait := none })

/-- How often something has changed that core `c` could be waiting for. -/
def State.changes (s : State) (c : Nat) : Nat := s.stamp + (s.cluster (clusterOf c)).chg

/-- The level sleeps in the instruction at its program counter and looks again once something has changed (R63). -/
def State.block (s : State) (r : WaitReason) (arg : Word := 0) : State :=
  s.upLev (fun v => { v with wait := some { reason := r, pc := v.pc, arg := arg, stamp := s.changes s.cur } })

/-- The level sleeps in a FENCE: a pre-emption waits for it (R114). -/
def State.blockFence (s : State) (r : WaitReason) : State :=
  (s.block r).upLev (fun v => { v with wait := v.wait.map (fun w => { w with fence := true }) })

/-- The wait in which the running level re-enters the instruction at its program counter, if it does (R382). -/
def State.waiting (s : State) : Option Wait :=
  match s.lev.wait with
  | some w => if w.pc = s.lev.pc ∧ w.gate = false then some w else none
  | none => none

/-- Is a level asleep with a wait reason (R63, R401)? -/
def Level.asleep (v : Level) : Bool := v.wait.any (fun w => w.reason != .awake)

/-- Something has changed: sleepers look again (R63). -/
def State.touch (s : State) : State := { s with stamp := s.stamp + 1 }

/-- Something has happened in a cluster: its sleepers look again, and it was not quiet (R62, R63). -/
def State.touchCl (s : State) (cl : Nat) : State :=
  s.upCluster cl (fun k => { k with chg := k.chg + 1, quietDirty := true, noticed := false })

/-- Counts `n` occurrences of an event at core `c` in the counters that name it and whose mode takes its running
level (R306, R373). -/
def State.count (s : State) (c ev : Nat) (n : Nat := 1) : State :=
  s.upCore c (fun k => { k with evc := k.evc.map (fun e =>
    if e.event.toNat = ev ∧ (e.mode = 0 ∨ (e.mode = 1 ∧ k.lvl = 0) ∨ (e.mode = 2 ∧ k.lvl ≠ 0)) then
      { e with count := e.count + BitVec.ofNat 48 n } else e) })

/-! ### Events on their way (log 1) -/

/-- Puts an event at the end of a channel. -/
def State.push (s : State) (chan : Nat) (ev : Instr) : State := { s with agenda := s.agenda ++ [⟨chan, ev⟩] }

/-- A fresh number. -/
def State.fresh (s : State) : State := { s with ids := s.ids + 1 }

/-- Puts an event on a channel of its own. -/
def State.pushFree (s : State) (ev : Instr) : State := s.fresh.push (2 ^ 40 + s.ids) ev

/-- Is a result slot a register that the levels share: x32 to x63, v0 to v15 (R186)? -/
def sharedSlot (slot : Nat) : Bool := decide (32 ≤ slot) && decide (slot < 80)

/-- Channel of a core's results for one destination (R184). -/
def landChan (c lvl reg : Nat) : Nat := (c * 4 + lvl) * 256 + reg
/-- Channel of messages, tasks and replies of one route class from one core to one core: VC 3 (R228, R332, R333). -/
def msgChan (src tgt cls : Nat) : Nat := 2 ^ 20 + (src * 512 + tgt) * 8 + cls
/-- Channel of refusals from a target core to the senders of messages (R229, R333). -/
def refusalChan (tgt src : Nat) : Nat := 2 ^ 29 + tgt * 512 + src
/-- Channel of net messages from one source to one Weir (R39). Sources: core c, 512 + Weir, 1024 + slice,
2048 + engine. -/
def netChan (src cl : Nat) : Nat := 2 ^ 24 + src * 32 + cl
/-- Channel of a core's requests to one slice (R333). -/
def sliceChan (c sl : Nat) : Nat := 2 ^ 26 + c * 256 + sl
/-- Channel of a member's barrier and collective traffic to a Weir: VC 3 (R222, R223, R332, R333). -/
def groupChan (c cl : Nat) : Nat := 2 ^ 28 + c * 32 + cl
/-- Channel of the notices and results of a Weir to a member (R222, R223, R333). -/
def noticeChan (cl c : Nat) : Nat := 2 ^ 28 + 2 ^ 20 + cl * 512 + c
/-- Channel of the results of a tree of the signal lane (R351). -/
def dsigChan (tree : Nat) : Nat := 2 ^ 35 + tree
/-- Channel of the fetches that a ticket slice forwards to a home slice (R87, R333). -/
def fetchChan (sl home : Nat) : Nat := 2 ^ 30 + sl * 256 + home
/-- Channel of the answers of a slice to a core: VC 1 (R332, R333). -/
def answerChan (sl c : Nat) : Nat := 2 ^ 32 + sl * 512 + c
/-- Channel of a core's atomics to the scratchpad of core `t`, and of the answers from there (R332, R333). -/
def padChan (c t : Nat) : Nat := 2 ^ 33 + c * 512 + t
def padAnswerChan (t c : Nat) : Nat := 2 ^ 34 + t * 512 + c
/-- Channel of the grants to a core (R86). -/
def grantChan (c : Nat) : Nat := 2 ^ 36 + c
/-- Channel of the data that a home slice sends to a ticket slice (R87, R333). -/
def dataChan (home sl : Nat) : Nat := 2 ^ 31 + home * 256 + sl

/-! ### crc64 (R211) -/

/-- One shift of the crc64 register. -/
def crcShift (c : Word) : Word := if c.getLsbD 63 then (c <<< 1) ^^^ 0x42F0E1EBA9EA3693 else c <<< 1

/-- `n` shifts. -/
def crcShifts : Nat → Word → Word
  | 0, c => c
  | n + 1, c => crcShifts n (crcShift c)

/-- The crc64 of R211 carried over one more byte. -/
def crcByte (c : Word) (b : Byte) : Word := crcShifts 8 (c ^^^ (b.setWidth 64 <<< 56))

/-- The crc64 of R211 carried over the 8 bytes of a word. -/
def crcWord (c w : Word) : Word :=
  (List.range 8).foldl (fun c i => crcByte c ((w >>> (8 * i)).setWidth 8)) c

/-- Is a replay pass of a colour running (R307)? -/
def State.replaying (s : State) (colour : Nat) : Bool := s.hub.replays.any (fun r => r.colour == colour && r.run)

/-- Notes a word in the signature of the running replay pass of core `c`'s job (R307). -/
def State.note (s : State) (c : Nat) (w : Word) : State :=
  if s.replaying (s.core c).colour then s.upCore c (fun k => { k with sig := crcWord k.sig w }) else s

/-! ### Free values (log 10) -/

/-- Takes the next free value: the machine counts one more. -/
def State.take (s : State) : State := { s with free := s.free + 1 }

/-! ### Memory by key

HBM4 and host memory have their physical address as key (R76). Basin scratch, scratchpads, lane slices and MU buffers
have key ranges of their own above the 48-bit physical space. -/

/-- Key of a byte of Basin scratch (R69). -/
def scratchKey (sl off : Nat) : Nat := 2 ^ 48 + sl * 2 ^ 24 + off
/-- Key of a byte of a core's scratchpad (R69). -/
def padKey (c off : Nat) : Nat := 2 ^ 49 + c * 2 ^ 18 + off
/-- Key of a byte of a core's lane slices (R69). -/
def laneKey (c off : Nat) : Nat := 2 ^ 49 + 2 ^ 30 + c * 2 ^ 14 + off
/-- Key of a byte of an MU's buffers: regions 0 and 1 pass buffers, 2 the result buffer (R69). -/
def muKey (m region off : Nat) : Nat := 2 ^ 49 + 2 ^ 31 + m * 2 ^ 20 + region * 2 ^ 18 + off

/-- Is the key one of HBM4 or host memory? -/
def isGlobal (key : Nat) : Bool := decide (key < 2 ^ 48)
/-- Is a physical address populated (R76)? -/
def populated (pa : Nat) : Bool := decide (pa < 0x6000000000) || (decide (0x800000000000 ≤ pa) && decide (pa < 2 ^ 48))

/-- Little-endian value of bytes (R2). -/
def leVal : List Byte → Nat
  | [] => 0
  | b :: r => b.toNat + 256 * leVal r

/-- `n` little-endian bytes of a number (R2). -/
def leBytes : Nat → Nat → List Byte
  | 0, _ => []
  | n + 1, v => BitVec.ofNat 8 v :: leBytes n (v / 256)

/-- The `n` bytes at a key as a number. -/
def State.peek (s : State) (key n : Nat) : Nat := leVal (s.mem.bytes key n)

/-- The 8 bytes at a key. -/
def State.peek64 (s : State) (key : Nat) : Word := BitVec.ofNat 64 (s.peek key 8)

/-- Bits of a word as a number. -/
def bits (w : Word) (lo n : Nat) : Nat := w.toNat / 2 ^ lo % 2 ^ n

/-- Sign-extends the low `n` bits of a word. -/
def sext (n : Nat) (w : Word) : Word := sextNat n w.toNat

/-- Drops the damage of the bytes that a write replaces (R407). -/
def clearDamage (d : NMap Word) (key n : Nat) : NMap Word :=
  if d.isEmpty then d
  else d.filterMap (fun e =>
    let m := (List.range 8).foldl (fun m i =>
      if decide (key ≤ e.1 * 8 + i) && decide (e.1 * 8 + i < key + n) then
        m &&& ~~~((0xFF : Word) <<< (8 * i)) else m) e.2
    if m = 0 then none else some (e.1, m))

/-- A write that covers whole 64-byte lines ends their poison (R410). -/
def clearPoison (p : List Nat) (key n : Nat) : List Nat :=
  p.filter (fun l => !(decide (key ≤ l * 64) && decide (l * 64 + 64 ≤ key + n)))

/-- Remembers what lies under bytes that become dirty in L2 (R67). -/
def dirtyUnder (m : Memory) (u : NMap Byte) (key : Nat) : Nat → NMap Byte
  | 0 => u
  | n + 1 => dirtyUnder m (if (u.find? key).isSome then u else u.set key (m.read key)) (key + 1) n

/-- Writes bytes at a key at once. With `cached`, a write to HBM4 or host memory leaves the bytes dirty in L2; without,
it reaches the memory (R68, R74). -/
def State.poke (s : State) (key : Nat) (bs : List Byte) (cached : Bool := true) : State :=
  { s with
    mem := s.mem.writeBytes key bs
    under := if isGlobal key then
        (if cached then dirtyUnder s.mem s.under key bs.length
         else s.under.filter (fun e => !(decide (key ≤ e.1) && decide (e.1 < key + bs.length))))
      else s.under
    poison := if s.poison.isEmpty then s.poison else clearPoison s.poison key bs.length
    damage := clearDamage s.damage key bs.length }

/-- Is one of the lines of the bytes poisoned (R410)? -/
def State.poisoned (s : State) (key n : Nat) : Bool :=
  s.poison.any (fun l => decide (l * 64 < key + n) && decide (key < l * 64 + 64))

/-- The slice that serves a key of HBM4, host memory or Basin scratch. -/
def sliceOfKey (key : Nat) : Nat := if isGlobal key then homeSlice key else (key - scratchKey 0 0) / 2 ^ 24 % 256

/-- Does a store of `n` bytes cover whole lines, so that it may write a poisoned line (R410)? -/
def coversLines (key n : Nat) : Bool := decide (key % 64 = 0) && decide (n % 64 = 0)

/-! ### Ring slots that hold stores back (R118, R258) -/

/-- Is the byte in a held slot of one of the rings? Held slots stand from TAIL − HELD (R258). -/
def Ring.holds (r : Ring) (off : Nat) : Bool :=
  if r.slots = 0 then false
  else if off < 64 * r.base then false
  else
    let i := (off - 64 * r.base) / 768
    decide (i < r.slots) && decide ((i + r.slots - (r.tail + r.slots - r.held % r.slots) % r.slots) % r.slots < r.held)

/-- The core in whose scratchpad a key lies, if it lies in one. -/
def padOwner (key : Nat) : Option Nat :=
  if decide (padKey 0 0 ≤ key) && decide (key < padKey 512 0) then some ((key - padKey 0 0) / 2 ^ 18) else none

/-- Is one of the bytes in a held ring slot of the scratchpad they lie in (R118)? -/
def State.heldSlot (s : State) (key n : Nat) : Bool :=
  if decide (padKey 0 0 ≤ key) && decide (key < padKey 512 0) then
    let k := s.core ((key - padKey 0 0) / 2 ^ 18)
    k.ring.toList.any (fun r => r.held != 0 &&
      (List.range n).any (fun i => r.holds ((key + i - padKey 0 0) % 2 ^ 18)))
  else false

/-- Performs a store, or holds it back while its bytes lie in a held ring slot (R118, R354). `ack` says that the storing
core counts it as not acknowledged. -/
def State.store (s : State) (c key : Nat) (bs : List Byte) (cached : Bool := true) (ack : Bool := false) : State :=
  if s.heldSlot key bs.length then { s with heldWrites := s.heldWrites ++ [⟨c, ack, key, bs, none⟩] }
  else s.poke key bs cached

/-- The bytes at a key as core `c` reads them: its own held stores are seen by it (R110, R118). -/
def State.readFor (s : State) (c key n : Nat) : List Byte :=
  if s.heldWrites.isEmpty then s.mem.bytes key n
  else ((s.heldWrites.filter (fun w => w.c == c && w.cp.isNone)).foldl (fun m w => m.writeBytes w.key w.bytes) s.mem).bytes key n

/-- Performs the held stores whose bytes no held slot covers any more, in their order (R118, R262). -/
def State.releaseHeld (s : State) : State :=
  s.heldWrites.foldl (fun (u : State) w =>
    if u.heldSlot w.key w.bytes.length then { u with heldWrites := u.heldWrites ++ [w] }
    else
      let u := u.poke w.key w.bytes
      if w.ack then u.pushFree (.storeAck w.c) else u) { s with heldWrites := [] }

end Sys2Proof.Machine
end

