-- ==== Sys2Proof/Machine/MuQueue.lean ====
section
/-! DEFINITION. The queues of a Matrix Unit and the order in which it serves them (R157, R159, R169, R274). -/

namespace Sys2Proof.Machine

/-! ### Service order (R169, R274) -/

/-- Does something wait for the next pass boundary (R157, R416)? -/
def Mu.boundaryDue (m : Mu) : Bool := m.swpend || !m.writes.isEmpty || !m.due.isEmpty

/-- Can a command be served now? A DE load comes before every command queued after it (R159); a PHSW waits for a shadow
load and a load for a PHSW (R157); a core's next command waits for its own PHLD to settle (R275); what is served after a
probe takes effect after it, and a pass then sees its ENOB (R157, R169, R171). -/
def Mu.ready (m : Mu) (q : MuCmd) : Bool :=
  !m.pauseMu && m.cal.isNone && m.probing.isNone && (match m.loads with | (st, _) :: _ => decide (q.stamp < st) | [] => true) &&
    m.ldCore != some q.c &&
    (match q.op with
    | .phsw :: _ => !m.ldbusy && !m.swpend
    | .phld _ :: _ => !m.swpend && !m.ldbusy
    | .pcal _ :: _ => m.stream.isEmpty && !m.boundaryDue && !m.hold
    | _ => true)

/-- The command at the head of core n's queue, n within the cluster, if it can be served. -/
def Mu.head (m : Mu) (n : Nat) : Option MuCmd :=
  match m.q.find? (fun q => q.c % 16 == n) with
  | some q => if m.ready q then some q else none
  | none => none

/-- Weight of core n (R169). -/
def Mu.weight (m : Mu) (n : Nat) : Nat := bits m.wgt (4 * n) 4

/-- The command at the head of the service order, and the round robin after it. -/
def Mu.pick (m : Mu) : Option (MuCmd × Mu) :=
  let next (k : Nat) := (List.range 16).map (fun i => (k + 1 + i) % 16)
  match (if decide (0 < m.left) && decide (0 < m.weight m.rr) then m.head m.rr else none) with
  | some q => some (q, { m with left := m.left - 1 })
  | none =>
    match (next m.rr).findSome? (fun n => if 0 < m.weight n then (m.head n).map (fun q => (q, n)) else none) with
    | some (q, n) => some (q, { m with rr := n, left := m.weight n - 1 })
    | none =>
      (next m.w0).findSome? (fun n => if m.weight n = 0 then (m.head n).map (fun q => (q, { m with w0 := n })) else none)

/-- Takes the first operation of a command out of the queue: a PLOOP with passes left stays at its place. -/
def Mu.drop (m : Mu) (q : MuCmd) : Mu :=
  { m with q := m.q.filterMap (fun r =>
      if r.stamp = q.stamp then
        (match r.op with
        | _ :: o :: rest => some { r with op := o :: rest, num := r.num + 1, begun := true }
        | _ => none)
      else some r) }

/-- PHSW, PPROBE and PCAL are taken as soon as they are served: what they do comes about in events of its own. A probe
occupies the mesh, so that it waits for the boundary before it (R157, R171). -/
def Mu.serve : Nat → Mu → Mu
  | 0, m => m
  | fuel + 1, m =>
    match m.pick with
    | none => m
    | some (q, k) =>
      match q.op with
      | .phsw :: _ => Mu.serve fuel { (k.drop q) with swpend := true, owners := q.c :: k.owners }
      | .probe :: _ =>
        if m.boundaryDue || m.hold then m
        else Mu.serve fuel { (k.drop q) with probing := some ⟨some q.c, some q.num, m.since⟩ }
      | .pcal kind :: _ => { (k.drop q) with cal := some (q.c, kind) }
      | _ => m

/-- An MU serves what can be served at once. -/
def State.muServe (s : State) (m : Nat) : State := s.upMu m (fun k => k.serve 256)

/-- The operation that an MU serves next. -/
def Mu.nextOp (m : Mu) : Option MuOp := m.pick.bind (fun p => p.1.op.head?)

end Sys2Proof.Machine
end

