-- ==== Sys2Proof/Machine/Traps.lean ====
section
/-! DEFINITION. Faults: codes and classes, the fault log, machine checks, taking a trap and returning from one, and
raising faults after issue (R202, R376 to R391). -/

namespace Sys2Proof.Machine

/-! ### Codes (R377) -/

namespace Code
def illegal := 0x02
def privilege := 0x03
def trap := 0x04
def ctxBad := 0x05
def double := 0x06
def overlay := 0x07
def ovlDouble := 0x08
def xbRange := 0x09
def vaRange := 0x10
def addrWin := 0x11
def align := 0x12
def xoAccess := 0x13
def pageNp := 0x14
def pageProt := 0x15
def ptBad := 0x16
def poison := 0x17
def fenced := 0x18
def tktSpan := 0x20
def tktSpent := 0x21
def tktStale := 0x22
def tktForged := 0x23
def tktExpired := 0x24
def shapeBad := 0x28
def cpSpace := 0x29
def cpAlign := 0x2A
def cpCode := 0x2B
def cpId := 0x2C
def ef8Bad := 0x2D
def barDouble := 0x30
def barNonmember := 0x31
def collBad := 0x32
def collMismatch := 0x33
def msgTarget := 0x34
def msgType := 0x35
def winCount := 0x36
def fpExc := 0x38
def rescBad := 0x39
def ringBad := 0x40
def ringEmpty := 0x41
def teBatch := 0x42
def teOpen := 0x43
def muBad := 0x48
def phBad := 0x49
def passBad := 0x4A
def passFlushed := 0x4B
def deBad := 0x4C
def deNan := 0x4D
def drift := 0x4E
def nodeBad := 0x50
def wireBad := 0x51
def netCtx := 0x52
def netCorrupt := 0x53
def heapFull := 0x54
def noRule := 0x55
def pondFull := 0x56
def ruleBad := 0x57
def ruleFull := 0x58
def dialBad := 0x60
def dialFit := 0x61
def launchBad := 0x68
def launchSize := 0x69
def launchShape := 0x6A
def launchDep := 0x6B
def tickMiss := 0x70
def hang := 0x71
def parity := 0x80
def twinMismatch := 0x81
def twinFail := 0x82
def combLoss := 0x83
def modStuck := 0x84
def linkFail := 0x85
def thermal := 0x86
def nqlFail := 0x87
end Code

/-- Class of a fault code (R376, R377). -/
def classOf (code : Nat) : Nat :=
  if [Code.fpExc, Code.drift, Code.noRule, Code.pondFull, Code.tickMiss, Code.hang, Code.twinMismatch,
      Code.combLoss, Code.modStuck].contains code then 1
  else if code == Code.netCorrupt || decide (0x80 ≤ code) then 2
  else 0

/-- Is a code one of TKT_* that may be delegated (R379)? -/
def isTkt (code : Nat) : Bool := decide (0x20 ≤ code) && decide (code ≤ 0x24)

/-! ### Trace (R372) and the fault log (R386, R387) -/

/-- Writes a trace record of the core's cluster, or counts it lost (R372, R375). -/
def State.trace (s : State) (c kind cost : Nat) (entry val : Word) : State :=
  let t := s.hub.trace
  if t.getLsbD 63 then
    let cl := clusterOf c
    let k := s.cluster cl
    let lg := let l := bits t 58 5; if decide (12 ≤ l) && decide (l ≤ 30) then l else 12
    if (k.trWrite - k.trRead).toNat = 2 ^ (lg - 5) then
      s.upHub (fun h => { h with trace := if bits t 0 12 = 4095 then t else t + 1 })
    else
      let co := s.core c
      let w0 := kind * 2 ^ 56 + c * 2 ^ 47 + co.lvl.val * 2 ^ 45 + cost % 32 * 2 ^ 40 + s.hub.time.toNat % 2 ^ 40
      let tag := match co.act with | some a => a.wire | none => 0
      let at_ := bits t 12 36 * 4096 + cl * 2 ^ lg + 32 * (k.trWrite.toNat % 2 ^ (lg - 5))
      ((s.poke at_ (leBytes 8 w0 ++ leBytes 8 tag ++ leBytes 8 (entry.toNat % 2 ^ 48) ++ leBytes 8 val.toNat)).upCluster
        cl (fun k => { k with trWrite := k.trWrite + 1 }))
  else s

/-- Where the code that the running level executes begins: its rule, handler or task (R372; log 88). -/
def Core.runEntry (k : Core) : Word := k.lv[k.lvl].entry

/-- COST of the rule that runs (R31, R372): 0 outside an activation. -/
def Core.runCost (k : Core) : Nat := if k.lvl = 0 then (match k.act with | some a => bits a.entry 56 5 | none => 0) else 0

/-- A trace record of what the code that runs on a core does (R372). -/
def State.traceRun (s : State) (c kind : Nat) (val : Word) : State :=
  s.trace c kind (s.core c).runCost (s.core c).runEntry val

/-- The units that a log record names (R387). -/
def unitCore := 0
def unitTile := 1
def unitMu := 2
def unitCopy := 3
def unitDe := 4
def unitSlice := 5
def unitWeir := 6
def unitHub := 7

/-- What a log record says (R387). -/
structure LogInfo where
  code : Nat
  level : Nat := 0
  core : Nat := 0
  unit : Nat := 0
  colour : Nat := 0
  slice : Nat := 0
  pa : Bool := false
  addr : Word := 0
  info : Word := 0

/-- Writes a record to the fault log of a die (R386, R387). -/
def State.logRec (s : State) (die : Nat) (i : LogInfo) : State :=
  s.upDie die (fun d =>
    let w0 := i.code % 256 * 2 ^ 56 + classOf i.code * 2 ^ 54 + i.level % 4 * 2 ^ 52 + i.core % 512 * 2 ^ 43 +
      i.unit % 8 * 2 ^ 40 + s.hub.time.toNat % 2 ^ 40
    let w1 := i.colour % 4096 * 2 ^ 48 + i.slice % 256 * 2 ^ 40 + (if i.pa then 2 ^ 39 else 0) + d.next % 2 ^ 32
    { d with
      log := (d.log ++ [({ w0 := BitVec.ofNat 64 w0, w1 := BitVec.ofNat 64 w1, w2 := i.addr, w3 := i.info } : LogRec)]).drop (d.log.length + 1 - 512)
      next := (d.next + 1) % 2 ^ 32
      lost := if decide (512 ≤ (d.next + 2 ^ 32 - d.tail) % 2 ^ 32) then Nat.min (d.lost + 1) (2 ^ 32 - 1)
        else d.lost })

/-- Counts a fault that a core could not hold (R381). -/
def State.logLost (s : State) (die : Nat) : State :=
  s.upDie die (fun d => { d with lost := Nat.min (d.lost + 1) (2 ^ 32 - 1) })

/-! ### Ending a job and machine checks -/

/-- STATUS of a job that a fault ends (R380). -/
def statusOf (code : Nat) : Nat := if code = Code.hang then 5 else 6

/-- Ends the job of a colour (R319): its cores stop, and the Dispatcher takes the end in an event of its own. The end
that is first decides (R391). -/
def State.endJob (s : State) (colour status detail : Nat) (value : Word := 0) : State :=
  match s.job? colour with
  | none => s
  | some j =>
    if j.ending.isSome then s
    else
      let s := s.upJob colour (fun j => { j with ending := some ⟨status, detail, value⟩ })
      let s := if j.out then s else j.allCores.foldl (fun s c => s.upCore c (fun k =>
        if k.status = .running then { k with status := .halted } else k)) s
      s.pushFree (.jobEnd colour)

/-- The containment rectangle that holds a cluster, if a valid one does (R388): CX0 [2:0], CY0 [4:3], CX1 [7:5],
CY1 [9:8]. -/
def inRect (v : Word) (cl : Nat) : Bool :=
  v.getLsbD 63 && decide (bits v 0 3 ≤ cl % 8) && decide (cl % 8 ≤ bits v 5 3) && decide (bits v 3 2 ≤ cl / 8) &&
    decide (cl / 8 ≤ bits v 8 2)

/-- Is a core inside a containment in progress: of a rectangle, or of its job's partition (R389, R390)? -/
def State.contained (s : State) (c : Nat) : Bool :=
  s.hub.rect.any (fun e => e.2.getLsbD 62 && inRect e.2 (clusterOf c)) ||
    s.jobs.any (fun j => j.contain && !j.out && j.holds c)

/-- Starts containment of rectangle `n` (R388, R389): BUSY, the fence around every job with a cluster inside, and the event
that carries it out. A containment in progress stands for a second trigger. -/
def State.contain (s : State) (n : Nat) : State :=
  let v := s.hub.rect.get 0 n
  if v.getLsbD 62 then s
  else
    let inside (j : Job) : Bool := !j.out && j.clusters.any (fun cl => inRect v cl)
    let s := { s with jobs := s.jobs.map (fun j => if inside j then { j with contain := true } else j) }
    (s.upHub (fun h => { h with rect := h.rect.set n (v ||| (1 <<< 62)) })).pushFree (.containment n)

/-- Contains a fault of the job of a colour (R388): in the valid rectangle that holds its cluster, else in the job's
partition, which the Dispatcher ends and resets with the job. -/
def State.containJob (s : State) (colour cl : Nat) (code : Nat) : State :=
  let s := (s.endJob colour 6 code).upJob colour (fun j => { j with contain := true })
  match (List.range 8).find? (fun n => inRect (s.hub.rect.get 0 n) cl) with
  | some n => s.contain n
  | none => s

/-- Channel of the event words that wait to be written (R339, R420). -/
def eventChan : Nat := 2 ^ 33

/-- Writes an event word to NQL.EVADDR, if that lies in host memory (R339, R386). -/
def State.eventWord (s : State) (w : Nat) : State :=
  if decide (2 ^ 47 ≤ s.hub.evaddr.toNat) then s.poke s.hub.evaddr.toNat (leBytes 8 w) false else s

/-- A machine check (R385): a log record, the event word of R386, and containment when it carries a colour. -/
def State.machineCheck (s : State) (die cl : Nat) (i : LogInfo) : State :=
  let seq := (s.die die).next
  let s := s.logRec die i
  let s := if s.hub.link == .up then s.eventWord (2 ^ 63 + die * 2 ^ 32 + seq)
    else s.push eventChan (.completionEventWrite (2 ^ 31 + die) seq)
  if i.colour = 0 then s else s.containJob i.colour cl i.code

/-! ### Taking a trap (R378, R380) -/

/-- TCAUSE from its fields (R378). -/
def tcauseOf (code cls prev : Nat) (active waiting pprivSup deleg : Bool) : Word :=
  BitVec.ofNat 64 (code % 256 + prev % 256 * 2 ^ 8 + cls % 4 * 2 ^ 18 + (if deleg then 2 ^ 20 else 0) +
    (if pprivSup then 2 ^ 21 else 0) + (if active then 2 ^ 22 else 0) + (if waiting then 2 ^ 23 else 0))

/-- Is a handler of a trap of this level running? -/
def Level.active (v : Level) : Bool := v.tcause.getLsbD 22
/-- CODE of TCAUSE. -/
def Level.cause (v : Level) : Nat := bits v.tcause 0 8
/-- DELEG of TCAUSE. -/
def Level.deleg (v : Level) : Bool := v.tcause.getLsbD 20

/-- First address outside the code region: 256·XB (R80). -/
def Core.codeEnd (k : Core) : Nat := 256 * k.xb.toNat

/-- The address that a log record of a core's fault names, or 0 (R387): TVAL of a memory fault, and FVA of one that a
ticket delivered (R378). -/
def faultAddr (code : Nat) (tval text : Word) (tk : Bool) : Word :=
  if 0x10 ≤ code ∧ code ≤ 0x18 then (if tk then text &&& ~~~0xFF else tval) else 0

/-- The supervisor's side of R380: privilege and handler address, or the end of the job when there is no handler. -/
def State.toSupervisor (s : State) (c code : Nat) (addr : Word) : State :=
  let k := s.core c
  let s := s.setCore c (k.upLv k.lvl (fun v => { v with sup := true }))
  if k.svec = 0 ∨ k.codeEnd ≤ k.svec.toNat then
    let s := if code = Code.hang then s else s.logRec (dieOf c)
      { code := code, level := k.lvl.val, core := c, colour := k.colour, addr := addr }
    s.endJob k.colour (statusOf code) code
  else s.upCore c (fun k => k.upLv k.lvl (fun v => { v with pc := k.svec.setWidth 64 }))

/-- A level that was asleep has left its wait: the quiet period in which HANG was raised is over (R401). -/
def State.leftWait (s : State) (c : Nat) : State := s.upJob (s.core c).colour (fun j => { j with hung := false })

/-- A nested trap goes to the supervisor as OVL_DOUBLE or DOUBLE (R380): TCAUSE takes CODE, CLASS 0, DELEG 0, PREV and the
nested trap's PPRIV, ACTIVE is 1, WAITING stays, and TPC, TVAL and TEXT keep what the first trap wrote. -/
def State.nested (s : State) (c code prev : Nat) (addr : Word) : State :=
  ((s.traceRun c 5 (BitVec.ofNat 64 code)).upCore c (fun k => k.upLv k.lvl (fun v => { v with
    wait := none
    tcause := tcauseOf code 0 prev true (v.tcause.getLsbD 23) v.sup false }))).toSupervisor c code addr

/-- Takes a trap at the running level of a core, as R380 gives: TPC, TVAL and TEXT as R378 says, `tk` for a fault
delivered through a ticket. A class 1 fault that reaches a level asleep in a blocking instruction keeps its wait (R382); a
class 0 fault ends it. -/
def State.takeTrap (s : State) (c code : Nat) (tpc tval text : Word) (tk : Bool := false) : State :=
  let v := (s.core c).lv[(s.core c).lvl]
  let waiting := v.asleep && classOf code == 1
  let s := if v.asleep && classOf code == 0 then s.leftWait c else s
  let k := s.core c
  if v.active && classOf code == 0 then
    if v.cause = Code.overlay ∧ code = Code.overlay then s.nested c Code.ovlDouble Code.overlay 0
    else if v.deleg || v.cause == Code.overlay then s.nested c Code.double v.cause (faultAddr code tval text tk)
    else
      (s.logRec (dieOf c) { code := Code.double, level := k.lvl.val, core := c, colour := k.colour, addr := faultAddr code tval text tk }).endJob
        k.colour 6 Code.double
  else
    let s := s.traceRun c 5 (BitVec.ofNat 64 code)
    let k := s.core c
    let rec_ (deleg : Bool) (v : Level) : Level := { v with
      tpc := tpc, tval := tval, text := text
      tcause := tcauseOf code (classOf code) 0 true waiting v.sup deleg
      kept := if waiting then v.wait else none
      wait := none }
    if code = Code.overlay then
      s.setCore c { (k.upLv k.lvl (fun v => { rec_ true v with pc := k.ovec.setWidth 64 })) with inovl := true }
    else if !v.sup && ((code == Code.fpExc && k.delegFp) || ((isTkt code || tk) && k.delegTkt)) then
      s.setCore c (k.upLv k.lvl (fun v => { rec_ true v with pc := k.uvec.setWidth 64 }))
    else (s.setCore c (k.upLv k.lvl (rec_ false))).toSupervisor c code (faultAddr code tval text tk)

/-- A trap of the executing instruction at issue (R202): TPC names it. -/
def State.trap (s : State) (code : Nat) (tval : Word := 0) : State := s.takeTrap s.cur code s.pc tval 0

/-- The 16-bit words from an offset of a core's scratchpad that lie below an end, at most `n`. -/
def State.codeWords (s : State) (c stop : Nat) : Nat → Nat → List W16
  | 0, _ => []
  | n + 1, off => if off + 2 ≤ stop then BitVec.ofNat 16 (s.peek (padKey c off) 2) :: s.codeWords c stop n (off + 2) else []

/-- The words of the instruction at the program counter of core `c`: an instruction has at most five, and none is read
at or above 256·XB (R80, R180). -/
def State.fetchWords (s : State) (c : Nat) : List W16 :=
  let k := s.core c
  s.codeWords c k.codeEnd 5 k.lv[k.lvl].pc.toNat

/-- The illegal-instruction trap (R181, R378): TVAL holds the words of the instruction, as many as decoding reads and at
most four, the first lowest (log 16). -/
def State.illegal (s : State) : State :=
  let ws := s.fetchWords s.cur
  s.trap Code.illegal (BitVec.ofNat 64 (leVal (bytesOfWords (ws.take (Nat.min 4 (wordsRead Parts.empty ws))))))

/-- A fetch at or above XB at the running level of a core enters the overlay handler (R82): `a` is the address fetched,
`by_` the instruction that led there. With INOVL = 1 it is OVL_DOUBLE (R82, R403); at a level with a trap handler active
R380 says which. -/
def State.overlay (s : State) (c : Nat) (a by_ : Word) : State :=
  let k := s.core c
  if k.inovl && !k.lv[k.lvl].active then s.nested c Code.ovlDouble Code.overlay 0
  else s.takeTrap c Code.overlay a by_ 0

/-! ### Faults after issue (R202) and class 1 faults (R381, R384) -/

/-- Reports a fault found after issue to the level that issued the instruction: it is taken at the level's next
boundary, at once if the level runs. A core that has stopped takes nothing (R393). -/
def State.afterIssue (s : State) (c lvl code : Nat) (pc tval text : Word) (tk : Bool := false) : State :=
  let k := s.core c
  if k.status ≠ .running then s
  else if k.lvl.val = lvl then s.takeTrap c code pc tval text tk
  else if h : lvl < 4 then
    s.setCore c (k.upLv ⟨lvl, h⟩ (fun v => { v with faults := v.faults ++ [⟨code, pc, tval, text, tk⟩] }))
  else s

/-- A core that can take a class 1 fault: started, neither halted nor fenced (R384). -/
def State.eligible (s : State) (c : Nat) : Bool := (s.core c).status == .running

/-- Holds a class 1 fault for a core (R381): the ninth is counted as lost only. -/
def State.hold1 (s : State) (c : Nat) (f : PendFault) : State :=
  if (s.core c).pend.length < 8 then s.upCore c (fun k => { k with pend := k.pend ++ [f] })
  else s.logLost (dieOf c)

/-- Sends a class 1 fault to its target core (R384): the core named if it is eligible, else the lowest eligible core of
the cluster, else of the partition; with none, the job ends and that is logged, but for HANG, whose wait-table records are
all that it leaves (R380, R401). -/
def State.raise1 (s : State) (first : Option Nat) (cl colour : Nat) (f : PendFault) : State :=
  let inCl := (List.range 16).map (cl * 16 + ·)
  let inPart := match s.job? colour with | some j => j.allCores | none => []
  let cand := (match first with | some c => [c] | none => []) ++ inCl ++ inPart
  match cand.find? (fun c => s.eligible c && (s.core c).colour == colour) with
  | some c => s.hold1 c f
  | none =>
    let s := if f.code = Code.hang then s
      else s.logRec (dieOfCluster cl) { code := f.code, core := 16 * cl, colour := colour }
    s.endJob colour (statusOf f.code) f.code

/-- Logs a class 1 fault of a cluster unit and sends it to its target (R384, R386). Without a job it is only logged
(R416). -/
def State.report1 (s : State) (first : Option Nat) (cl : Nat) (i : LogInfo) (f : PendFault) : State :=
  let s := s.logRec (dieOfCluster cl) i
  if i.colour = 0 then s else s.raise1 first cl i.colour f

/-- Takes the oldest pending class 1 fault at the running level, at an instruction boundary (R381, R382, R384). -/
def State.take1 (s : State) (c : Nat) : State :=
  let k := s.core c
  match k.pend with
  | [] => s
  | f :: r =>
    if k.lv[k.lvl].active then s
    else (s.setCore c { k with pend := r }).takeTrap c f.code k.lv[k.lvl].pc f.tval f.text

/-- Returns from the trap of the running level to an address (R383): privilege from PPRIV, ACTIVE, WAITING and INOVL
cleared; with `again` the kept wait is re-entered (R382). -/
def State.returnTo (s : State) (a : Word) (again : Bool) : State :=
  s.upMe (fun k => { (k.upLv k.lvl (fun v => { v with
    pc := a
    sup := v.tcause.getLsbD 21
    tcause := v.tcause &&& ~~~((3 : Word) <<< 22)
    wait := if again && v.tcause.getLsbD 23 then
        (match v.kept with | some w => if w.pc = a then some w else none | none => none)
      else none
    kept := none })) with inovl := false })

/-- The program counter goes to a target (R221): an odd target raises ALIGN before anything else happens, and one at or
above XB enters the overlay handler after the other effects, which `f` makes. -/
def State.jump (s : State) (target : Word) (f : State → State := id) : State :=
  if target.getLsbD 0 then s.trap Code.align target
  else
    let pc := s.pc
    let s := (f s).upLev (fun v => { v with prev := pc, pc := target, wait := none })
    let s := s.note s.cur target
    if s.me.codeEnd ≤ target.toNat then s.overlay s.cur target pc else s

end Sys2Proof.Machine
end

