-- ==== Sys2Proof/Machine/Operands.lean ====
section
/-! DEFINITION. Operand forms of the instructions (R173 to R179, R203 to R210), and the registers that each names. -/

namespace Sys2Proof.Machine

/-- The two sources of a binary operation (R203): with a TRX x[A] and x[T], without x[D] and x[A]. -/
def State.sources (s : State) (d a : XReg) (t : Option XReg) : Word × Word :=
  match t with
  | some t => (s.getX a, s.getX t)
  | none => (s.getX d, s.getX a)

/-- An address operand [xA+disp] (R213). -/
def State.ea (s : State) (a : XReg) (disp : Word) : Word := s.getX a + disp

/-- LEA's address (R209): the shifted register is x[T] with a TRX and x[D] without. -/
def State.leaAddr (s : State) (d a : XReg) (t : Option XReg) (sh : BitVec 2) (disp : Word) : Word :=
  s.getX a + (s.getX (t.getD d) <<< sh.toNat) + disp

/-- The third operand x[T], x0 without a TRX (R179). -/
def State.third (s : State) (t : Option XReg) : Word := s.getX (t.getD 0)

end Sys2Proof.Machine

namespace Sys2Proof

/-- The general registers that an instruction names or reads and writes by rule: it is held while one of them awaits
an interlocked result (R183, R223, R275, R279). -/
def Instr.xRegs : Instr → List XReg
  | .mov _ d a => [d, a]
  | .not _ d a => [d, a]
  | .neg _ d a => [d, a]
  | .clz _ d a => [d, a]
  | .add _ d a t => [d, a] ++ t.toList
  | .sub _ d a t => [d, a] ++ t.toList
  | .and _ d a t => [d, a] ++ t.toList
  | .or _ d a t => [d, a] ++ t.toList
  | .xor _ d a t => [d, a] ++ t.toList
  | .shl _ d a t => [d, a] ++ t.toList
  | .shr _ d a t => [d, a] ++ t.toList
  | .sar _ d a t => [d, a] ++ t.toList
  | .min _ d a t => [d, a] ++ t.toList
  | .max _ d a t => [d, a] ++ t.toList
  | .minu _ d a t => [d, a] ++ t.toList
  | .maxu _ d a t => [d, a] ++ t.toList
  | .seq _ d a t => [d, a] ++ t.toList
  | .sne _ d a t => [d, a] ++ t.toList
  | .slt _ d a t => [d, a] ++ t.toList
  | .sltu _ d a t => [d, a] ++ t.toList
  | .mul _ d a t => [d, a] ++ t.toList
  | .mulh _ d a t => [d, a] ++ t.toList
  | .mulhu _ d a t => [d, a] ++ t.toList
  | .popc _ d a => [d, a]
  | .div _ d a t => [d, a] ++ t.toList
  | .divu _ d a t => [d, a] ++ t.toList
  | .rem _ d a t => [d, a] ++ t.toList
  | .remu _ d a t => [d, a] ++ t.toList
  | .addi _ d _ => [d]
  | .li _ d _ => [d]
  | .andi _ d _ => [d]
  | .shli _ d _ => [d]
  | .shri _ d _ => [d]
  | .sari _ d _ => [d]
  | .ldB _ d a _ _ => [d, a]
  | .ldH _ d a _ _ => [d, a]
  | .ldW _ d a _ _ => [d, a]
  | .ldD _ d a _ _ => [d, a]
  | .ldzB _ d a _ _ => [d, a]
  | .ldzH _ d a _ _ => [d, a]
  | .ldzW _ d a _ _ => [d, a]
  | .stB _ d a _ _ => [d, a]
  | .stH _ d a _ _ => [d, a]
  | .stW _ d a _ _ => [d, a]
  | .stD _ d a _ _ => [d, a]
  | .tld8 _ d a _ t _ => [d, a, t]
  | .tld32 _ d a _ t _ => [d, a, t]
  | .tld64 _ d a _ t _ => [d, a, t]
  | .tld256 _ d a _ t _ => [d, a, t]
  | .rdm _ d a => [d, a]
  | .rdmV _ _ a => [a]
  | .rdmS _ d a _ => [d, a]
  | .tkq _ d a => [d, a]
  | .call _ _ => [1]
  | .bz _ d _ => [d]
  | .bnz _ d _ => [d]
  | .loop _ d _ => [d]
  | .jr _ a => [a]
  | .callr _ a => [a, 1]
  | .ret _ => [1]
  | .jtab _ d a _ => [d, a]
  | .mfs _ d _ => [d]
  | .mts _ d _ => [d]
  | .bar _ a => [a]
  | .bara _ d a => [d, a]
  | .barw _ d a => [d, a]
  | .barq _ d a => [d, a]
  | .rol _ d a t => [d, a] ++ t.toList
  | .ror _ d a t => [d, a] ++ t.toList
  | .bswap _ d a => [d, a]
  | .ctz _ d a => [d, a]
  | .ext _ d a _ _ => [d, a]
  | .extz _ d a _ _ => [d, a]
  | .dep _ d a _ _ => [d, a]
  | .depz _ d a _ _ => [d, a]
  | .lea _ d a t _ _ => [d, a] ++ t.toList
  | .madd _ d a t => [d, a, t]
  | .msub _ d a t => [d, a, t]
  | .cselz _ d a t => [d, a, t]
  | .cselnz _ d a t => [d, a, t]
  | .sextB _ d a => [d, a]
  | .sextH _ d a => [d, a]
  | .sextW _ d a => [d, a]
  | .zextW _ d a => [d, a]
  | .hash _ d a t => [d, a] ++ t.toList
  | .crc _ d a t => [d, a] ++ t.toList
  | .geo _ d _ => [d]
  | .adds _ d a t => [d, a] ++ t.toList
  | .subs _ d a t => [d, a] ++ t.toList
  | .addus _ d a t => [d, a] ++ t.toList
  | .subus _ d a t => [d, a] ++ t.toList
  | .vld _ _ a _ _ _ => [a]
  | .vst _ _ a _ _ _ => [a]
  | .vldg _ _ a _ _ _ _ => [a]
  | .vsts _ _ a _ _ _ _ => [a]
  | .vbcst _ _ a _ => [a]
  | .vext _ d _ _ _ => [d]
  | .vradd _ d _ _ => [d]
  | .vrfadd _ d _ _ _ => [d]
  | .vrmax _ d _ _ => [d]
  | .vrmin _ d _ _ => [d]
  | .kany _ d _ => [d]
  | .kall _ d _ => [d]
  | .kcnt _ d _ => [d]
  | .kfirst _ d _ => [d]
  | .kmov _ _ a => [a]
  | .kmovx _ d _ => [d]
  | .vresc _ _ a _ _ _ => [a]
  | .tmmaF32 _ _ _ _ _ _ t => [] ++ t.toList
  | .tmmaBf _ _ _ _ _ _ t => [] ++ t.toList
  | .tmmaH _ _ _ _ _ _ t => [] ++ t.toList
  | .tmmaHb _ _ _ _ _ _ t _ => [] ++ t.toList
  | .tmmaE4 _ _ _ _ _ _ t => [] ++ t.toList
  | .tmmaE5 _ _ _ _ _ _ t => [] ++ t.toList
  | .tmmaE45 _ _ _ _ _ _ t _ => [] ++ t.toList
  | .tmmaE3 _ _ _ _ _ _ t => [] ++ t.toList
  | .tmmaE2 _ _ _ _ _ _ t => [] ++ t.toList
  | .tmmaE1 _ _ _ _ _ _ t => [] ++ t.toList
  | .tmmaI8 _ _ _ _ _ _ t _ => [] ++ t.toList
  | .tmmaIz8 _ _ _ _ _ _ t => [] ++ t.toList
  | .tmmaI4 _ _ _ _ _ _ t => [] ++ t.toList
  | .tmmaIz4 _ _ _ _ _ _ t => [] ++ t.toList
  | .tcommit _ d _ => [d]
  | .twaitb _ d a => [d, a]
  | .tbatq _ d a => [d, a]
  | .tlda _ _ a t _ => [a] ++ t.toList
  | .tsta _ _ a t _ => [a] ++ t.toList
  | .tstaQ _ _ a t _ _ => [a, t]
  | .taccq _ d _ => [d]
  | .rcfg _ _ a => [a]
  | .rpos _ d _ => [d]
  | .tgeo _ d _ => [d]
  | .psel _ a => [a]
  | .pstat _ d a => [d, a]
  | .pgain _ d a => [d, a]
  | .pserial _ d => [d]
  | .phld _ a => [a]
  | .phrd _ d a => [d, a]
  | .phwr _ d a => [d, a]
  | .pdec _ d a => [d, a]
  | .pdecq _ d a => [d, a]
  | .ppass _ a => [a]
  | .ppassa _ a => [a]
  | .pflush _ d => [d]
  | .pwait _ d a => [d, a]
  | .ptrim _ d a => [d, a]
  | .ploop _ d a => [d, a]
  | .pcal _ a => [a]
  | .pair _ => [10, 11, 12, 13]
  | .pairn _ => [10, 11, 12, 13]
  | .retire _ => [10]
  | .pushp _ a => [a]
  | .pondq _ d => [d]
  | .nalloc _ d => [d]
  | .walloc _ d => [d]
  | .nfree _ a => [a]
  | .wfree _ a => [a]
  | .nld _ d a _ => [d, a]
  | .nst _ d a _ => [d, a]
  | .wset _ d a => [d, a]
  | .wrepl _ d a => [d, a]
  | .wsplice _ d a => [d, a]
  | .wres _ d a => [d, a]
  | .rule _ d a => [d, a]
  | .engw _ a => [a]
  | .nrdm _ d a => [d, a]
  | .nval _ d a => [d, a]
  | .tldn _ d a _ t _ => [d, a, t]
  | .tldg _ d a _ t _ => [d, a, t]
  | .tkdrop _ a => [a]
  | .amoAdd _ d a _ _ _ => [d, a]
  | .amoAnd _ d a _ _ _ => [d, a]
  | .amoOr _ d a _ _ _ => [d, a]
  | .amoXor _ d a _ _ _ => [d, a]
  | .amoMin _ d a _ _ _ _ => [d, a]
  | .amoMax _ d a _ _ _ _ => [d, a]
  | .amoSwap _ d a _ _ _ => [d, a]
  | .amoCas _ d a t _ _ _ => [d, a, t]
  | .famoAdd _ d a _ _ => [d, a]
  | .famoAdd2 _ d a _ _ => [d, a]
  | .famoMax _ d a _ _ => [d, a]
  | .famoMin _ d a _ _ => [d, a]
  | .msg _ d a t => [d, a, t]
  | .callat _ d a t => [d, a, t, 4, 5, 6, 7]
  | .mret _ => [4]
  | .clsm _ a => [a]
  | .clsu _ a => [a]
  | .mclose _ d a => [d, a]
  | .mpoll _ d a => [d, a]
  | .cpset _ d _ => [d]
  | .cpgo _ d => [d]
  | .cpwait _ d a => [d, a]
  | .cpq _ d a => [d, a]
  | .cshape _ d a => [d, a]
  | .cpmc _ d a => [d, a]
  | .gred _ d a => [d, a]
  | .gbc _ d a => [d, a]
  | .dsend _ d a => [d, a]
  | .dpoll _ d a => [d, a]
  | .dslot _ d a => [d, a]
  | .dsig _ d a => [d, a]
  | .trrec _ d a _ => [d, a]
  | .mfp _ d a _ => [d, a]
  | .mtp _ d a _ => [d, a]
  | .tlbi _ d a => [d, a]
  | .tlbia _ a => [a]
  | .xbset _ a => [a]
  | .cflush _ a _ => [a]
  | .cinv _ a _ => [a]
  | .czero _ a _ => [a]
  | .dstop _ a => [a]
  | .trmark _ a => [a]
  | .evsel _ d a => [d, a]
  | .evrd _ d a => [d, a]
  | .rpcapCapture _ d a t => [d, a, t]
  | .rpcapReplay _ d a t => [d, a, t]
  | .rpcapEnd _ d a t => [d, a, t]
  | .rpcapRelease _ d a t => [d, a, t]
  | .rpstat _ d a => [d, a]
  | .tpert _ d a => [d, a]
  | .inj _ d a _ => [d, a]
  | .pwrf _ d a => [d, a]
  | _ => []

end Sys2Proof
end

