-- ==== Sys2Proof/Machine/Mem.lean ====
section
/-! DEFINITION. Reaching memory: windows, translation, parity and poison, and the checks that every access passes (R67 to
R82, R202, R214, R407 to R411). -/

namespace Sys2Proof.Machine

/-! ### Where an address leads (R67, R69) -/

/-- A place in a window, or a translated address. -/
inductive Place where
  | own (off : Nat)
  /-- A scratchpad reached through window 0x01 or 0x02. -/
  | remote (c off : Nat)
  | lane (off : Nat)
  | scratch (sl off : Nat)
  | acc (off : Nat)
  | muBuf (m region off : Nat)
  | trans
  | bad (code : Nat)
  deriving DecidableEq, Repr

/-- Are all bits of a word outside the given ranges (low bit, width) zero below bit 48? -/
def onlyBits (w : Nat) : List (Nat × Nat) → Bool
  | [] => w == 0
  | (lo, n) :: r => onlyBits (w - w / 2 ^ lo % 2 ^ n * 2 ^ lo) r

/-- The place a virtual address names for core `c` (R67, R69). -/
def placeOf (c : Nat) (va : Word) : Place :=
  let w := va.toNat % 2 ^ 48
  let off := w % 2 ^ 18
  if bits va 56 8 = 0 then .trans
  else if bits va 56 8 ≠ 0xFF then .bad Code.vaRange
  else match bits va 48 8 with
    | 0 => if onlyBits w [(0, 18)] then .own off else .bad Code.addrWin
    | 1 => if onlyBits w [(44, 4), (0, 18)] then .remote (clusterOf c * 16 + w / 2 ^ 44) off else .bad Code.addrWin
    | 2 => if onlyBits w [(42, 6), (0, 18)] then .remote (sectorCore c (w / 2 ^ 42)) off else .bad Code.addrWin
    | 3 => if onlyBits w [(0, 14)] then .lane (w % 2 ^ 14) else .bad Code.addrWin
    | 4 => if onlyBits w [(24, 6), (0, 24)] then .scratch (sliceOfDie (dieOf c) (w / 2 ^ 24 % 64)) (w % 2 ^ 24)
        else .bad Code.addrWin
    | 5 => if onlyBits w [(0, 12)] then .acc (w % 2 ^ 12) else .bad Code.addrWin
    | 6 => if onlyBits w [(44, 1), (42, 2), (0, 18)] then
          if w / 2 ^ 42 % 4 = 3 ∨ (w / 2 ^ 42 % 4 = 2 ∧ 2 ^ 16 ≤ off) then .bad Code.addrWin
          else .muBuf (clusterOf c * 2 + w / 2 ^ 44) (w / 2 ^ 42 % 4) off
        else .bad Code.addrWin
    | _ => .bad Code.addrWin

/-! ### Parity and poison (R407 to R411) -/

/-- Does some byte of a word of damage have an odd number of flipped bits (R407)? -/
def detectable (m : Word) : Bool :=
  (List.range 8).any (fun i => (List.range 8).countP (fun j => m.getLsbD (8 * i + j)) % 2 = 1)

/-- The stripe of a word, by its first key in units of 256 bytes (R407): 512 bytes aligned to 512 bytes of an array. In L2
two 256-byte granules of one home slice make a stripe; which two the manual does not say (log 92). -/
def stripeOf (w : Nat) : Nat :=
  let g := w / 32
  if g < 2 ^ 40 then Nat.min g (g ^^^ 0x104) else g / 2 * 2

/-- Bad words of a stripe (R407). -/
def State.badWords (s : State) (stripe : Nat) : List (Nat × Word) :=
  s.damage.filter (fun e => stripeOf e.1 = stripe && detectable e.2)

/-- The stripes in which one of the `n` bytes from a key lies in a bad word. -/
def State.badStripes (s : State) (key n : Nat) : List Nat :=
  if s.damage.isEmpty then []
  else ((s.damage.filter (fun e => decide (e.1 * 8 < key + n) && decide (key < e.1 * 8 + 8) && detectable e.2)).map
    (fun e => stripeOf e.1)).eraseDups

/-- The first of those stripes. -/
def State.badStripe (s : State) (key n : Nat) : Option Nat := (s.badStripes key n).head?

/-! Arrays that no cell of memory stands for have key ranges of their own, for their parity alone: accumulators, phase
banks and ticket data buffers. -/

/-- First key of the accumulators: 4096·core + offset of window 0x05. -/
def accKey (c off : Nat) : Nat := 2 ^ 50 + c * 4096 + off
/-- Key of a phase register of a bank. -/
def phaseKey (m b i : Nat) : Nat := 2 ^ 51 + m * 2 ^ 14 + b * 2 ^ 13 + 2 * i
/-- Key of a byte of a ticket data buffer. -/
def tkKey (sl e off : Nat) : Nat := 2 ^ 52 + sl * 2 ^ 20 + e * 256 + off

/-- Element bits at an index (256·a + 16·i + j). -/
def Core.accAt (k : Core) (i : Nat) : W32 := k.acc.get 0 i

/-- Writes an element. An element of 0 is not listed. -/
def Core.setAcc (k : Core) (i : Nat) (v : W32) : Core :=
  { k with acc := if v = 0 then k.acc.erase i else k.acc.set i v }

/-- Changes a word by an exclusive or, as a repair does. -/
def State.xorWord (s : State) (w : Nat) (m : Word) : State :=
  let key := w * 8
  if key < accKey 0 0 then { s with mem := s.mem.writeBytes key (leBytes 8 (s.peek64 key ^^^ m).toNat) }
  else if key < phaseKey 0 0 0 then
    let i := key % 4096 / 4
    s.upCore ((key - accKey 0 0) / 4096) (fun k =>
      (k.setAcc i (k.accAt i ^^^ m.setWidth 32)).setAcc (i + 1) (k.accAt (i + 1) ^^^ (m >>> 32).setWidth 32))
  else if key < tkKey 0 0 0 then
    let b : Fin 2 := Fin.ofNat 2 (key / 2 ^ 13)
    let ph (p : NMap (BitVec 16)) : NMap (BitVec 16) := (List.range 4).foldl (fun p j =>
      let i := key % 2 ^ 13 / 2 + j
      p.set i (p.get 0 i ^^^ (m >>> (16 * j)).setWidth 16)) p
    s.upMu ((key - phaseKey 0 0 0) / 2 ^ 14) (fun k =>
      { k with banks := k.banks.set b ({ k.banks[b] with ph := ph k.banks[b].ph }) })
  else
    let sl := (key - tkKey 0 0 0) / 2 ^ 20
    s.upSlice sl (fun k =>
      let e := key % 2 ^ 20 / 256
      let t := k.tk.get TkEntry.initial e
      { k with tk := k.tk.set e { t with data := t.data.modify (key % 256 / 8) (· ^^^ m) } })

/-- Is a 64-byte line dirty in L2 (R67)? -/
def State.dirtyLine (s : State) (line : Nat) : Bool := s.under.any (fun e => e.1 / 64 = line)

/-- Address of a key of Basin scratch as a report names it: the form of R96, SPACE 5. -/
def scratchAddr (key : Nat) : Nat :=
  let sl := (key - scratchKey 0 0) / 2 ^ 24
  let d := dieOfSlice sl
  d * 2 ^ 30 + (sl / 16 % 8 * 8 + sl % 8) * 2 ^ 24 + key % 2 ^ 24

/-- Does one of the `n` bytes from a key lie in a bad word that is beyond recovery (R408)? -/
def State.lostBytes (s : State) (key n : Nat) : Bool :=
  (s.badStripes key n).any (fun st => decide (2 ≤ (s.badWords st).length))

/-- The recovery engine's work on a stripe (R408), and the fate of one that is uncorrectable (R409). A stripe of an
accumulator, a phase bank or a ticket data buffer that is uncorrectable stays as it is: its reader takes its fate. Damage that
is not detected stays, and makes its way into the word that is rebuilt (R407, R408). -/
def State.recover (s : State) (stripe : Nat) : State :=
  let here := s.damage.filter (fun e => stripeOf e.1 = stripe)
  let clear (s : State) : State := { s with damage := s.damage.filter (fun e => stripeOf e.1 != stripe || !detectable e.2) }
  match s.badWords stripe with
  | [] => s
  | [(b, m)] =>
    let others := here.foldl (fun x e => if e.1 = b then x else x ^^^ e.2) 0
    let s := s.xorWord b (m ^^^ others)
    { s with damage := if others = 0 then s.damage.erase b else s.damage.set b others }
  | (b, m) :: rest =>
    let key := stripe * 256
    let bad := (b, m) :: rest
    if key < scratchKey 256 0 then
      -- a clean L2 line is fetched again, a dirty one and Basin scratch are poisoned
      let lost := bad.filter (fun e => !isGlobal key || s.dirtyLine (e.1 / 8))
      let again (w : Nat) : Bool := isGlobal key && !s.dirtyLine (w / 8) && bad.any (fun e => e.1 / 8 == w / 8)
      let s := (here.filter (fun e => again e.1)).foldl (fun s e => s.xorWord e.1 e.2) s
      let s := clear { s with damage := s.damage.filter (fun e => stripeOf e.1 != stripe || !again e.1) }
      match lost with
      | [] => s
      | e :: _ =>
        let s := { s with poison := (lost.map (fun (e : Nat × Word) => e.1 / 8)).eraseDups ++ s.poison }
        let sl := if isGlobal key then homeSlice (e.1 * 8) else (key - scratchKey 0 0) / 2 ^ 24
        s.machineCheck (dieOfSlice sl) 0
          { code := Code.parity
            unit := unitSlice
            slice := sl
            pa := true
            addr := BitVec.ofNat 64 (if isGlobal key then e.1 * 8 else scratchAddr (e.1 * 8)) }
    else if accKey 0 0 ≤ key then s
    else
      let c := if key < laneKey 0 0 then (key - padKey 0 0) / 2 ^ 18 else (key - laneKey 0 0) / 2 ^ 14
      (clear s).machineCheck (dieOf c) (clusterOf c)
        { code := Code.parity
          core := c
          unit := unitCore
          colour := (s.core c).colour
          addr := if key < laneKey 0 0 then 0xFF00000000000000 + BitVec.ofNat 64 ((b * 8 - padKey 0 0) % 2 ^ 18)
            else 0xFF03000000000000 + BitVec.ofNat 64 ((b * 8 - laneKey 0 0) % 2 ^ 14) }

/-- A line of HBM4 that its stack's ECC cannot correct is poisoned, logged and counted (R410). A line that L2 holds dirty is
not read. -/
def State.eccLost (s : State) (line : Nat) : State :=
  let pa := 64 * line
  if !populated pa || decide (2 ^ 47 ≤ pa) || s.dirtyLine line then s
  else
    let s := s.upHub (fun h => { h with ecc := h.ecc.set (pa / 0xC00000000) (h.ecc.get 0 (pa / 0xC00000000) + 1) })
    ({ s with poison := line :: s.poison.filter (· != line) } : State).machineCheck (dieOfSlice (homeSlice pa)) 0
      { code := Code.parity
        unit := unitSlice
        slice := homeSlice pa
        pa := true
        addr := BitVec.ofNat 64 pa }

/-- Recovers every stripe in which one of the bytes lies in a bad word: an engine's access finds its bytes settled. -/
def State.settle (s : State) (key n : Nat) : State :=
  (s.badStripes key n).foldl (fun (u : State) st => u.recover st) s

/-- Lines of HBM4 and host memory leave L2 (R72, R307, R389, R410): clean ones with whatever is damaged in them, dirty ones
written back, as poisoned where they are; such a line is logged with its PA and slice. `sel` takes a key. -/
def State.evict (s : State) (sel : Nat → Bool) : State :=
  let hurt := s.damage.filter (fun e => isGlobal (e.1 * 8) && sel (e.1 * 8))
  let lost := s.poison.filter (fun l => isGlobal (l * 64) && sel (l * 64) && s.dirtyLine l)
  let s := hurt.foldl (fun (u : State) e => if u.dirtyLine (e.1 / 8) then u.settle (e.1 * 8) 8 else u.xorWord e.1 e.2) s
  let s := { s with
    damage := s.damage.filter (fun e => !(isGlobal (e.1 * 8) && sel (e.1 * 8)))
    under := s.under.filter (fun e => !sel e.1) }
  lost.foldl (fun (u : State) l => u.machineCheck (dieOfSlice (homeSlice (l * 64))) 0
    { code := Code.parity, unit := unitSlice, slice := homeSlice (l * 64), pa := true, addr := BitVec.ofNat 64 (l * 64) }) s

/-! ### Translation (R73 to R79) -/

/-- What a translation gives: physical address and memory type. -/
structure Phys where
  pa : Nat
  mt : Nat
  deriving DecidableEq, Repr

/-- Log2 of the page that a leaf at a level maps (R73). -/
def pageBits : Nat → Nat
  | 0 => 15
  | 1 => 20
  | 2 => 25
  | _ => 30

/-- Is the PTE of a level well formed (R74, R76)? -/
def pteOk (level : Nat) (p : Word) : Bool :=
  let pa := bits p 8 40 * 256
  let leaf := p.getLsbD 1
  decide (bits p 58 6 = 0) && decide (bits p 48 8 = 0) && decide (bits p 6 2 ≠ 3) && !(p.getLsbD 3 && !p.getLsbD 2) &&
    populated pa && !(leaf && decide (level = 4)) && !(!leaf && decide (level = 0)) &&
    (if leaf then decide (pa % 2 ^ pageBits level = 0)
     else decide (level ≠ 4) || decide (pa % 2 ^ 16 = 0))

/-- Low VA bit and number of index bits of a level (R73). -/
def levelBits : Nat → Nat × Nat
  | 4 => (43, 13)
  | 3 => (30, 13)
  | 2 => (25, 5)
  | 1 => (20, 5)
  | _ => (15, 5)

/-- Does an access at a physical address wait for the host link (R420)? -/
def State.hostWaits (s : State) (pa : Nat) : Bool := decide (2 ^ 47 ≤ pa) && isGlobal pa && s.hub.link == .down

/-- Is a physical address one of host memory behind a link that has failed (R420)? -/
def State.hostLost (s : State) (pa : Nat) : Bool := decide (2 ^ 47 ≤ pa) && isGlobal pa && s.hub.link == .failed

/-- A walk from the table at `base` of a level down: the leaf's level, address and entry, or the fault (R73 to R79). An
entry is read as its recovery leaves it (R408, R409); one in host memory waits while the link is down, with code 0, and is
POISON behind a link that has failed (R420). -/
def State.walkFrom (s : State) (va : Word) : Nat → Nat → Except Nat (Nat × Nat × Word)
  | level, base =>
    let (lo, n) := levelBits level
    let at_ := base + 8 * bits va lo n
    let s := s.settle at_ 8
    let p := s.peek64 at_
    if s.hostWaits at_ then .error 0
    else if s.poisoned at_ 8 || s.hostLost at_ then .error Code.poison
    else if !p.getLsbD 0 then .error Code.pageNp
    else if !pteOk level p then .error Code.ptBad
    else if p.getLsbD 1 then .ok (level, at_, p)
    else match level with
      | 0 => .error Code.ptBad
      | l + 1 => State.walkFrom s va l (bits p 8 40 * 256)

/-- The recoveries that a walk from the table at `base` of a level down begins (R408). -/
def State.settleFrom (s : State) (va : Word) : Nat → Nat → State
  | level, base =>
    let (lo, n) := levelBits level
    let at_ := base + 8 * bits va lo n
    let s := s.settle at_ 8
    let p := s.peek64 at_
    if s.poisoned at_ 8 || !p.getLsbD 0 || !pteOk level p || p.getLsbD 1 then s
    else match level with
      | 0 => s
      | l + 1 => State.settleFrom s va l (bits p 8 40 * 256)

/-- Does an entry of a walker pool stand for the table entry of a level that covers a VA (R78)? -/
def PoolEntry.covers (e : PoolEntry) (level : Nat) (va : Word) : Bool :=
  e.level == level && e.va == va.toNat / 2 ^ (levelBits level).1

/-- The walk of a VA from MMU.ROOT (R73, R75): it starts below the lowest level that the die's walker pool holds (R78). A BASE that
is not populated is PT_BAD (log 116). -/
def State.walk (s : State) (cl : Nat) (root va : Word) : Except Nat (Nat × Nat × Word) :=
  let base := bits root 16 32 * 65536
  let pool (l : Nat) : Option PoolEntry :=
    (s.die (dieOfCluster cl)).pool.find? (fun e => e.colour == root.toNat % 4096 && e.covers l va)
  if !populated base then .error Code.ptBad
  else match pool 3, pool 4 with
    | some e, _ => s.walkFrom va 2 (bits e.pte 8 40 * 256)
    | none, some e => s.walkFrom va 3 (bits e.pte 8 40 * 256)
    | none, none => s.walkFrom va 4 base

/-- The recoveries that a walk begins (R408). -/
def State.settleWalk (s : State) (root va : Word) : State :=
  let base := bits root 16 32 * 65536
  if s.damage.isEmpty || !populated base then s else s.settleFrom va 4 base

/-- The entries of levels 4 and 3 that a walk adds to the pool: those that lead to a table, and are not held (R78). Of 256
entries the one filled first gives way (log 90). -/
def State.poolFill (s : State) (root va : Word) (pool : List PoolEntry) : List PoolEntry :=
  let colour := root.toNat % 4096
  let up (l base : Nat) (pool : List PoolEntry) : List PoolEntry × Option Nat :=
    match pool.find? (fun e => e.colour == colour && e.covers l va) with
    | some e => (pool, some (bits e.pte 8 40 * 256))
    | none =>
      let (lo, n) := levelBits l
      let p := s.peek64 (base + 8 * bits va lo n)
      if p.getLsbD 0 && pteOk l p && !p.getLsbD 1 then
        ((pool ++ [(⟨colour, l, va.toNat / 2 ^ lo, p⟩ : PoolEntry)]).drop (pool.length - 255), some (bits p 8 40 * 256))
      else (pool, none)
  match up 4 (bits root 16 32 * 65536) pool with
  | (q, some b) => (up 3 b q).1
  | (q, none) => q

/-- The TLB entry that a leaf gives (R74, R78). -/
def tlbEntryOf (va : Word) (colour level : Nat) (p : Word) (d : Bool) : TlbEntry :=
  { va := va.toNat / 2 ^ pageBits level * 2 ^ pageBits level, level := level,
    colour := if p.getLsbD 57 then none else some colour, pa := bits p 8 40 * 256, mt := bits p 6 2,
    sup := p.getLsbD 56, w := p.getLsbD 3, r := p.getLsbD 2, d := d }

/-- Does a TLB entry translate a VA for a colour (R78)? -/
def TlbEntry.hits (e : TlbEntry) (va : Word) (colour : Nat) : Bool :=
  decide (e.va = va.toNat / 2 ^ pageBits e.level * 2 ^ pageBits e.level) &&
    (match e.colour with | none => true | some k => k == colour)

/-- Protection of R79. -/
def TlbEntry.allows (e : TlbEntry) (wr sup : Bool) : Bool := (if wr then e.w else e.r) && (!e.sup || sup)

/-- Translates for a cluster, a root and a privilege: through the TLB where it holds the page, and for a store one that
it knows as dirty, else by the tables. The flag says that a walk takes place (R74, R78). -/
def State.translate (s : State) (cl : Nat) (root : Word) (sup : Bool) (va : Word) (wr : Bool) :
    Except Nat Phys × Bool :=
  let colour := root.toNat % 4096
  let fin (e : TlbEntry) : Except Nat Phys :=
    if e.allows wr sup then .ok ⟨e.pa + va.toNat % 2 ^ pageBits e.level, e.mt⟩ else .error Code.pageProt
  match (s.cluster cl).tlb.find? (fun e => e.hits va colour) with
  | some e =>
    if wr && e.w && !e.d then
      match s.walk cl root va with
      | .ok (l, _, p) => (fin (tlbEntryOf va colour l p true), true)
      | .error c => (.error c, true)
    else (fin e, false)
  | none =>
    match s.walk cl root va with
    | .ok (l, _, p) => (fin (tlbEntryOf va colour l p wr), true)
    | .error c => (.error c, true)

/-- The walk's part in an event (R74, R78): what the walker pool keeps, A and D of the leaf, and the TLB entry. Of 1,024
TLB entries the one filled first gives way (log 90). A walk that finds a leaf sets A, and D for a store to a page with
W = 1, also where R79 then refuses the access (log 91). -/
def State.doWalk (s : State) (w : Walk) : State :=
  let colour := w.root.toNat % 4096
  let s := s.settleWalk w.root w.va
  let s := s.upDie (dieOfCluster w.cl) (fun d => { d with pool := s.poolFill w.root w.va d.pool })
  match s.walk w.cl w.root w.va with
  | .error _ => s
  | .ok (l, at_, p) =>
    let d := p.getLsbD 5 || (w.wr && p.getLsbD 3)
    let s := s.poke at_ (leBytes 8 (p ||| 0x10 ||| (if d then 0x20 else 0)).toNat)
    s.upCluster w.cl (fun k =>
      let old := k.tlb.filter (fun e => !e.hits w.va colour)
      { k with tlb := old.drop (old.length - 1023) ++ [tlbEntryOf w.va colour l p d] })

/-! ### Accumulator bytes (R69, R70) -/

/-- A byte of the accumulators. -/
def Core.accByte (k : Core) (off : Nat) : Byte := (k.accAt (off / 4) >>> (off % 4 * 8)).setWidth 8

/-- The bytes at a key as core `c` reads them. -/
def State.bytesAt (s : State) (c key n : Nat) : List Byte :=
  if 2 ^ 50 ≤ key then
    let k := s.core ((key - 2 ^ 50) / 4096)
    (List.range n).map (fun i => k.accByte ((key - 2 ^ 50) % 4096 + i))
  else s.readFor c key n

/-- Is a committed batch that names accumulator `a` of core `c` in flight (R70, R118, R264)? -/
def State.accBusy (s : State) (c a : Nat) : Bool := (s.core c).batches.any (fun b => b.all.any (fun t => t.acc == a))

/-! ### The checks of an access (R214, R226) -/

/-- What becomes of an access. -/
inductive Plan where
  /-- A trap at issue. -/
  | trap (code : Nat) (tval : Word)
  /-- The instruction waits (R70, R72, R420). -/
  | wait
  /-- A bad word is in the way: the recovery engine works on the stripe (R408). -/
  | recover (stripe : Nat)
  /-- A fault after issue; the flag says that a walk takes place. -/
  | late (code : Nat) (walk : Bool)
  /-- The access performs at a key; own scratchpad; memory type 0; walk. -/
  | go (key : Nat) (own cached walk : Bool)
  /-- A store to host memory whose link has failed is discarded (R420). -/
  | discard (pa : Nat) (walk : Bool)
  deriving DecidableEq, Repr

/-- Which windows an access may go to. -/
structure Allow where
  acc : Bool := false
  muBuf : Bool := false
  lane : Bool := true
  deriving DecidableEq, Repr

/-- Is a core behind a fence (R390, R397)? -/
def State.fenced (s : State) (c : Nat) : Bool := (s.core c).status == .fenced || s.contained c

/-- Block index of R307 of a key: HBM4 by its PA, Basin scratch with the BASIN bit. -/
def captureId (key : Nat) : Option Nat :=
  if key < 0x6000000000 then some (key / 32768 * 32768)
  else if decide (scratchKey 0 0 ≤ key) && decide (key < scratchKey 256 0) then
    some (2 ^ 62 + scratchAddr (key / 32768 * 32768))
  else none

/-- The block that the first write to a key in pass 0 copies (R307): its copy reads it. -/
def State.captureBlock (s : State) (colour key : Nat) : Option Nat :=
  match s.hub.replays.find? (fun r => r.colour == colour && r.run), captureId key with
  | some r, some id => if r.passes = 0 ∧ r.blocks.contains id = false then some (key / 32768 * 32768) else none
  | _, _ => none

/-- A unit's write that makes a copy finds the block settled (R307, R407, R408). -/
def State.settleBlock (s : State) (colour key : Nat) : State :=
  match s.captureBlock colour key with | some src => s.settle src 32768 | none => s

/-- Poison and parity of the bytes of an access by core `c` (R407, R410), and parity of the block that a write has copied
(R307). -/
def State.planBytes (s : State) (c key n : Nat) (wr own cached walk : Bool) : Plan :=
  if s.poisoned key n && !(wr && coversLines key n) then .late Code.poison walk
  else if wr then
    match (s.captureBlock (s.core c).colour key).bind (fun src => s.badStripe src 32768) with
    | some st => .recover st
    | none => .go key own cached walk
  else match s.badStripe key n with
    | some st => .recover st
    | none => .go key own cached walk

/-- The fate of an access of `n` bytes by core `c` at a place, in the order of R214: `al` is the alignment, `wr` says
that the access writes. -/
def State.planAt (s : State) (c : Nat) (va : Word) (n al : Nat) (wr : Bool) (ok : Allow) : Plan :=
  match placeOf c va with
  | .bad code => .trap code va
  | .acc off =>
    if wr || !ok.acc then .trap Code.addrWin va
    else if va.toNat % al ≠ 0 then .trap Code.align va
    else if s.accBusy c (off / 1024) then .wait
    else match s.badStripe (accKey c off) n with
      | some st => if (s.badWords st).length = 1 then .recover st else .late Code.poison false
      | none => .go (accKey c off) false true false
  | .muBuf m region off =>
    if (wr && region == 2) || !ok.muBuf then .trap Code.addrWin va
    else if va.toNat % al ≠ 0 then .trap Code.align va
    else .go (muKey m region off) false true false
  | .own off =>
    if va.toNat % al ≠ 0 then .trap Code.align va
    else if off < (s.core c).codeEnd then .trap Code.xoAccess va
    else s.planBytes c (padKey c off) n wr true true false
  | .remote t off =>
    if va.toNat % al ≠ 0 then .trap Code.align va
    else if s.fenced t then .late Code.fenced false
    else if off < (s.core t).codeEnd then .late Code.xoAccess false
    else s.planBytes c (padKey t off) n wr false true false
  | .lane off =>
    if !ok.lane then .trap Code.addrWin va
    else if va.toNat % al ≠ 0 then .trap Code.align va
    else s.planBytes c (laneKey c off) n wr false true false
  | .scratch sl off =>
    let d := s.die (dieOfSlice sl)
    let small := Nat.min d.scr (d.oldScr.getD d.scr)
    if d.oldScr.isSome && decide (small * 2 ^ 20 ≤ off) then .wait
    else if d.scr * 2 ^ 20 ≤ off then .trap Code.addrWin va
    else if va.toNat % al ≠ 0 then .trap Code.align va
    else s.planBytes c (scratchKey sl off) n wr false true false
  | .trans =>
    if va.toNat % al ≠ 0 then .trap Code.align va
    else
      let k := s.core c
      let (r, walk) := s.translate (clusterOf c) k.root k.lv[k.lvl].sup va wr
      match r with
      | .error 0 => .wait
      | .error code => .late code walk
      | .ok p =>
        if p.pa < 2 ^ 47 then s.planBytes c p.pa n wr false (p.mt == 0) walk
        else match s.hub.link with
          | .up => s.planBytes c p.pa n wr false (p.mt == 0) walk
          | .down => .wait
          | .failed => if wr then .discard p.pa walk else .late Code.poison walk

/-- The walk that an access of the executing core starts (R78). One that the TLB misses counts as such; a page that it holds
with D = 0 is only walked again (R74, R373). -/
def State.startWalk (s : State) (walk : Bool) (va : Word) (wr : Bool) : State :=
  let miss := !(s.cluster s.cl).tlb.any (fun e => e.hits va s.me.colour)
  if walk then (s.pushFree (.tlbWalk ⟨s.cl, s.me.root, va, wr⟩)).count s.cur 6 miss.toNat else s

/-- Asks for the recovery of a stripe, once (R408). -/
def State.askRecovery (s : State) (stripe : Nat) : State :=
  let e : Instr := .parityRecovery (.stripe stripe) s.me.lvl.val s.cur s.pc
  if s.agenda.any (fun f => match f.ev with | .parityRecovery w _ _ _ => w == .stripe stripe | _ => false) then s
  else s.pushFree e

/-- Has the core an atomic that has not performed? Its later accesses wait for it (R115, R116). -/
def State.atomicAhead (s : State) (c : Nat) : Bool :=
  s.agenda.any (fun f => match f.ev with | .atomicPerform c' _ _ _ _ _ => c' == c | _ => false)

/-- The plan of an access of the executing core. -/
def State.plan (s : State) (va : Word) (n : Nat) (wr : Bool) (ok : Allow := ⟨true, true, true⟩) : Plan :=
  if s.atomicAhead s.cur then
    (match s.planAt s.cur va n n wr ok with | .trap c t => .trap c t | _ => .wait)
  else s.planAt s.cur va n n wr ok

/-- Must an access wait for earlier ones (R105, R114, R125)? A sync access begins as a full fence, a release (a write or
an atomic of ORD 2) as a release fence; at domain scope it waits for the core's Dial sends (R349). -/
def State.orderHold (s : State) (o : Order) (wr : Bool) : Bool :=
  (o.ord == 3 && (!s.lev.out.isEmpty || s.me.stores != 0 || s.atomicAhead s.cur)) ||
    (o.ord == 2 && wr && (s.me.stores != 0 || s.atomicAhead s.cur)) ||
    (o.sc == 3 && (o.ord == 3 || (o.ord == 2 && wr)) && !s.me.dsOut.isEmpty)

/-- Notes the first store that a failed link discards in the newest NQL_FAIL record of a log: its PA, and in word 1 that word 2
holds one (R378, R420). -/
def notePa (pa : Nat) : List LogRec → List LogRec
  | [] => []
  | r :: rest =>
    if rest.any (fun q => bits q.w0 56 8 == Code.nqlFail) || bits r.w0 56 8 != Code.nqlFail then r :: notePa pa rest
    else (if r.w1.getLsbD 39 then r else { r with w1 := r.w1 ||| (1 <<< 39), w2 := BitVec.ofNat 64 pa }) :: rest

/-- The NQL_FAIL record names the first store that the failed link discards (R420). -/
def State.noteDiscard (s : State) (pa : Nat) : State := s.upDie 0 (fun d => { d with log := notePa pa d.log })

/-! ### Replay capture (R307) -/

/-- Copies the block of a first write to the save area in pass 0, or notes a write to host memory (R307). -/
def State.capture (s : State) (colour key : Nat) : State :=
  match s.hub.replays.find? (fun r => r.colour == colour && r.run) with
  | none => s
  | some r =>
    let put (r' : Replay) : State :=
      s.upHub (fun h => { h with replays := h.replays.map (fun q => if q.colour == colour then r' else q) })
    match captureId key with
    | none => if decide (2 ^ 47 ≤ key) && isGlobal key then put { r with host := true } else s
    | some id =>
      if r.passes ≠ 0 ∨ r.blocks.contains id then s
      else
        let cap := bits s.hub.rplay 48 15
        let k := r.blocks.length
        if cap * 2 ^ 20 < 65536 + 32768 * (k + 1) ∨ 8192 ≤ k then put { r with ovf := true }
        else
          let src := key / 32768 * 32768
          let s' := put { r with blocks := r.blocks ++ [id] }
          let s' := s'.poke (r.part + 8 * k) (leBytes 8 (2 ^ 63 + id)) false
          s'.poke (r.part + 65536 + 32768 * k) (s'.mem.bytes src 32768) false

/-- Notes whose store makes lines of L2 dirty (R389). -/
def State.mark (s : State) (c key n : Nat) (cached : Bool) : State :=
  if isGlobal key && cached then
    { s with dirtyBy := (List.range ((key + n - 1) / 64 - key / 64 + 1)).foldl (fun m i => m.set (key / 64 + i) c) s.dirtyBy }
  else s

/-- A store by core `c`, with the capture of its block (R68, R118, R307). -/
def State.storeAt (s : State) (c key : Nat) (bs : List Byte) (cached : Bool) (ack : Bool := false) : State :=
  ((s.capture (s.core c).colour key).mark c key bs.length cached).store c key bs cached ack

/-- A store of core `c` that is acknowledged in its time (R68, R114): one that waits for a ring slot is acknowledged
after it performs. -/
def State.ackedStore (s : State) (c key : Nat) (bs : List Byte) (cached : Bool) : State :=
  let held := s.heldSlot key bs.length
  let s := (s.storeAt c key bs cached true).upCore c (fun k => { k with stores := k.stores + 1 })
  if held then s else s.pushFree (.storeAck c)

/-! ### Results on their way (R183, R184) -/

/-- Room for one more outstanding result of the running level (R184). -/
def State.roomFor (s : State) (n : Nat := 1) : Bool := decide (s.lev.out.length + n ≤ 16)

/-- Does a level count a result as outstanding (R184)? -/
def State.owes (s : State) (c lvl id : Nat) : Bool :=
  if h : lvl < 4 then (s.core c).lv[lvl].out.any (fun o => o.id == id) else false

/-- A result of the executing instruction is outstanding from now on (R184); its number is that of `s.ids`. -/
def State.owe (s : State) (slot : Nat) (redeem : Bool := false) : State :=
  (s.upLev (fun v => { v with out := v.out ++ [⟨s.ids, slot, redeem⟩] })).fresh

/-- A result of the executing instruction is on its way, outstanding if `track` (R184). -/
def State.send (s : State) (slot : Nat) (l : Landing) (track : Bool := true) : State :=
  let id := s.ids
  let s := if track then s.owe slot else s.fresh
  s.push (landChan s.cur s.me.lvl.val slot) (.resultLand s.cur s.me.lvl.val id s.pc l)

/-- A variable-latency result for x[d] (R183): one for x0 is discarded. -/
def State.sendX (s : State) (d : XReg) (w : Word) : State :=
  if d = 0 then s else s.send d.toNat (.regs [(d, w)])

/-- Finishes an instruction with a variable-latency result for x[d]; a seventeenth result waits (R184). -/
def State.finishX (s : State) (h : Head) (d : XReg) (w : Word) : State :=
  if d = 0 then s.advance h
  else if s.roomFor then (s.sendX d w).advance h
  else s.block .awake

/-- Reports a fault of the executing instruction after issue (R202); `slot` names the destination that stays as it is, if
the instruction has one. Without one the access counts as not acknowledged until the fault is reported (R114, log 17). -/
def State.sendFault (s : State) (code : Nat) (tval : Word) (slot : Option Nat := none) (text : Word := 0) : State :=
  let s := if slot.isSome then s else s.upMe (fun k => { k with stores := k.stores + 1 })
  s.send (slot.getD 192) (.fault code tval text) slot.isSome

/-- The slot of a general register: none for x0, whose result is discarded (R183). -/
def slotX (d : XReg) : Option Nat := if d = 0 then none else some d.toNat

/-- An interlocked result lands: the register is written at its level and no longer locked. -/
def State.landLocked (s : State) (c lvl : Nat) (d : XReg) (w : Word) : State :=
  if h : lvl < 4 then
    s.upCore c (fun k => (k.setX ⟨lvl, h⟩ d w).upLv ⟨lvl, h⟩ (fun v => { v with locks := v.locks.erase d }))
  else s

/-- The executing level waits for a result in x[d]. -/
def State.lockX (s : State) (d : XReg) : State :=
  if d = 0 then s else s.upLev (fun v => { v with locks := v.locks ++ [d] })

/-- Is the executing core inside a twin activation (R412, R413)? -/
def State.inTwin (s : State) : Bool := s.me.twin.isSome && s.me.inact && s.me.lvl == 0

/-- A plain load of `n` bytes: `f` turns the bytes into the value of x[d] (R213, R214). -/
def State.loadX (s : State) (h : Head) (d : XReg) (va : Word) (n : Nat) (f : Nat → Word) : State :=
  match s.plan va n false with
  | .trap c t => s.trap c t
  | .wait => s.block .awake
  | .recover st => (s.askRecovery st).block .awake
  | .late c walk =>
    if d ≠ 0 && !s.roomFor then s.block .awake
    else ((s.startWalk walk va false).sendFault c va (slotX d)).advance h
  | .discard _ _ => s.block .awake
  | .go key own _ walk =>
    let w := f (leVal (s.bytesAt s.cur key n))
    if own then (s.setX d w).advance h
    else if d ≠ 0 && !s.roomFor then s.block .awake
    else ((s.startWalk walk va false).sendX d w).advance h

/-- A plain store of bytes at an address (R213, R214). -/
def State.storeV (s : State) (h : Head) (va : Word) (bs : List Byte) : State :=
  match s.plan va bs.length true with
  | .trap c t => s.trap c t
  | .wait => s.block .awake
  | .recover st => (s.askRecovery st).block .awake
  | .late c walk => ((s.startWalk walk va true).sendFault c va).advance h
  | .discard pa walk => (((s.startWalk walk va true).noteDiscard pa)).advance h
  | .go key _ cached walk => ((s.startWalk walk va true).ackedStore s.cur key bs cached).advance h

/-- An element of an access that has several: its number, its address, and its fate. -/
structure Elem where
  lane : Nat
  va : Word
  plan : Plan
  deriving DecidableEq, Repr

/-- The fate of an access of several elements: a trap at issue comes first, then a wait, a recovery, and the lowest lane's fault after
issue; else where each element lies (R202, R245, R256). -/
inductive VecPlan where
  | trap (code : Nat) (tval : Word)
  | wait
  | recover (stripe : Nat)
  | late (code : Nat) (va : Word)
  | go
  deriving DecidableEq, Repr

/-- The fate of the elements. -/
def vecPlan (es : List Elem) : VecPlan :=
  match es.findSome? (fun e => match e.plan with | .trap c t => some (c, t) | _ => none) with
  | some (c, t) => .trap c t
  | none =>
    if es.any (fun e => e.plan == .wait) then .wait
    else match es.findSome? (fun e => match e.plan with | .recover st => some st | _ => none) with
      | some st => .recover st
      | none =>
        match es.findSome? (fun e => match e.plan with | .late c _ => some (c, e.va) | _ => none) with
        | some (c, va) => .late c va
        | none => .go

/-- Does an element's translation walk? -/
def Plan.walks : Plan → Bool
  | .late _ w => w
  | .go _ _ _ w => w
  | .discard _ w => w
  | _ => false

/-- Starts the walks of the elements, one for each page (R78). -/
def State.startWalks (s : State) (es : List Elem) (wr : Bool) : State :=
  let pages := (es.filter (fun e => e.plan.walks)).map (fun e => (e.va.toNat / 32768, e.va))
  (pages.foldl (fun (acc : List Nat × State) p =>
    if acc.1.contains p.1 then acc else (p.1 :: acc.1, acc.2.startWalk true p.2 wr)) ([], s)).2

/-- Notes the first element of an access that a failed host link discards (R420). -/
def State.noteDiscards (s : State) (es : List Elem) : State :=
  match es.findSome? (fun e => match e.plan with | .discard pa _ => some pa | _ => none) with
  | some pa => s.noteDiscard pa
  | none => s

/-- An access of several elements by the executing core: the stops come first; a fault after issue takes the place of the
access, which has then no effect; else `go` performs it, after the walks have started, and ends the instruction (R202).
Elements that a failed host link discards are noted (R420).
`slot` names the destination of an outstanding result. -/
def State.access (s : State) (h : Head) (wr : Bool) (slot : Option Nat) (es : List Elem) (go : State → State) : State :=
  match vecPlan es with
  | .trap c t => s.trap c t
  | .wait => s.block .awake
  | .recover st => (s.askRecovery st).block .awake
  | .late c va =>
    if slot.isSome && !s.roomFor then s.block .awake
    else ((s.startWalks es wr).sendFault c va slot).advance h
  | .go => go ((s.startWalks es wr).noteDiscards es)

/-- The keys at which the elements of an access lie, by element number. -/
def elemKey (es : List Elem) (i : Nat) : Option (Nat × Bool) :=
  es.findSome? (fun e => match e.plan with | .go key _ cached _ => if e.lane = i then some (key, cached) else none | _ => none)

/-- Does a store leave the core's own state, which a twin activation does not do (R413)? -/
def State.twinStore (s : State) (va : Word) : Bool :=
  s.inTwin && (match placeOf s.cur va with | .own _ => false | .lane _ => false | _ => true)

/-! ### Break bits (R83, R370) -/

/-- Loads the break bits of the words in a range of a core's scratchpad from the debugger's bitmap (R370): none with
EN = 0. -/
def State.refillBreaks (s : State) (c off n : Nat) : State :=
  let b := s.hub.bbase
  let at_ := bits b 14 34 * 2 ^ 14 + 16384 * c
  let set (i : Nat) : Bool := (s.mem.read (at_ + i / 8)).getLsbD (i % 8)
  let new := if b.getLsbD 63 then ((List.range ((n + 1) / 2)).filter (fun i => set (off / 2 + i))).map (fun i => off / 2 * 2 + 2 * i) else []
  s.upCore c (fun k => { k with brk := k.brk.filter (fun o => !(decide (off / 2 * 2 ≤ o) && decide (o < off + n))) ++ new })

/-! ### Accesses of the units (R79, R114)

A Weir, an engine, the Dispatcher or a Dial port reaches translated memory through a job's tables. -/

/-- The translation context of a unit: cluster, MMU.ROOT, privilege. -/
structure Ctx where
  cl : Nat
  root : Word
  sup : Bool
  deriving DecidableEq, Repr

/-- MMU.ROOT of a job (R318). -/
def Job.root (j : Job) : Word := (j.launch.lpb[5]?.getD 0 &&& 0x0000FFFFFFFF0000) ||| BitVec.ofNat 64 j.colour
/-- A job's context at a cluster. -/
def Job.ctx (j : Job) (cl : Nat) : Ctx := ⟨cl, j.root, true⟩
/-- A word of the launch parameter block (R316). -/
def Job.word (j : Job) (i : Nat) : Word := j.launch.lpb[i]?.getD 0

/-- Where a unit's access of `n` bytes leads: the state after the walk, the key, and whether it is cached. Host memory
behind a failed link reads as poisoned and takes no write; while the link is down the access waits, which is code 0 (R420). -/
def State.unitAt (s : State) (x : Ctx) (va : Word) (n : Nat) (wr : Bool) : Except Nat (State × Nat × Bool) :=
  match placeOf 0 va with
  | .trans =>
    let (r, walk) := s.translate x.cl x.root x.sup va wr
    (match r with
    | .error code => .error code
    | .ok p =>
      if s.hostWaits p.pa then .error 0
      else
      let s := if walk then s.doWalk ⟨x.cl, x.root, va, wr⟩ else s
      let s := if wr then s else s.settle p.pa n
      if s.hostLost p.pa && !wr then .error Code.poison
      else if s.poisoned p.pa n && !(wr && coversLines p.pa n) then .error Code.poison
      else .ok (s, p.pa, p.mt == 0))
  | .bad code => .error code
  | _ => .error Code.addrWin

/-- A unit's read. -/
def State.unitLoad (s : State) (x : Ctx) (va : Word) (n : Nat) : Except Nat (State × Nat) :=
  match s.unitAt x va n false with
  | .error c => .error c
  | .ok (s, key, _) => .ok (s, s.peek key n)

/-- A unit's write for the job of the context's colour. -/
def State.unitStore (s : State) (x : Ctx) (va : Word) (bs : List Byte) : Except Nat State :=
  match s.unitAt x va bs.length true with
  | .error c => .error c
  | .ok (s, key, cached) =>
    if s.hostLost key then .ok (s.noteDiscard key)
    else .ok (((s.settleBlock (x.root.toNat % 4096) key).capture (x.root.toNat % 4096) key).poke key bs cached)

/-- Does a unit's access at an address wait for the host link (R420)? -/
def State.unitWaits (s : State) (x : Ctx) (va : Word) (wr : Bool) : Bool :=
  s.hub.link == .down && (match s.unitAt x va 8 wr with | .error 0 => true | _ => false)

/-- Must a command that releases the core's earlier accesses wait (R115, R117, R120): an atomic has not performed, or a store
waits for a ring slot (R118)? -/
def State.releaseHold (s : State) : Bool := s.atomicAhead s.cur || s.heldWrites.any (fun w => w.c == s.cur && w.cp.isNone)

end Sys2Proof.Machine
end

