-- ==== Sys2Proof/Machine/Sync.lean ====
section
/-! DEFINITION. Fences, barriers, group geometry and group collectives as a core issues them (R59 to R61, R114, R212, R222
to R224). -/

namespace Sys2Proof.Machine

/-! ### Fences (R114) -/

/-- Copy Engine transfers that a core has started and that are not complete (R101, R292). -/
def State.copiesOf (s : State) (c : Nat) : Nat := (s.cluster (clusterOf c)).copies.countP (fun k => k.c == c)

/-- Has a core MU commands that are queued or not complete: a pass or probe unfinished, an exchange, write or trim that
waits for its boundary, a load that has not settled, a calibration or its probe (R114, R157, R274, R280)? -/
def State.muBusyOf (s : State) (c : Nat) : Bool :=
  !(s.core c).unfinished.isEmpty ||
    (List.range 2).any (fun m =>
      let k := s.mu (2 * clusterOf c + m)
      k.q.any (fun q => q.c == c) || (match k.cal with | some (d, _) => d == c | none => false) || k.owners.contains c ||
        k.ldCore == some c || k.probing.any (fun r => r.c == some c))

/-- DE commands of a core that are not complete (R276). -/
def State.deBusyOf (s : State) (c : Nat) : Bool := (s.core c).deStat.any (fun e => e.2 == 1)

/-- Has every engine command that the core has issued to an engine inside a scope completed (R114, drain)? Scopes as in
R104: 2 cluster, 4 die, 6 domain. -/
def State.drained (s : State) (c sc : Nat) : Bool :=
  (s.core c).batches.isEmpty &&
    (decide (sc < 2) || (!s.muBusyOf c && s.copiesOf c == 0)) &&
    (decide (sc < 4) || !s.deBusyOf c) &&
    (decide (sc < 6) || (s.core c).dsOut.isEmpty)

/-- What a fence still waits for (R114). -/
def State.fenceWaits (s : State) (sc kind : Nat) : Bool :=
  (decide (kind ≠ 2) && !s.lev.out.isEmpty) ||
    (decide (kind ≠ 1) && (s.me.stores != 0 || s.atomicAhead s.cur)) ||
    (decide (kind = 2) && s.atomicAhead s.cur) ||
    (decide (kind = 3) && !s.drained s.cur sc) ||
    (decide (kind ≠ 1) && decide (sc = 6) && !s.me.dsOut.isEmpty)

/-- FENCE (R114): a parked drain reports ENGINE, and so does one that waits for Dial sends (R343); any other parked fence
is awake. -/
def execFence (h : Head) (sc : BitVec 3) (kind : BitVec 2) (s : State) : Host.Outcome State Fault Refusal :=
  .next (if s.fenceWaits sc.toNat kind.toNat then
      s.blockFence (if kind = 3 ∨ (kind ≠ 1 ∧ sc = 6 ∧ !s.me.dsOut.isEmpty) then .engine else .awake)
    else s.advance h)

/-! ### Groups (R59, R60, R201, R212) -/

/-- Group slot of membership `m` of a CORE.GRP value, if it is valid (R201). -/
def grpSlot (g : Word) (m : Nat) : Option Nat := if g.getLsbD (32 + m) then some (bits g (8 * m) 8) else none

/-- Is a slot among the core's valid memberships (R222)? -/
def Core.memberOf (k : Core) (slot : Nat) : Bool := (List.range 4).any (fun m => grpSlot k.grp m == some slot)

/-- The group of a slot in the job of a colour (R59). -/
def State.group? (s : State) (colour slot : Nat) : Option GroupDef :=
  match s.job? colour with
  | some j => NMap.find? j.groups slot
  | none => none

/-- Rank of a core in a group (R60). -/
def GroupDef.rank (g : GroupDef) (c : Nat) : Nat := g.members.countP (fun m => decide (m < c))

/-- Extent i of a geometry word (R59): 1 where it is not used. -/
def GroupDef.ext (g : GroupDef) (i : Nat) : Nat := bits g.geo (10 * i) 10
/-- DIMS of a geometry word (R59). -/
def GroupDef.dims (g : GroupDef) : Nat := bits g.geo 30 2

/-- The cluster whose Weir handles a group: that of its lowest member (R396). -/
def GroupDef.home (g : GroupDef) : Nat := clusterOf (g.members.headD 0)

/-- The value that a GEO code names for a core (R212). -/
def geoValue (g : GroupDef) (slot c code : Nat) : Nat :=
  let r := g.rank c
  match code with
  | 0 => r % g.ext 0
  | 1 => r / g.ext 0 % g.ext 1
  | 2 => r / (g.ext 0 * g.ext 1)
  | 3 => r
  | 4 => g.ext 0
  | 5 => g.ext 1
  | 6 => g.ext 2
  | 7 => g.members.length
  | 8 => g.dims
  | _ => slot

/-- GEO (R212): codes 10 to 15 trap, an invalid membership gives all ones. -/
def execGeo (h : Head) (d : XReg) (sel : BitVec 6) (s : State) : Host.Outcome State Fault Refusal :=
  .next (
    if 10 ≤ sel.toNat % 16 then s.illegal
    else match grpSlot s.me.grp (sel.toNat / 16) with
      | none => (s.setX d (BitVec.allOnes 64)).advance h
      | some slot =>
        match s.group? s.me.colour slot with
        | some g => (s.setX d (BitVec.ofNat 64 (geoValue g slot s.cur (sel.toNat % 16)))).advance h
        | none => (s.setX d (BitVec.allOnes 64)).advance h)

/-! ### Barriers (R61, R222, R396) -/

/-- Group slot of a barrier operand. -/
def State.slotOf (s : State) (a : XReg) : Nat := bits (s.getX a) 0 8

/-- The phase number of a group at its Weir (R61). -/
def State.phase (s : State) (c slot : Nat) : Nat :=
  match s.group? (s.core c).colour slot with
  | some g => ((s.cluster g.home).groups.get ⟨0, [], []⟩ slot).phase
  | none => 0

/-- The executing core arrives (R222): ARRIVED is set, and the arrival is on its way to the group's Weir. -/
def State.arrive (s : State) (slot : Nat) : State :=
  let home := match s.group? s.me.colour slot with | some g => g.home | none => s.cl
  let s' := s.upMe (fun k => { k with arrived := k.arrived.set slot (s.phase s.cur slot) })
  s'.push (groupChan s.cur home) (.barrierArrival home slot s.cur)

/-- The barrier wait in which the running level re-enters BAR or BARW. -/
def State.barWait (s : State) : Option Wait :=
  match s.waiting with
  | some w => if w.reason = .barrier then some w else none
  | none => none

/-- BAR (R222): arrives and sleeps until the notice of the phase's completion has come. The arrival is a release, for which
earlier atomics and held stores perform (R120). -/
def execBar (h : Head) (a : XReg) (s : State) : Host.Outcome State Fault Refusal :=
  let slot := s.slotOf a
  .next (
    match s.barWait with
    | some w =>
      -- the wait keeps the slot and the phase, so that x[A] is not read again
      let slot := w.arg.toNat % 256
      if s.me.arrived.find? slot = some (w.arg.toNat / 256) then s.block .barrier w.arg else s.advance h
    | none =>
      if !s.me.memberOf slot then s.trap Code.barNonmember
      else if (s.me.arrived.find? slot).isSome then s.trap Code.barDouble
      else if s.releaseHold then s.block .awake
      else (s.arrive slot).block .barrier (BitVec.ofNat 64 (s.phase s.cur slot * 256 + slot)))

/-- BARA (R222): arrives without waiting; x[D] is the phase arrived in. -/
def execBara (h : Head) (d a : XReg) (s : State) : Host.Outcome State Fault Refusal :=
  let slot := s.slotOf a
  .next (
    if !s.me.memberOf slot then s.trap Code.barNonmember
    else if (s.me.arrived.find? slot).isSome then s.trap Code.barDouble
    else if s.releaseHold then s.block .awake
    else ((s.arrive slot).setX d (BitVec.ofNat 64 (s.phase s.cur slot))).advance h)

/-- Has the phase that a BARW names not ended, as the executing core knows? One that has arrived in it learns of its end by
the notice, as BAR does (log 86). -/
def State.inPhase (s : State) (slot p : Nat) : Bool :=
  decide (s.phase s.cur slot = p) || decide (s.me.arrived.find? slot = some p)

/-- BARW (R222): sleeps while the group's phase number equals x[D][31:0], with the slot and the phase as they were at
issue. -/
def execBarw (h : Head) (d a : XReg) (s : State) : Host.Outcome State Fault Refusal :=
  let slot := s.slotOf a
  let p := bits (s.getX d) 0 32
  .next (
    match s.barWait with
    | some w => if s.inPhase (w.arg.toNat % 256) (w.arg.toNat / 256) then s.block .barrier w.arg else s.advance h
    | none =>
      if !s.me.memberOf slot then s.trap Code.barNonmember
      else if s.inPhase slot p then s.block .barrier (BitVec.ofNat 64 (p * 256 + slot))
      else s.advance h)

/-- BARQ (R222): the group's phase number. -/
def execBarq (h : Head) (d a : XReg) (s : State) : Host.Outcome State Fault Refusal :=
  let slot := s.slotOf a
  .next (
    if !s.me.memberOf slot then s.trap Code.barNonmember
    else (s.setX d (BitVec.ofNat 64 (s.phase s.cur slot))).advance h)

/-! ### Collectives (R223, R224) -/

/-- A core's contribution to a collective of a group: the result is interlocked, one is in flight on a slot at most (R223),
and earlier atomics and held stores perform first (R120). -/
def State.collective (s : State) (h : Head) (d a : XReg) (gbc : Bool) : State :=
  let w := s.getX a
  let slot := bits w 0 8
  match s.group? s.me.colour slot with
  | none => s.trap Code.barNonmember
  | some g =>
    if !s.me.memberOf slot then s.trap Code.barNonmember
    else if !gbc && decide (8 < bits w 8 4) then s.trap Code.collBad
    else if gbc && decide (g.members.length ≤ bits w 16 10) then s.trap Code.collBad
    else if (s.me.coll.find? slot).isSome ∨ s.releaseHold then s.block .awake
    else
      let k : Contribution := ⟨s.cur, s.me.lvl.val, s.pc, gbc, if gbc then 0 else bits w 8 4,
        if gbc then bits w 16 10 else 0, s.getX d⟩
      let s := s.upMe (fun c => { c with coll := c.coll.set slot (c.lvl.val, s.pc, d) })
      let s := if d = 0 then s else s.upLev (fun v => { v with locks := v.locks ++ [d] })
      (s.push (groupChan s.cur g.home) (.collectiveContribution g.home slot k)).advance h

/-- GRED (R223). -/
def execGred (h : Head) (d a : XReg) (s : State) : Host.Outcome State Fault Refusal := .next (s.collective h d a false)

/-- GBC (R223). -/
def execGbc (h : Head) (d a : XReg) (s : State) : Host.Outcome State Fault Refusal := .next (s.collective h d a true)

end Sys2Proof.Machine
end

