-- ==== Sys2Proof/Machine/Message.lean ====
section
/-! DEFINITION. User messages, tasks and handlers (R55 to R58, R65, R228 to R236). -/

namespace Sys2Proof.Machine

/-! ### The dispatch table (R55) -/

/-- Entry of a core's copy of the dispatch table. -/
def Core.entry (k : Core) (i : Nat) : Word := k.dtab[i]?.getD 0
def entryValid (e : Word) : Bool := e.getLsbD 63
def entrySorted (e : Word) : Bool := e.getLsbD 62
def entryLevel (e : Word) : Nat := bits e 60 2
def entryGroup (e : Word) : Nat := bits e 52 8
def entryCode (e : Word) : Word := BitVec.ofNat 64 (bits e 0 48)

/-- The dispatch entry that a message runs (R228): its type, or for class c from 1 to 7 entry 55 + c; a REPLY runs entry
63. -/
def entryIndex (m : UMsg) : Nat :=
  match m.kind with
  | .reply => 63
  | _ => if m.cls = 0 then m.typ else 55 + m.cls

/-- Level of a message at a core (R55): a REPLY's is 1. -/
def msgLevel (m : UMsg) (k : Core) : Nat :=
  match m.kind with
  | .reply => 1
  | _ => entryLevel (k.entry (entryIndex m))

/-! ### Counting (R63) -/

/-- Counts a message sent by a cluster. -/
def State.countSent (s : State) (cl : Nat) (n : Nat := 1) : State :=
  s.upCluster cl (fun k => { k with sent := (k.sent + n) % 2 ^ 32 })
/-- Counts a message received by a cluster. -/
def State.countRecv (s : State) (cl : Nat) : State := s.upCluster cl (fun k => { k with recv := (k.recv + 1) % 2 ^ 32 })

/-! ### Sorted windows (R58) -/

/-- Is sequence number a before b modulo 2^32? -/
def seqBefore (a b : BitVec 32) : Bool := (a - b).msb

/-- Puts a message into ascending order of sender and, within a sender, of sequence number (R58). -/
def insertSorted (m : UMsg) : List UMsg → List UMsg
  | [] => [m]
  | n :: r =>
    if m.src < n.src ∨ (m.src = n.src ∧ seqBefore m.seq n.seq) then m :: n :: r else n :: insertSorted m r

/-- Messages in the order in which a closed window invokes its handler (R58). -/
def sortMsgs (ms : List UMsg) : List UMsg := ms.foldl (fun l m => insertSorted m l) []

/-- Appends messages to the queue of a level (R56). -/
def Core.enqueue (k : Core) (l : Nat) (ms : List UMsg) : Core := { k with hq := k.hq.setIfInBounds l ((k.hq[l]?.getD []) ++ ms) }

/-- The window of a type. -/
def Core.window (k : Core) (typ : Nat) : SWindow := k.win.get ⟨none, [], none⟩ typ

/-- The window of a type after one closed: the count set for it by MCLOSE; a count of 0 closes it at once (R58). -/
def SWindow.fresh (w : SWindow) : SWindow := ⟨if w.next = some 0 then none else w.next, [], none⟩

/-- Parks a message of a SORTED type; the window's count is fixed by its first message unless MCLOSE set it, and the
window closes when it is reached (R58). Its messages join the level's queue at once, beyond its 64 entries if they are more
(log 96). A window whose GROUP slot has no members closes with its first message, which is handled (log 97). -/
def Core.park (k : Core) (m : UMsg) (groupSize : Nat) : Core :=
  let w := k.window m.typ
  let n := w.expect.getD groupSize
  let ms := w.msgs ++ [m]
  if n ≤ ms.length then
    { (k.enqueue (msgLevel m k) (sortMsgs ms)) with win := k.win.set m.typ w.fresh }
  else { k with win := k.win.set m.typ { w with expect := some n, msgs := ms } }

/-- Route of a packet of a class from core `src` to core `tgt` at injection (R333, R335): the waypoint of the class, unless
it is a router at one end, then the destination. -/
def State.routeOf (s : State) (src tgt cls : Nat) : List Nat :=
  let r := s.hub.rcls.get 0 cls
  let way := bits r 4 4 * 16 + bits r 0 4
  if cls ≠ 0 ∧ r.getLsbD 31 ∧ way ≠ sliceOf src ∧ way ≠ sliceOf tgt then [way, sliceOf tgt] else [sliceOf tgt]

/-- Messages parked at a core (R58). -/
def Core.parked (k : Core) : Nat := (k.win.map (fun e => e.2.msgs.length)).foldl (· + ·) 0

/-! ### Delivery (R56, R229, R232) -/

/-- Member count of a group in the job of a core (R58). -/
def State.groupSize (s : State) (c slot : Nat) : Nat :=
  match s.group? (s.core c).colour slot with
  | some g => g.members.length
  | none => 0

/-- Is a route class masked at a core (R232)? -/
def Core.masked (k : Core) (cls : Nat) : Bool := cls != 0 && k.cmask.getLsbD cls

/-- Does a core take part in messages: started, not halted (R229), not behind a fence (R390)? -/
def State.accepts (s : State) (c : Nat) : Bool := (s.core c).status == .running && !s.fenced c

/-- VA of the place of a core's n-th parked message in its job's park region (R316). -/
def Job.parkVa (j : Job) (c n : Nat) : Word :=
  j.word 15 + BitVec.ofNat 64 (131072 * j.allCores.findIdx (· == c) + 32 * n)

/-- Does the park region that the next parked message needs wait for the host link (R420)? -/
def State.parkWaits (s : State) (c : Nat) : Bool :=
  decide (64 ≤ (s.core c).parked) &&
    (match s.job? (s.core c).colour with
    | some j => s.unitWaits (j.ctx (clusterOf c)) (j.parkVa c (s.core c).parked) true
    | none => false)

/-- Writes a message that is parked beyond the 64 that the hardware holds to the job's park region (R58, R316), 32 bytes of
the device's own layout: free values (log 52). -/
def State.parkSpill (s : State) (c : Nat) : State :=
  let n := (s.core c).parked
  match s.job? (s.core c).colour with
  | none => s
  | some j =>
    if n ≤ 64 then s
    else
      match s.unitStore (j.ctx (clusterOf c)) (j.parkVa c (n - 1)) ((List.range 4).flatMap (fun i => leBytes 8 (Config.freeWord (s.free + i)).toNat)) with
      | .ok t => { t with free := t.free + 4 }
      | .error _ => s

/-- Gives a message to its level's queue, its window or the task queue (R56 to R58), and counts it. -/
def State.deliver (s : State) (c : Nat) (m : UMsg) : State :=
  let s := s.countRecv (clusterOf c)
  let k := s.core c
  match m.kind with
  | .task => s.setCore c { k with tq := k.tq ++ [m] }
  | _ =>
    let e := k.entry (entryIndex m)
    if m.kind = .msg ∧ m.cls = 0 ∧ entrySorted e then (s.setCore c (k.park m (s.groupSize c (entryGroup e)))).parkSpill c
    else s.setCore c (k.enqueue (msgLevel m k) [m])

/-- Refuses a message (R229): it counts as received, and the refusal is on its way to the sender. -/
def State.refuse (s : State) (c : Nat) (m : UMsg) : State := (s.countRecv (clusterOf c)).push (refusalChan c m.src) (.messageRefusal m)

/-- A message reaches a core: refused by a core that handles none, held while its class is masked, else delivered
(R229, R232). -/
def State.receive (s : State) (c : Nat) (m : UMsg) : State :=
  let k := s.core c
  if !s.accepts c then s.refuse c m
  else if m.kind = .msg ∧ k.masked m.cls then s.setCore c { k with hold := k.hold ++ [m] }
  else s.deliver c m

/-- Is there room for a message at its target (R56 to R58, R232)? A message without room waits in the network. -/
def State.hasRoom (s : State) (c : Nat) (m : UMsg) : Bool :=
  let k := s.core c
  !s.accepts c ||
    (match m.kind with
    | .task => decide (k.tq.length < 64)
    | _ =>
      if m.kind = .msg ∧ m.cls ≠ 0 ∧ k.hold.any (fun q => q.cls == m.cls) then false
      else if m.kind = .msg ∧ k.masked m.cls then true
      else if m.kind = .msg ∧ m.cls = 0 ∧ entrySorted (k.entry (entryIndex m)) then decide (k.parked < 4096) && !s.parkWaits c
      else decide ((k.hq[msgLevel m k]?.getD []).length < 64))

/-- Delivers the held messages of the classes that are no longer masked, in arrival order; one whose level's queue is full
stays held until there is room (R56, R232). -/
def State.unhold (s : State) (c : Nat) : State :=
  (s.core c).hold.foldl (fun (s : State) m =>
    let k := s.core c
    if k.masked m.cls || decide (64 ≤ (k.hq[msgLevel m k]?.getD []).length) then s
    else ({ k with hold := k.hold.erase m } |> s.setCore c).deliver c m) s

/-- Sets MSG.CMASK of the executing core (R201, R232). -/
def State.setCmask (s : State) (m : BitVec 8) : State := (s.upMe (fun k => { k with cmask := m &&& 0xFE })).unhold s.cur

/-! ### Sending (R228 to R230) -/

/-- Sends a message from core `src` with its next sequence number (R55, R228). -/
def State.sendMsg (s : State) (tgt cls typ : Nat) (kind : MsgKind) (a : List Word) (code : Word) : State :=
  let seq := s.me.seq + 1
  let m : UMsg := ⟨s.cur, tgt, seq, cls, typ, kind, a, code, s.me.lvl.val, s.pc, s.routeOf s.cur tgt cls⟩
  let s := (s.upMe (fun k => { k with seq := seq })).countSent s.cl
  s.push (msgChan m.src tgt cls) (.msgArrive tgt m)

/-- MSG (R228): earlier atomics and held stores perform first (R120). -/
def execMsg (h : Head) (d a t : XReg) (s : State) : Host.Outcome State Fault Refusal :=
  let w := s.getX d
  let tgt := bits w 0 9
  let typ := bits w 16 6
  let cls := bits w 24 3
  let e := s.me.entry (if cls = 0 then typ else 55 + cls)
  .next (
    if s.inTwin then s.trap Code.ctxBad
    else if !s.inPartition tgt then s.trap Code.msgTarget
    else if !entryValid e ∨ entryLevel e = 0 ∨ (cls = 0 ∧ typ = 63) then s.trap Code.msgType
    else if s.releaseHold then s.block .awake
    else (s.sendMsg tgt cls typ .msg [s.getX a, s.getX t] 0).advance h)

/-- CALLAT (R230). -/
def execCallat (h : Head) (d a t : XReg) (s : State) : Host.Outcome State Fault Refusal :=
  let tgt := bits (s.getX d) 0 9
  .next (
    if s.inTwin then s.trap Code.ctxBad
    else if (s.getX a).getLsbD 0 then s.trap Code.align (s.getX a)
    else if !s.inPartition tgt then s.trap Code.msgTarget
    else if !entryValid (s.me.entry 63) then s.trap Code.msgType
    else if s.releaseHold then s.block .awake
    else
      let u := s.sendMsg tgt 0 0 .task [s.getX 4, s.getX 5, s.getX 6, s.getX 7] (s.getX a)
      (u.setX t ((s.me.seq + 1).setWidth 64)).advance h)

/-- MRET (R230): ends the task with a REPLY, and level 0 goes on where it was between activations. -/
def execMret (_h : Head) (s : State) : Host.Outcome State Fault Refusal :=
  .next (
    if s.me.lvl ≠ 0 ∨ !s.me.intask then s.trap Code.ctxBad
    else if s.releaseHold then s.block .awake
    else
      let src := s.lev.msgSrc
      let u := s.sendMsg (bits src 0 9) 0 63 .reply [s.getX 4, BitVec.ofNat 64 (bits src 32 32)] 0
      (u.upMe (fun k => { k with intask := false })).upLev (fun v =>
        { v with prev := v.pc, pc := s.me.taskRet, wait := none }))

/-- HRET (R231): back to the level that the handler interrupted. -/
def execHret (_h : Head) (s : State) : Host.Outcome State Fault Refusal :=
  .next (
    match s.me.under with
    | [] => s.trap Code.ctxBad
    | l :: r =>
      if s.me.lvl = 0 then s.trap Code.ctxBad
      else (s.upLev (fun v => { v with prev := v.pc, wait := none })).upMe (fun k => { k with lvl := l, under := r }))

/-- CLSM (R232). -/
def execClsm (h : Head) (a : XReg) (s : State) : Host.Outcome State Fault Refusal :=
  .next ((s.setCmask (s.me.cmask ||| (s.getX a).setWidth 8)).advance h)

/-- CLSU (R232): held messages are delivered. -/
def execClsu (h : Head) (a : XReg) (s : State) : Host.Outcome State Fault Refusal :=
  .next ((s.setCmask (s.me.cmask &&& ~~~(s.getX a).setWidth 8)).advance h)

/-- MCLOSE (R233): fixes the count of the open window, or of the next one when the open one holds a message. -/
def execMclose (h : Head) (d a : XReg) (s : State) : Host.Outcome State Fault Refusal :=
  let typ := bits (s.getX a) 0 6
  let e := s.me.entry typ
  let n := (s.getX d).toNat
  .next (
    if !entryValid e ∨ !entrySorted e then s.trap Code.msgType
    else if 4096 < n then s.trap Code.winCount
    else
      let w := s.me.window typ
      let w' : SWindow := if w.msgs.isEmpty then { w with expect := if n = 0 then none else some n } else { w with next := some n }
      (s.upMe (fun k => { k with win := k.win.set typ w' })).advance h)

/-- What MPOLL reports (R233). -/
def Core.poll (k : Core) (x : Word) : Word :=
  let len (l : Nat) : Nat := (k.hq[l]?.getD []).length % 256
  if x.getLsbD 6 then BitVec.ofNat 64 (len 1 + len 2 * 2 ^ 8 + len 3 * 2 ^ 16 + k.tq.length % 256 * 2 ^ 24)
  else
    let w := k.window (bits x 0 6)
    BitVec.ofNat 64 (w.msgs.length % 2 ^ 16 + (w.expect.getD 0xFFFF) % 2 ^ 16 * 2 ^ 16 +
      (if w.msgs.isEmpty then 0 else 2 ^ 32))

/-- MPOLL (R233). -/
def execMpoll (h : Head) (d a : XReg) (s : State) : Host.Outcome State Fault Refusal :=
  .next ((s.setX d (s.me.poll (s.getX a))).advance h)

/-! ### Starting handlers and tasks -/

/-- The highest level above the running one with a message queued (R56). -/
def Core.nextLevel (k : Core) : Option (Fin 4) :=
  (([3, 2, 1] : List (Fin 4)).find? (fun l => decide (k.lvl < l) && !k.hq[l].isEmpty))

/-- HANDLER_START (R56): the oldest message of the highest non-empty level above the running one. Its queue has room again for
a held message that is no longer masked (R232). -/
def execHandlerStart (c : Nat) (s : State) : Host.Outcome State Fault Refusal :=
  let k := s.core c
  .next (
    match k.nextLevel with
    | none => s
    | some l =>
      match k.hq[l] with
      | [] => s
      | m :: r =>
        let code := entryCode (k.entry (entryIndex m))
        let k' := { k with hq := k.hq.set l r, under := k.lvl :: k.under, lvl := l }
        let k' := (k'.setX l 8 (m.a[0]?.getD 0)).setX l 9 (m.a[1]?.getD 0)
        let k' := k'.upLv l (fun v => { v with
          pc := code, entry := code, wait := none, prev := k.lv[k.lvl].pc
          msgSrc := BitVec.ofNat 64 (m.seq.toNat * 2 ^ 32 + m.src) })
        (((s.setCore c k').count c 5).trace c 4 0 code 0).unhold c)

/-- Is a task to run before the next pair (R57)? The two alternate while both have work. -/
def State.taskDue (s : State) (c : Nat) (pairReady : Bool) : Bool :=
  let k := s.core c
  k.lvl == 0 && !k.inact && !k.intask && !k.tq.isEmpty && !(k.taskLast && pairReady)

/-- TASK_START (R57, R230). -/
def execTaskStart (c : Nat) (s : State) : Host.Outcome State Fault Refusal :=
  let k := s.core c
  .next (
    match k.tq with
    | [] => s
    | m :: r =>
      let k' := { k with tq := r, taskLast := true, taskRet := k.lv[0].pc, intask := true }
      let k' := (((k'.setX 0 4 (m.a[0]?.getD 0)).setX 0 5 (m.a[1]?.getD 0)).setX 0 6 (m.a[2]?.getD 0)).setX 0 7
        (m.a[3]?.getD 0)
      s.setCore c (k'.upLv 0 (fun v => { v with
        pc := m.code, entry := m.code, wait := none, prev := v.pc
        msgSrc := BitVec.ofNat 64 (m.seq.toNat * 2 ^ 32 + m.src) })))

/-- MSG_ARRIVE (R56). -/
def execMsgArrive (c : Nat) (m : UMsg) (s : State) : Host.Outcome State Fault Refusal := .next (s.receive c m)

/-- MESSAGE_REFUSAL (R229, R390): the sender takes MSG_TARGET, or FENCED for a core behind a fence, with the sequence
number. -/
def execMessageRefusal (m : UMsg) (s : State) : Host.Outcome State Fault Refusal :=
  .next (s.afterIssue m.src m.lvl (if s.fenced m.tgt then Code.fenced else Code.msgTarget) m.pc (m.seq.setWidth 64) 0)

/-! ### Job control -/

/-- TICK (R235). -/
def execTick (h : Head) (s : State) : Host.Outcome State Fault Refusal :=
  .next ((s.upMe (fun k => { k with tickCount := 0 })).advance h)

/-- Gives back the slots that the open batch has claimed, and drops the batch (R267). -/
def Core.dropOpen (k : Core) : Core :=
  let unclaim (r : Ring) : Ring :=
    if r.slots = 0 then r else { r with ready := r.ready + 1, head := (r.head + r.slots - 1) % r.slots }
  let up (rs : Vector Ring 8) (i : Nat) : Vector Ring 8 := rs.setIfInBounds i (unclaim (rs[i]?.getD ⟨0, 0, 0, 0, 0, 0⟩))
  { k with
    openB := []
    ring := k.openB.reverse.foldl (fun rs t => up (if t.claimB then up rs t.rb else rs) t.ra) k.ring }

/-- The core stops (R65): parked and held messages are refused (R229). Its powered-down scratchpad banks keep their bytes and
serve other cores' accesses (log 98). -/
def State.haltCore (s : State) (c : Nat) : State :=
  let k := s.core c
  let ms := k.win.flatMap (fun e => e.2.msgs)
  let hs := k.hold
  let s := s.setCore c { k.dropOpen with status := .halted, win := k.win.map (fun e => (e.1, { e.2 with msgs := [] })), hold := [] }
  -- a parked message was counted when it arrived (R63); a held one is received by its refusal
  let s := ms.foldl (fun s m => s.push (refusalChan c m.src) (.messageRefusal m)) s
  hs.foldl (fun s m => s.refuse c m) s

/-- HALT (R236). One that waits looks at its conditions again each time, so that a task that has come by then makes it raise
CTX_BAD (log 122). -/
def execHalt (h : Head) (s : State) : Host.Outcome State Fault Refusal :=
  .next (
    if s.me.lvl ≠ 0 ∨ s.me.inact ∨ s.me.intask ∨ !s.me.tq.isEmpty then s.trap Code.ctxBad
    else if s.me.lv.toList.any (fun v => !v.out.isEmpty || !v.locks.isEmpty) ∨ s.me.stores ≠ 0 ∨ s.releaseHold then
      s.block .awake
    else (s.advance h).haltCore s.cur)

end Sys2Proof.Machine
end

