-- ==== Sys2Proof/Machine/Sysreg.lean ====
section
/-! DEFINITION. System registers: what each number reads as and what a write does (R5, R199 to R201, R301, R378, R379). -/

namespace Sys2Proof.Machine

/-- A word from fields (low bit, value), each already within its width. -/
def pack (fs : List (Nat × Nat)) : Word := BitVec.ofNat 64 ((fs.map (fun f => f.2 * 2 ^ f.1)).foldl (· + ·) 0)

/-- CORE.ID of a core (R18). -/
def coreIdWord (c : Nat) (pkg : BitVec 8) : Word :=
  let (x, y) := routerOf c
  pack [(32, pkg.toNat), (24, sliceOf c), (20, y), (16, x), (12, c / 8 % 2), (11, clusterOf c / 8 % 2), (9, dieOf c), (0, c)]

/-- FP.CTL of a level (R138). -/
def Level.fpCtl (v : Level) : Word := pack [(8, v.ten.toNat), (2, v.nanp.toNat), (0, v.rm.toNat)]

/-- WEIR.STAT (R47). -/
def Cluster.weirStat (k : Cluster) : Word :=
  pack [(32, k.msgs.toNat), (16, k.loops), (0, Nat.min k.shunts.length 0xFFFF)]
/-- POND.CFG (R49). -/
def Cluster.pondCfg (k : Cluster) : Word :=
  pack [(31, k.det.toNat), (30, k.steal.toNat), (16, k.highm % 2 ^ 14), (0, k.lowm % 2 ^ 14)]
/-- POND.STAT (R49). -/
def Cluster.pondStat (k : Cluster) : Word := pack [(16, k.spill % 2 ^ 25), (0, (k.pond.length - k.spill) % 2 ^ 15)]

/-- MU.STAT (R172). QDEPTH stays at 63 with more commands queued (log 121). -/
def Mu.stat (m : Mu) : Word :=
  pack [(48, m.drift.toNat), (44, m.enob.toNat), (24, m.pser.toNat), (23, m.probing.isSome.toNat), (22, m.dfault.toNat),
    (21, m.balok.toNat), (20, m.active.val), (19, m.swpend.toNat), (18, m.ldbusy.toNat), (0, Nat.min m.q.length 63)]

/-- BASIN.SPLIT of a die (R72). -/
def Die.split (d : Die) : Word := pack [(32, d.oldScr.isSome.toNat), (0, d.scr)]

/-- Package index of the MU that a core's commands go to (R273). -/
def State.muOf (s : State) (c : Nat) : Nat := 2 * clusterOf c + (s.core c).selMu

/-- Value of a system register as a core reads it (R200), none for a number that is not assigned. -/
def State.readSys (s : State) (c n : Nat) : Option Word :=
  let k := s.core c
  let v := k.lv[k.lvl]
  let cl := s.cluster (clusterOf c)
  let m := s.mu (s.muOf c)
  match n with
  | 0 => some (coreIdWord c s.pkg)
  | 1 => some (pack [(19, k.inovl.toNat), (8, k.xb.toNat)])
  | 2 => some (k.ovec.setWidth 64)
  | 3 => some k.grp
  | 4 => some (pack [(32, k.tickLimit.toNat), (0, k.tickCount.toNat)])
  | 5 => some (pack [(3, k.inact.toNat), (2, k.intask.toNat), (0, k.lvl.val)])
  | 6 => some s.hub.time
  | 16 => some v.fpCtl
  | 17 => some (pack [(8, k.asat.toNat), (0, v.flags.toNat)])
  | 24 => some v.tpc
  | 25 => some v.tcause
  | 26 => some v.tval
  | 27 => some v.text
  | 32 => some (k.dtabBase &&& 0x0000FFFFFFFFFFF8)
  | 33 => some v.msgSrc
  | 34 => some (k.cmask.setWidth 64)
  | 40 => some (k.lease.setWidth 64)
  | 48 => some (pack [(32, k.wtop % 2 ^ 23), (0, k.ntop % 2 ^ 23)])
  | 49 => some cl.weirStat
  | 50 => some cl.pondCfg
  | 51 => some cl.pondStat
  | 64 => some m.stat
  | 65 => some (m.dlim.setWidth 64)
  | 66 => some (m.serial.setWidth 64)
  | 67 => some m.wgt
  | 512 => some (k.root &&& 0x0000FFFFFFFF0FFF)
  | 513 => some (s.die (dieOf c)).split
  | 514 => some (pack [(15, k.retainV.toNat), (0, k.retainCol.toNat)])
  | 515 => some (pack [(1, k.delegTkt.toNat), (0, k.delegFp.toNat)])
  | 516 => some (k.uvec.setWidth 64)
  | 517 => some (k.svec.setWidth 64)
  | _ => none

/-- Is a register's MFS result of variable latency (R200)? -/
def sysVariable (n : Nat) : Bool := decide (48 ≤ n ∧ n ≤ 67) || n == 513

/-- `n` free bytes. -/
def State.freeBytes (s : State) (n : Nat) : List Byte :=
  (List.range n).map (fun i => (Config.freeWord (s.free + i)).setWidth 8)

/-- A write to BASIN.SPLIT (R72): a change sets BUSY until the slices are done; one in progress is not disturbed. -/
def State.splitWrite (s : State) (die : Nat) (v : Word) : State :=
  let d := s.die die
  if d.oldScr.isSome ∨ bits v 0 4 = d.scr then s
  else (s.setDie die { d with scr := bits v 0 4, oldScr := some d.scr }).pushFree (.basinSplitDone die)

/-- A write of POND.CFG (R49): the count stands above or below the new watermarks from now on, and crosses neither. -/
def Cluster.writePondCfg (k : Cluster) (w : Word) : Cluster :=
  let n := k.pond.length
  let hi := bits w 16 14
  let lo := bits w 0 14
  { k with steal := w.getLsbD 30, highm := hi, lowm := lo, wasHigh := decide (hi < n), wasLow := decide (n < lo) }

/-- A write of a system register by the executing core (R5, R199, R200): each field acts as its Access column gives,
and a register without a writable field ignores the write. -/
def State.writeSys (s : State) (n : Nat) (w : Word) : State :=
  let even (w : Word) : BitVec 18 := w.setWidth 18 &&& 0x3FFFE
  match n with
  | 2 => s.upMe (fun k => { k with ovec := even w })
  | 16 => s.upLev (fun v => { v with ten := w.extractLsb' 8 6, nanp := w.getLsbD 2, rm := w.setWidth 2 })
  | 17 => (s.upMe (fun k => { k with asat := k.asat &&& ~~~w.extractLsb' 8 4 })).upLev (fun v =>
      { v with flags := v.flags &&& ~~~w.setWidth 6 })
  | 24 => s.upLev (fun v => { v with tpc := w })
  | 34 => s.setCmask (w.setWidth 8)
  | 40 => s.upMe (fun k => { k with lease := w.setWidth 16 })
  | 49 => s.upCluster s.cl (fun k => { k with loops := bits w 16 16 })
  | 50 => s.upCluster s.cl (fun k => k.writePondCfg w)
  | 65 => s.upMu (s.muOf s.cur) (fun m => { m with dlim := w.setWidth 16 })
  | 67 => (s.upMu (s.muOf s.cur) (fun m => { m with wgt := w })).muServe (s.muOf s.cur)
  | 512 => s.upMe (fun k => { k with root := w &&& 0x0000FFFFFFFF0FFF })
  | 513 => s.splitWrite (dieOf s.cur) w
  | 514 => s.upMe (fun k => { k with retainV := w.getLsbD 15, retainCol := w.setWidth 12 })
  | 515 => s.upMe (fun k => { k with delegTkt := w.getLsbD 1, delegFp := w.getLsbD 0 })
  | 516 => s.upMe (fun k => { k with uvec := even w })
  | 517 => s.upMe (fun k => { k with svec := even w })
  | _ => s

/-- MFS (R199). -/
def execMfs (h : Head) (d : XReg) (n : BitVec 10) (s : State) : Host.Outcome State Fault Refusal :=
  .next (
    match s.readSys s.cur n.toNat with
    | none => s.illegal
    | some w =>
      if 512 ≤ n.toNat ∧ s.lev.sup = false then s.trap Code.privilege
      else if sysVariable n.toNat then s.finishX h d w
      else (s.setX d w).advance h)

/-- MTS (R199). -/
def execMts (h : Head) (d : XReg) (n : BitVec 10) (s : State) : Host.Outcome State Fault Refusal :=
  .next (
    if (s.readSys s.cur n.toNat).isNone then s.illegal
    else if 512 ≤ n.toNat ∧ s.lev.sup = false then s.trap Code.privilege
    else (s.writeSys n.toNat (s.getX d)).advance h)

/-- MFP (R301): supervisor access by a computed number; ILLEGAL carries the number. -/
def execMfp (h : Head) (d a : XReg) (disp : Word) (s : State) : Host.Outcome State Fault Refusal :=
  let n := s.ea a disp
  .next (
    if s.lev.sup = false then s.trap Code.privilege
    else if 1023 < n.toNat then s.trap Code.illegal n
    else match s.readSys s.cur n.toNat with
      | none => s.illegal
      | some w => (s.setX d w).advance h)

/-- MTP (R301). -/
def execMtp (h : Head) (d a : XReg) (disp : Word) (s : State) : Host.Outcome State Fault Refusal :=
  let n := s.ea a disp
  .next (
    if s.lev.sup = false then s.trap Code.privilege
    else if 1023 < n.toNat then s.trap Code.illegal n
    else if (s.readSys s.cur n.toNat).isNone then s.illegal
    else (s.writeSys n.toNat (s.getX d)).advance h)

/-- BASIN_SPLIT_WRITE (R72): a write to BASIN.SPLIT reaches the die. -/
def execBasinSplitWrite (die : Nat) (v : Word) (s : State) : Host.Outcome State Fault Refusal :=
  .next (s.splitWrite die v)

/-- Discards the scratch bytes of a slice from an offset (R72). -/
def dropScratch (m : Memory) (sl off : Nat) : Memory :=
  m.filter (fun e => !(decide (scratchKey sl off ≤ e.1) && decide (e.1 < scratchKey (sl + 1) 0)))

/-- BASIN_SPLIT_DONE (R72): a range that became L2 loses its scratch bytes; a range that became scratch has written its
dirty lines back, which are taken as all that the die's slices hold (log 93), and holds free values until it is
written. -/
def execBasinSplitDone (die : Nat) (s : State) : Host.Outcome State Fault Refusal :=
  let d := s.die die
  .next (
    match d.oldScr with
    | none => s
    | some old =>
      let s := s.setDie die { d with oldScr := none }
      let slices := (List.range 64).map (sliceOfDie die)
      if d.scr < old then
        let gone (key : Nat) : Bool := slices.any (fun sl => decide (scratchKey sl (d.scr * 2 ^ 20) ≤ key) && decide (key < scratchKey (sl + 1) 0))
        { s with
          mem := slices.foldl (fun m sl => dropScratch m sl (d.scr * 2 ^ 20)) s.mem
          poison := s.poison.filter (fun l => !gone (l * 64))
          damage := s.damage.filter (fun e => !gone (e.1 * 8)) }
      else
        slices.foldl (fun s sl =>
          let n := (d.scr - old) * 2 ^ 20
          { s with mem := s.mem.writeBytes (scratchKey sl (old * 2 ^ 20)) (s.freeBytes n), free := s.free + n })
          (s.evict (fun key => dieOfSlice (homeSlice key) == die)))

end Sys2Proof.Machine
end

