-- ==== Sys2Proof/Machine/LoadStore.lean ====
section
/-! DEFINITION. Scalar loads and stores (R213, R214). -/

namespace Sys2Proof.Machine

/-- A scalar load of `n` bytes, sign- or zero-extended by `f` (R213). -/
def State.load (s : State) (h : Head) (d a : XReg) (disp : Word) (o : Order) (n : Nat) (f : Nat → Word) : State :=
  if s.orderHold o false then s.block .awake else s.loadX h d (s.ea a disp) n f

/-- A scalar store of the low `n` bytes of x[D] (R213). -/
def State.storeX (s : State) (h : Head) (d a : XReg) (disp : Word) (o : Order) (n : Nat) : State :=
  if s.orderHold o true then s.block .awake
  else if s.twinStore (s.ea a disp) then s.trap Code.ctxBad
  else s.storeV h (s.ea a disp) (leBytes n (s.getX d).toNat)

/-- LD.B (R213). -/
def execLdB (h : Head) (d a : XReg) (disp : Word) (o : Order) (s : State) :
    Host.Outcome State Fault Refusal := .next (s.load h d a disp o 1 (sextNat 8))
/-- LD.H (R213). -/
def execLdH (h : Head) (d a : XReg) (disp : Word) (o : Order) (s : State) :
    Host.Outcome State Fault Refusal := .next (s.load h d a disp o 2 (sextNat 16))
/-- LD.W (R213). -/
def execLdW (h : Head) (d a : XReg) (disp : Word) (o : Order) (s : State) :
    Host.Outcome State Fault Refusal := .next (s.load h d a disp o 4 (sextNat 32))
/-- LD.D (R213). -/
def execLdD (h : Head) (d a : XReg) (disp : Word) (o : Order) (s : State) :
    Host.Outcome State Fault Refusal := .next (s.load h d a disp o 8 (sextNat 64))
/-- LDZ.B (R213). -/
def execLdzB (h : Head) (d a : XReg) (disp : Word) (o : Order) (s : State) :
    Host.Outcome State Fault Refusal := .next (s.load h d a disp o 1 (BitVec.ofNat 64))
/-- LDZ.H (R213). -/
def execLdzH (h : Head) (d a : XReg) (disp : Word) (o : Order) (s : State) :
    Host.Outcome State Fault Refusal := .next (s.load h d a disp o 2 (BitVec.ofNat 64))
/-- LDZ.W (R213). -/
def execLdzW (h : Head) (d a : XReg) (disp : Word) (o : Order) (s : State) :
    Host.Outcome State Fault Refusal := .next (s.load h d a disp o 4 (BitVec.ofNat 64))
/-- ST.B (R213). -/
def execStB (h : Head) (d a : XReg) (disp : Word) (o : Order) (s : State) :
    Host.Outcome State Fault Refusal := .next (s.storeX h d a disp o 1)
/-- ST.H (R213). -/
def execStH (h : Head) (d a : XReg) (disp : Word) (o : Order) (s : State) :
    Host.Outcome State Fault Refusal := .next (s.storeX h d a disp o 2)
/-- ST.W (R213). -/
def execStW (h : Head) (d a : XReg) (disp : Word) (o : Order) (s : State) :
    Host.Outcome State Fault Refusal := .next (s.storeX h d a disp o 4)
/-- ST.D (R213). -/
def execStD (h : Head) (d a : XReg) (disp : Word) (o : Order) (s : State) :
    Host.Outcome State Fault Refusal := .next (s.storeX h d a disp o 8)

end Sys2Proof.Machine
end

