-- ==== Sys2Proof/Machine/Ticket.lean ====
section
/-! DEFINITION. Ticket fetches and redeems as a core issues them (R84 to R86, R215 to R218). -/

namespace Sys2Proof.Machine

/-- The check byte of a ticket whose upper bits are given, under a key (R85). -/
def checkByte (t key : Word) : Nat :=
  let h : Word := ((t >>> 8) ^^^ key) * 0x9E3779B97F4A7C15
  bits h 56 8 ^^^ bits h 0 8

/-- A ticket from its fields (R84), with its check byte. -/
def makeTicket (sl entry gen colour words kind : Nat) (key : Word) : Word :=
  let t : Word := BitVec.ofNat 64
    (2 ^ 63 + sl % 256 * 2 ^ 55 + entry % 4096 * 2 ^ 43 + gen % 2 ^ 15 * 2 ^ 28 + colour % 4096 * 2 ^ 16 +
      words % 64 * 2 ^ 10 + kind % 4 * 2 ^ 8)
  t ||| BitVec.ofNat 64 (checkByte t key)

/-- Fields of a ticket (R84). -/
def tkSlice (t : Word) : Nat := bits t 55 8
def tkEntry (t : Word) : Nat := bits t 43 12
def tkGen (t : Word) : Nat := bits t 28 15
def tkColour (t : Word) : Nat := bits t 16 12
def tkWords (t : Word) : Nat := bits t 10 6
def tkKind (t : Word) : Nat := bits t 8 2
def tkCheck (t : Word) : Nat := bits t 0 8

/-- The ticket key of a colour (R85). -/
def State.keyOf (s : State) (colour : Nat) : Word := match s.job? colour with | some j => j.key | none => 0

/-- The lease of a fetch (R93): the operand, else TKT.LEASE, where 0 means 65,535. -/
def State.leaseOf (s : State) (x : Word) : Nat :=
  let a := bits x 0 16
  if a ≠ 0 then a else if s.me.lease = 0 then 65535 else s.me.lease.toNat

/-- Where one 8-byte word of a ticket fetch comes from, and the walk it starts; none while a split of Basin is in
progress (R72). -/
inductive Source where
  | bad (code : Nat)
  | wait
  | src (f : FetchSrc) (walk : Bool)

/-- The source of the word at an address (R79, R86, R215). -/
def State.source (s : State) (va : Word) : Source :=
  match placeOf s.cur va with
  | .trans =>
    let (r, walk) := s.translate s.cl s.me.root s.lev.sup va false
    match r with
    | .ok p => .src (.at p.pa va) walk
    | .error 0 => .wait
    | .error code => .src (.fault code va) walk
  | .scratch sl off =>
    let d := s.die (dieOfSlice sl)
    let small := Nat.min d.scr (d.oldScr.getD d.scr)
    if d.oldScr.isSome && decide (small * 2 ^ 20 ≤ off) then .wait
    else if d.scr * 2 ^ 20 ≤ off then .bad Code.addrWin
    else .src (.at (scratchKey sl off) va) false
  | _ => .bad Code.addrWin

/-- The words of a source that starts at an address (R215). -/
def wordsFrom (f : FetchSrc) (n : Nat) : List FetchSrc :=
  (List.range n).map (fun i => match f with | .at k va => .at (k + 8 * i) (va + BitVec.ofNat 64 (8 * i)) | f => f)

/-- Uses a grant (R86): x[D] takes the ticket and the request is on its way to the ticket slice. Without a grant the
instruction stalls. -/
def State.grantTicket (s : State) (h : Head) (d : XReg) (words kind lease : Nat) (srcs : List FetchSrc) : State :=
  match s.me.grants with
  | [] => s.block .awake
  | e :: rest =>
    let sl := sliceOf s.cur
    let gen := ((s.slice sl).tk.get TkEntry.initial e).gen
    let colour := s.me.colour
    let t := makeTicket sl e gen colour (words - 1) kind (s.keyOf colour)
    let s := s.upMe (fun k => { k with grants := rest })
    ((s.push (sliceChan s.cur sl) (.tldRequestArrive sl ⟨s.cur, e, gen, colour, words - 1, kind, lease, srcs⟩)).setX d
      t).advance h

/-- TLD.n and TLDN (R215): `nb` bytes at an address aligned to `al`. The core's own atomics perform first (R121). -/
def State.ticketFetch (s : State) (h : Head) (d : XReg) (va t : Word) (o : Order) (nb al : Nat) : State :=
  if s.inTwin then s.trap Code.ctxBad
  else match s.source va with
    | .bad code => s.trap code va
    | .wait => s.block .awake
    | .src f walk =>
      if va.toNat % al ≠ 0 then s.trap Code.align va
      else if 256 < va.toNat % 256 + nb then s.trap Code.tktSpan va
      else if s.me.grants.isEmpty ∨ s.atomicAhead s.cur then s.block .awake
      else (s.startWalk walk va false).grantTicket h d (nb / 8) (if o.ord = 2 then 1 else 0) (s.leaseOf t)
        (wordsFrom f (nb / 8))

/-- TLD.8 (R215). -/
def execTld8 (h : Head) (d a : XReg) (disp : Word) (t : XReg) (o : Order) (s : State) :
    Host.Outcome State Fault Refusal := .next (s.ticketFetch h d (s.ea a disp) (s.getX t) o 8 8)
/-- TLD.32 (R215). -/
def execTld32 (h : Head) (d a : XReg) (disp : Word) (t : XReg) (o : Order) (s : State) :
    Host.Outcome State Fault Refusal := .next (s.ticketFetch h d (s.ea a disp) (s.getX t) o 32 32)
/-- TLD.64 (R215). -/
def execTld64 (h : Head) (d a : XReg) (disp : Word) (t : XReg) (o : Order) (s : State) :
    Host.Outcome State Fault Refusal := .next (s.ticketFetch h d (s.ea a disp) (s.getX t) o 64 64)
/-- TLD.256 (R215). -/
def execTld256 (h : Head) (d a : XReg) (disp : Word) (t : XReg) (o : Order) (s : State) :
    Host.Outcome State Fault Refusal := .next (s.ticketFetch h d (s.ea a disp) (s.getX t) o 256 256)
/-- TLDN (R215): x[T][20:16] gives the number of words less one. -/
def execTldn (h : Head) (d a : XReg) (disp : Word) (t : XReg) (o : Order) (s : State) :
    Host.Outcome State Fault Refusal :=
  .next (s.ticketFetch h d (s.ea a disp) (s.getX t) o (8 * (bits (s.getX t) 16 5 + 1)) 8)

/-- The sources of a gather list (R216), or the first refusal with its address. -/
def State.gather (s : State) : List Word → Except (Option (Nat × Word)) (List (FetchSrc × Option Word))
  | [] => .ok []
  | w :: r =>
    if w = 0 then
      match s.gather r with
      | .ok l => .ok ((.masked, none) :: l)
      | .error e => .error e
    else if w.toNat % 8 ≠ 0 then .error (some (Code.align, w))
    else match s.source w with
      | .bad code => .error (some (code, w))
      | .wait => .error none
      | .src f walk =>
        match s.gather r with
        | .ok l => .ok ((f, if walk then some w else none) :: l)
        | .error e => .error e

/-- TLDG (R216): a list of eight addresses in the own scratchpad. -/
def execTldg (h : Head) (d a : XReg) (disp : Word) (t : XReg) (_o : Order) (s : State) :
    Host.Outcome State Fault Refusal :=
  let va := s.ea a disp
  .next (
    if s.inTwin then s.trap Code.ctxBad
    else match placeOf s.cur va with
      | .own _ =>
        (match s.plan va 64 false ⟨false, false, false⟩ with
        | .go key _ _ _ =>
          let ws := (List.range 8).map (fun i => BitVec.ofNat 64 (leVal (s.readFor s.cur (key + 8 * i) 8)))
          (match s.gather ws with
          | .error (some (code, w)) => s.trap code w
          | .error none => s.block .awake
          | .ok l =>
            if s.me.grants.isEmpty then s.block .awake
            else
              let s' := l.foldl (fun u e => match e.2 with | some w => u.startWalk true w false | none => u) s
              s'.grantTicket h d 8 2 (s.leaseOf (s.getX t)) (l.map (·.1)))
        | .trap code v => s.trap code v
        | .recover st => (s.askRecovery st).block .awake
        | .late code _ => (s.sendFault code va).advance h
        | _ => s.block .awake)
      | _ => s.trap Code.addrWin va)

/-- Sends a redeem, drop or query to its ticket slice (R217, R218); `slot` names the destination of an outstanding
result. -/
def State.sendRedeem (s : State) (h : Head) (form reg soff : Nat) (ticket : Word) (slot : Option Nat) : State :=
  if slot.isSome && !s.roomFor then s.block .awake
  else
    let sl := tkSlice ticket
    let r : Redeem := ⟨s.cur, s.me.lvl.val, s.ids, s.pc, form, reg, soff, ticket, s.me.colour, 0, 0, 0⟩
    let ev : Instr := match form with | 4 => .tkdropArrive sl r | 5 => .tkqArrive sl r | _ => .redeemArrive sl r
    let s := match slot with | some n => s.owe n (decide (form < 4)) | none => s.fresh
    (s.push (sliceChan s.cur sl) ev).advance h

/-- RDM (R217). -/
def execRdm (h : Head) (d a : XReg) (s : State) : Host.Outcome State Fault Refusal :=
  .next (if s.inTwin then s.trap Code.ctxBad else s.sendRedeem h 0 d.toNat 0 (s.getX a) (slotX d))

/-- RDM.V (R217). -/
def execRdmV (h : Head) (d : VReg) (a : XReg) (s : State) : Host.Outcome State Fault Refusal :=
  .next (if s.inTwin then s.trap Code.ctxBad else s.sendRedeem h 1 d.toNat 0 (s.getX a) (some (64 + d.toNat)))

/-- RDM.S (R217): own scratchpad bytes from x[D] + disp. -/
def execRdmS (h : Head) (d a : XReg) (disp : Word) (s : State) : Host.Outcome State Fault Refusal :=
  let va := s.ea d disp
  let t := s.getX a
  .next (
    if s.inTwin then s.trap Code.ctxBad
    else match placeOf s.cur va with
      | .own off =>
        if off % 8 ≠ 0 then s.trap Code.align va
        else if off < s.me.codeEnd ∨ 2 ^ 18 < off + 8 * (tkWords t + 1) then s.trap Code.xoAccess va
        else s.sendRedeem h 2 0 off t (some 128)
      | _ => s.trap Code.addrWin va)

/-- TKQ (R218): the code of R92 lands in x[D]. -/
def execTkq (h : Head) (d a : XReg) (s : State) : Host.Outcome State Fault Refusal :=
  .next (s.sendRedeem h 5 d.toNat 0 (s.getX a) (slotX d))

/-- TKDROP (R218): does not wait. -/
def execTkdrop (h : Head) (a : XReg) (s : State) : Host.Outcome State Fault Refusal :=
  .next (s.sendRedeem h 4 0 0 (s.getX a) none)

end Sys2Proof.Machine
end

