-- ==== Sys2Proof/Machine/Flags.lean ====
section
/-! DEFINITION. FP.FLAGS of the running level and the FP_EXC reports of flags whose trap is enabled (R138, R405). -/

namespace Sys2Proof.Machine

/-- The rounding of a code of R137 at the running level: codes 0 to 3, and FP.CTL.RM for DYN. -/
def State.rmOf (s : State) (code : Nat) : Rm := Rm.of (if code = 4 then s.lev.rm.toNat else code)

/-- The OR of the flags of the lanes (R138). -/
def orFlags (fs : List FpFlags) : FpFlags := fs.foldl (· ||| ·) 0

/-- Lowest lane whose flags meet a mask, 0 with none. -/
def lowestLane (ten : BitVec 6) (fs : List FpFlags) : Nat := (fs.findIdx? (fun f => f &&& ten != 0)).getD 0

/-- A report joins the collection window of the executing core's cluster, which it opens if none is open (R405). -/
def State.report (s : State) (lane : Nat) (fl : FpFlags) : State :=
  let s' := s.upCluster s.cl (fun k => { k with fp := k.fp ++ [⟨s.cur, s.pc, lane, fl⟩], fpOpen := true })
  if (s.cluster s.cl).fpOpen then s' else s'.pushFree (.fpExcWindowClose s.cl)

/-- Sets the flags of an instruction, given lane by lane, and reports those whose trap is enabled (R138, R405). -/
def State.setFlags (s : State) (fs : List FpFlags) : State :=
  let fl := orFlags fs
  let ten := s.lev.ten
  let s' := s.upLev (fun v => { v with flags := v.flags ||| fl })
  if fl &&& ten = 0 then s' else s'.report (lowestLane ten fs) (fl &&& ten)

/-- FP_EXC_WINDOW_CLOSE (R405): one FP_EXC for the reports of the window. -/
def execFpExcWindowClose (cl : Nat) (s : State) : Host.Outcome State Fault Refusal :=
  let k := s.cluster cl
  let s' := s.setCluster cl { k with fp := [], fpOpen := false }
  .next (
    match k.fp with
    | [] => s'
    | r0 :: rest =>
      let cs := (k.fp.map (·.c)).eraseDups
      let low (l : List Nat) : Nat := l.foldl Nat.min (l.headD r0.c)
      let ok := cs.filter (fun c => (s.core c).status == .running)
      let c := if ok.isEmpty then low cs else low ok
      let r := (k.fp.find? (fun r => r.c == c)).getD r0
      let tval := BitVec.ofNat 64 (r.pc.toNat % 2 ^ 48 + r.lane % 8 * 2 ^ 48 + r.flags.toNat * 2 ^ 51)
      (s'.logRec (dieOfCluster cl)
        { code := Code.fpExc, level := (s.core c).lvl.val, core := c, colour := (s.core c).colour, addr := BitVec.ofNat 64 (r.pc.toNat % 2 ^ 48) }).raise1
        (some c) cl (s.core c).colour ⟨Code.fpExc, 0, tval, BitVec.ofNat 64 rest.length, false⟩)

end Sys2Proof.Machine
end

