-- ==== Sys2Proof/Machine/Scalar.lean ====
section
/-! DEFINITION. Integer arithmetic and registers of pages 0 and 1 (R203 to R211, R234). -/

namespace Sys2Proof.Machine

/-! ### The functions of R204 to R211 -/

/-- Reads a word as signed. -/
abbrev sgn (w : Word) : Int := w.toInt

/-- 1 for true, 0 for false. -/
def boolWord (b : Bool) : Word := if b then 1 else 0

/-- Shift amount: the low six bits of the second source (R204). -/
def shamt (w : Word) : Nat := w.toNat % 64

def fAnd (a b : Word) : Word := a &&& b
def fOr (a b : Word) : Word := a ||| b
def fXor (a b : Word) : Word := a ^^^ b
def fShl (a b : Word) : Word := a <<< shamt b
def fShr (a b : Word) : Word := a >>> shamt b
def fSar (a b : Word) : Word := a.sshiftRight (shamt b)
def fMin (a b : Word) : Word := if sgn a ≤ sgn b then a else b
def fMax (a b : Word) : Word := if sgn a ≤ sgn b then b else a
def fMinu (a b : Word) : Word := if a ≤ b then a else b
def fMaxu (a b : Word) : Word := if a ≤ b then b else a
def fSeq (a b : Word) : Word := boolWord (a == b)
def fSne (a b : Word) : Word := boolWord (a != b)
def fSlt (a b : Word) : Word := boolWord (decide (sgn a < sgn b))
def fSltu (a b : Word) : Word := boolWord (decide (a < b))
/-- High half of the exact signed product (R204). -/
def fMulh (a b : Word) : Word := BitVec.ofInt 64 (sgn a * sgn b / 2 ^ 64)
/-- High half of the exact unsigned product (R204). -/
def fMulhu (a b : Word) : Word := BitVec.ofNat 64 (a.toNat * b.toNat / 2 ^ 64)
/-- DIV of R205: towards zero, −1 for a divisor of 0. -/
def fDiv (a b : Word) : Word := if b = 0 then BitVec.allOnes 64 else BitVec.ofInt 64 (Int.tdiv (sgn a) (sgn b))
/-- DIVU of R205. -/
def fDivu (a b : Word) : Word := if b = 0 then BitVec.allOnes 64 else BitVec.ofNat 64 (a.toNat / b.toNat)
/-- REM of R205: the sign of the dividend, the dividend itself for a divisor of 0. -/
def fRem (a b : Word) : Word := if b = 0 then a else BitVec.ofInt 64 (Int.tmod (sgn a) (sgn b))
/-- REMU of R205. -/
def fRemu (a b : Word) : Word := if b = 0 then a else BitVec.ofNat 64 (a.toNat % b.toNat)
def fRol (a b : Word) : Word := a.rotateLeft (shamt b)
def fRor (a b : Word) : Word := a.rotateRight (shamt b)
/-- Clamps an exact result to the signed range (R204). -/
def satS (v : Int) : Word :=
  if v < -2 ^ 63 then BitVec.ofInt 64 (-2 ^ 63) else if 2 ^ 63 - 1 < v then BitVec.ofInt 64 (2 ^ 63 - 1) else BitVec.ofInt 64 v
/-- Clamps an exact result to the unsigned range (R204). -/
def satU (v : Int) : Word :=
  if v < 0 then 0 else if 2 ^ 64 - 1 < v then BitVec.allOnes 64 else BitVec.ofInt 64 v
def fAdds (a b : Word) : Word := satS (sgn a + sgn b)
def fSubs (a b : Word) : Word := satS (sgn a - sgn b)
def fAddus (a b : Word) : Word := satU ((a.toNat : Int) + b.toNat)
def fSubus (a b : Word) : Word := satU ((a.toNat : Int) - b.toNat)
/-- HASH of R211. -/
def fHash (a b : Word) : Word :=
  let h := (a ^^^ b) * 0x9E3779B97F4A7C15
  let h := h ^^^ (h >>> 29)
  let h := h * 0xBF58476D1CE4E5B9
  h ^^^ (h >>> 32)

/-- Leading zeros; 64 for 0 (R206). -/
def fClz (a : Word) : Word := BitVec.ofNat 64 (if a = 0 then 64 else 63 - a.toNat.log2)
/-- Trailing zeros; 64 for 0 (R206). -/
def fCtz (a : Word) : Word := BitVec.ofNat 64 (((List.range 64).find? (fun i => a.getLsbD i)).getD 64)
/-- Number of ones (R206). -/
def fPopc (a : Word) : Word := BitVec.ofNat 64 ((List.range 64).countP (fun i => a.getLsbD i))
/-- The 8 bytes reversed (R206). -/
def fBswap (a : Word) : Word := BitVec.ofNat 64 (leVal (leBytes 8 a.toNat).reverse)

/-- The w bits from lo, zero-extended (R208). -/
def fieldZ (a : Word) (lo w : Nat) : Word := (a >>> lo) &&& BitVec.ofNat 64 (2 ^ w - 1)
/-- The w bits from lo, sign-extended (R208). -/
def fieldS (a : Word) (lo w : Nat) : Word := sext w (fieldZ a lo w)
/-- The w low bits of `a` placed at lo in `d` (R208). -/
def deposit (d a : Word) (lo w : Nat) : Word :=
  let m := BitVec.ofNat 64 ((2 ^ w - 1) * 2 ^ lo)
  (d &&& ~~~m) ||| ((a <<< lo) &&& m)

/-! ### Shared forms -/

/-- A binary operation of fixed latency (R203). -/
def State.binary (s : State) (h : Head) (d a : XReg) (t : Option XReg) (f : Word → Word → Word) : State :=
  let (x, y) := s.sources d a t
  (s.setX d (f x y)).advance h

/-- A binary operation whose result is a variable-latency result (R205). -/
def State.binaryLate (s : State) (h : Head) (d a : XReg) (t : Option XReg) (f : Word → Word → Word) : State :=
  let (x, y) := s.sources d a t
  s.finishX h d (f x y)

/-- A unary operation (R206). -/
def State.unary (s : State) (h : Head) (d a : XReg) (f : Word → Word) : State := (s.setX d (f (s.getX a))).advance h

/-- x[D] := f(x[D]) (R207). -/
def State.update (s : State) (h : Head) (d : XReg) (f : Word → Word) : State := (s.setX d (f (s.getX d))).advance h

/-- A bit field instruction: ILLEGAL when lo + w exceeds 64 (R208). -/
def State.field (s : State) (h : Head) (d : XReg) (lo wm : BitVec 6) (v : Nat → Nat → Word) : State :=
  if 64 < lo.toNat + wm.toNat + 1 then s.illegal else (s.setX d (v lo.toNat (wm.toNat + 1))).advance h

/-! ### The instructions -/

/-- ILL (R234): traps ILLEGAL. -/
def execIll (_h : Head) (_d _a : BitVec 6) (s : State) : Host.Outcome State Fault Refusal := .next s.illegal
/-- NOP (R234). -/
def execNop (h : Head) (s : State) : Host.Outcome State Fault Refusal := .next (s.advance h)
/-- ADD (R204). -/
def execAdd (h : Head) (d a : XReg) (t : Option XReg) (s : State) : Host.Outcome State Fault Refusal :=
  .next (s.binary h d a t (· + ·))
/-- SUB (R204). -/
def execSub (h : Head) (d a : XReg) (t : Option XReg) (s : State) : Host.Outcome State Fault Refusal :=
  .next (s.binary h d a t (· - ·))
/-- MUL (R204). -/
def execMul (h : Head) (d a : XReg) (t : Option XReg) (s : State) : Host.Outcome State Fault Refusal :=
  .next (s.binary h d a t (· * ·))
/-- AND (R204). -/
def execAnd (h : Head) (d a : XReg) (t : Option XReg) (s : State) : Host.Outcome State Fault Refusal :=
  .next (s.binary h d a t fAnd)
/-- OR (R204). -/
def execOr (h : Head) (d a : XReg) (t : Option XReg) (s : State) : Host.Outcome State Fault Refusal :=
  .next (s.binary h d a t fOr)
/-- XOR (R204). -/
def execXor (h : Head) (d a : XReg) (t : Option XReg) (s : State) : Host.Outcome State Fault Refusal :=
  .next (s.binary h d a t fXor)
/-- SHL (R204). -/
def execShl (h : Head) (d a : XReg) (t : Option XReg) (s : State) : Host.Outcome State Fault Refusal :=
  .next (s.binary h d a t fShl)
/-- SHR (R204). -/
def execShr (h : Head) (d a : XReg) (t : Option XReg) (s : State) : Host.Outcome State Fault Refusal :=
  .next (s.binary h d a t fShr)
/-- SAR (R204). -/
def execSar (h : Head) (d a : XReg) (t : Option XReg) (s : State) : Host.Outcome State Fault Refusal :=
  .next (s.binary h d a t fSar)
/-- MIN (R204). -/
def execMin (h : Head) (d a : XReg) (t : Option XReg) (s : State) : Host.Outcome State Fault Refusal :=
  .next (s.binary h d a t fMin)
/-- MAX (R204). -/
def execMax (h : Head) (d a : XReg) (t : Option XReg) (s : State) : Host.Outcome State Fault Refusal :=
  .next (s.binary h d a t fMax)
/-- MINU (R204). -/
def execMinu (h : Head) (d a : XReg) (t : Option XReg) (s : State) : Host.Outcome State Fault Refusal :=
  .next (s.binary h d a t fMinu)
/-- MAXU (R204). -/
def execMaxu (h : Head) (d a : XReg) (t : Option XReg) (s : State) : Host.Outcome State Fault Refusal :=
  .next (s.binary h d a t fMaxu)
/-- SEQ (R204). -/
def execSeq (h : Head) (d a : XReg) (t : Option XReg) (s : State) : Host.Outcome State Fault Refusal :=
  .next (s.binary h d a t fSeq)
/-- SNE (R204). -/
def execSne (h : Head) (d a : XReg) (t : Option XReg) (s : State) : Host.Outcome State Fault Refusal :=
  .next (s.binary h d a t fSne)
/-- SLT (R204). -/
def execSlt (h : Head) (d a : XReg) (t : Option XReg) (s : State) : Host.Outcome State Fault Refusal :=
  .next (s.binary h d a t fSlt)
/-- SLTU (R204). -/
def execSltu (h : Head) (d a : XReg) (t : Option XReg) (s : State) : Host.Outcome State Fault Refusal :=
  .next (s.binary h d a t fSltu)
/-- MULH (R204). -/
def execMulh (h : Head) (d a : XReg) (t : Option XReg) (s : State) : Host.Outcome State Fault Refusal :=
  .next (s.binary h d a t fMulh)
/-- MULHU (R204). -/
def execMulhu (h : Head) (d a : XReg) (t : Option XReg) (s : State) : Host.Outcome State Fault Refusal :=
  .next (s.binary h d a t fMulhu)
/-- ROL (R204). -/
def execRol (h : Head) (d a : XReg) (t : Option XReg) (s : State) : Host.Outcome State Fault Refusal :=
  .next (s.binary h d a t fRol)
/-- ROR (R204). -/
def execRor (h : Head) (d a : XReg) (t : Option XReg) (s : State) : Host.Outcome State Fault Refusal :=
  .next (s.binary h d a t fRor)
/-- ADDS (R204). -/
def execAdds (h : Head) (d a : XReg) (t : Option XReg) (s : State) : Host.Outcome State Fault Refusal :=
  .next (s.binary h d a t fAdds)
/-- SUBS (R204). -/
def execSubs (h : Head) (d a : XReg) (t : Option XReg) (s : State) : Host.Outcome State Fault Refusal :=
  .next (s.binary h d a t fSubs)
/-- ADDUS (R204). -/
def execAddus (h : Head) (d a : XReg) (t : Option XReg) (s : State) : Host.Outcome State Fault Refusal :=
  .next (s.binary h d a t fAddus)
/-- SUBUS (R204). -/
def execSubus (h : Head) (d a : XReg) (t : Option XReg) (s : State) : Host.Outcome State Fault Refusal :=
  .next (s.binary h d a t fSubus)
/-- DIV (R205). -/
def execDiv (h : Head) (d a : XReg) (t : Option XReg) (s : State) : Host.Outcome State Fault Refusal :=
  .next (s.binaryLate h d a t fDiv)
/-- DIVU (R205). -/
def execDivu (h : Head) (d a : XReg) (t : Option XReg) (s : State) : Host.Outcome State Fault Refusal :=
  .next (s.binaryLate h d a t fDivu)
/-- REM (R205). -/
def execRem (h : Head) (d a : XReg) (t : Option XReg) (s : State) : Host.Outcome State Fault Refusal :=
  .next (s.binaryLate h d a t fRem)
/-- REMU (R205). -/
def execRemu (h : Head) (d a : XReg) (t : Option XReg) (s : State) : Host.Outcome State Fault Refusal :=
  .next (s.binaryLate h d a t fRemu)
/-- HASH (R211). -/
def execHash (h : Head) (d a : XReg) (t : Option XReg) (s : State) : Host.Outcome State Fault Refusal :=
  .next (s.binary h d a t fHash)
/-- CRC (R211). -/
def execCrc (h : Head) (d a : XReg) (t : Option XReg) (s : State) : Host.Outcome State Fault Refusal :=
  .next (s.binary h d a t crcWord)
/-- MOV (R206). -/
def execMov (h : Head) (d a : XReg) (s : State) : Host.Outcome State Fault Refusal :=
  .next (s.unary h d a id)
/-- NOT (R206). -/
def execNot (h : Head) (d a : XReg) (s : State) : Host.Outcome State Fault Refusal :=
  .next (s.unary h d a (~~~ ·))
/-- NEG (R206). -/
def execNeg (h : Head) (d a : XReg) (s : State) : Host.Outcome State Fault Refusal :=
  .next (s.unary h d a (- ·))
/-- CLZ (R206). -/
def execClz (h : Head) (d a : XReg) (s : State) : Host.Outcome State Fault Refusal :=
  .next (s.unary h d a fClz)
/-- POPC (R206). -/
def execPopc (h : Head) (d a : XReg) (s : State) : Host.Outcome State Fault Refusal :=
  .next (s.unary h d a fPopc)
/-- BSWAP (R206). -/
def execBswap (h : Head) (d a : XReg) (s : State) : Host.Outcome State Fault Refusal :=
  .next (s.unary h d a fBswap)
/-- CTZ (R206). -/
def execCtz (h : Head) (d a : XReg) (s : State) : Host.Outcome State Fault Refusal :=
  .next (s.unary h d a fCtz)
/-- SEXT.B (R206). -/
def execSextB (h : Head) (d a : XReg) (s : State) : Host.Outcome State Fault Refusal :=
  .next (s.unary h d a (sext 8))
/-- SEXT.H (R206). -/
def execSextH (h : Head) (d a : XReg) (s : State) : Host.Outcome State Fault Refusal :=
  .next (s.unary h d a (sext 16))
/-- SEXT.W (R206). -/
def execSextW (h : Head) (d a : XReg) (s : State) : Host.Outcome State Fault Refusal :=
  .next (s.unary h d a (sext 32))
/-- ZEXT.W (R206). -/
def execZextW (h : Head) (d a : XReg) (s : State) : Host.Outcome State Fault Refusal :=
  .next (s.unary h d a (fieldZ · 0 32))
/-- ADDI (R207). -/
def execAddi (h : Head) (d : XReg) (imm : Word) (s : State) : Host.Outcome State Fault Refusal :=
  .next (s.update h d (· + imm))
/-- LI (R207). -/
def execLi (h : Head) (d : XReg) (imm : Word) (s : State) : Host.Outcome State Fault Refusal :=
  .next ((s.setX d imm).advance h)
/-- ANDI (R207). -/
def execAndi (h : Head) (d : XReg) (imm : Word) (s : State) : Host.Outcome State Fault Refusal :=
  .next (s.update h d (· &&& imm))
/-- SHLI (R207). -/
def execShli (h : Head) (d : XReg) (n : BitVec 6) (s : State) : Host.Outcome State Fault Refusal :=
  .next (s.update h d (· <<< n.toNat))
/-- SHRI (R207). -/
def execShri (h : Head) (d : XReg) (n : BitVec 6) (s : State) : Host.Outcome State Fault Refusal :=
  .next (s.update h d (· >>> n.toNat))
/-- SARI (R207). -/
def execSari (h : Head) (d : XReg) (n : BitVec 6) (s : State) : Host.Outcome State Fault Refusal :=
  .next (s.update h d (·.sshiftRight n.toNat))
/-- EXT (R208). -/
def execExt (h : Head) (d a : XReg) (lo wm : BitVec 6) (s : State) : Host.Outcome State Fault Refusal :=
  .next (s.field h d lo wm (fieldS (s.getX a)))
/-- EXTZ (R208). -/
def execExtz (h : Head) (d a : XReg) (lo wm : BitVec 6) (s : State) : Host.Outcome State Fault Refusal :=
  .next (s.field h d lo wm (fieldZ (s.getX a)))
/-- DEP (R208). -/
def execDep (h : Head) (d a : XReg) (lo wm : BitVec 6) (s : State) : Host.Outcome State Fault Refusal :=
  .next (s.field h d lo wm (deposit (s.getX d) (s.getX a)))
/-- DEPZ (R208). -/
def execDepz (h : Head) (d a : XReg) (lo wm : BitVec 6) (s : State) : Host.Outcome State Fault Refusal :=
  .next (s.field h d lo wm (deposit 0 (s.getX a)))
/-- LEA (R209). -/
def execLea (h : Head) (d a : XReg) (t : Option XReg) (sh : BitVec 2) (disp : Word) (s : State) : Host.Outcome State Fault Refusal :=
  .next ((s.setX d (s.leaAddr d a t sh disp)).advance h)
/-- MADD (R210). -/
def execMadd (h : Head) (d a t : XReg) (s : State) : Host.Outcome State Fault Refusal :=
  .next ((s.setX d (s.getX d + s.getX a * s.getX t)).advance h)
/-- MSUB (R210). -/
def execMsub (h : Head) (d a t : XReg) (s : State) : Host.Outcome State Fault Refusal :=
  .next ((s.setX d (s.getX d - s.getX a * s.getX t)).advance h)
/-- CSELZ (R210). -/
def execCselz (h : Head) (d a t : XReg) (s : State) : Host.Outcome State Fault Refusal :=
  .next ((if s.getX t = 0 then s.setX d (s.getX a) else s).advance h)
/-- CSELNZ (R210). -/
def execCselnz (h : Head) (d a t : XReg) (s : State) : Host.Outcome State Fault Refusal :=
  .next ((if s.getX t ≠ 0 then s.setX d (s.getX a) else s).advance h)

end Sys2Proof.Machine
end

