-- ==== Sys2Proof/Machine/Vector.lean ====
section
/-! DEFINITION. The vector unit: page 2 (R239 to R257). -/

namespace Sys2Proof.Machine

/-! ### Lanes and masks (R240) -/

/-- The register whose lane i is f i. -/
def lanes8 (f : Nat → W32) : Lanes := #v[f 0, f 1, f 2, f 3, f 4, f 5, f 6, f 7]

/-- Lane `i` of a register. -/
def lane (v : Lanes) (i : Nat) : W32 := v[i]?.getD 0

/-- The lane numbers. -/
def laneNums : List Nat := [0, 1, 2, 3, 4, 5, 6, 7]

/-- A register's new value under a mask: an inactive lane keeps its old one (R240). -/
def merge (m : BitVec 8) (old : Lanes) (f : Nat → W32) : Lanes :=
  lanes8 (fun i => if m.getLsbD i then f i else lane old i)

/-- v[D] := f in the active lanes. -/
def State.putLanes (s : State) (d : VReg) (m : BitVec 8) (f : Nat → W32) : State := s.setV d (merge m (s.getV d) f)

/-- The flags of the active lanes, by lane (R240). -/
def laneFlags (m : BitVec 8) (f : Nat → W32 × FpFlags) : List FpFlags :=
  laneNums.map (fun i => if m.getLsbD i then (f i).2 else 0)

/-- An operation on lanes that sets no flag. -/
def State.laneOp (s : State) (h : Head) (d : VReg) (m : BitVec 8) (f : Nat → W32) : State :=
  (s.putLanes d m f).advance h

/-- An operation on lanes that sets flags (R138, R240). -/
def State.laneFp (s : State) (h : Head) (d : VReg) (m : BitVec 8) (f : Nat → W32 × FpFlags) : State :=
  ((s.putLanes d m (fun i => (f i).1)).setFlags (laneFlags m f)).advance h

/-- As `laneFp`, with a result of variable latency (R183, R242). -/
def State.laneFpLate (s : State) (h : Head) (d : VReg) (m : BitVec 8) (f : Nat → W32 × FpFlags) : State :=
  if s.roomFor then
    ((s.send (64 + d.toNat) (.vec d (laneNums.map (fun i => if m.getLsbD i then some (f i).1 else none)))).setFlags
      (laneFlags m f)).advance h
  else s.block .awake

/-! ### Integer lanes (R241) -/

/-- Applies f(d, a) to the active lanes. -/
def State.intLanes (s : State) (h : Head) (d a : VReg) (m : KReg) (f : W32 → W32 → W32) : State :=
  let x := s.getV d
  let y := s.getV a
  s.laneOp h d (s.getK m) (fun i => f (lane x i) (lane y i))

/-- Shift amount of a lane: a[4:0]. -/
def lsh (a : W32) : Nat := a.toNat % 32

/-- VADD (R241). -/
def execVadd (h : Head) (d a : VReg) (m : KReg) (s : State) : Host.Outcome State Fault Refusal :=
  .next (s.intLanes h d a m (· + ·))
/-- VSUB (R241). -/
def execVsub (h : Head) (d a : VReg) (m : KReg) (s : State) : Host.Outcome State Fault Refusal :=
  .next (s.intLanes h d a m (· - ·))
/-- VMUL (R241). -/
def execVmul (h : Head) (d a : VReg) (m : KReg) (s : State) : Host.Outcome State Fault Refusal :=
  .next (s.intLanes h d a m (· * ·))
/-- VMULH (R241). -/
def execVmulh (h : Head) (d a : VReg) (m : KReg) (s : State) : Host.Outcome State Fault Refusal :=
  .next (s.intLanes h d a m (fun x y => BitVec.ofInt 32 (x.toInt * y.toInt / 2 ^ 32)))
/-- VAND (R241). -/
def execVand (h : Head) (d a : VReg) (m : KReg) (s : State) : Host.Outcome State Fault Refusal :=
  .next (s.intLanes h d a m (· &&& ·))
/-- VOR (R241). -/
def execVor (h : Head) (d a : VReg) (m : KReg) (s : State) : Host.Outcome State Fault Refusal :=
  .next (s.intLanes h d a m (· ||| ·))
/-- VXOR (R241). -/
def execVxor (h : Head) (d a : VReg) (m : KReg) (s : State) : Host.Outcome State Fault Refusal :=
  .next (s.intLanes h d a m (· ^^^ ·))
/-- VANDN (R241): d AND NOT a. -/
def execVandn (h : Head) (d a : VReg) (m : KReg) (s : State) : Host.Outcome State Fault Refusal :=
  .next (s.intLanes h d a m (fun x y => x &&& ~~~y))
/-- VSHL (R241). -/
def execVshl (h : Head) (d a : VReg) (m : KReg) (s : State) : Host.Outcome State Fault Refusal :=
  .next (s.intLanes h d a m (fun x y => x <<< lsh y))
/-- VSHR (R241). -/
def execVshr (h : Head) (d a : VReg) (m : KReg) (s : State) : Host.Outcome State Fault Refusal :=
  .next (s.intLanes h d a m (fun x y => x >>> lsh y))
/-- VSAR (R241). -/
def execVsar (h : Head) (d a : VReg) (m : KReg) (s : State) : Host.Outcome State Fault Refusal :=
  .next (s.intLanes h d a m (fun x y => x.sshiftRight (lsh y)))
/-- VROL (R241). -/
def execVrol (h : Head) (d a : VReg) (m : KReg) (s : State) : Host.Outcome State Fault Refusal :=
  .next (s.intLanes h d a m (fun x y => x.rotateLeft (lsh y)))
/-- VMIN (R241). -/
def execVmin (h : Head) (d a : VReg) (m : KReg) (s : State) : Host.Outcome State Fault Refusal :=
  .next (s.intLanes h d a m (fun x y => if x.toInt ≤ y.toInt then x else y))
/-- VMAX (R241). -/
def execVmax (h : Head) (d a : VReg) (m : KReg) (s : State) : Host.Outcome State Fault Refusal :=
  .next (s.intLanes h d a m (fun x y => if x.toInt ≤ y.toInt then y else x))
/-- VMINU (R241). -/
def execVminu (h : Head) (d a : VReg) (m : KReg) (s : State) : Host.Outcome State Fault Refusal :=
  .next (s.intLanes h d a m (fun x y => if x ≤ y then x else y))
/-- VMAXU (R241). -/
def execVmaxu (h : Head) (d a : VReg) (m : KReg) (s : State) : Host.Outcome State Fault Refusal :=
  .next (s.intLanes h d a m (fun x y => if x ≤ y then y else x))

/-! ### FP32 lanes (R242) -/

/-- The rounding that a rounding code names (R137). -/
def State.rc (s : State) (rc : BitVec 3) : Rm := s.rmOf rc.toNat

/-- Applies f(d, a) to the active lanes, with flags. -/
def State.fpLanes (s : State) (h : Head) (d a : VReg) (m : KReg) (f : W32 → W32 → W32 × FpFlags) : State :=
  let x := s.getV d
  let y := s.getV a
  s.laneFp h d (s.getK m) (fun i => f (lane x i) (lane y i))

/-- As `fpLanes`, with a result of variable latency. -/
def State.fpLanesLate (s : State) (h : Head) (d a : VReg) (m : KReg) (f : W32 → W32 → W32 × FpFlags) : State :=
  let x := s.getV d
  let y := s.getV a
  s.laneFpLate h d (s.getK m) (fun i => f (lane x i) (lane y i))

/-- VFADD (R242). -/
def execVfadd (h : Head) (d a : VReg) (m : KReg) (rc : BitVec 3) (s : State) : Host.Outcome State Fault Refusal :=
  .next (s.fpLanes h d a m (fadd32 (s.rc rc)))
/-- VFSUB (R242). -/
def execVfsub (h : Head) (d a : VReg) (m : KReg) (rc : BitVec 3) (s : State) : Host.Outcome State Fault Refusal :=
  .next (s.fpLanes h d a m (fsub32 (s.rc rc)))
/-- VFMUL (R242). -/
def execVfmul (h : Head) (d a : VReg) (m : KReg) (rc : BitVec 3) (s : State) : Host.Outcome State Fault Refusal :=
  .next (s.fpLanes h d a m (fmul32 (s.rc rc)))
/-- VFMA (R242): a·t + d under mask k0 to k3. -/
def execVfma (h : Head) (d a t : VReg) (rc : BitVec 3) (m : BitVec 2) (s : State) :
    Host.Outcome State Fault Refusal :=
  let x := s.getV d
  let y := s.getV a
  let z := s.getV t
  .next (s.laneFp h d (s.getK (m.setWidth 3)) (fun i => ffma32 (s.rc rc) (lane y i) (lane z i) (lane x i)))
/-- VFMIN (R140, R242). -/
def execVfmin (h : Head) (d a : VReg) (m : KReg) (s : State) : Host.Outcome State Fault Refusal :=
  .next (s.intLanes h d a m fmin32)
/-- VFMAX (R140, R242). -/
def execVfmax (h : Head) (d a : VReg) (m : KReg) (s : State) : Host.Outcome State Fault Refusal :=
  .next (s.intLanes h d a m fmax32)
/-- VFABS (R242). -/
def execVfabs (h : Head) (d a : VReg) (m : KReg) (s : State) : Host.Outcome State Fault Refusal :=
  .next (s.intLanes h d a m (fun _ y => fabs32 y))
/-- VFNEG (R242). -/
def execVfneg (h : Head) (d a : VReg) (m : KReg) (s : State) : Host.Outcome State Fault Refusal :=
  .next (s.intLanes h d a m (fun _ y => fneg32 y))
/-- VFDIV (R242). -/
def execVfdiv (h : Head) (d a : VReg) (m : KReg) (rc : BitVec 3) (s : State) : Host.Outcome State Fault Refusal :=
  .next (s.fpLanesLate h d a m (fdiv32 (s.rc rc)))
/-- VFSQRT (R242). -/
def execVfsqrt (h : Head) (d a : VReg) (m : KReg) (rc : BitVec 3) (s : State) : Host.Outcome State Fault Refusal :=
  .next (s.fpLanesLate h d a m (fun _ y => fsqrt32 (s.rc rc) y))
/-- VFRCP (R242). -/
def execVfrcp (h : Head) (d a : VReg) (m : KReg) (rc : BitVec 3) (s : State) : Host.Outcome State Fault Refusal :=
  .next (s.fpLanesLate h d a m (fun _ y => frcp32 (s.rc rc) y))
/-- VFRSQ (R242). -/
def execVfrsq (h : Head) (d a : VReg) (m : KReg) (rc : BitVec 3) (s : State) : Host.Outcome State Fault Refusal :=
  .next (s.fpLanesLate h d a m (fun _ y => frsq32 (s.rc rc) y))

/-! ### Comparisons and masks (R243, R244) -/

/-- A mask from a condition. -/
def maskOf (f : Nat → Bool) : BitVec 8 :=
  laneNums.foldl (fun (m : BitVec 8) i => if f i then m ||| (1#8 <<< i) else m) 0

/-- A comparison: the bit of an inactive lane is 0. -/
def State.compare (s : State) (h : Head) (d : KReg) (a b : VReg) (m : KReg) (f : W32 → W32 → Bool × FpFlags) : State :=
  let x := s.getV a
  let y := s.getV b
  let g := s.getK m
  let r (i : Nat) : Bool × FpFlags := f (lane x i) (lane y i)
  ((s.setK d (maskOf (fun i => g.getLsbD i && (r i).1))).setFlags
    (laneNums.map (fun i => if g.getLsbD i then (r i).2 else 0))).advance h

/-- VCMP.EQ (R243). -/
def execVcmpEq (h : Head) (d : KReg) (a b : VReg) (m : KReg) (s : State) : Host.Outcome State Fault Refusal :=
  .next (s.compare h d a b m (fun x y => (x == y, 0)))
/-- VCMP.LT (R243). -/
def execVcmpLt (h : Head) (d : KReg) (a b : VReg) (m : KReg) (s : State) : Host.Outcome State Fault Refusal :=
  .next (s.compare h d a b m (fun x y => (decide (x.toInt < y.toInt), 0)))
/-- VCMP.LTU (R243). -/
def execVcmpLtu (h : Head) (d : KReg) (a b : VReg) (m : KReg) (s : State) : Host.Outcome State Fault Refusal :=
  .next (s.compare h d a b m (fun x y => (decide (x < y), 0)))
/-- VCMP.NE (R243). -/
def execVcmpNe (h : Head) (d : KReg) (a b : VReg) (m : KReg) (s : State) : Host.Outcome State Fault Refusal :=
  .next (s.compare h d a b m (fun x y => (x != y, 0)))
/-- VFCMP.EQ (R243). -/
def execVfcmpEq (h : Head) (d : KReg) (a b : VReg) (m : KReg) (s : State) : Host.Outcome State Fault Refusal :=
  .next (s.compare h d a b m feq32)
/-- VFCMP.LT (R243). -/
def execVfcmpLt (h : Head) (d : KReg) (a b : VReg) (m : KReg) (s : State) : Host.Outcome State Fault Refusal :=
  .next (s.compare h d a b m flt32)
/-- VFCMP.LE (R243). -/
def execVfcmpLe (h : Head) (d : KReg) (a b : VReg) (m : KReg) (s : State) : Host.Outcome State Fault Refusal :=
  .next (s.compare h d a b m fle32)
/-- VFCMP.UN (R243). -/
def execVfcmpUn (h : Head) (d : KReg) (a b : VReg) (m : KReg) (s : State) : Host.Outcome State Fault Refusal :=
  .next (s.compare h d a b m fun32)

/-- The two sources of a mask operation (R244): k[D] and k[A], or k[A] and k[T] with TRX. -/
def State.maskSources (s : State) (d a : KReg) (t : Option KReg) : BitVec 8 × BitVec 8 :=
  match t with
  | some t => (s.getK a, s.getK t)
  | none => (s.getK d, s.getK a)

/-- KAND (R244). -/
def execKand (h : Head) (d a : KReg) (t : Option KReg) (s : State) : Host.Outcome State Fault Refusal :=
  .next ((s.setK d ((s.maskSources d a t).1 &&& (s.maskSources d a t).2)).advance h)
/-- KOR (R244). -/
def execKor (h : Head) (d a : KReg) (t : Option KReg) (s : State) : Host.Outcome State Fault Refusal :=
  .next ((s.setK d ((s.maskSources d a t).1 ||| (s.maskSources d a t).2)).advance h)
/-- KXOR (R244). -/
def execKxor (h : Head) (d a : KReg) (t : Option KReg) (s : State) : Host.Outcome State Fault Refusal :=
  .next ((s.setK d ((s.maskSources d a t).1 ^^^ (s.maskSources d a t).2)).advance h)
/-- KNOT (R244). -/
def execKnot (h : Head) (d a : KReg) (s : State) : Host.Outcome State Fault Refusal :=
  .next ((s.setK d (~~~s.getK a)).advance h)
/-- KANY (R244). -/
def execKany (h : Head) (d : XReg) (a : KReg) (s : State) : Host.Outcome State Fault Refusal :=
  .next ((s.setX d (boolWord (s.getK a != 0))).advance h)
/-- KALL (R244). -/
def execKall (h : Head) (d : XReg) (a : KReg) (s : State) : Host.Outcome State Fault Refusal :=
  .next ((s.setX d (boolWord (s.getK a == 0xFF))).advance h)
/-- KCNT (R244). -/
def execKcnt (h : Head) (d : XReg) (a : KReg) (s : State) : Host.Outcome State Fault Refusal :=
  .next ((s.setX d (BitVec.ofNat 64 (laneNums.countP (fun i => (s.getK a).getLsbD i)))).advance h)
/-- KFIRST (R244): 8 if no bit is set. -/
def execKfirst (h : Head) (d : XReg) (a : KReg) (s : State) : Host.Outcome State Fault Refusal :=
  .next ((s.setX d (BitVec.ofNat 64 ((laneNums.find? (fun i => (s.getK a).getLsbD i)).getD 8))).advance h)
/-- KMOV (R244). -/
def execKmov (h : Head) (d : KReg) (a : XReg) (s : State) : Host.Outcome State Fault Refusal :=
  .next ((s.setK d ((s.getX a).setWidth 8)).advance h)
/-- KMOVX (R244). -/
def execKmovx (h : Head) (d : XReg) (a : KReg) (s : State) : Host.Outcome State Fault Refusal :=
  .next ((s.setX d ((s.getK a).setWidth 64)).advance h)

/-! ### Vector memory (R245 to R247) -/

/-- The elements of a vector access in the active lanes. -/
def State.elems (s : State) (m : BitVec 8) (ea : Nat → Word) (wr : Bool) : List Elem :=
  (laneNums.filter (fun i => m.getLsbD i)).map (fun i => ⟨i, ea i, s.plan (ea i) 4 wr⟩)

/-- A vector load of the active lanes; with `fixed` the result is of fixed latency (R245, R246). -/
def State.vecLoad (s : State) (h : Head) (d : VReg) (m : BitVec 8) (ea : Nat → Word) (o : Order) (fixed : Bool) : State :=
  if s.orderHold o false then s.block .awake
  else
    let es := s.elems m ea false
    s.access h false (some (64 + d.toNat)) es (fun u =>
      let val (i : Nat) : Option W32 := (elemKey es i).map (fun k => BitVec.ofNat 32 (leVal (s.bytesAt s.cur k.1 4)))
      if fixed then (u.putLanes d m (fun i => (val i).getD 0)).advance h
      else if s.roomFor then (u.send (64 + d.toNat) (.vec d (laneNums.map val))).advance h
      else s.block .awake)

/-- A vector store of the active lanes in ascending lane order (R245, R246). -/
def State.vecStore (s : State) (h : Head) (d : VReg) (m : BitVec 8) (ea : Nat → Word) (o : Order) : State :=
  let v := s.getV d
  if s.orderHold o true then s.block .awake
  else if laneNums.any (fun i => m.getLsbD i && s.twinStore (ea i)) then s.trap Code.ctxBad
  else
    let es := s.elems m ea true
    s.access h true none es (fun u =>
      (es.foldl (fun (u : State) e => match e.plan with
        | .go key _ cached _ => u.ackedStore s.cur key (leBytes 4 (lane v e.lane).toNat) cached
        | _ => u) u).advance h)

/-- VLD (R245). -/
def execVld (h : Head) (d : VReg) (a : XReg) (m : KReg) (disp : Word) (o : Order) (s : State) :
    Host.Outcome State Fault Refusal :=
  let va := s.ea a disp
  let own := match placeOf s.cur va with | .own _ => true | _ => false
  .next (s.vecLoad h d (s.getK m) (fun i => va + BitVec.ofNat 64 (4 * i)) o own)
/-- VST (R245). -/
def execVst (h : Head) (d : VReg) (a : XReg) (m : KReg) (disp : Word) (o : Order) (s : State) :
    Host.Outcome State Fault Refusal :=
  .next (s.vecStore h d (s.getK m) (fun i => s.ea a disp + BitVec.ofNat 64 (4 * i)) o)
/-- VLDG (R246). -/
def execVldg (h : Head) (d : VReg) (a : XReg) (i : VReg) (m : KReg) (disp : Word) (o : Order) (s : State) :
    Host.Outcome State Fault Refusal :=
  .next (s.vecLoad h d (s.getK m) (fun j => s.ea a disp + (lane (s.getV i) j).signExtend 64) o false)
/-- VSTS (R246). -/
def execVsts (h : Head) (d : VReg) (a : XReg) (i : VReg) (m : KReg) (disp : Word) (o : Order) (s : State) :
    Host.Outcome State Fault Refusal :=
  .next (s.vecStore h d (s.getK m) (fun j => s.ea a disp + (lane (s.getV i) j).signExtend 64) o)

/-- Offset in its lane slice that a lane accesses (R247). -/
def sliceOff (x disp : Word) : Word := (x + disp) &&& 0xFFFFFFFF

/-- The checks of a lane-slice access at issue (R247, R256): ADDR_WIN comes before ALIGN, as in R214; parity and poison as
for every read (R407, R410). -/
def State.slicePlan (s : State) (i : Nat) (off : Word) (wr : Bool) : Plan :=
  if 2048 ≤ off.toNat then .trap Code.addrWin off
  else if off.toNat % 4 ≠ 0 then .trap Code.align off
  else if s.atomicAhead s.cur then .wait
  else s.planBytes s.cur (laneKey s.cur (2048 * i + off.toNat)) 4 wr false true false

/-- The elements of a lane-slice access. -/
def State.sliceElems (s : State) (a : VReg) (m : BitVec 8) (disp : Word) (wr : Bool) : List Elem :=
  (laneNums.filter (fun i => m.getLsbD i)).map (fun i =>
    let off := sliceOff ((lane (s.getV a) i).setWidth 64) disp
    ⟨i, off, s.slicePlan i off wr⟩)

/-- VLDL (R247). -/
def execVldl (h : Head) (d a : VReg) (m : KReg) (disp : Word) (o : Order) (s : State) :
    Host.Outcome State Fault Refusal :=
  let es := s.sliceElems a (s.getK m) disp false
  .next (
    if s.orderHold o false ∨ (o.ord = 2 ∧ !s.lev.out.isEmpty) then s.block .awake
    else s.access h false none es (fun u => u.laneOp h d (s.getK m) (fun i =>
      match elemKey es i with | some (key, _) => BitVec.ofNat 32 (s.peek key 4) | none => 0)))

/-- VSTL (R247). -/
def execVstl (h : Head) (d a : VReg) (m : KReg) (disp : Word) (o : Order) (s : State) :
    Host.Outcome State Fault Refusal :=
  let es := s.sliceElems a (s.getK m) disp true
  .next (
    if s.orderHold o true then s.block .awake
    else s.access h true none es (fun u =>
      (laneNums.foldl (fun (u : State) i => match elemKey es i with
        | some (key, _) => u.poke key (leBytes 4 (lane (s.getV d) i).toNat)
        | none => u) u).advance h))

/-! ### Moves, permutes and reductions (R248, R249) -/

/-- VBCST (R248). -/
def execVbcst (h : Head) (d : VReg) (a : XReg) (m : KReg) (s : State) : Host.Outcome State Fault Refusal :=
  .next (s.laneOp h d (s.getK m) (fun _ => (s.getX a).setWidth 32))
/-- VMOV (R248). -/
def execVmov (h : Head) (d a : VReg) (m : KReg) (s : State) : Host.Outcome State Fault Refusal :=
  .next (s.laneOp h d (s.getK m) (fun i => lane (s.getV a) i))
/-- VPERM (R248). -/
def execVperm (h : Head) (d a : VReg) (m : KReg) (s : State) : Host.Outcome State Fault Refusal :=
  .next (s.laneOp h d (s.getK m) (fun i =>
    let j := lane (s.getV d) i
    if j.getLsbD 3 then 0 else lane (s.getV a) (j.toNat % 8)))
/-- VLROT (R248). -/
def execVlrot (h : Head) (d a : VReg) (n : BitVec 3) (m : KReg) (s : State) : Host.Outcome State Fault Refusal :=
  .next (s.laneOp h d (s.getK m) (fun i => lane (s.getV a) ((i + n.toNat) % 8)))
/-- VSEL (R248): every lane. -/
def execVsel (h : Head) (d a b : VReg) (k : KReg) (s : State) : Host.Outcome State Fault Refusal :=
  .next (s.laneOp h d 0xFF (fun i => if (s.getK k).getLsbD i then lane (s.getV a) i else lane (s.getV b) i))
/-- VEXT (R248). -/
def execVext (h : Head) (d : XReg) (a : VReg) (n : BitVec 3) (z : Bool) (s : State) : Host.Outcome State Fault Refusal :=
  let w := lane (s.getV a) n.toNat
  .next ((s.setX d (if z then w.setWidth 64 else w.signExtend 64)).advance h)

/-- comb of R249. -/
def comb {α : Type} (f : α → α → α) : Option α → Option α → Option α
  | none, q => q
  | p, none => p
  | some p, some q => some (f p q)

/-- The fixed order of R249 over eight lanes, of which the inactive are absent. -/
def reduce {α : Type} (f : α → α → α) (l : Nat → Option α) : Option α :=
  comb f (comb f (comb f (l 0) (l 1)) (comb f (l 2) (l 3))) (comb f (comb f (l 4) (l 5)) (comb f (l 6) (l 7)))

/-- An active lane of a register. -/
def liveLane (v : Lanes) (m : BitVec 8) (i : Nat) : Option W32 := if m.getLsbD i then some (lane v i) else none

/-- VRADD (R249). -/
def execVradd (h : Head) (d : XReg) (a : VReg) (m : KReg) (s : State) : Host.Outcome State Fault Refusal :=
  let r := reduce (· + ·) (fun i => (liveLane (s.getV a) (s.getK m) i).map (fun w => w.signExtend 64))
  .next ((s.setX d (r.getD 0)).advance h)
/-- VRFADD (R249): the flags are the OR over the additions; with one active lane nothing is added, and a NaN gives the
canonical one (R128). -/
def execVrfadd (h : Head) (d : XReg) (a : VReg) (m : KReg) (rc : BitVec 3) (s : State) :
    Host.Outcome State Fault Refusal :=
  let f (p q : W32 × FpFlags) : W32 × FpFlags :=
    let r := fadd32 (s.rc rc) p.1 q.1
    (r.1, p.2 ||| q.2 ||| r.2)
  let r := (reduce f (fun i => (liveLane (s.getV a) (s.getK m) i).map (fun w => (w, 0)))).getD (0, 0)
  .next (((s.setX d ((canon32 r.1).setWidth 64)).setFlags [r.2]).advance h)
/-- VRMAX (R249). -/
def execVrmax (h : Head) (d : XReg) (a : VReg) (m : KReg) (s : State) : Host.Outcome State Fault Refusal :=
  let r := reduce (fun x y : W32 => if x.toInt ≤ y.toInt then y else x) (liveLane (s.getV a) (s.getK m))
  .next ((s.setX d ((r.getD 0x80000000).signExtend 64)).advance h)
/-- VRMIN (R249). -/
def execVrmin (h : Head) (d : XReg) (a : VReg) (m : KReg) (s : State) : Host.Outcome State Fault Refusal :=
  let r := reduce (fun x y : W32 => if x.toInt ≤ y.toInt then x else y) (liveLane (s.getV a) (s.getK m))
  .next ((s.setX d ((r.getD 0x7FFFFFFF).signExtend 64)).advance h)

/-! ### Conversions (R250 to R255) -/

/-- Element e of width w bits of a register, lane 0 lowest (R253). -/
def element (v : Lanes) (w e : Nat) : Nat := (lane v (w * e / 32)).toNat / 2 ^ (w * e % 32) % 2 ^ w

/-- Register number r + i. -/
def vnext (r : VReg) (i : Nat) : VReg := r + BitVec.ofNat 5 i

/-- The register whose bytes or nibbles are 32 mantissas (R251): w is 8 or 4. -/
def packMants (w : Nat) (ms : List Int) : Lanes :=
  lanes8 (fun i => BitVec.ofNat 32 (((List.range (32 / w)).map (fun j =>
    (match ms[i * (32 / w) + j]? with | some q => intBits (if w = 4 then 4 else 8) q | none => 0) * 2 ^ (w * j))).foldl
      (· + ·) 0))

/-- VCVT and VQNT to a BFP format (R251): a group of four source registers, a pair of destinations, flags as one lane
whose number a report gives as 0. -/
def State.toBfp (s : State) (h : Head) (d a : VReg) (fmt : Nat) : State :=
  let xs := (List.range 32).map (fun j => lane (s.getV (vnext a (j / 8))) (j % 8))
  let (qs, code, fl) := bfpConvert fmt xs
  let qs := if fmt = 14 then qs.map (fun q => ((intBits 6 q : Nat) : Int)) else qs
  let w := if fmt = 15 then 4 else 8
  let byLane := [fl]
  (((s.setV d (packMants w qs)).setV (vnext d 1) (lanes8 (fun i => if i = 0 then BitVec.ofNat 32 code else 0))).setFlags
    byLane).advance h

/-- VCVT from a BFP format (R251). -/
def State.fromBfp (s : State) (h : Head) (d a : VReg) (fmt : Nat) : State :=
  let v := s.getV a
  let code := (lane (s.getV (vnext a 1)) 0).toNat % 256
  let w := if fmt = 15 then 4 else 8
  let el (j : Nat) : W32 :=
    if code = 0xFF then nan32 else (to32 .rne (bfpValue fmt (element v w j) code)).1
  ((List.range 4).foldl (fun (u : State) r => u.setV (vnext d r) (lanes8 (fun i => el (8 * r + i)))) s).advance h

/-- VCVT (R250, R251). -/
def execVcvt (h : Head) (d a : VReg) (m : KReg) (fmt : BitVec 4) (dir : Bool) (s : State) :
    Host.Outcome State Fault Refusal :=
  let v := s.getV a
  .next (
    if 13 ≤ fmt.toNat then (if dir then s.fromBfp h d a fmt.toNat else s.toBfp h d a fmt.toNat)
    else if dir then s.laneFp h d (s.getK m) (fun i => cvtFrom fmt.toNat (s.rmOf 4) (lane v i))
    else s.laneFp h d (s.getK m) (fun i => cvtTo fmt.toNat (s.rmOf 4) s.lev.nanp (lane v i)))

/-- VCVTS (R252): the random word is the lane's old value. -/
def execVcvts (h : Head) (d a : VReg) (m : KReg) (fmt : BitVec 4) (s : State) : Host.Outcome State Fault Refusal :=
  let x := s.getV d
  let v := s.getV a
  .next (s.laneFp h d (s.getK m) (fun i => roundSr fmt.toNat s.lev.nanp (lane v i) (lane x i)))

/-- VQNT (R254). -/
def execVqnt (h : Head) (d a : VReg) (m : KReg) (fmt : BitVec 4) (s : State) : Host.Outcome State Fault Refusal :=
  let sv := s.getV d
  let mv := s.getV (vnext d 1)
  let v := s.getV a
  .next (
    if 13 ≤ fmt.toNat then s.toBfp h d a fmt.toNat
    else s.laneFp h d (s.getK m) (fun i => vqnt32 fmt.toNat (lane v i) (lane sv i) (lane mv i)))

/-- VDQNT (R254). -/
def execVdqnt (h : Head) (d a : VReg) (m : KReg) (fmt : BitVec 4) (s : State) : Host.Outcome State Fault Refusal :=
  let sv := s.getV d
  let mv := s.getV (vnext d 1)
  let v := s.getV a
  .next (s.laneFp h d (s.getK m) (fun i => vdqnt32 fmt.toNat (lane v i) (lane sv i) (lane mv i)))

/-- VSCAL (R254): s to v[D], m to v[D+1]. -/
def execVscal (h : Head) (d a : VReg) (m : KReg) (fmt : BitVec 4) (s : State) : Host.Outcome State Fault Refusal :=
  let lo := s.getV a
  let hi := s.getV (vnext a 1)
  let k := s.getK m
  let r (i : Nat) : W32 × W32 × FpFlags := vscal32 fmt.toNat (lane lo i) (lane hi i)
  .next ((((s.putLanes d k (fun i => (r i).1)).putLanes (vnext d 1) k (fun i => (r i).2.1)).setFlags
    (laneNums.map (fun i => if k.getLsbD i then (r i).2.2 else 0))).advance h)

/-- The rescale entry at an offset of the own scratchpad (R143). -/
def State.rescAt (s : State) (off : Nat) : Option Resc :=
  let b := s.readFor s.cur (padKey s.cur off) 16
  rescOf (BitVec.ofNat 64 (leVal (b.take 8))) (BitVec.ofNat 64 (leVal (b.drop 8)))

/-- VRESC (R255): the entry of lane i stands at tb + 16·i in the own scratchpad, which every active lane reads as R214
gives. -/
def execVresc (h : Head) (d : VReg) (a : XReg) (m : KReg) (disp : Word) (i32 : Bool) (s : State) :
    Host.Outcome State Fault Refusal :=
  let tb := s.ea a disp
  let k := s.getK m
  let v := s.getV d
  .next (
    match placeOf s.cur tb with
    | .own off =>
      if off % 16 ≠ 0 then s.trap Code.align tb
      else
        let es : List Elem := (laneNums.filter (fun i => k.getLsbD i)).map (fun i =>
          let va := tb + BitVec.ofNat 64 (16 * i)
          ⟨i, va, s.plan va 16 false ⟨false, false, false⟩⟩)
        let entry (i : Nat) : Option Resc := s.rescAt (off + 16 * i)
        s.access h false none es (fun u =>
          if es.any (fun e => (entry e.lane).isNone) then s.trap Code.rescBad
          else u.laneFp h d k (fun i =>
            match entry i with
            | some r => let (c, fl) := r.apply (accNum i32 (lane v i)); (BitVec.ofNat 32 c, fl)
            | none => (lane v i, 0)))
    | _ => s.trap Code.addrWin tb)

/-- Width of VPACK and VUNPK (R253). -/
def packWidth (w : BitVec 2) : Nat := match w.toNat with | 0 => 16 | 1 => 8 | _ => 4

/-- VPACK (R253). -/
def execVpack (h : Head) (d a : VReg) (w : BitVec 2) (p : BitVec 3) (s : State) : Host.Outcome State Fault Refusal :=
  let wd := packWidth w
  let o := s.getV d
  let v := s.getV a
  let el (e : Nat) : Nat :=
    if 8 * p.toNat ≤ e ∧ e < 8 * p.toNat + 8 then (lane v (e - 8 * p.toNat)).toNat % 2 ^ wd else element o wd e
  .next ((s.setV d (lanes8 (fun i => BitVec.ofNat 32 (((List.range (32 / wd)).map (fun j =>
    el (i * (32 / wd) + j) * 2 ^ (wd * j))).foldl (· + ·) 0)))).advance h)

/-- VUNPK (R253). -/
def execVunpk (h : Head) (d a : VReg) (w : BitVec 2) (p : BitVec 3) (s : State) : Host.Outcome State Fault Refusal :=
  let v := s.getV a
  .next ((s.setV d (lanes8 (fun i => BitVec.ofNat 32 (element v (packWidth w) (8 * p.toNat + i))))).advance h)

end Sys2Proof.Machine
end

