-- ==== Sys2Proof/Machine/Net.lean ====
section
/-! DEFINITION. The net: records, Springs, the wire protocol at the Weirs, Ponds, rules, activations and twins, and the
instructions of page 5 (R25 to R54, R281 to R289, R398 to R400, R412 to R414). -/

namespace Sys2Proof.Machine

/-! ### Records and indices (R25 to R29) -/

/-- Owner core of an index (R25). -/
def ownerOf (i : Nat) : Nat := i / 2 ^ 23 % 512
/-- Cluster of the owner Weir of an index (R25). -/
def weirOf (i : Nat) : Nat := clusterOf (ownerOf i)
/-- VA of word `k` of a node (R25). -/
def Job.nodeVa (j : Job) (n : Nat) (k : Nat := 0) : Word := j.word 8 + BitVec.ofNat 64 (32 * n + 8 * k)
/-- VA of a wire (R25). -/
def Job.wireVa (j : Job) (w : Nat) : Word := j.word 9 + BitVec.ofNat 64 (32 * w)
/-- VA of the path word of a node (R54). -/
def Job.pathVa (j : Job) (n : Nat) : Word := j.word 10 + BitVec.ofNat 64 (8 * n)
/-- Deterministic placement (R54, R316). -/
def Job.det (j : Job) : Bool := (j.word 0).getLsbD 6
/-- Last slot of a shard that may be allocated (R36, R316). -/
def Job.heap (j : Job) : Nat := if bits (j.word 12) 8 23 = 0 then 2 ^ 23 - 1 else bits (j.word 12) 8 23

/-- ALLOC of a node's word 0 (R26). -/
def nodeAlloc : Word := 1 <<< 41
/-- BUSY of a node's word 0 (R26). -/
def nodeBusy : Word := 1 <<< 40
/-- SYM of a node's word 0. -/
def nodeSym (w : Word) : Nat := bits w 52 12
/-- The wire end that a port word names: [32] end, [31:0] wire (R26). -/
def portWord (w e : Nat) : Word := BitVec.ofNat 64 (e % 2 * 2 ^ 32 + w % 2 ^ 32)

/-- Symbols of R27. -/
def symVal := 0xF00
def symTile := 0xF02
def symDone := 0xF03
def symRoot := 0xF04

/-- Word 0 of a node that the device creates: arity 0, allocated, attached to a wire end (R27, R51, R52). -/
def deviceNode (sym w e : Nat) : Word := BitVec.ofNat 64 (sym * 2 ^ 52) ||| nodeAlloc ||| portWord w e

/-- The open end word (R29). -/
def openEnd : Word := 3 <<< 62
/-- Is an end word open? -/
def isOpen (p : Word) : Bool := bits p 62 2 == 3
/-- Does an end word refer to a principal port? -/
def isPrincipal (p : Word) : Bool := bits p 62 2 == 0 && bits p 32 2 == 0
/-- Does an end word refer to a port? -/
def isPort (p : Word) : Bool := bits p 62 2 == 0
/-- Node of an end word. -/
def endNode (p : Word) : Nat := bits p 0 32

/-- A wire record (R28). -/
structure WireRec where
  e0 : Word
  e1 : Word
  w2 : Word
  w3 : Word
  deriving DecidableEq, Repr

/-- STATE of a wire: 0 free, 1 live, 2 shunt. -/
def WireRec.st (r : WireRec) : Nat := bits r.w2 62 2
/-- REFS of a wire. -/
def WireRec.refs (r : WireRec) : Nat := bits r.w2 0 16
/-- End word of end `e`. -/
def WireRec.ends (r : WireRec) (e : Nat) : Word := if e = 0 then r.e0 else r.e1
/-- Replaces an end word. -/
def WireRec.setEnd (r : WireRec) (e : Nat) (p : Word) : WireRec := if e = 0 then { r with e0 := p } else { r with e1 := p }
/-- Replaces STATE and REFS. -/
def WireRec.put (r : WireRec) (st refs : Nat) : WireRec := { r with w2 := BitVec.ofNat 64 (st * 2 ^ 62 + refs % 65536) }
/-- FWIRE and FEND. -/
def WireRec.fwd (r : WireRec) : Nat × Nat := (bits r.w3 0 32, bits r.w3 32 1)
/-- Are the reserved fields of a record 0, and its STATE and tags not reserved ones (R6, R28, R29)? The end words are looked
at only in a live wire: a free one keeps its link there. -/
def WireRec.good (r : WireRec) : Bool :=
  let ok (p : Word) : Bool := bits p 34 28 == 0 && bits p 62 2 != 1 && bits p 62 2 != 2
  bits r.w2 16 46 == 0 && r.st != 3 && (r.st != 1 || (ok r.e0 && ok r.e1)) && bits r.w3 33 31 == 0
/-- The record in its 32 bytes. -/
def WireRec.ofNat (n : Nat) : WireRec :=
  ⟨BitVec.ofNat 64 n, BitVec.ofNat 64 (n / 2 ^ 64), BitVec.ofNat 64 (n / 2 ^ 128), BitVec.ofNat 64 (n / 2 ^ 192)⟩
/-- The 32 bytes of a record. -/
def WireRec.bytes (r : WireRec) : List Byte :=
  leBytes 8 r.e0.toNat ++ leBytes 8 r.e1.toNat ++ leBytes 8 r.w2.toNat ++ leBytes 8 r.w3.toNat

/-! ### Springs (R36, R284) -/

/-- Nodes or wires. -/
inductive Kind where
  | node | wire
  deriving DecidableEq, Repr

/-- The free list of a kind. -/
def Core.freeList (k : Core) : Kind → List Nat
  | .node => k.nfree
  | .wire => k.wfree
/-- The shard top of a kind. -/
def Core.top (k : Core) : Kind → Nat
  | .node => k.ntop
  | .wire => k.wtop
/-- How many slots of a kind are in stock. -/
def Core.stock (k : Core) : Kind → Nat
  | .node => k.nstock
  | .wire => k.wstock

/-- Replaces a kind's free list, top and stock. -/
def Core.setSpring (k : Core) (t : Kind) (fl : List Nat) (top stock : Nat) : Core :=
  match t with
  | .node => { k with nfree := fl, ntop := top, nstock := stock }
  | .wire => { k with wfree := fl, wtop := top, wstock := stock }

/-- The slot that R36 gives next, and the Spring without it. -/
def Core.nextSlot (k : Core) (t : Kind) (limit : Nat) : Option (Nat × Core) :=
  match k.freeList t with
  | x :: r => some (x, k.setSpring t r (k.top t) (k.stock t - 1))
  | [] => if k.top t ≤ limit then some (k.top t, k.setSpring t [] (k.top t + 1) (k.stock t - 1)) else none

/-- Slots that R36 could give, counted up to 8: what a full stock holds (R284). -/
def Core.stockable (k : Core) (t : Kind) (limit : Nat) : Nat :=
  Nat.min 8 ((k.freeList t).length + (limit + 1 - k.top t))

/-- The link that a record freed to a core's Spring holds: the slot freed before it, as a full index, or 0 at the list's end
(R36; log 102). -/
def State.springHead (s : State) (t : Kind) (i : Nat) : Word :=
  match (s.core (ownerOf i)).freeList t with
  | x :: _ => BitVec.ofNat 64 (ownerOf i * 2 ^ 23 + x)
  | [] => 0

/-- A freed slot enters the Spring, and the stock, at its head (R36, R284). -/
def State.springPush (s : State) (t : Kind) (i : Nat) : State :=
  s.upCore (ownerOf i) (fun k =>
    k.setSpring t (i % 2 ^ 23 :: k.freeList t) (k.top t) (Nat.min 8 (k.stock t + 1)))

/-! ### Activations and twin runs -/

/-- The twin run of a role (R412). -/
def State.twinRun (s : State) (r : TwinRole) : Option TwinRun := (s.cluster r.cl).twins.find? (fun t => t.id == r.run)
/-- Changes a twin run. -/
def State.upTwin (s : State) (r : TwinRole) (f : TwinRun → TwinRun) : State :=
  s.upCluster r.cl (fun k => { k with twins := k.twins.map (fun t => if t.id = r.run then f t else t) })

/-- May the executing core's activation hold `n` more items (R413)? -/
def State.twinRoom (s : State) (n : Nat := 1) : Bool :=
  match s.me.twin with
  | some r => !s.inTwin || (match s.twinRun r with
    | some t => decide ((t.streams[r.which]?.getD []).length + n ≤ 64)
    | none => true)
  | none => true

/-- Is the executing core inside an activation, at level 0? -/
def State.inAct (s : State) : Bool := s.me.inact && s.me.lvl == 0
/-- The activation that the executing core runs: a handler above one is no part of it (R54, R283). -/
def State.running? (s : State) : Option Activation := if s.inAct then s.me.act else none
/-- Changes that activation. -/
def State.upAct (s : State) (f : Activation → Activation) : State :=
  if s.inAct then s.upMe (fun k => { k with act := k.act.map f }) else s
/-- A net instruction of R283 has run in the activation. -/
def State.soil (s : State) : State := s.upAct (fun a => { a with dirty := true })

/-- crc64 over two words (R54). -/
def crcPair (a b : Word) : Word := crcWord (crcWord 0 a) b

/-- What an allocation meets (R284, R63): no slot, an empty stock, or the round trip to the Weir of home core `c`. -/
inductive Alloc where
  | full
  | wait
  | ask (c : Nat)
  /-- An index, and the state with the slot taken. -/
  | ok (i : Nat) (take : State → State)

/-- Takes a slot of core `c`. -/
def State.takeFrom (s : State) (j : Job) (t : Kind) (c : Nat) (needStock : Bool) (after : State → State) : Alloc :=
  match (s.core c).nextSlot t j.heap with
  | none => .full
  | some (x, _) =>
    if needStock && (s.core c).stock t == 0 then .wait
    else .ok (c * 2 ^ 23 + x) (fun u =>
      after (match (u.core c).nextSlot t j.heap with | some (_, k) => u.setCore c k | none => u))

/-- Counts an allocation of the activation (R54, R413): `det` says that it is one of NALLOC, NVAL or WALLOC. -/
def State.countAlloc (s : State) (t : Kind) (det : Bool) : State :=
  s.upAct (fun a => match t with
    | .node => if det then { a with kn := a.kn + 1 } else { a with ke := a.ke + 1 }
    | .wire => { a with kw := a.kw + 1 })

/-- Path of the activation's next node or wire (R54). -/
def Activation.nextPath (a : Activation) (t : Kind) : Word :=
  crcPair a.path (BitVec.ofNat 64 (match t with | .node => a.kn | .wire => 0x100 + a.kw))

/-- The k-th allocation of a kind of a twin run, where it has been made (R413). -/
def TwinRun.slot? (r : TwinRun) (t : Kind) (k : Nat) : Option Nat :=
  ((r.slots.filter (fun e => e.1 == (t == .wire)))[k]?).map (·.2)

/-- An allocation by the executing core (R35, R36, R54, R284, R413): `det` says that deterministic mode places it. It sleeps
for the round trip to the home core's Weir first (R54, R63). Outside an activation there is no path: the slot is the core's
own (log 53). -/
def State.alloc (s : State) (j : Job) (t : Kind) (det : Bool) : Alloc :=
  match s.me.twin, s.running?, s.inTwin with
  | some r, some a, true =>
    (match s.twinRun r with
    | none => .full
    | some run =>
      match run.slot? t (match t with | .node => a.kn + a.ke | .wire => a.kw) with
      | some i => .ok i (fun u => u.countAlloc t det)
      | none =>
        match s.takeFrom j t (run.cores.headD s.cur) false (fun u => u.countAlloc t det) with
        | .ok i take => .ok i (fun u => (take u).upTwin r (fun q => { q with slots := q.slots ++ [(t == .wire, i)] }))
        | x => x)
  | _, some a, _ =>
    if j.det && det then
      let ranks := j.allCores
      let c := ranks[(a.nextPath t).toNat % ranks.length]?.getD s.cur
      if s.waiting.any (fun w => w.reason == .wire) then s.takeFrom j t c false (fun u => u.countAlloc t det) else .ask c
    else s.takeFrom j t s.cur true (fun u => u.countAlloc t det)
  | _, none, _ => s.takeFrom j t s.cur true id

/-! ### Protocol messages (R39, R40, R63) -/

/-- A message of R40, or a node store, as a twin's stream holds it (R413): SETEND 1 (wire end, reference), REPLACE 2,
SPLICE 3 (two wire ends), NFREE 4, WFREE 5, UNREF 6 (wire, d), NST 7 (node, word, value), and an NRDM as kind 8 (wire end,
node with the instruction's address above it, ticket; log 104). -/
def TwinItem.event (i : TwinItem) : Nat × Instr :=
  let w := bits i.a 0 32
  let e := bits i.a 32 1
  let cl := weirOf w
  match i.kind with
  | 1 => (cl, .setend cl w e i.b)
  | 2 => (cl, .replace cl w e i.b)
  | 3 => (cl, .splice cl w e (bits i.b 0 32) (bits i.b 32 1))
  | 4 => (cl, .nfreeMessage cl w)
  | 5 => (cl, .wfreeMessage cl w)
  | _ => (cl, .unref cl w i.b.toNat)

/-- Sends a protocol message from a source, counted at a cluster (R39, R63). -/
def State.netSend (s : State) (src cl : Nat) (i : TwinItem) : State :=
  (s.push (netChan src i.event.1) i.event.2).countSent cl

/-- The executing core sends a protocol message; a twin's is held (R413). -/
def State.coreItem (s : State) (i : TwinItem) : State :=
  match s.me.twin with
  | some r =>
    if s.inTwin then s.upTwin r (fun t => { t with streams := t.streams.modify r.which (· ++ [i]) })
    else s.netSend s.cur s.cl i
  | none => s.netSend s.cur s.cl i

/-- Channel source of a Weir (R39). -/
def weirSrc (cl : Nat) : Nat := 512 + cl
/-- Channel source of a ticket slice (R39). -/
def sliceSrc (sl : Nat) : Nat := 1024 + sl
/-- Channel source of an engine (R39): 0 Tile Engine of a core, 1 an MU, 2 a Copy Engine. -/
def engineSrc (kind n : Nat) : Nat := 2048 + kind * 512 + n

/-! ### Ponds (R48 to R50, R400) -/

/-- Capacity of a cluster's Pond in hardware (R48). -/
def pondHeld : Nat := 16384

/-- Is there room for one more pair (R48)? -/
def Job.pondRoom (j : Job) (k : Cluster) : Bool := decide (k.pond.length < pondHeld + bits (j.word 14) 0 25)

/-- After a change of a Pond: the spilled count, the announcement when the count has crossed HIGHM upwards, which also ends
the Pond's own wait for one, and a request round when it has fallen below LOWM (R48, R50). -/
def State.pondChanged (s : State) (cl : Nat) : State :=
  let k := s.cluster cl
  let n := k.pond.length
  let high := decide (k.highm < n)
  let low := decide (n < k.lowm)
  let rise := high && !k.wasHigh
  let s := s.setCluster cl { k with spill := n - pondHeld, wasHigh := high, wasLow := low, failed := k.failed && !rise }
  let others := match k.job.bind (fun c => s.job? c) with | some j => j.clusters.filter (· != cl) | none => []
  let s := if rise then others.foldl (fun u o => u.pushFree (.pondHighmAnnounce o cl)) s else s
  if low && !k.wasLow && k.steal && !k.det && !k.round && !k.failed then
    (s.upCluster cl (fun k => { k with round := true })).pushFree (.pondRequestRound cl)
  else s

/-- The 16 bytes of a Pond entry (R48). -/
def entryBytes (p : PondPair) : List Byte :=
  leBytes 8 (p.n0 % 2 ^ 32 * 2 ^ 32 + p.wire % 2 ^ 32) ++
    leBytes 8 (p.sym1 % 4096 * 2 ^ 44 + p.sym0 % 4096 * 2 ^ 32 + p.n1 % 2 ^ 32)

/-- VA of the slot of the spill region that the next pair beyond the hardware's takes (R48, R316). -/
def Job.spillVa (j : Job) (cl : Nat) (k : Cluster) : Word :=
  let cap := bits (j.word 14) 0 25
  j.word 13 + BitVec.ofNat 64 (16 * (cap * j.clusters.findIdx (· == cl) + k.spilled % cap))

/-- Do `n` more pairs need the spill region while it waits for the host link (R420)? -/
def State.spillWaits (s : State) (j : Job) (cl n : Nat) : Bool :=
  let k := s.cluster cl
  decide (pondHeld < k.pond.length + n) && s.unitWaits (j.ctx cl) (j.spillVa cl k) true

/-- A pair becomes the youngest of a Pond. Beyond what the hardware holds its entry is written to the cluster's spill region
(R48, R316), slots in turn; a write that its translation refuses leaves no entry (log 52). -/
def State.pondIn (s : State) (j : Job) (cl : Nat) (p : PondPair) : State :=
  let k := s.cluster cl
  let s := s.setCluster cl { k with pond := k.pond ++ [p] }
  if k.pond.length < pondHeld then s
  else
    let s := s.upCluster cl (fun k => { k with spilled := k.spilled + 1 })
    match s.unitStore (j.ctx cl) (j.spillVa cl k) (entryBytes p) with
    | .ok u => u
    | .error _ => s

/-- A pair enters a Pond; without room the Weir stalls, and POND_FULL is raised once (R48, R400). -/
def State.pondPush (s : State) (j : Job) (cl : Nat) (p : PondPair) : State :=
  let k := s.cluster cl
  if k.stalled.isEmpty && j.pondRoom k then ((s.pondIn j cl p).touchCl cl).pondChanged cl
  else
    let s := s.setCluster cl { k with stalled := k.stalled ++ [p] }
    if k.stalled.isEmpty then
      (s.logRec (dieOfCluster cl) { code := Code.pondFull, core := 16 * cl, unit := unitWeir, colour := j.colour, info := BitVec.ofNat 64 p.wire }).raise1 none
        cl j.colour ⟨Code.pondFull, 0, 0, 0, false⟩
    else s

/-- Stalled pairs enter a Pond while it has room. -/
def State.pondRefill (s : State) (j : Job) (cl : Nat) : State :=
  (s.cluster cl).stalled.foldl (fun (u : State) p =>
    let k := u.cluster cl
    if j.pondRoom k && !u.spillWaits j cl 1 then ((u.setCluster cl { k with stalled := k.stalled.drop 1 }).pondIn j cl p).pondChanged cl
    else u) s

/-- The oldest pair that a core may pop: in deterministic mode of its own queue (R54). -/
def State.pondFor (s : State) (j : Job) (c : Nat) : Option PondPair :=
  (s.cluster (clusterOf c)).pond.find? (fun p => !j.det || ownerOf p.wire == c)

/-- Takes a pair out of a Pond. -/
def State.pondTake (s : State) (j : Job) (cl : Nat) (p : PondPair) : State :=
  (((s.upCluster cl (fun k => { k with pond := k.pond.erase p })).pondChanged cl).pondRefill j cl)

/-- Ponds that a request round asks, in the order of R50, within the partition. -/
def Job.victims (j : Job) (cl : Nat) : List Nat :=
  let blk := cl / 4 * 4
  let own := [1, 2, 3].map (fun i => blk + (cl % 4 + i) % 4)
  let row := if cl / 8 % 2 = 0 then blk + 8 else blk - 8
  let other := [0, 1, 2, 3].map (row + ·)
  let die := dieOfCluster cl
  let far := ([0, 1, 2, 3].filter (· != die)).flatMap (fun d => (List.range 32).filter (fun c => dieOfCluster c == d))
  (own ++ other ++ far).filter (fun c => j.holds (16 * c))

/-- The job of a cluster. -/
def State.jobAt (s : State) (cl : Nat) : Option Job := (s.cluster cl).job.bind (fun c => s.job? c)

/-- Asks the next Pond of a round, or ends the round as failed everywhere (R50). -/
def State.askPond (s : State) (cl : Nat) (vs : List Nat) : State :=
  match vs with
  | [] => s.upCluster cl (fun k => { k with round := false, failed := true })
  | v :: r => s.pushFree (.pondWorkRequest v cl r)

/-- POND_REQUEST_ROUND (R50): a round begins. -/
def execPondRequestRound (cl : Nat) (s : State) : Host.Outcome State Fault Refusal :=
  .next (match s.jobAt cl with
    | some j => (s.upCluster cl (fun k => { k with round := true, failed := false })).askPond cl (j.victims cl)
    | none => s.upCluster cl (fun k => { k with round := false }))

/-- A Pond answers a request for work: VC 2 carries handovers with the net protocol, in send order (R50, R332, R333). -/
def State.pondAnswer (s : State) (from_ cl : Nat) (ps : List PondPair) (rest : List Nat) : State :=
  s.fresh.push (netChan (weirSrc cl) from_) (.pondHandover from_ cl ps rest)

/-- POND_WORK_REQUEST (R50): the victim hands over the oldest half of its surplus, or refuses. -/
def execPondWorkRequest (cl from_ : Nat) (rest : List Nat) (s : State) : Host.Outcome State Fault Refusal :=
  .next (
    let k := s.cluster cl
    let h := k.pond.length
    match s.jobAt cl with
    | none => s.pondAnswer from_ cl [] rest
    | some j =>
      if k.highm < h then
        let n := (h - k.highm) / 2
        let s' := ((s.setCluster cl { k with pond := k.pond.drop n }).pondChanged cl).pondRefill j cl
        if n = 0 then s'.upCluster from_ (fun q => { q with round := false })
        else s'.pondAnswer from_ cl (k.pond.take n) []
      else s.pondAnswer from_ cl [] rest)

/-- POND_HANDOVER (R50). -/
def execPondHandover (cl _from : Nat) (ps : List PondPair) (rest : List Nat) (s : State) :
    Host.Outcome State Fault Refusal :=
  .next (
    match ps with
    | [] => s.askPond cl rest
    | _ =>
      match s.jobAt cl with
      | some j => ps.foldl (fun u p => u.pondPush j cl p) (s.upCluster cl (fun k => { k with round := false }))
      | none => s)

/-- POND_HIGHM_ANNOUNCE (R50): a Pond whose round failed everywhere and that is still low starts a new round. -/
def execPondHighmAnnounce (cl _from : Nat) (s : State) : Host.Outcome State Fault Refusal :=
  let k := s.cluster cl
  .next (
    if k.failed then
      let s' := s.setCluster cl { k with failed := false }
      if decide (k.pond.length < k.lowm) && k.steal && !k.det then
        (s'.upCluster cl (fun k => { k with round := true })).pushFree (.pondRequestRound cl)
      else s'
    else s)

/-! ### The Weir (R39 to R44) -/

/-- The error of an access to a record in host memory while the link is down: the access waits (R420). No record lies at this
address. -/
def netWait : Word := 0xFFFFFFFFFFFFFFFF

/-- Reads a wire record; the error is its address, for one that is not mapped (R398) and for one whose reserved fields are
not 0 (R6; log 103). -/
def State.loadWire (s : State) (j : Job) (cl w : Nat) : Except Word (State × WireRec) :=
  match s.unitLoad (j.ctx cl) (j.wireVa w) 32 with
  | .ok (s, n) => if (WireRec.ofNat n).good then .ok (s, WireRec.ofNat n) else .error (j.wireVa w)
  | .error 0 => .error netWait
  | .error _ => .error (j.wireVa w)

/-- Writes a wire record. -/
def State.storeWire (s : State) (j : Job) (cl w : Nat) (r : WireRec) : Except Word State :=
  match s.unitStore (j.ctx cl) (j.wireVa w) r.bytes with
  | .ok s => .ok s
  | .error 0 => .error netWait
  | .error _ => .error (j.wireVa w)

/-- Reads word `k` of a node. -/
def State.loadNode (s : State) (j : Job) (cl n k : Nat) : Except Word (State × Word) :=
  match s.unitLoad (j.ctx cl) (j.nodeVa n k) 8 with
  | .ok (s, v) => .ok (s, BitVec.ofNat 64 v)
  | .error 0 => .error netWait
  | .error _ => .error (j.nodeVa n)

/-- Writes word `k` of a node. -/
def State.storeNode (s : State) (j : Job) (cl n k : Nat) (v : Word) : Except Word State :=
  match s.unitStore (j.ctx cl) (j.nodeVa n k) (leBytes 8 v.toNat) with
  | .ok s => .ok s
  | .error 0 => .error netWait
  | .error _ => .error (j.nodeVa n)

/-- A NET_CORRUPT machine check (R385, R398): address of the record, wire. An access that waits raises none. -/
def State.corrupt (s : State) (j : Job) (cl unit core : Nat) (addr : Word) (wire : Nat) : State :=
  if addr = netWait then s
  else s.machineCheck (dieOfCluster cl) cl
    { code := Code.netCorrupt, core := core, unit := unit, colour := j.colour, addr := addr, info := BitVec.ofNat 64 wire }

/-- A Weir handles a message: it is counted, and the record or state that fails a check raises NET_CORRUPT (R41, R63). A
message of a job that has ended finds nothing. One that needs a record in host memory while the link is down changes nothing
yet (R420). -/
def State.weir (s : State) (cl i : Nat) (f : Job → State → Except Word State) : State :=
  let s0 := s
  let s := (s.countRecv cl).upCluster cl (fun k => { k with msgs := k.msgs + 1 })
  match s.jobAt cl with
  | none => s
  | some j =>
    match f j s with
    | .ok t => t
    | .error va => if va = netWait then s0 else s.corrupt j cl unitWeir (16 * cl) va i

/-- The Weir of a cluster sends a message. -/
def State.weirSend (s : State) (cl : Nat) (i : TwinItem) : State := s.netSend (weirSrc cl) cl i
/-- ADOPT from a Weir. -/
def State.sendAdopt (s : State) (cl w e : Nat) (p : Word) : State :=
  (s.push (netChan (weirSrc cl) (weirOf w)) (.adopt (weirOf w) w e p)).countSent cl
/-- RESOLVE from a Weir, to the owner of the node. -/
def State.sendResolve (s : State) (cl : Nat) (p : Word) (ow oe nw ne : Nat) : State :=
  let t := weirOf (endNode p)
  (s.push (netChan (weirSrc cl) t) (.resolve t p ow oe nw ne)).countSent cl

/-- Frees a node record: word 0 becomes 0, word 1 the link (R36). -/
def State.freeNode (s : State) (j : Job) (cl n : Nat) : Except Word State := do
  let s ← s.storeNode j cl n 0 0
  let s ← s.storeNode j cl n 1 (s.springHead .node n)
  return s.springPush .node n

/-- reclaim(w) of R41: the record is free, its END0 holds the link. -/
def State.reclaim (s : State) (j : Job) (cl w : Nat) (r : WireRec) : Except Word State := do
  let s ← s.storeWire j cl w ({ r with e0 := s.springHead .wire w, w2 := 0 })
  return (s.upCluster cl (fun k => { k with shunts := k.shunts.erase w })).springPush .wire w

/-- A slot that was allocated and not used returns to its Spring with the link of R36 in its record. -/
def State.giveBack (s : State) (j : Job) (cl : Nat) (t : Kind) (i : Nat) : State :=
  let r : Except Word State := match t with
    | .node => s.freeNode j cl i
    | .wire => do
      let (s, r) ← s.loadWire j cl i
      s.reclaim j cl i r
  match r with
  | .ok u => u
  | .error va => s.corrupt j cl unitWeir (16 * cl) va i

/-- Reserved bits of a node's word 0 (R26): [49:48], [43:42], [39:33]. -/
def nodeReserved : Word := (3 <<< 48) ||| (3 <<< 42) ||| (0x7F <<< 33)

/-- test_pair(w) of R41, with ROOT⋈VAL of R64. A node whose reserved fields are not 0 is refused (R6; log 103). -/
def State.testPair (s : State) (j : Job) (cl w : Nat) (r : WireRec) : Except Word State := do
  if !(isPrincipal r.e0 && isPrincipal r.e1) then return s
  let n0 := endNode r.e0
  let n1 := endNode r.e1
  let (s, a) ← s.loadNode j cl n0 0
  let (s, b) ← s.loadNode j cl n1 0
  if a &&& nodeReserved ≠ 0 then throw (j.nodeVa n0)
  if b &&& nodeReserved ≠ 0 then throw (j.nodeVa n1)
  let (sa, sb) := (nodeSym a, nodeSym b)
  if (sa = symRoot ∧ sb = symVal) ∨ (sa = symVal ∧ sb = symRoot) then
    let (root, val) := if sa = symRoot then (n0, n1) else (n1, n0)
    let (s, v) ← s.loadNode j cl val 1
    let s ← s.storeNode j cl root 1 v
    let (s, held) ← s.loadNode j cl root 2
    let s ← s.storeNode j cl root 2 (held ||| 1)
    let s ← s.freeNode j cl val
    let s ← s.reclaim j cl w r
    return (s.upCluster cl (fun k => { k with acts := (k.acts + 1) % 2 ^ 48 })).upJob j.colour (fun q =>
      { q with rootNode := some root })
  else
    if s.spillWaits j cl 1 then throw netWait
    return (s.upJob j.colour (fun q => { q with hung := false })).pondPush j cl ⟨w, n0, n1, sa, sb⟩

/-- Does a message reach a shunt for the end that its SPLICE consumed (R41)? -/
def State.spent (s : State) (cl w e : Nat) : Bool := NMap.find? (s.cluster cl).shunts w == some e

/-- SETEND (R41). One that reaches a shunt, also on its forwarded end, finds no open end: NET_CORRUPT (log 101). -/
def execSetend (cl w e : Nat) (p : Word) (s : State) : Host.Outcome State Fault Refusal :=
  .next (s.weir cl w (fun j s => do
    let (s, r) ← s.loadWire j cl w
    if r.st ≠ 1 ∨ !isOpen (r.ends e) then throw (j.wireVa w)
    let r := (r.setEnd e p).put 1 (r.refs + 1)
    let s ← s.storeWire j cl w r
    s.testPair j cl w r))

/-- REPLACE (R41). -/
def execReplace (cl w e : Nat) (p : Word) (s : State) : Host.Outcome State Fault Refusal :=
  .next (s.weir cl w (fun j s => do
    let (s, r) ← s.loadWire j cl w
    if r.st = 1 then
      let r := (r.setEnd e p).put 1 (r.refs + if isOpen (r.ends e) then 1 else 0)
      let s ← s.storeWire j cl w r
      s.testPair j cl w r
    else if r.st = 2 && !s.spent cl w e then
      let (fw, fe) := r.fwd
      let s ← s.storeWire j cl w (r.put 2 (r.refs + 1))
      return (s.sendResolve cl p w e fw fe).weirSend cl ⟨2, portWord fw fe, p, 0⟩
    else throw (j.wireVa w)))

/-- SPLICE (R41). -/
def execSplice (cl w e w2 e2 : Nat) (s : State) : Host.Outcome State Fault Refusal :=
  .next (s.weir cl w (fun j s => do
    let (s, r) ← s.loadWire j cl w
    if r.st = 2 then
      if s.spent cl w e then throw (j.wireVa w)
      let (fw, fe) := r.fwd
      let r := r.put 2 (r.refs + 65535)
      let s ← s.storeWire j cl w r
      let s := s.weirSend cl ⟨3, portWord fw fe, portWord w2 e2, 0⟩
      if r.refs = 0 then s.reclaim j cl w r else return s
    else if r.st ≠ 1 then throw (j.wireVa w)
    else if w2 = w ∧ e2 = 1 - e then
      let s := s.upCluster cl (fun k => { k with loops := Nat.min (k.loops + 1) 0xFFFF })
      s.reclaim j cl w (r.put 1 0)
    else if w2 = w then throw (j.wireVa w)
    else
      let p := r.ends (1 - e)
      let s ← s.storeWire j cl w ({ r.put 2 r.refs with w3 := portWord w2 e2 })
      let s := s.upCluster cl (fun k => { k with shunts := k.shunts.set w e })
      let s := s.sendAdopt cl w2 e2 p
      return if isPort p then s.sendResolve cl p w (1 - e) w2 e2 else s))

/-- ADOPT (R41). -/
def execAdopt (cl w e : Nat) (p : Word) (s : State) : Host.Outcome State Fault Refusal :=
  .next (s.weir cl w (fun j s => do
    let (s, r) ← s.loadWire j cl w
    if r.st = 1 then
      let r := (r.setEnd e p).put 1 (r.refs + if isOpen p then 65535 else 0)
      let s ← s.storeWire j cl w r
      s.testPair j cl w r
    else if r.st = 2 && !s.spent cl w e then
      let (fw, fe) := r.fwd
      return s.sendAdopt cl fw fe p
    else throw (j.wireVa w)))

/-- RESOLVE (R42): the compaction step, and its UNREF. A node to be moved whose reserved bits are not 0 is refused (R6;
log 103). -/
def execResolve (cl : Nat) (p : Word) (ow oe nw ne : Nat) (s : State) : Host.Outcome State Fault Refusal :=
  let n := endNode p
  let k := bits p 32 2
  .next (s.weir cl ow (fun j s => do
    let (s, w0) ← s.loadNode j cl n 0
    let (s, pw) ← s.loadNode j cl n k
    let low : Word := 0x1FFFFFFFF
    if w0 &&& nodeAlloc ≠ 0 ∧ w0 &&& nodeBusy = 0 ∧ pw &&& low = portWord ow oe then
      if w0 &&& nodeReserved ≠ 0 ∨ (k ≠ 0 ∧ pw >>> 33 ≠ 0) then throw (j.nodeVa n)
      let s ← s.storeNode j cl n k ((pw &&& ~~~low) ||| portWord nw ne)
      return s.weirSend cl ⟨6, portWord ow 0, 1, 0⟩
    else return s.weirSend cl ⟨6, portWord ow 0, 0, 0⟩))

/-- UNREF (R41). -/
def execUnref (cl w d : Nat) (s : State) : Host.Outcome State Fault Refusal :=
  .next (s.weir cl w (fun j s => do
    let (s, r) ← s.loadWire j cl w
    if r.st ≠ 2 then throw (j.wireVa w)
    let r := r.put 2 (r.refs + 2 * 65536 - 1 - d)
    let s ← s.storeWire j cl w r
    if r.refs = 0 then s.reclaim j cl w r else return s))

/-- WFREE at the Weir (R41). -/
def execWfreeMessage (cl w : Nat) (s : State) : Host.Outcome State Fault Refusal :=
  .next (s.weir cl w (fun j s => do
    let (s, r) ← s.loadWire j cl w
    if r.st = 0 then throw (j.wireVa w)
    s.reclaim j cl w r))

/-- NFREE at the Weir (R36, R398). A node whose reserved bits are not 0 is refused (R6; log 103). -/
def execNfreeMessage (cl n : Nat) (s : State) : Host.Outcome State Fault Refusal :=
  .next (s.weir cl n (fun j s => do
    let (s, w0) ← s.loadNode j cl n 0
    if w0 &&& nodeAlloc = 0 ∨ w0 &&& nodeReserved ≠ 0 then throw (j.nodeVa n)
    s.freeNode j cl n))

/-- SPRING_STOCK_REFILL (R284): both stocks of a core are filled. -/
def execSpringStockRefill (c : Nat) (s : State) : Host.Outcome State Fault Refusal :=
  .next (match s.job? (s.core c).colour with
    | some j => s.upCore c (fun k => { k with nstock := k.stockable .node j.heap, wstock := k.stockable .wire j.heap })
    | none => s)

/-! ### Completion of engine commands and NRDM (R51, R52) -/

/-- An engine command that an ENGW bound has completed: the node is written and its REPLACE sent; SENT was counted at the
ENGW (R51, R63). A node that cannot be written raises NET_CORRUPT at the Weir's unit, and no REPLACE is sent (log 100). -/
def State.completeNode (s : State) (j : Job) (c src : Nat) (sym : Nat) (b : Binding) (w1 w2 : Word) : State :=
  let cl := clusterOf c
  let r : Except Word State := do
    let s ← s.storeNode j cl b.node 0 (deviceNode sym b.wire b.e)
    let s ← s.storeNode j cl b.node 1 w1
    if sym = symVal then return s else s.storeNode j cl b.node 2 w2
  match r with
  | .ok s =>
    let i : TwinItem := ⟨2, portWord b.wire b.e, BitVec.ofNat 64 b.node, 0⟩
    s.push (netChan src i.event.1) i.event.2
  | .error va => s.corrupt j cl unitWeir (16 * cl) va b.wire

/-- Completes a binding of core `c`'s command, if it has one and its job lives. -/
def State.completeBind (s : State) (c src sym : Nat) (b : Option Binding) (w1 w2 : Word) : State :=
  match b, s.job? (s.core c).colour with
  | some b, some j => s.completeNode j c src sym b w1 w2
  | _, _ => s

/-- Does the node of a binding wait for the host link (R420)? -/
def State.bindWaits (s : State) (c : Nat) (b : Option Binding) : Bool :=
  match b, s.job? (s.core c).colour with
  | some b, some j => s.unitWaits (j.ctx (clusterOf c)) (j.nodeVa b.node) true
  | _, _ => false

/-- The binding that the next engine command of the executing core takes (R51). -/
def State.takeBind (s : State) : State := s.upMe (fun k => { k with bind := none })

/-! ### Legality and operands (R271, R281) -/

/-- Runs a page 5 instruction of a job that has a net heap (R281). -/
def State.net (s : State) (f : Job → State) : State :=
  match s.job? s.me.colour with
  | some j => if j.word 8 = 0 then s.trap Code.netCtx else f j
  | none => s.trap Code.netCtx

/-- Is a node index operand good (R271)? -/
def State.nodeOk (s : State) (v : Word) : Bool :=
  decide (v.toNat < 2 ^ 32) && v.toNat % 2 ^ 23 != 0 && s.inPartition (ownerOf v.toNat)
/-- Is a wire end operand good (R271)? -/
def State.endOk (s : State) (v : Word) : Bool :=
  decide (v.toNat < 2 ^ 33) && bits v 0 23 != 0 && s.inPartition (ownerOf (bits v 0 32))
/-- Is a port reference operand good (R271)? -/
def State.refOk (s : State) (v : Word) : Bool :=
  decide (v.toNat < 2 ^ 34) && bits v 0 23 != 0 && s.inPartition (ownerOf (bits v 0 32))

/-- An element of an access by the executing core. -/
def State.elem (s : State) (i : Nat) (va : Word) (n : Nat) (wr : Bool) : Elem := ⟨i, va, s.plan va n wr⟩

/-- Writes the bytes of the elements of an access. -/
def State.putElems (s : State) (es : List Elem) (bs : List (List Byte)) : State :=
  ((List.range bs.length).foldl (fun (u : State) i => match elemKey es i with
    | some (key, cached) => u.storeAt s.cur key (bs[i]?.getD []) cached
    | none => u) s)

/-! ### Rule lookup (R30, R32, R282) -/

/-- What a probe of the rule table finds: a slot with the key, a free slot, neither within 64 probes, or a read that
stops. -/
inductive Probe where
  | found (va entry : Word)
  | free (va : Word)
  | none
  | stop (e : Elem)

/-- VA of slot `i` of the rule table. -/
def Job.ruleVa (j : Job) (i : Nat) : Word := j.word 11 + BitVec.ofNat 64 (16 * (i % 2 ^ bits (j.word 12) 0 5))

/-- Probes from slot `i` on (R30). -/
def State.probe (s : State) (j : Job) (lo hi : Nat) : Nat → Nat → Probe
  | 0, _ => .none
  | n + 1, i =>
    let va := j.ruleVa i
    match s.plan va 16 false with
    | .go key _ _ _ =>
      let b := s.bytesAt s.cur key 16
      let k := BitVec.ofNat 64 (leVal (b.take 8))
      if !k.getLsbD 63 then .free va
      else if bits k 0 24 = hi * 4096 + lo then .found va (BitVec.ofNat 64 (leVal (b.drop 8)))
      else s.probe j lo hi n (i + 1)
    | p => .stop ⟨0, va, p⟩

/-- First slot of a pair of symbols (R30). -/
def firstSlot (lo hi : Nat) : Nat := lo * 4099 + hi

/-- The rule of a pair of symbols: the cluster's cache first, then the table, which fills the cache (R32, R282). An entry
that is not valid is no rule. -/
inductive Lookup where
  | rule (entry : Word) (s : State)
  | noRule
  | stop (e : Elem)

/-- Looks up a rule. Reserved symbols have none (R27). Of 512 entries in use the one that was filled first gives way (log 90). -/
def State.lookup (s : State) (j : Job) (lo hi : Nat) : Lookup :=
  if 0xF07 ≤ hi then .noRule
  else match (s.cluster s.cl).rules.find? (fun r => r.1 == lo && r.2.1 == hi) with
    | some (_, _, e) => if e.getLsbD 63 then .rule e s else .noRule
    | none =>
      match s.probe j lo hi 64 (firstSlot lo hi) with
      | .found _ e =>
        let s' := s.upCluster s.cl (fun k => { k with rules := (k.rules ++ [(lo, hi, e)]).drop (k.rules.length - 511) })
        if e.getLsbD 63 then .rule e s' else .noRule
      | .stop e => .stop e
      | _ => .noRule

/-! ### PAIR (R33, R282, R412) -/

/-- Do two cores share a router, or sit on routers that a mesh link joins (R412)? -/
def nearRouter (a b : Nat) : Bool :=
  let (x, y) := routerOf a
  let (u, v) := routerOf b
  decide ((x - u) + (u - x) + (y - v) + (v - y) ≤ 1)

/-- May a core run a twin's pair (R412)? -/
def State.twinEligible (s : State) (j : Job) (c : Nat) (near : List Nat) : Bool :=
  j.holds c && (s.core c).status == .running && !s.fenced c && !near.any (fun p => nearRouter p c)

/-- The partner of a primary (R412). -/
def State.partner (s : State) (j : Job) (c : Nat) : Option Nat :=
  (((List.range 16).map (fun i => c / 16 * 16 + (c + 8 + i) % 16)) ++ (List.range 512).filter (fun i => j.holds i)).find?
    (fun p => s.twinEligible j p [c])

/-- Writes x10 to x13 as results of variable latency and enters the activation (R33, R282). -/
def State.enterPair (s : State) (j : Job) (h : Head) (p : PondPair) (wa wb entry path : Word) (pond : Nat)
    (role : Option TwinRole) : State :=
  let (sa, sb) := (nodeSym wa, nodeSym wb)
  let first := decide (sa < sb) || (sa == sb && decide (p.n0 ≤ p.n1))
  let first := if entry.getLsbD 61 && sa != sb then !first else first
  let (a, b) := if first then (p.n0, p.n1) else (p.n1, p.n0)
  let (pa, pb) := if first then (wa, wb) else (wb, wa)
  let low (w : Word) : Nat := bits w 0 32
  let act : Activation := ⟨a, b, p.wire, low pa, low pb, false, [], pond, p, entry, path, 0, 0, 0⟩
  let s := s.upMe (fun k => { k with inact := true, act := some act, kept := none, twin := role, taskLast := false })
  let s := s.upLev (fun v => { v with entry := BitVec.ofNat 64 (bits entry 0 48) })
  let s := (s.note s.cur (BitVec.ofNat 64 (bits entry 0 48))).trace s.cur 1 (bits entry 56 5) (BitVec.ofNat 64 (bits entry 0 48)) 0
  let n (i : Nat) : Word := BitVec.ofNat 64 i
  let _ := j
  ((((s.sendX 10 (n p.wire)).sendX 11 (n a)).sendX 12 (n b)).sendX 13 entry).advance h

/-- A pair with a rule runs on the executing core: once, or as primary of a twin run (R412). -/
def State.runPair (s : State) (j : Job) (h : Head) (p : PondPair) (wa wb entry path : Word) : State :=
  if !entry.getLsbD 62 then s.enterPair j h p wa wb entry path s.cl none
  else match s.partner j s.cur with
    | none =>
      (s.logRec (dieOf s.cur)
        { code := Code.twinMismatch, core := 16 * s.cl, unit := unitWeir, colour := j.colour, info := 1 <<< 63 }).enterPair
        j h p wa wb entry path s.cl none
    | some q =>
      let id := (s.cluster s.cl).twinNext
      let cl := s.cl
      let run : TwinRun := ⟨id, [s.cur, q], p, entry, [[], [], []], [], []⟩
      let s := s.upCluster cl (fun k => { k with twins := k.twins ++ [run], twinNext := id + 1 })
      let s := (s.upCore q (fun k => { k with offer := k.offer ++ [(⟨cl, id, 1⟩, p, entry)] })).touchCl (clusterOf q)
      s.enterPair j h p wa wb entry path cl (some ⟨cl, id, 0⟩)

/-- The elements that PAIR reads and writes: word 0 of both nodes, and their path words in deterministic mode. -/
def State.pairElems (s : State) (j : Job) (p : PondPair) : List Elem :=
  [s.elem 0 (j.nodeVa p.n0) 8 true, s.elem 1 (j.nodeVa p.n1) 8 true] ++
    (if j.det then [s.elem 2 (j.pathVa p.n0) 8 false, s.elem 3 (j.pathVa p.n1) 8 false] else [])

/-- The word at an element. -/
def State.elemWord (s : State) (es : List Elem) (i : Nat) : Word :=
  match elemKey es i with | some (key, _) => s.peek64 key | none => 0

/-- Path of a pair (R54). -/
def State.pairPath (s : State) (j : Job) (es : List Elem) : Word :=
  if j.det then
    let (a, b) := (s.elemWord es 2, s.elemWord es 3)
    if a ≤ b then crcPair a b else crcPair b a
  else 0

/-- Keeps a pair with no rule as the supervisor's stuck list gives (R282, R399): a log record and NO_RULE. -/
def State.stuck (s : State) (j : Job) (p : PondPair) : State :=
  let w0 := BitVec.ofNat 64 (p.n0 * 2 ^ 32 + p.wire)
  let w1 := BitVec.ofNat 64 (p.sym1 * 2 ^ 44 + p.sym0 * 2 ^ 32 + p.n1)
  (s.logRec (dieOf s.cur) { code := Code.noRule, core := 16 * s.cl, unit := unitWeir, colour := j.colour, addr := w0, info := w1 }).raise1
    none s.cl j.colour ⟨Code.noRule, 0, w0, 0, false⟩

/-- Pops pairs until one runs: the loop of PAIR, of which `n` pairs are left. `idle` ends it when there is none. A node whose
reserved fields are not 0 is refused as one that is not allocated (R6; log 103). -/
def State.popPairs (s : State) (j : Job) (h : Head) (idle : State → State) : Nat → State
  | 0 => idle s
  | n + 1 =>
    match s.pondFor j s.cur with
    | none => idle s
    | some p =>
      let es := s.pairElems j p
      match vecPlan es with
      | .go =>
        let (wa, wb) := (s.elemWord es 0, s.elemWord es 1)
        let bad (w : Word) : Bool := w &&& nodeAlloc == 0 || w &&& nodeBusy != 0 || w &&& nodeReserved != 0
        let t := (s.startWalks es true).pondTake j s.cl p
        if bad wa then t.corrupt j s.cl unitCore s.cur (j.nodeVa p.n0) p.wire
        else if bad wb || p.n0 == p.n1 then t.corrupt j s.cl unitCore s.cur (j.nodeVa p.n1) p.wire
        else
          let t := t.putElems es [leBytes 8 (wa ||| nodeBusy).toNat, leBytes 8 (wb ||| nodeBusy).toNat]
          let (sa, sb) := (nodeSym wa, nodeSym wb)
          (match t.lookup j (Nat.min sa sb) (Nat.max sa sb) with
          | .rule e u => u.runPair j h p wa wb e (s.pairPath j es)
          | .noRule => State.popPairs (t.stuck j p) j h idle n
          | .stop e =>
            (match e.plan with
            | .late c _ => ((t.upMe (fun k => { k with kept := some p })).startWalks [e] false |>.sendFault c e.va (some 10)).advance h
            | .recover st => ((t.upMe (fun k => { k with kept := some p })).askRecovery st).block .awake
            | .trap c v => (t.upMe (fun k => { k with kept := some p })).trap c v
            | _ => (t.upMe (fun k => { k with kept := some p })).block .awake))
      | .late c va => ((s.startWalks es true).sendFault c va (some 10)).advance h
      | .recover st => (s.askRecovery st).block .awake
      | .trap c v => s.trap c v
      | .wait => s.block .awake

/-- A pair that is already marked BUSY: one kept after a fault of its lookup, or a twin's (R282, R412). -/
def State.heldPair (s : State) (h : Head) (p : PondPair) (j : Job)
    (go : State → Word → Word → Word → State) : State :=
  let es := s.pairElems j p
  s.access h true (some 10) es (fun u => go u (s.elemWord es 0) (s.elemWord es 1) (s.pairPath j es))

/-- The next pair of a core without a kept one: a twin's, then the Pond's (R412). -/
def State.nextPair (s : State) (j : Job) (h : Head) (idle : State → State) : State :=
  match s.me.offer with
  | (role, p, e) :: rest =>
    s.heldPair h p j (fun u wa wb path =>
      (u.upMe (fun k => { k with offer := rest })).enterPair j h p wa wb e path role.cl (some role))
  | [] => s.popPairs j h idle ((s.cluster s.cl).pond.length + 1)

/-- PAIR and PAIRN (R33, R282, R412): the kept pair first, then a twin's, then the Pond. -/
def State.pairStep (s : State) (h : Head) (idle : State → State) : State :=
  s.net (fun j =>
    if s.me.lvl ≠ 0 ∨ s.me.inact then s.trap Code.ctxBad
    else if !s.roomFor 4 then s.block .awake
    else if j.preempting ∨ j.ending.isSome then idle s
    else match s.me.kept with
      | some p =>
        s.heldPair h p j (fun u wa wb path =>
          let (sa, sb) := (nodeSym wa, nodeSym wb)
          match u.lookup j (Nat.min sa sb) (Nat.max sa sb) with
          | .rule e v => v.runPair j h p wa wb e path
          | .noRule =>
            ((u.upMe (fun k => { k with kept := none })).stuck j p).nextPair j h idle
          | .stop e => u.access h false (some 10) [e] (fun v => v.block .awake))
      | none => s.nextPair j h idle)

/-- PAIR (R282). -/
def execPair (h : Head) (s : State) : Host.Outcome State Fault Refusal :=
  .next (s.pairStep h (fun u => u.block .pond))

/-- PAIRN (R282): with an empty Pond x10 to x13 become 0, as results of variable latency (R183). -/
def execPairn (h : Head) (s : State) : Host.Outcome State Fault Refusal :=
  .next (s.pairStep h (fun u => ((((u.sendX 10 0).sendX 11 0).sendX 12 0).sendX 13 0).advance h))

/-- PUSHP (R283). -/
def execPushp (h : Head) (a : XReg) (s : State) : Host.Outcome State Fault Refusal :=
  let va := s.getX a
  .next (s.net (fun j =>
    match placeOf s.cur va with
    | .own _ =>
      let es := [s.elem 0 va 16 false]
      s.access h false none es (fun u =>
        match elemKey es 0 with
        | none => u.block .awake
        | some (key, _) =>
          let b := s.bytesAt s.cur key 16
          let w0 := BitVec.ofNat 64 (leVal (b.take 8))
          let w1 := BitVec.ofNat 64 (leVal (b.drop 8))
          let wire := bits w0 0 32
          let cl := if j.det then weirOf wire else s.cl
          if bits w1 56 8 ≠ 0 then s.trap Code.nodeBad
          else if s.spillWaits j cl 1 then s.block .awake
          else
            ((u.upJob j.colour (fun q => { q with hung := false })).pondPush j cl
              ⟨wire, bits w0 32 32, bits w1 0 32, bits w1 32 12, bits w1 44 12⟩).advance h)
    | _ => s.trap Code.addrWin va))

/-- PONDQ (R283). -/
def execPondq (h : Head) (d : XReg) (s : State) : Host.Outcome State Fault Refusal :=
  .next (s.net (fun _ => (s.setX d (s.cluster s.cl).pondStat).advance h))

/-- YIELDP (R283). -/
def execYieldp (h : Head) (s : State) : Host.Outcome State Fault Refusal :=
  .next (s.net (fun j =>
    match s.me.act with
    | some a =>
      if !s.inAct ∨ a.dirty ∨ s.inTwin then s.trap Code.ctxBad
      else if s.spillWaits j a.pond 1 then s.block .awake
      else
        let es := [s.elem 0 (j.nodeVa a.pair.n0) 8 true, s.elem 1 (j.nodeVa a.pair.n1) 8 true]
        s.access h true none es (fun u =>
          let u := u.putElems es [leBytes 8 (s.elemWord es 0 &&& ~~~nodeBusy).toNat, leBytes 8 (s.elemWord es 1 &&& ~~~nodeBusy).toNat]
          ((u.upMe (fun k => { k with inact := false, act := none })).pondPush j a.pond a.pair).advance h)
    | none => s.trap Code.ctxBad))

/-! ### Allocation, records and messages (R284 to R287) -/

/-- An allocation whose record takes its first words (R284): `words` by word number, from the index; `fin` ends it. In
deterministic mode the path word of a node of an activation is written with it (R54); any other node's path word stays as it
is (log 53). -/
def State.allocInto (s : State) (h : Head) (j : Job) (t : Kind) (words : Nat → List (Nat × Word)) (fin : State → Nat → State) : State :=
  match s.alloc j t true with
    | .full => s.trap Code.heapFull
    | .wait => s.block .wire
    | .ask c => (s.pushFree (.springStockRefill c)).block .wire
    | .ok i take =>
      let base := match t with | .node => j.nodeVa i | .wire => j.wireVa i
      let ws := words i
      let path := j.det && t == .node && s.inAct
      let es := (List.range ws.length).map (fun n => s.elem n (base + BitVec.ofNat 64 (8 * (ws[n]?.getD (0, 0)).1)) 8 true) ++
        (if path then [s.elem ws.length (j.pathVa i) 8 true] else [])
      let pw := match s.running? with | some a => a.nextPath .node | none => 0
      s.access h true none es (fun u =>
        fin ((take (u.putElems es ((ws.map (fun w => leBytes 8 w.2.toNat)) ++ (if path then [leBytes 8 pw.toNat] else [])))).soil) i)

/-- NALLOC (R284). -/
def execNalloc (h : Head) (d : XReg) (s : State) : Host.Outcome State Fault Refusal :=
  .next (s.net (fun j => s.allocInto h j .node (fun _ => [(0, nodeAlloc)]) (fun u i =>
    (u.setX d (BitVec.ofNat 64 i)).advance h)))

/-- Word 3 of a free wire without its reserved bits (R28): FWIRE and FEND stay as they are. -/
def State.shuntWord (s : State) (j : Job) (i : Nat) : Word :=
  match s.plan (j.wireVa i + 24) 8 true with
  | .go key _ _ _ => s.peek64 key &&& 0x1FFFFFFFF
  | _ => 0

/-- WALLOC (R28, R284): live, both ends open, REFS and the reserved fields 0. -/
def execWalloc (h : Head) (d : XReg) (s : State) : Host.Outcome State Fault Refusal :=
  .next (s.net (fun j =>
    s.allocInto h j .wire (fun i => [(0, openEnd), (1, openEnd), (2, 1 <<< 62), (3, s.shuntWord j i)]) (fun u i =>
      ((u.upAct (fun a => { a with wires := i :: a.wires })).setX d (BitVec.ofNat 64 i)).advance h)))

/-- Sends a protocol message of the executing core and goes on; a sixty-fifth item of a twin is refused, and earlier
atomics perform first (R120, R286, R413). -/
def State.sendItem (s : State) (h : Head) (i : TwinItem) : State :=
  if !s.twinRoom then s.trap Code.ctxBad
  else if s.releaseHold then s.block .awake
  else ((s.coreItem i).soil).advance h

/-- NFREE (R284). -/
def execNfree (h : Head) (a : XReg) (s : State) : Host.Outcome State Fault Refusal :=
  let v := s.getX a
  .next (s.net (fun _ => if !s.nodeOk v then s.trap Code.nodeBad v else s.sendItem h ⟨4, v, 0, 0⟩))

/-- WFREE (R284): the end bit of its operand is 0. -/
def execWfree (h : Head) (a : XReg) (s : State) : Host.Outcome State Fault Refusal :=
  let v := s.getX a
  .next (s.net (fun _ => if !s.endOk v ∨ bits v 32 1 ≠ 0 then s.trap Code.wireBad v else s.sendItem h ⟨5, v, 0, 0⟩))

/-- NLD (R285). -/
def execNld (h : Head) (d a : XReg) (w : BitVec 2) (s : State) : Host.Outcome State Fault Refusal :=
  let v := s.getX a
  .next (s.net (fun j =>
    if !s.nodeOk v then s.trap Code.nodeBad v
    else s.loadX h d (j.nodeVa v.toNat w.toNat) 8 (BitVec.ofNat 64)))

/-- NST (R285): word 0 keeps ALLOC and BUSY; in a twin the store is held (R413). -/
def execNst (h : Head) (d a : XReg) (w : BitVec 2) (s : State) : Host.Outcome State Fault Refusal :=
  let v := s.getX a
  let x := s.getX d
  .next (s.net (fun j =>
    if !s.nodeOk v then s.trap Code.nodeBad v
    else if w = 0 ∧ x &&& nodeReserved ≠ 0 then s.trap Code.nodeBad x
    else if s.inTwin then s.sendItem h ⟨7, v, w.setWidth 64, x⟩
    else
      let va := j.nodeVa v.toNat w.toNat
      let keep := nodeAlloc ||| nodeBusy
      let old := match s.plan va 8 true with | .go key _ _ _ => s.peek64 key | _ => 0
      let x := if w = 0 then (x &&& ~~~keep) ||| (old &&& keep) else x
      (s.soil).storeV h va (leBytes 8 x.toNat)))

/-- WSET (R286): the wire is the core's own, or one that the activation allocated. -/
def execWset (h : Head) (d a : XReg) (s : State) : Host.Outcome State Fault Refusal :=
  let v := s.getX a
  let r := s.getX d
  .next (s.net (fun _ =>
    let w := bits v 0 32
    let mine := ownerOf w == s.cur || (match s.me.act with | some q => q.wires.contains w | none => false)
    if !s.endOk v then s.trap Code.wireBad v
    else if !s.refOk r then s.trap Code.wireBad r
    else if !mine then s.trap Code.wireBad v
    else s.sendItem h ⟨1, v, r, 0⟩))

/-- WREPL (R286). -/
def execWrepl (h : Head) (d a : XReg) (s : State) : Host.Outcome State Fault Refusal :=
  let v := s.getX a
  let r := s.getX d
  .next (s.net (fun _ =>
    if !s.endOk v then s.trap Code.wireBad v
    else if !s.refOk r then s.trap Code.wireBad r
    else s.sendItem h ⟨2, v, r, 0⟩))

/-- WSPLICE (R286). -/
def execWsplice (h : Head) (d a : XReg) (s : State) : Host.Outcome State Fault Refusal :=
  let v := s.getX a
  let r := s.getX d
  .next (s.net (fun _ =>
    if !s.endOk v then s.trap Code.wireBad v
    else if !s.endOk r then s.trap Code.wireBad r
    else s.sendItem h ⟨3, v, r, 0⟩))

/-- The records that WRES reads along a chain of shunts, and its result (R286). -/
def State.chain (s : State) (j : Job) : Nat → Nat → Nat → List Elem × Word
  | n, w, e =>
    let el : Elem := ⟨0, j.wireVa w, s.plan (j.wireVa w) 32 false⟩
    match el.plan with
    | .go key _ _ _ =>
      let r := WireRec.ofNat (s.peek key 32)
      if r.st = 2 then
        match n with
        | 0 => ([el], 0)
        | m + 1 => let (es, v) := State.chain s j m r.fwd.1 r.fwd.2; (el :: es, v)
      else ([el], if r.st = 1 then r.ends (1 - e) else 0)
    | _ => ([el], 0)

/-- WRES (R286). -/
def execWres (h : Head) (d a : XReg) (s : State) : Host.Outcome State Fault Refusal :=
  let v := s.getX a
  .next (s.net (fun j =>
    if !s.endOk v then s.trap Code.wireBad v
    else
      let (es, x) := s.chain j 16 (bits v 0 32) (bits v 32 1)
      s.access h false none es (fun u => (u.setX d x).advance h)))

/-- How many messages of core `c` wait at Weirs that are stalled (R48). -/
def State.backedUp (s : State) (c : Nat) : Nat :=
  s.agenda.countP (fun f => (List.range 32).any (fun cl => f.chan == netChan c cl && !(s.cluster cl).stalled.isEmpty))

/-- RETIRE (R34, R288, R398, R413). It waits for the messages of the activation to leave the core (R63): those beyond the 8
that the mesh's input buffer takes while their Weirs are stalled (R332; log 99). -/
def execRetire (h : Head) (s : State) : Host.Outcome State Fault Refusal :=
  .next (s.net (fun _ =>
    match s.me.act with
    | none => s.trap Code.ctxBad
    | some a =>
      if !s.inAct ∨ s.me.bind.isSome then s.trap Code.ctxBad
      else
        let w := bits (s.getX 10) 0 32
        let item (k w : Nat) : TwinItem := ⟨k, BitVec.ofNat 64 w, 0, 0⟩
        let items : List TwinItem := item 5 w ::
          ((if a.wa ≠ w then [item 6 a.wa] else []) ++ (if a.wb ≠ w then [item 6 a.wb] else []))
        if !s.twinRoom items.length then s.trap Code.ctxBad
        else if 8 < s.backedUp s.cur then s.block .wire
        else
          let s' := items.foldl (fun (u : State) i => u.coreItem i) s
          let s' := (s'.count s.cur 4).trace s.cur 2 (bits a.entry 56 5) (BitVec.ofNat 64 (bits a.entry 0 48)) 0
          let fin (u : State) : State := (u.upMe (fun k => { k with inact := false, act := none, twin := none })).advance h
          match s.me.twin with
          | some r =>
            let u := s'.upTwin r (fun t => { t with done := t.done ++ [(r.which, a.kn + a.ke, a.kw)] })
            let all := match u.twinRun r with | some t => t.done.length == t.cores.length | none => false
            fin (if all then u.pushFree (.twinCompare r.cl) else u)
          | none => fin (s'.upCluster s.cl (fun k => { k with acts := (k.acts + 1) % 2 ^ 48 }))))

/-- RULE (R32, R289). -/
def execRule (h : Head) (d a : XReg) (s : State) : Host.Outcome State Fault Refusal :=
  let key := s.getX a
  let x := s.getX d
  let lo := bits key 0 12
  let hi := bits key 12 12
  .next (s.net (fun j =>
    if s.inTwin then s.trap Code.ctxBad
    else if hi < lo ∨ 2 ^ 24 ≤ key.toNat ∨ bits x 48 8 ≠ 0 then s.trap Code.ruleBad key
    else if s.me.stores ≠ 0 ∨ s.releaseHold then s.block .awake
    else
      let drop (u : State) : State := j.clusters.foldl (fun u cl =>
        u.upCluster cl (fun k => { k with rules := k.rules.filter (fun r => !(r.1 == lo && r.2.1 == hi)) })) u
      let put (va : Word) (bs : List Byte) : State :=
        let es := [s.elem 0 va bs.length true]
        s.access h true none es (fun u => ((drop (u.putElems es [bs])).soil).advance h)
      match s.probe j lo hi 64 (firstSlot lo hi) with
      | .stop e => s.access h false none [e] (fun u => u.block .awake)
      | .found va _ => put (va + 8) (leBytes 8 x.toNat)
      | .free va =>
        if x.getLsbD 63 then put va (leBytes 8 (2 ^ 63 + hi * 4096 + lo) ++ leBytes 8 x.toNat)
        else ((drop s).soil).advance h
      | .none =>
        if x.getLsbD 63 then ((s.soil).sendFault Code.ruleFull key).advance h else ((drop s).soil).advance h))

/-- ENGW (R51, R287): the completion node is allocated at once. In deterministic mode its path word stays as it is (log 53). -/
def execEngw (h : Head) (a : XReg) (s : State) : Host.Outcome State Fault Refusal :=
  let v := s.getX a
  .next (s.net (fun j =>
    if !s.inAct ∨ s.inTwin ∨ s.me.bind.isSome then s.trap Code.ctxBad
    else if !s.endOk v then s.trap Code.wireBad v
    else match s.alloc j .node false with
      | .full => s.trap Code.heapFull
      | .wait => s.block .wire
      | .ask _ => s.block .wire
      | .ok i take =>
        ((((take s).upMe (fun k => { k with bind := some ⟨bits v 0 32, bits v 32 1, i⟩ })).countSent s.cl).soil).advance h))

/-- A redeem of NRDM on its way from core `c`: the instruction's address, wire end, node, ticket. It counts as the REPLACE
that its slice will send (R52, R63). -/
def State.nrdmSend (s : State) (c lvl : Nat) (pc we : Word) (node : Nat) (t : Word) : State :=
  let sl := tkSlice t
  let r : Redeem := ⟨c, lvl, s.ids, pc, 3, 0, 0, t, (s.core c).colour, node, bits we 0 32, bits we 32 1⟩
  (s.fresh.countSent (clusterOf c)).push (sliceChan c sl) (.redeemArrive sl r)

/-- NRDM (R52, R287): a redeem of form 3, whose VAL node is allocated at once. In a twin it is held, so that it happens once
(R413; log 104). -/
def execNrdm (h : Head) (d a : XReg) (s : State) : Host.Outcome State Fault Refusal :=
  let v := s.getX a
  let t := s.getX d
  .next (s.net (fun j =>
    if !s.inAct then s.trap Code.ctxBad
    else if !s.endOk v then s.trap Code.wireBad v
    else if !s.twinRoom then s.trap Code.ctxBad
    else match s.alloc j .node false with
      | .full => s.trap Code.heapFull
      | .wait => s.block .wire
      | .ask _ => s.block .wire
      | .ok i take =>
        let u := take s
        ((if s.inTwin then u.coreItem ⟨8, v, (s.pc <<< 32) ||| BitVec.ofNat 64 i, t⟩
          else u.nrdmSend s.cur s.me.lvl.val s.pc v i t).soil).advance h))

/-- NVAL (R287): in a twin the node's words are held as node stores (R413). -/
def execNval (h : Head) (d a : XReg) (s : State) : Host.Outcome State Fault Refusal :=
  let v := s.getX a
  let x := s.getX d
  .next (s.net (fun j =>
    if !s.inAct then s.trap Code.ctxBad
    else if !s.endOk v then s.trap Code.wireBad v
    else if !s.twinRoom 3 then s.trap Code.ctxBad
    else if s.releaseHold then s.block .awake
    else
      let w0 := deviceNode symVal (bits v 0 32) (bits v 32 1)
      s.allocInto h j .node (fun _ => if s.inTwin then [(0, nodeAlloc)] else [(0, w0), (1, x)]) (fun u i =>
        let n : Word := BitVec.ofNat 64 i
        let u := if s.inTwin then (u.coreItem ⟨7, n, 0, w0⟩).coreItem ⟨7, n, 1, x⟩ else u
        (u.coreItem ⟨2, v, n, 0⟩).advance h)))

/-! ### Comparing twins (R413, R414) -/

/-- Hash of a stream (R413). -/
def streamHash (l : List TwinItem) : Word :=
  l.foldl (fun c i => crcWord (crcWord (crcWord (crcWord c (BitVec.ofNat 64 i.kind)) i.a) i.b) i.c) 0

/-- Performs a stream of primary `c` in its order; its messages leave from the primary's Weir. -/
def State.perform (s : State) (j : Job) (cl c : Nat) (l : List TwinItem) : State :=
  l.foldl (fun (u : State) i =>
    if i.kind = 8 then u.nrdmSend c 0 (BitVec.ofNat 64 (bits i.b 32 32)) i.a (bits i.b 0 32) i.c
    else if i.kind = 7 then
      let k := i.b.toNat % 4
      let n := i.a.toNat
      let r : Except Word State := do
        let (u, old) ← u.loadNode j cl n k
        let keep := nodeAlloc ||| nodeBusy
        u.storeNode j cl n k (if k = 0 then (i.c &&& ~~~keep) ||| (old &&& keep) else i.c)
      match r with
      | .ok u => u
      | .error va => u.corrupt j cl unitWeir (16 * cl) va n
    else u.netSend (weirSrc cl) cl i) s

/-- Returns the slots beyond the first `kn` nodes and `kw` wires of a run to the primary's Spring, last taken first. -/
def State.returnSlots (s : State) (j : Job) (cl : Nat) (r : TwinRun) (kn kw : Nat) : State :=
  let of (w : Bool) : List Nat := (r.slots.filter (fun e => e.1 == w)).map (·.2)
  let s := ((of false).drop kn).reverse.foldl (fun (u : State) i => u.giveBack j cl .node i) s
  ((of true).drop kw).reverse.foldl (fun (u : State) i => u.giveBack j cl .wire i) s

/-- Ends a twin run by performing stream `w`, or none. -/
def State.endTwin (s : State) (j : Job) (cl : Nat) (r : TwinRun) (w : Option Nat) : State :=
  let s := s.upCluster cl (fun k => { k with twins := k.twins.filter (fun t => t.id != r.id) })
  match w with
  | none => s.returnSlots j cl r 0 0
  | some i =>
    let used := (r.done.find? (fun d => d.1 == i)).getD (i, 0, 0)
    let s := (s.perform j cl (r.cores.headD (16 * cl)) (r.streams[i]?.getD [])).returnSlots j cl r used.2.1 used.2.2
    s.upCluster cl (fun k => { k with acts := (k.acts + 1) % 2 ^ 48 })

/-- TWIN_FAIL (R414). -/
def State.twinFail (s : State) (j : Job) (cl : Nat) (r : TwinRun) : State :=
  (s.endTwin j cl r none).machineCheck (dieOfCluster cl) cl
    { code := Code.twinFail, core := 16 * cl, unit := unitWeir, colour := j.colour, info := BitVec.ofNat 64 r.pair.wire }

/-- TWIN_COMPARE (R414): a run whose cores have all retired is compared. -/
def execTwinCompare (cl : Nat) (s : State) : Host.Outcome State Fault Refusal :=
  .next (
    match s.jobAt cl, (s.cluster cl).twins.find? (fun t => t.done.length == t.cores.length) with
    | some j, some r =>
      let hash (i : Nat) : Word := streamHash (r.streams[i]?.getD [])
      if r.cores.length = 2 then
        if hash 0 = hash 1 then s.endTwin j cl r (some 0)
        else match ((List.range 16).map (16 * cl + ·)).find? (fun c => s.twinEligible j c r.cores) with
          | none => s.twinFail j cl r
          | some c =>
            (s.upCluster cl (fun k => { k with twins := k.twins.map (fun t =>
              if t.id = r.id then { t with cores := t.cores ++ [c] } else t) })).upCore c (fun k =>
                { k with offer := k.offer ++ [(⟨cl, r.id, 2⟩, r.pair, r.entry)] })
      else if hash 2 ≠ hash 0 ∧ hash 2 ≠ hash 1 then s.twinFail j cl r
      else
        let dissent := r.cores[if hash 2 = hash 0 then 1 else 0]?.getD 0
        let s := s.endTwin j cl r (some 2)
        (s.logRec (dieOfCluster cl)
          { code := Code.twinMismatch, core := 16 * cl, unit := unitWeir, colour := j.colour
            info := BitVec.ofNat 64 r.pair.wire }).raise1 none cl j.colour
          ⟨Code.twinMismatch, 0, BitVec.ofNat 64 r.pair.wire, BitVec.ofNat 64 dissent, false⟩
    | _, _ => s)

end Sys2Proof.Machine
end

