-- ==== Sys2Proof/Machine/Tile.lean ====
section
/-! DEFINITION. The Tile Engine: rings, batches, steps and accumulators (page 3: R141, R142, R258 to R269). -/

namespace Sys2Proof.Machine

/-! ### Rings (R258, R259) -/

/-- Ring `i` of a core. -/
def Core.ringAt (k : Core) (i : Nat) : Ring := k.ring[i]?.getD ⟨0, 0, 0, 0, 0, 0⟩
/-- Replaces ring `i`. -/
def Core.setRing (k : Core) (i : Nat) (r : Ring) : Core := { k with ring := k.ring.setIfInBounds i r }

/-- The descriptor of R258. -/
def Ring.word (r : Ring) : Word :=
  pack [(56, r.held), (48, r.ready), (40, r.head), (32, r.tail), (24, r.slots), (6, r.base)]

/-- Does a step claim a slot of a ring (R259)? -/
def TileStep.claims (t : TileStep) (ring : Nat) : Bool := t.ra == ring || (t.claimB && t.rb == ring)
/-- Has the open batch claimed from a ring? -/
def Core.openClaims (k : Core) (ring : Nat) : Bool := k.openB.any (fun t => t.claims ring)
/-- Does a committed batch in flight claim a slot of a ring: until it has retired whole (R259, R260)? -/
def Core.flightClaims (k : Core) (ring : Nat) : Bool := k.batches.any (fun b => b.all.any (fun t => t.claims ring))

/-- The checks of RCFG on a ring word's placement (R259): ALIGN or RING_BAD. -/
def ringFault (v : Word) (codeEnd : Nat) : Option Nat :=
  let slots := bits v 24 8
  let base := bits v 6 12
  if bits v 0 6 ≠ 0 then some Code.align
  else if slots ≠ 0 ∧ (64 * base < codeEnd ∨ 262144 < 64 * base + 768 * slots) then some Code.ringBad
  else none

/-- RRST's part, and RCFG's new size and place (R259). -/
def State.resetRing (s : State) (h : Head) (i : Nat) (slots base : Nat) : State :=
  if s.me.openClaims i then s.trap Code.teOpen
  else if s.me.flightClaims i then s.block .engine
  else ((s.upMe (fun k => k.setRing i ⟨0, 0, 0, 0, slots, base⟩)).releaseHeld).advance h

/-- RCFG (R259). -/
def execRcfg (h : Head) (d : RingReg) (a : XReg) (s : State) : Host.Outcome State Fault Refusal :=
  let v := s.getX a
  .next (match ringFault v s.me.codeEnd with
    | some c => s.trap c (if c = Code.align then v else 0)
    | none => s.resetRing h d.toNat (bits v 24 8) (bits v 6 12))

/-- RPUSH (R117, R259). -/
def execRpush (h : Head) (d : RingReg) (_u : BitVec 4) (s : State) : Host.Outcome State Fault Refusal :=
  let r := s.me.ringAt d.toNat
  .next (
    if r.slots = 0 then s.trap Code.ringBad
    else if r.held = r.slots then s.block .engine
    else if s.releaseHold then s.block .awake
    else (s.upMe (fun k => k.setRing d.toNat
      { r with held := r.held + 1, ready := r.ready + 1, tail := (r.tail + 1) % r.slots })).advance h)

/-- RPOS (R259). -/
def execRpos (h : Head) (d : XReg) (a : RingReg) (s : State) : Host.Outcome State Fault Refusal :=
  .next ((s.setX d (s.me.ringAt a.toNat).word).advance h)

/-- RRST (R259): SLOTS and BASE stay. -/
def execRrst (h : Head) (d : RingReg) (_u : BitVec 4) (s : State) : Host.Outcome State Fault Refusal :=
  let r := s.me.ringAt d.toNat
  .next (s.resetRing h d.toNat r.slots r.base)

/-! ### TMMA at issue (R261, R262) -/

/-- Appends a step of a form to the open batch and claims its slots. -/
def State.tmma (s : State) (h : Head) (form : Nat) (x : Bool) (acc : AccReg) (ra rb : RingReg) (z k : Bool)
    (t : Option XReg) : State :=
  let a := s.me.ringAt ra.toNat
  let b := s.me.ringAt rb.toNat
  if a.slots = 0 ∨ b.slots = 0 then s.trap Code.ringBad
  else if (if ra = rb then a.ready < 2 else a.ready < 1 ∨ b.ready < 1) then s.trap Code.ringEmpty
  else if 16 ≤ s.me.openB.length then s.trap Code.teBatch
  else
    let me := s.me.setRing ra.toNat { a with head := (a.head + 1) % a.slots, ready := a.ready - 1 }
    let b := me.ringAt rb.toNat
    let me := if k then me else me.setRing rb.toNat { b with head := (b.head + 1) % b.slots, ready := b.ready - 1 }
    let sw : W32 := match t with | some r => (s.getX r).setWidth 32 | none => 0x7F7F
    let step : TileStep := ⟨form, x, acc.toNat, z, ra.toNat, a.head, rb.toNat, b.head, !k, sw⟩
    ((s.upMe (fun _ => { me with openB := me.openB ++ [step] })).advance h)

/-- TMMA.F32 (R261). -/
def execTmmaF32 (h : Head) (acc : AccReg) (ra rb : RingReg) (z k : Bool) (t : Option XReg) (s : State) :
    Host.Outcome State Fault Refusal := .next (s.tmma h 0 false acc ra rb z k t)
/-- TMMA.BF (R261). -/
def execTmmaBf (h : Head) (acc : AccReg) (ra rb : RingReg) (z k : Bool) (t : Option XReg) (s : State) :
    Host.Outcome State Fault Refusal := .next (s.tmma h 1 false acc ra rb z k t)
/-- TMMA.H (R261). -/
def execTmmaH (h : Head) (acc : AccReg) (ra rb : RingReg) (z k : Bool) (t : Option XReg) (s : State) :
    Host.Outcome State Fault Refusal := .next (s.tmma h 2 false acc ra rb z k t)
/-- TMMA.HB, TMMA.BH (R261). -/
def execTmmaHb (h : Head) (acc : AccReg) (ra rb : RingReg) (z k : Bool) (t : Option XReg) (x : Bool) (s : State) :
    Host.Outcome State Fault Refusal := .next (s.tmma h 3 x acc ra rb z k t)
/-- TMMA.E4 (R261). -/
def execTmmaE4 (h : Head) (acc : AccReg) (ra rb : RingReg) (z k : Bool) (t : Option XReg) (s : State) :
    Host.Outcome State Fault Refusal := .next (s.tmma h 4 false acc ra rb z k t)
/-- TMMA.E5 (R261). -/
def execTmmaE5 (h : Head) (acc : AccReg) (ra rb : RingReg) (z k : Bool) (t : Option XReg) (s : State) :
    Host.Outcome State Fault Refusal := .next (s.tmma h 5 false acc ra rb z k t)
/-- TMMA.E45, TMMA.E54 (R261). -/
def execTmmaE45 (h : Head) (acc : AccReg) (ra rb : RingReg) (z k : Bool) (t : Option XReg) (x : Bool) (s : State) :
    Host.Outcome State Fault Refusal := .next (s.tmma h 6 x acc ra rb z k t)
/-- TMMA.E3 (R261). -/
def execTmmaE3 (h : Head) (acc : AccReg) (ra rb : RingReg) (z k : Bool) (t : Option XReg) (s : State) :
    Host.Outcome State Fault Refusal := .next (s.tmma h 7 false acc ra rb z k t)
/-- TMMA.E2 (R261). -/
def execTmmaE2 (h : Head) (acc : AccReg) (ra rb : RingReg) (z k : Bool) (t : Option XReg) (s : State) :
    Host.Outcome State Fault Refusal := .next (s.tmma h 8 false acc ra rb z k t)
/-- TMMA.E1 (R261). -/
def execTmmaE1 (h : Head) (acc : AccReg) (ra rb : RingReg) (z k : Bool) (t : Option XReg) (s : State) :
    Host.Outcome State Fault Refusal := .next (s.tmma h 9 false acc ra rb z k t)
/-- TMMA.I8, with `.i16` (R261). -/
def execTmmaI8 (h : Head) (acc : AccReg) (ra rb : RingReg) (z k : Bool) (t : Option XReg) (x : Bool) (s : State) :
    Host.Outcome State Fault Refusal := .next (s.tmma h 10 x acc ra rb z k t)
/-- TMMA.IZ8 (R261). -/
def execTmmaIz8 (h : Head) (acc : AccReg) (ra rb : RingReg) (z k : Bool) (t : Option XReg) (s : State) :
    Host.Outcome State Fault Refusal := .next (s.tmma h 11 false acc ra rb z k t)
/-- TMMA.I4 (R261). -/
def execTmmaI4 (h : Head) (acc : AccReg) (ra rb : RingReg) (z k : Bool) (t : Option XReg) (s : State) :
    Host.Outcome State Fault Refusal := .next (s.tmma h 12 false acc ra rb z k t)
/-- TMMA.IZ4 (R261). -/
def execTmmaIz4 (h : Head) (acc : AccReg) (ra rb : RingReg) (z k : Bool) (t : Option XReg) (s : State) :
    Host.Outcome State Fault Refusal := .next (s.tmma h 13 false acc ra rb z k t)

/-! ### A step's arithmetic (R141, R142, R262) -/

/-- Formats of A and B of a form (R261). -/
def formFmts (form : Nat) (x : Bool) : Nat × Nat :=
  match form with
  | 0 => (0, 0)
  | 1 => (1, 1)
  | 2 => (2, 2)
  | 3 => if x then (1, 2) else (2, 1)
  | 4 => (3, 3)
  | 5 => (4, 4)
  | 6 => if x then (4, 3) else (3, 4)
  | 7 => (5, 5)
  | 8 => (6, 6)
  | 9 => (7, 7)
  | 10 => if x then (8, 8) else (9, 9)
  | 11 => (9, 10)
  | 12 => (11, 11)
  | _ => (11, 12)

/-- K per step: what a row of 48 bytes holds, 6-bit values a byte each (R261, R262). -/
def formK (fmt : Nat) : Nat :=
  match fmtWidth fmt with
  | 32 => 12
  | 16 => 24
  | 4 => 96
  | _ => 48

/-- The code of element `k` of a row (R127, R262). -/
def rowCode (fmt : Nat) (row : List Byte) (k : Nat) : Nat :=
  match fmtWidth fmt with
  | 32 => leVal ((row.drop (4 * k)).take 4)
  | 16 => leVal ((row.drop (2 * k)).take 2)
  | 4 => (row[k / 2]?.getD 0).toNat / 2 ^ (4 * (k % 2)) % 16
  | _ => (row[k]?.getD 0).toNat

/-- The codes of a row. -/
def rowCodes (fmt : Nat) (row : List Byte) : List Nat := (List.range (formK fmt)).map (rowCode fmt row)

/-- Zero point of B in a scale word (R142). -/
def zeroPoint (form : Nat) (sw : W32) : Int :=
  match form with
  | 11 => (sw.toNat / 2 ^ 16 % 256 : Nat)
  | 13 => (sw.toNat / 2 ^ 16 % 16 : Nat)
  | _ => 0

/-- A step on one element: its new value and whether it clamped. -/
def stepElem (form : Nat) (fa fb : Nat) (sw : W32) (a b : List Nat) (acc : W32) : W32 × Bool :=
  if form < 10 then
    (tileF (sw.toNat % 256) (sw.toNat / 256 % 256) ((a.zip b).map (fun p => ((fpFmtOf fa).decode p.1, (fpFmtOf fb).decode p.2)))
      acc, false)
  else
    let z := zeroPoint form sw
    sat32 (acc.toInt + ((a.zip b).map (fun p => intOf fa p.1 * (intOf fb p.2 - z))).foldl (· + ·) 0)

/-- The 48-byte rows of a slot of a ring of core `c`. -/
def State.slotRows (s : State) (c ring slot : Nat) : List (List Byte) :=
  let r := (s.core c).ringAt ring
  (List.range 16).map (fun i => s.mem.bytes (padKey c ((64 * r.base + 768 * slot + 48 * i) % 2 ^ 18)) 48)

/-- The accumulator after a step: the elements, and whether one clamped. -/
def State.stepAcc (s : State) (c : Nat) (t : TileStep) : List (W32 × Bool) :=
  let (fa, fb) := formFmts t.form t.ext
  let as := (s.slotRows c t.ra t.sa).map (rowCodes fa)
  let bs := (s.slotRows c t.rb t.sb).map (rowCodes fb)
  as.zipIdx.flatMap (fun (a, i) => bs.zipIdx.map (fun (b, j) =>
    stepElem t.form fa fb t.scale a b (if t.z then 0 else (s.core c).accAt (256 * t.acc + 16 * i + j))))

/-- Writes the 256 elements of an accumulator; whatever damage they had is gone (R407). -/
def State.putAcc (s : State) (c a : Nat) (vs : List W32) : State :=
  let s := s.upCore c (fun k => vs.zipIdx.foldl (fun k (v, i) => k.setAcc (256 * a + i) v) k)
  { s with damage := clearDamage s.damage (accKey c (1024 * a)) 1024 }

/-- Sets the sticky saturation bit of an accumulator (R130). -/
def Core.saturate (k : Core) (a : Nat) (b : Bool) : Core := if b then { k with asat := k.asat ||| (1#4 <<< a) } else k

/-- Releases the slots of a step (R262). -/
def Core.releaseStep (k : Core) (t : TileStep) : Core :=
  let drop (k : Core) (i : Nat) : Core := k.setRing i ({ k.ringAt i with held := (k.ringAt i).held - 1 })
  let k := drop k t.ra
  if t.claimB then drop k t.rb else k

/-- The slots that a step reads are settled (R407 to R409). -/
def State.settleSlots (s : State) (c : Nat) (t : TileStep) : State :=
  let at_ (ring slot : Nat) : Nat := padKey c (64 * ((s.core c).ringAt ring).base + 768 * slot)
  (s.settle (at_ t.ra t.sa) 768).settle (at_ t.rb t.sb) 768

/-- TILE_STEP_START (R269): the engine takes up the next step of the oldest batch. What the slots hold is settled, since
the step reads it (R408, R409). -/
def execTileStepStart (c : Nat) (s : State) : Host.Outcome State Fault Refusal :=
  .next (match (s.core c).batches with
    | [] => s
    | b :: r =>
      match b.steps with
      | [] => s
      | t :: _ =>
        (s.upCore c (fun k => { k with batches := { b with started := true } :: r })).settleSlots c t)

/-- How many batches have been committed since the one of a number; 0 is no number (R263). -/
def Core.batchAge (k : Core) (num : Nat) : Nat :=
  (k.lastBatch - BitVec.ofNat 32 num).toNat - (if k.lastBatch.toNat < num then 1 else 0)

/-- The statuses of the 64 most recent batches (R263). -/
def Core.recentStatus (k : Core) : List (Nat × Nat) := k.bstat.filter (fun e => decide (k.batchAge e.1 < 64))

/-- Records the status of a batch, in batch order, with those of the 64 most recent batches (R263). -/
def Core.keepStatus (k : Core) (num st : Nat) : Core :=
  let old := k.recentStatus
  { k with bstat := old.filter (fun e => decide (k.batchAge num < k.batchAge e.1)) ++ [(num, st)] ++
      old.filter (fun e => decide (k.batchAge e.1 < k.batchAge num)) }

/-- TILE_STEP_RETIRE (R141, R142, R262, R308, R409): the accumulator is written, the slots released, and after the last
step the batch retires and its TILE node is delivered. -/
def execTileStepRetire (c : Nat) (s : State) : Host.Outcome State Fault Refusal :=
  .next (match (s.core c).batches with
    | [] => s
    | b :: r =>
      match b.steps with
      | [] => s
      | t :: ts =>
        let lost := s.lostBytes (accKey c (1024 * t.acc)) 1024 && !t.z
        let s := (if lost then s else s.settle (accKey c (1024 * t.acc)) 1024).settleSlots c t
        let int := decide (10 ≤ t.form)
        let res := s.stepAcc c t
        let s := if lost then
            (s.putAcc c t.acc (List.replicate 256 (if int then 0 else nan32))).upCore c (fun k => k.saturate t.acc int)
          else (s.putAcc c t.acc (res.map (·.1))).upCore c (fun k => k.saturate t.acc (res.any (·.2)))
        let s := s.upCore c (fun k => match k.tpert with
          | some (i, v) => if i / 256 = t.acc then { (k.setAcc i (k.accAt i + v)) with tpert := none } else k
          | none => k)
        let b' : Batch := { b with steps := ts, started := false, status := if lost then Code.parity else b.status }
        let s := ((s.upCore c (fun k => { (k.releaseStep t) with batches := b' :: r })).releaseHeld).count c 8
        if ts.isEmpty then
          let s := s.upCore c (fun k => { (k.keepStatus b.num b'.status) with batches := r })
          let s := if b'.status ≠ 0 then
              s.logRec (dieOf c) { code := Code.parity, core := c, unit := unitTile, colour := (s.core c).colour, info := BitVec.ofNat 64 b.num }
            else s
          s.completeBind c (engineSrc 0 c) symTile b.bind (BitVec.ofNat 64 (c + t.acc * 512)) (BitVec.ofNat 64 b'.status)
        else s)

/-! ### Batches (R260, R263) -/

/-- Is number b ahead of the last (R263)? -/
def ahead (b last : BitVec 32) : Bool := decide (1 ≤ (b - last).toNat) && decide ((b - last).toNat < 2 ^ 31)

/-- TCOMMIT (R117, R260, R263, R267): an empty batch retires at once; a fifth in flight waits. -/
def execTcommit (h : Head) (d : XReg) (_u : BitVec 4) (s : State) : Host.Outcome State Fault Refusal :=
  let k := s.me
  .next (
    if 4 ≤ k.batches.length ∨ s.releaseHold ∨ (k.openB.isEmpty = true ∧ s.bindWaits s.cur k.bind = true) then s.block .awake
    else
      let n := if k.lastBatch + 1 = 0 then 1 else k.lastBatch + 1
      let s := s.upMe (fun k => { k with lastBatch := n, openB := [], bind := none })
      let s := if k.openB.isEmpty then
          (s.upMe (fun k => k.keepStatus n.toNat 0)).completeBind s.cur (engineSrc 0 s.cur) symTile k.bind (BitVec.ofNat 64 s.cur) 0
        else s.upMe (fun q => { q with batches := q.batches ++ [⟨n.toNat, k.openB, false, 0, k.openB, k.bind⟩] })
      (s.setX d (n.setWidth 64)).advance h)

/-- Status of a batch that has retired: 0 for one no longer kept (R263). -/
def Core.batchStatus (k : Core) (b : Nat) : Nat := ((k.recentStatus.find? (fun e => e.1 == b)).map (·.2)).getD 0
/-- The first non-zero status kept. -/
def Core.firstStatus (k : Core) : Nat := ((k.recentStatus.find? (fun e => e.2 != 0)).map (·.2)).getD 0
/-- Is the batch that an operand names in flight? For an operand of 0, is any? -/
def Core.inFlight (k : Core) (x : Word) : Bool :=
  if x = 0 then !k.batches.isEmpty else k.batches.any (fun q => q.num == bits x 0 32)
/-- The status that TWAITB and TBATQ give for a batch that is done, or for an operand of 0. -/
def Core.statusOf (k : Core) (x : Word) : Nat := if x = 0 then k.firstStatus else k.batchStatus (bits x 0 32)

/-- TWAITB (R263): the wait keeps the operand. -/
def execTwaitb (h : Head) (d a : XReg) (s : State) : Host.Outcome State Fault Refusal :=
  let x : Word := match s.waiting with | some w => w.arg | none => s.getX a
  .next (
    if x ≠ 0 ∧ ahead (x.setWidth 32) s.me.lastBatch then s.trap Code.teBatch
    else if s.me.inFlight x then s.block .engine x
    else (s.setX d (BitVec.ofNat 64 (s.me.statusOf x))).advance h)

/-- TBATQ (R263). -/
def execTbatq (h : Head) (d a : XReg) (s : State) : Host.Outcome State Fault Refusal :=
  let x := s.getX a
  .next (
    if x ≠ 0 ∧ ahead (x.setWidth 32) s.me.lastBatch then s.trap Code.teBatch
    else (s.setX d (BitVec.ofNat 64 (if s.me.inFlight x then 1 else s.me.statusOf x))).advance h)

/-! ### Accumulators (R264, R265) -/

/-- Is an accumulator named by a step of the open batch? -/
def Core.accOpen (k : Core) (a : Nat) : Bool := k.openB.any (fun t => t.acc == a)

/-- The step between rows: sext(x[T][31:0]), or 64 without TRX (R264). -/
def State.rowStride (s : State) (t : Option XReg) : Word :=
  match t with | some r => sext 32 (s.getX r) | none => 64

/-- The 256 elements of an accumulator access as 4-byte accesses (R394). -/
def State.accElems (s : State) (va st : Word) (wr : Bool) : List Elem :=
  (List.range 256).map (fun n =>
    let p := va + BitVec.ofNat 64 (n / 16) * st + BitVec.ofNat 64 (4 * (n % 16))
    ⟨n, p, s.plan p 4 wr ⟨false, true, true⟩⟩)

/-- TLDA, TSTA and TZERO hold until their accumulator is free (R118, R264). -/
def State.accHeld (s : State) (a : Nat) (f : State) : State :=
  if s.me.accOpen a then s.trap Code.teOpen
  else if s.accBusy s.cur a then s.block .awake
  else f

/-- What a bad stripe of an accumulator makes of an access by it, where no element traps (R409): a recovery, or POISON after
issue. -/
def State.accRead (s : State) (h : Head) (a : Nat) (va : Word) (es : List Elem) (f : State) : State :=
  match vecPlan es, s.badStripe (accKey s.cur (1024 * a)) 1024 with
  | .trap _ _, _ => f
  | _, some st =>
    if s.lostBytes (accKey s.cur (1024 * a)) 1024 then (s.sendFault Code.poison va).advance h
    else (s.askRecovery st).block .awake
  | _, none => f

/-- TLDA (R264). -/
def execTlda (h : Head) (d : AccReg) (a : XReg) (t : Option XReg) (disp : Word) (s : State) :
    Host.Outcome State Fault Refusal :=
  .next (s.accHeld d.toNat (
    let es := s.accElems (s.ea a disp) (s.rowStride t) false
    s.accRead h d.toNat (s.ea a disp) es <| s.access h false none es (fun u =>
      (u.putAcc s.cur d.toNat ((List.range 256).map (fun n => match elemKey es n with
        | some (key, _) => BitVec.ofNat 32 (leVal (s.bytesAt s.cur key 4))
        | none => 0))).advance h)))

/-- Stores several pieces as one instruction's plain stores: what waits for a ring slot is acknowledged by itself, the
rest together (R114, R118). -/
def State.storePieces (s : State) (ps : List (Nat × Bool × List Byte)) : State :=
  let s := ps.foldl (fun (u : State) p =>
    if u.heldSlot p.1 p.2.2.length then u.ackedStore s.cur p.1 p.2.2 p.2.1 else u.storeAt s.cur p.1 p.2.2 p.2.1) s
  (s.upMe (fun k => { k with stores := k.stores + 1 })).pushFree (.storeAck s.cur)

/-- May an accumulator store go there in a twin activation (R413)? -/
def State.accStoreOk (s : State) (es : List Elem) : Bool := !(es.any (fun e => s.twinStore e.va))

/-- TSTA (R264). -/
def execTsta (h : Head) (d : AccReg) (a : XReg) (t : Option XReg) (disp : Word) (s : State) :
    Host.Outcome State Fault Refusal :=
  let va := s.ea a disp
  .next (s.accHeld d.toNat (
    let es := s.accElems va (s.rowStride t) true
    if !s.accStoreOk es then s.trap Code.ctxBad
    else s.accRead h d.toNat va es <| s.access h true none es (fun u =>
      (u.storePieces ((List.range 256).filterMap (fun n => (elemKey es n).map (fun k =>
        (k.1, k.2, leBytes 4 (s.me.accAt (256 * d.toNat + n)).toNat))))).advance h)))

/-- The bytes of a row of outputs of width w (R127, R265). -/
def rowBytes (w : Nat) (cs : List Nat) : List Byte :=
  match w with
  | 32 => cs.flatMap (leBytes 4)
  | 16 => cs.flatMap (leBytes 2)
  | 4 => (List.range (cs.length / 2)).map (fun i => BitVec.ofNat 8 (cs[2 * i]?.getD 0 % 16 + cs[2 * i + 1]?.getD 0 % 16 * 16))
  | _ => cs.map (BitVec.ofNat 8)

/-- TSTA.Q (R265). -/
def execTstaQ (h : Head) (d : AccReg) (a t : XReg) (disp : Word) (i32 : Bool) (s : State) :
    Host.Outcome State Fault Refusal :=
  let va := s.ea a disp
  let x := s.getX t
  let st := sext 32 x
  let tab := bits x 32 18
  let tabVa (j : Nat) : Word := 0xFF00000000000000 + BitVec.ofNat 64 (tab + 16 * j)
  .next (s.accHeld d.toNat (
    if tab % 16 ≠ 0 then s.trap Code.align (tabVa 0)
    else
      let ts := (List.range 16).map (fun j => (⟨j, tabVa j, s.plan (tabVa j) 16 false ⟨false, false, false⟩⟩ : Elem))
      s.access h false none ts (fun s =>
        match (List.range 16).mapM (fun j => s.rescAt (tab + 16 * j)) with
        | none => s.trap Code.rescBad
        | some rs =>
          let w := fmtWidth ((rs.head?.map (·.fmt)).getD 0)
          if rs.any (fun r => fmtWidth r.fmt != w) then s.trap Code.rescBad
          else
            let step := Nat.max 1 (w / 8)
            let n := 16 * w / 8
            let n := if w = 6 then 16 else n
            let es := (List.range 256).filterMap (fun q =>
              let i := q / 16
              let j := q % 16
              -- one access per element; nibbles share a byte, which the even element stands for
              if w = 4 ∧ j % 2 = 1 then none
              else
                let off := if w = 4 then j / 2 else j * step
                let p := va + BitVec.ofNat 64 i * st + BitVec.ofNat 64 off
                some (⟨q, p, s.plan p step true ⟨false, true, true⟩⟩ : Elem))
            if !s.accStoreOk es then s.trap Code.ctxBad
            else s.accRead h d.toNat va es <| s.access h true none es (fun u =>
              let out (i : Nat) : List (Nat × FpFlags) := rs.zipIdx.map (fun (r, j) =>
                r.apply (accNum i32 (s.me.accAt (256 * d.toNat + 16 * i + j))))
              let rows := (List.range 16).map out
              let ps := es.filterMap (fun e => (elemKey es e.lane).map (fun k =>
                let row := rowBytes w ((rows[e.lane / 16]?.getD []).map (·.1))
                let j := e.lane % 16
                (k.1, k.2, (row.drop (if w = 4 then j / 2 else j * step)).take step)))
              let _ := n
              ((u.storePieces ps).setFlags [orFlags (rows.flatten.map (·.2))]).advance h))))

/-- TZERO (R264). -/
def execTzero (h : Head) (d : AccReg) (_u : BitVec 4) (s : State) : Host.Outcome State Fault Refusal :=
  .next (s.accHeld d.toNat ((s.putAcc s.cur d.toNat (List.replicate 256 0)).advance h))

/-- A 4-bit set of accumulators. -/
def accSet (f : Nat → Bool) : Nat := ((List.range 4).map (fun a => if f a then 2 ^ a else 0)).foldl (· + ·) 0

/-- TACCQ (R264). -/
def execTaccq (h : Head) (d : XReg) (_u : BitVec 4) (s : State) : Host.Outcome State Fault Refusal :=
  let k := s.me
  .next ((s.setX d (pack [(0, accSet (s.accBusy s.cur)), (4, accSet k.accOpen), (8, k.asat.toNat), (16, k.openB.length),
    (24, k.batches.length)])).advance h)

/-- TGEO (R266). -/
def execTgeo (h : Head) (d : XReg) (sel : BitVec 6) (s : State) : Host.Outcome State Fault Refusal :=
  let code := sel.toNat % 16
  .next (
    if code = 3 ∨ 8 ≤ code then s.illegal
    else
      let none_ := (s.setX d (BitVec.allOnes 64)).advance h
      match grpSlot s.me.grp (sel.toNat / 16) with
      | none => none_
      | some slot =>
        match s.group? s.me.colour slot with
        | none => none_
        | some g =>
          let v (i : Nat) : Nat := geoValue g slot s.cur i
          let w := if code = 7 then pack [(0, 16 * v 0 % 2 ^ 16), (16, 16 * v 1 % 2 ^ 16), (32, 16 * v 2 % 2 ^ 16)]
            else BitVec.ofNat 64 (16 * v code)
          (s.setX d w).advance h)

end Sys2Proof.Machine
end

