-- ==== Sys2Proof/Machine/Photonic.lean ====
section
/-! DEFINITION. Matrix Units and Decomposition Engines (R148 to R172, R272 to R280, R415, R416, R422). -/

namespace Sys2Proof.Machine

/-! ### Banks (R156) -/

/-- A register of a bank by its index. -/
def Bank.read (b : Bank) (i : Nat) : Word :=
  if i < 2112 then (b.ph.get 0 i).setWidth 64
  else if i = 2112 then b.sigma.setWidth 64
  else if i = 2113 then b.order.setWidth 64
  else b.image

/-- PHWR's write: the register and its loaded value (R156, R275). -/
def Bank.write (b : Bank) (i : Nat) (v : Word) : Bank :=
  if i < 2112 then { b with ph := b.ph.set i (v.setWidth 16), ld := b.ld.set i (v.setWidth 16) }
  else if i = 2112 then { b with sigma := v.setWidth 32, lsigma := v.setWidth 32 }
  else if i = 2113 then { b with order := v.setWidth 6, lorder := v.setWidth 6 }
  else { b with image := v }

/-- PTRIM's addition: the loaded value stays (R156). -/
def Bank.trim (b : Bank) (i : Nat) (d : Word) : Bank := { b with ph := b.ph.set i (b.ph.get 0 i + d.setWidth 16) }

/-- A pending write or trim of the active bank. -/
def Bank.change (b : Bank) (w : Nat × Word × Bool) : Bank := if w.2.2 then b.trim w.1 w.2.1 else b.write w.1 w.2.1

/-- The active bank. -/
def Mu.act (m : Mu) : Bank := m.banks[m.active]
/-- The number of the shadow bank. -/
def Mu.shadow (m : Mu) : Fin 2 := 1 - m.active
/-- Replaces a bank. -/
def Mu.setBank (m : Mu) (i : Fin 2) (b : Bank) : Mu := { m with banks := m.banks.set i b }

/-- A bank filled from registers: a fill ends the bank's damage (R156, R409). -/
def Bank.filled (ph : NMap (BitVec 16)) (sigma : W32) (order : BitVec 6) (image : Word) : Bank :=
  ⟨ph, ph, sigma, sigma, order, order, image, false⟩

/-- The phases that a bank's registers realise: what the Balance loop has not corrected lies beside them (R154, R170,
R280). -/
def Mu.realised (m : Mu) (ph : NMap (BitVec 16)) : NMap (BitVec 16) :=
  match m.dev with
  | none => ph
  | some n => (List.range 2112).map (fun i => (i, ph.get 0 i + Config.phaseDeviation n i))

/-- SIGMA may be loaded: finite and not negative, where −0 is not negative (R158). -/
def sigmaOk (w : W32) : Bool := decide (w.toNat < 0x7F800000) || w == 0x80000000

/-- Serves the head of the service order if it is of the kind wanted. -/
def State.muTake (s : State) (m : Nat) (want : MuOp → Bool) (f : State → MuCmd → MuOp → State) : State :=
  match (s.mu m).pick with
  | none => s
  | some (q, k) =>
    match q.op with
    | op :: _ => if want op then (f (s.setMu m (k.drop q)) q op).muServe m else s
    | [] => s

/-! ### Interlocked results of MU commands (R275, R279) -/

/-- The serial of pass `num` of core `c` is known (R279): 0 for one that was cancelled. -/
def State.giveSerial (s : State) (c num serial : Nat) : State :=
  let k := s.core c
  let s := (k.serials.filter (fun e => e.2.2 == num)).foldl (fun s e =>
    s.landLocked c e.1 e.2.1 (BitVec.ofNat 64 serial)) s
  s.upCore c (fun k => { k with
    serials := k.serials.filter (fun e => e.2.2 != num)
    recent := match k.recent with
      | some (n, o) => if n = num then some (n, some serial) else some (n, o)
      | none => none })

/-- A pass or probe of a core is finished (R278). -/
def State.muDone (s : State) (c num : Nat) : State :=
  s.upCore c (fun k => { k with unfinished := k.unfinished.filter (· != num) })

/-! ### Issue (R273 to R275, R277, R280) -/

/-- Commands of a core that wait at an MU. -/
def Mu.queued (m : Mu) (c : Nat) : Nat := (m.q.filter (fun q => q.c == c)).length

/-- Places a command in the executing core's queue at its selected MU and ends the instruction: a full queue stalls, and
the core's earlier accesses come first (R117, R169, R274). `f` does what the issue does besides. -/
def State.muIssue (s : State) (h : Head) (ops : List MuOp) (num : Nat := 0) (bind : Option Binding := none)
    (f : State → State := id) : State :=
  let m := s.muOf s.cur
  if s.inTwin then s.trap Code.ctxBad
  else if 8 ≤ (s.mu m).queued s.cur ∨ s.releaseHold then s.block .awake
  else
    let cmd (k : Mu) : MuCmd := ⟨k.stamps, s.cur, s.me.lvl.val, s.pc, num, ops, bind, false⟩
    (((f s).upMu m (fun k => { k with q := k.q ++ [cmd k], stamps := k.stamps + 1 })).muServe m).advance h

/-- PSEL (R273). -/
def execPsel (h : Head) (a : XReg) (s : State) : Host.Outcome State Fault Refusal :=
  .next ((s.upMe (fun k => { k with selMu := bits (s.getX a) 0 1 })).advance h)

/-- PHLD (R275). -/
def execPhld (h : Head) (a : XReg) (s : State) : Host.Outcome State Fault Refusal :=
  let w := s.getX a
  .next (
    if 2 ^ 19 ≤ w.toNat then s.trap Code.muBad
    else if w.toNat % 64 ≠ 0 then s.trap Code.align w
    else if 262144 < bits w 0 18 + 4288 then s.trap Code.addrWin w
    else s.muIssue h [.phld w])

/-- PHSW (R275). -/
def execPhsw (h : Head) (s : State) : Host.Outcome State Fault Refusal := .next (s.muIssue h [.phsw])

/-- Is a register selector legal: an index up to `top`, and no bit beyond the bank's (R275)? -/
def selOk (w : Word) (top : Nat) : Bool := decide (w.toNat < 2 ^ 13) && decide (bits w 0 12 ≤ top)

/-- PHRD (R275). -/
def execPhrd (h : Head) (d a : XReg) (s : State) : Host.Outcome State Fault Refusal :=
  let w := s.getX a
  .next (if !selOk w 2114 then s.trap Code.muBad else s.muIssue h [.phrd w d] (f := fun s => s.lockX d))

/-- PHWR (R275). -/
def execPhwr (h : Head) (d a : XReg) (s : State) : Host.Outcome State Fault Refusal :=
  let w := s.getX a
  let v := s.getX d
  let i := bits w 0 12
  .next (
    if !selOk w 2114 ∨ (i = 2113 ∧ 32 < bits v 0 6) ∨ (i = 2112 ∧ sigmaOk (v.setWidth 32) = false) then s.trap Code.muBad
    else s.muIssue h [.phwr w v])

/-- PTRIM (R275). -/
def execPtrim (h : Head) (d a : XReg) (s : State) : Host.Outcome State Fault Refusal :=
  let w := s.getX a
  .next (if !selOk w 2111 then s.trap Code.muBad else s.muIssue h [.ptrim w (s.getX d)])

/-- Are the numbers of a pass within R165? -/
def passFits (fmt res count sym : Nat) : Bool :=
  fmt != 3 && decide (res + count < 60) && decide (sym + count < 992)

/-- A pass descriptor that R165 does not refuse. -/
def passOk (w : Word) : Bool :=
  bits w 60 4 == 0 && bits w 11 25 == 0 && passFits (bits w 54 2) (bits w 42 6) (bits w 36 6) (bits w 0 10)

/-- Issues passes (R277): each takes a number, and the last one the binding. -/
def State.issuePasses (s : State) (h : Head) (ops : List MuOp) : State :=
  let k := s.me
  let n := ops.length
  s.muIssue h ops k.muNext k.bind (fun s => s.upMe (fun k => { k with
    bind := none
    unfinished := k.unfinished ++ (List.range n).map (k.muNext + ·)
    recent := some (k.muNext + n - 1, none)
    muNext := k.muNext + n }))

/-- PPASS (R165, R277). -/
def execPpass (h : Head) (a : XReg) (s : State) : Host.Outcome State Fault Refusal :=
  .next (if !passOk (s.getX a) then s.trap Code.passBad else s.issuePasses h [.pass (s.getX a) false true])

/-- PPASSA (R165, R277). -/
def execPpassa (h : Head) (a : XReg) (s : State) : Host.Outcome State Fault Refusal :=
  .next (if !passOk (s.getX a) then s.trap Code.passBad else s.issuePasses h [.pass (s.getX a) true true])

/-- PLOOP (R277). -/
def execPloop (h : Head) (d a : XReg) (s : State) : Host.Outcome State Fault Refusal :=
  let w := s.getX a
  let r := s.getX d
  let c := bits r 0 4 + 1
  let n := bits w 36 6 + 1
  let ok (k : Nat) := passFits (bits w 54 2) (bits w 42 6 + k * n) (n - 1) (bits w 0 10 + k * n)
  .next (
    if 32 ≤ r.toNat ∨ !passOk w ∨ !(List.range c).all ok ∨ 63 < bits w 48 6 + (c - 1) then s.trap Code.passBad
    else s.issuePasses h ((List.range c).map (fun k =>
      .pass (w + BitVec.ofNat 64 (k * 2 ^ 48 + k * n * 2 ^ 42 + k * n)) (r.getLsbD 4) (k + 1 == c))))

/-- PPROBE (R280). -/
def execPprobe (h : Head) (s : State) : Host.Outcome State Fault Refusal :=
  .next (s.muIssue h [.probe] s.me.muNext none (fun s => s.upMe (fun k => { k with
    unfinished := k.unfinished ++ [k.muNext], muNext := k.muNext + 1 })))

/-- PCAL (R280). -/
def execPcal (h : Head) (a : XReg) (s : State) : Host.Outcome State Fault Refusal :=
  let w := s.getX a
  .next (
    if 3 ≤ w.toNat then s.trap Code.muBad
    else if w = 2 ∧ s.lev.sup = false then s.trap Code.privilege
    else s.muIssue h [.pcal w.toNat])

/-- PWAIT (R278, R423): the wait keeps the number of the next command, so that later ones do not count. A probe whose DRIFT the
core has not yet taken counts as unfinished. -/
def execPwait (h : Head) (d a : XReg) (s : State) : Host.Outcome State Fault Refusal :=
  let k := s.me
  let arg : Word := match s.waiting with | some w => w.arg | none => BitVec.ofNat 64 (k.muNext * 64 + bits (s.getX a) 0 6)
  .next (
    if s.inTwin then s.trap Code.ctxBad
    else if arg.toNat % 64 < (k.unfinished.filter (· < arg.toNat / 64)).length + k.pend.countP (·.code == Code.drift) then
      s.block .engine arg
    else (s.setX d k.lastHdr).advance h)

/-- PFLUSH (R278, R386): cancels what has not taken effect; the status that a bound pass then delivers is logged. The register
of a cancelled PHRD takes a free value. -/
def execPflush (h : Head) (d : XReg) (s : State) : Host.Outcome State Fault Refusal :=
  let m := s.muOf s.cur
  let gone := (s.mu m).q.filter (fun q => q.c == s.cur && !q.begun)
  .next (
    if s.inTwin then s.trap Code.ctxBad
    else if gone.any (fun q => s.bindWaits q.c q.bind) then s.block .awake
    else
      let s := s.upMu m (fun k => { k with q := k.q.filter (fun q => q.c != s.cur || q.begun) })
      let s := gone.foldl (fun (s : State) q =>
        match q.op with
        | .phrd _ r :: _ => (s.landLocked q.c q.lvl r (Config.freeWord s.free)).take
        | .probe :: _ => s.muDone q.c q.num
        | .pass _ _ _ :: _ =>
          let s := (List.range q.op.length).foldl (fun (s : State) i => (s.muDone q.c (q.num + i)).giveSerial q.c (q.num + i) 0) s
          let s := if q.bind.isSome then
              s.logRec (dieOf q.c) { code := Code.passFlushed, core := 16 * clusterOf q.c, unit := unitMu, colour := (s.core q.c).colour }
            else s
          s.completeBind q.c (engineSrc 1 m) symDone q.bind 0 (BitVec.ofNat 64 Code.passFlushed)
        | _ => s) s
      ((s.muServe m).setX d (BitVec.ofNat 64 gone.length)).advance h)

/-- PSTAT (R279). -/
def execPstat (h : Head) (d a : XReg) (s : State) : Host.Outcome State Fault Refusal :=
  let m := s.mu (s.muOf s.cur)
  let w := match bits (s.getX a) 0 2 with
    | 0 => m.stat
    | 1 => m.serial.setWidth 64
    | 2 => pack [(32, s.me.lastSerial.toNat), (4, (m.stream.any (fun p => p.c == s.cur)).toNat), (0, m.queued s.cur)]
    | _ => pack [(1, s.cur / 8 % 2), (0, s.me.selMu)]
  .next (s.finishX h d w)

/-- The gain of a bound (R279). -/
def gainOf (b : W32) : Int :=
  match f32 b with
  | .zero _ => -8
  | .fin _ m e _ =>
    match (List.range 16).find? (fun g => decide (1024 * m * 2 ^ (e + 200).toNat < 1023 * 2 ^ (g + 192))) with
    | some g => (g : Int) - 8
    | none => 7
  | _ => 7

/-- PGAIN (R279). -/
def execPgain (h : Head) (d a : XReg) (s : State) : Host.Outcome State Fault Refusal :=
  let g : Word := BitVec.ofInt 64 (gainOf ((s.getX a).setWidth 32)) &&& 15
  .next ((s.setX d ((s.getX d &&& ~~~((15 : Word) <<< 56)) ||| (g <<< 56))).advance h)

/-- PSERIAL (R279): a reader waits until the pass has started. -/
def execPserial (h : Head) (d : XReg) (s : State) : Host.Outcome State Fault Refusal :=
  .next (match s.me.recent with
    | none => (s.setX d 0).advance h
    | some (_, some n) => (s.setX d (BitVec.ofNat 64 n)).advance h
    | some (num, none) =>
      if d = 0 then s.advance h
      else ((s.lockX d).upMe (fun k => { k with serials := k.serials ++ [(k.lvl.val, d, num)] })).advance h)

/-! ### Phase registers take effect (R157, R158, R275) -/

/-- Reads and checks a phase image (R158): the bank it fills, unless it is refused. -/
def imageBank (bs : List Byte) : Option Bank :=
  let val (o n : Nat) := leVal ((bs.drop o).take n)
  let crc : Word := (bs.take 4280).foldl crcByte 0
  let sigma := BitVec.ofNat 32 (val 4224 4)
  if crc.toNat = val 4280 8 ∧ val 4228 1 ≤ 32 ∧ val 4229 3 = 0 ∧ val 4240 40 = 0 ∧ sigmaOk sigma = true then
    let ph := (List.range 2112).filterMap (fun i =>
      let v := val (2 * i) 2
      if v = 0 then none else some (i, BitVec.ofNat 16 v))
    some (Bank.filled ph sigma (BitVec.ofNat 6 (val 4228 1)) (BitVec.ofNat 64 (val 4232 8)))
  else none

/-- Fills the shadow bank, whose load then settles; a fill replaces every word of the bank's array (R157, R409). -/
def State.fillShadow (s : State) (m : Nat) (b : Bank) (c : Option Nat) : State :=
  let k := s.mu m
  let s := { s with damage := clearDamage s.damage (phaseKey m k.shadow.val 0) 4224 }
  s.setMu m { (k.setBank k.shadow b) with ldbusy := true, ldCore := c }

/-- PHLD_TAKE_EFFECT (R157, R158, R275): a refused image raises PH_BAD and changes nothing. -/
def execPhldTakeEffect (mu : Nat) (s : State) : Host.Outcome State Fault Refusal :=
  .next (s.muTake mu (fun o => match o with | .phld _ => true | _ => false) (fun s q op =>
    match op with
    | .phld loc =>
      (match imageBank (s.mem.bytes (muKey mu (bits loc 18 1) (bits loc 0 18)) 4288) with
      | some b => s.fillShadow mu b (some q.c)
      | none =>
        (s.logRec (dieOf q.c) { code := Code.phBad, core := 16 * clusterOf q.c, unit := unitMu, colour := (s.core q.c).colour, addr := loc }).afterIssue
          q.c q.lvl Code.phBad q.pc loc 0)
    | _ => s))

/-- SHADOW_SETTLE (R157): LDBUSY clears. -/
def execShadowSettle (mu : Nat) (s : State) : Host.Outcome State Fault Refusal :=
  .next ((s.upMu mu (fun m => { m with ldbusy := false, ldCore := none })).muServe mu)

/-- Is selector `w` for the active bank? -/
def selActive (w : Word) : Bool := !w.getLsbD 12

/-- Parity of a bank that is read (R407, R409): damage in one word of a stripe is corrected, and a bank that is beyond
that is marked bad and logged. -/
def State.bankCheck (s : State) (m : Nat) (b : Fin 2) : State :=
  let key := phaseKey m b.val 0
  if s.lostBytes key 4224 && !(s.mu m).banks[b].bad then
    let s := s.upMu m (fun k => k.setBank b { k.banks[b] with bad := true })
    s.logRec (dieOfCluster (m / 2)) { code := Code.parity, core := 16 * (m / 2), unit := unitMu, colour := (s.cluster (m / 2)).job.getD 0 }
  else s.settle key 4224

/-- PHRD_TAKE_EFFECT (R157, R275): the value that the next pass would use, of the bank that the banks as they stand make active
or shadow; with a PHSW pending that is the bank still active (log 120). -/
def execPhrdTakeEffect (mu : Nat) (s : State) : Host.Outcome State Fault Refusal :=
  .next (s.muTake mu (fun o => match o with | .phrd _ _ => true | _ => false) (fun s q op =>
    match op with
    | .phrd sel d =>
      let s := s.bankCheck mu (if selActive sel then (s.mu mu).active else (s.mu mu).shadow)
      let m := s.mu mu
      let b := if selActive sel then m.writes.foldl Bank.change m.act else m.banks[m.shadow]
      s.landLocked q.c q.lvl d (b.read (bits sel 0 12))
    | _ => s))

/-- A phase register of a bank is written: whatever was damaged in it has gone (R407). -/
def State.phaseWritten (s : State) (mu : Nat) (b : Fin 2) (i : Nat) : State :=
  if i < 2112 then { s with damage := clearDamage s.damage (phaseKey mu b.val i) 2 } else s

/-- The parity of a bank before it is trimmed: the registers are read (R407). -/
def State.trimCheck (s : State) (mu : Nat) (b : Fin 2) (trim : Bool) : State := if trim then s.bankCheck mu b else s

/-- A write or trim of a bank by core `c`: at once in the shadow bank, at the next pass boundary in the active one (R157,
R275). -/
def State.bankChange (s : State) (c mu : Nat) (sel v : Word) (trim : Bool) : State :=
  let i := bits sel 0 12
  if selActive sel then s.upMu mu (fun m => { m with writes := m.writes ++ [(i, v, trim)], owners := c :: m.owners })
  else
    let b := (s.mu mu).shadow
    ((s.trimCheck mu b trim).upMu mu (fun m => m.setBank b (m.banks[b].change (i, v, trim)))).phaseWritten mu b i

/-- PHWR_TAKE_EFFECT (R275). -/
def execPhwrTakeEffect (mu : Nat) (s : State) : Host.Outcome State Fault Refusal :=
  .next (s.muTake mu (fun o => match o with | .phwr _ _ => true | _ => false) (fun s q op =>
    match op with
    | .phwr sel v => s.bankChange q.c mu sel v false
    | _ => s))

/-- PTRIM_TAKE_EFFECT (R275). -/
def execPtrimTakeEffect (mu : Nat) (s : State) : Host.Outcome State Fault Refusal :=
  .next (s.muTake mu (fun o => match o with | .ptrim _ _ => true | _ => false) (fun s q op =>
    match op with
    | .ptrim sel v => s.bankChange q.c mu sel v true
    | _ => s))

/-- PASS_BOUNDARY (R157, R171, R416, R422): pending writes and trims of the active bank take effect, a pending exchange
happens, lost comb lines give way to their spares. A trim holds the boundary until its shifter has settled; an exchange or
a PHWR ends the cached evaluation. The boundary comes after the symbol of a probe in progress. -/
def execPassBoundary (mu : Nat) (s : State) : Host.Outcome State Fault Refusal :=
  let ws := (s.mu mu).writes
  let act := (s.mu mu).active
  let s' := ws.foldl (fun (u : State) w => u.phaseWritten mu act w.1) (s.trimCheck mu act (ws.any (·.2.2)))
  .next (if (s.mu mu).probing.isSome then s else (s'.upMu mu (fun m =>
    let m' := m.setBank m.active (m.writes.foldl Bank.change m.act)
    { m' with
      active := if m.swpend then m.shadow else m.active
      swpend := false
      writes := []
      hold := m.hold || m.writes.any (·.2.2)
      owners := if m.hold || m.writes.any (·.2.2) then m.owners else []
      evalOk := m.evalOk && !m.swpend && m.writes.all (·.2.2)
      lam := m.due.foldl (fun l w => l.setIfInBounds w 1) m.lam
      pauseMu := m.pauseMu || !m.due.isEmpty
      due := [] })).muServe mu)

/-- TRIM_SETTLE (R422). -/
def execTrimSettle (mu : Nat) (s : State) : Host.Outcome State Fault Refusal :=
  .next ((s.upMu mu (fun m => { m with hold := false, owners := if m.boundaryDue then m.owners else [] })).muServe mu)

/-! ### Passes (R148, R149, R164 to R167) -/

/-- The gain of a descriptor: signed, −8 to 7. -/
def passGain (w : Word) : Int := (w.extractLsb' 56 4).toInt

/-- One element of a pass (R149): σ·2^ex·2^g·code/512, written or added into the slot's value. -/
def passElem (sigma : W32) (ex : Nat) (g code : Int) (acc : Option W32) : W32 :=
  let y := ((f32 sigma).mul (Num.ofInt code ((ex : Int) - 127 + g - 9)))
  let y := if y.isZero then .zero false else y
  match acc with
  | none => (to32 .rne y).1
  | some a => (to32 .rne ((f32 a).add false y)).1

/-- The 256 elements of a symbol: the words of its result slot, whether a code was clamped, and whether a vector was
invalid (R131, R164, R166, R409, R410, R416). -/
def State.passSymbol (s : State) (mu : Nat) (t : Array (Array Int)) (p : Pass) (i : Nat) : List W32 × Bool × Bool :=
  let m := s.mu mu
  let b := m.act
  let sym := bits p.desc 0 10 + i
  let page := muKey mu (bits p.desc 10 1) (8192 * (sym / 31))
  let place := sym % 31
  let fmt := 13 + bits p.desc 54 2
  let mant := if fmt = 15 then 16 else 32
  let slot := muKey mu 2 (1024 * (bits p.desc 42 6 + i))
  (List.range 8).foldl (fun (acc : List W32 × Bool × Bool) w =>
    let ex := s.peek (page + 7936 + 8 * place + w) 1
    let bad := ex == 0xFF || b.bad || (m.lam[w]?.getD 0) == 2 || s.poisoned (page + 256 * place + mant * w) mant ||
      s.poisoned (page + 7936 + 8 * place + w) 1
    let row := page + 256 * place + mant * w
    let q : List Int := (List.range 32).map (fun j =>
      if ex = 0xFF then 0
      else if fmt = 15 then bfpMant fmt (s.peek (row + j / 2) 1 / 16 ^ (j % 2)) * 16
      else bfpMant fmt (s.peek (row + j) 1) * (128 / bfpHalf fmt))
    let codes := (detect t q).zipIdx.map (fun (a, j) => detectorCode a (passGain p.desc) m.enob.toNat (s.free + 256 * i + 32 * w + j))
    let out := (codes.zipIdx).map (fun (c, j) =>
      let old := BitVec.ofNat 32 (s.peek (slot + 128 * w + 4 * j) 4)
      if bad then nan32 else passElem b.sigma ex (passGain p.desc) c.1 (if p.acc then some old else none))
    (acc.1 ++ out, acc.2.1 || (!bad && codes.any (·.2)), acc.2.2 || bad)) ([], false, false)

/-- PASS_START (R149, R166, R277, R415): the pass takes its serial and reads its buffer and the active bank. Its slots are
written here, each element old or new until its PWAIT (R167). -/
def execPassStart (mu : Nat) (s : State) : Host.Outcome State Fault Refusal :=
  let m := s.mu mu
  .next (
    if m.boundaryDue || m.hold then s
    else s.muTake mu (fun o => match o with | .pass _ _ _ => true | _ => false) (fun s q op =>
      match op with
      | .pass desc acc last =>
        let s := s.bankCheck mu m.active
        let m := s.mu mu
        let n := m.next.toNat
        let p : Pass := { c := q.c, num := q.num, serial := n, desc := desc, acc := acc, last := last,
                          suspect := m.dfault || !m.stuck.isEmpty, satf := false, nanv := false, bank := m.active.val,
                          image := m.act.image, sigma := m.act.sigma,
                          bind := if last then q.bind else none }
        let count := bits desc 36 6 + 1
        let t := transfer (m.realised m.act.ph)
        let (s, satf, nanv) := (List.range count).foldl (fun (x : State × Bool × Bool) i =>
          let (ws, sat, nan) := x.1.passSymbol mu t p i
          (x.1.poke (muKey mu 2 (1024 * (bits desc 42 6 + i))) (ws.flatMap (fun w => leBytes 4 w.toNat)),
            x.2.1 || sat, x.2.2 || nan)) (s, false, false)
        let s := { s with free := s.free + 256 * count }
        let s := s.upMu mu (fun m => { m with
          next := if m.next + 1 = 0 then 1 else m.next + 1
          since := m.since ++ [n]
          stream := m.stream ++ [{ p with satf := satf, nanv := nanv || m.lam.toList.contains 2 }] })
        s.giveSerial q.c q.num n
      | _ => s))

/-- Header word 0 of a pass (R166). -/
def Pass.header (p : Pass) (enob : Nat) : Word :=
  pack [(32, p.serial), (28, enob), (27, p.suspect.toNat), (26, p.satf.toNat), (25, p.acc.toNat), (24, p.nanv.toNat),
    (22, p.bank), (0, bits p.desc 36 6 + 1)]

/-- PASS_HEADER_WRITE (R51, R166, R278): the oldest pass in the stream finishes. -/
def execPassHeaderWrite (mu : Nat) (s : State) : Host.Outcome State Fault Refusal :=
  let m := s.mu mu
  .next (match m.stream with
    | [] => s
    | p :: r =>
      let w0 := p.header m.enob.toNat
      let bytes := leBytes 8 w0.toNat ++ leBytes 8 p.image.toNat ++ leBytes 8 p.sigma.toNat ++
        leBytes 8 (m.pser.toNat * 2 ^ 48) ++ leBytes 32 0
      let s := (s.poke (muKey mu 2 (0xF000 + 64 * bits p.desc 48 6)) bytes).setMu mu
        { m with stream := r, serial := BitVec.ofNat 32 p.serial }
      let s := (s.upCore p.c (fun k => { k with lastHdr := w0, lastSerial := BitVec.ofNat 32 p.serial })).muDone p.c p.num
      ((s.count p.c 9).completeBind p.c (engineSrc 1 mu) symDone p.bind (BitVec.ofNat 64 p.serial) 0).muServe mu)

/-! ### Probes and calibration (R151, R170, R171, R280, R415, R416) -/

/-- PROBE_EVALUATION (R171, R422). -/
def execProbeEvaluation (mu : Nat) (s : State) : Host.Outcome State Fault Refusal :=
  .next (if (s.mu mu).probing.isSome then s.upMu mu (fun m => { m with evalOk := true }) else s)

/-- ENOB of a DRIFT (R151). -/
def enobOf (d : Nat) : Nat := ((List.range 11).reverse.find? (fun e => decide (12 * d * d * 2 ^ (2 * e) ≤ 2 ^ 26))).getD 0

/-- Sets SUSPECT in every header slot that still holds the serial of one of the passes (R415). -/
def State.markSuspect (s : State) (mu : Nat) (serials : List Nat) : State :=
  let s := s.upMu mu (fun m => { m with stream := m.stream.map (fun p => if serials.contains p.serial then { p with suspect := true } else p) })
  (List.range 64).foldl (fun s h =>
    let key := muKey mu 2 (0xF000 + 64 * h)
    let w := s.peek64 key
    if serials.contains (bits w 32 32) then s.poke key (leBytes 8 (w ||| (1 <<< 27)).toNat) else s) s

/-- A probe ends (R151, R171, R415): DRIFT and ENOB are measured and counted. One above LIMIT sets DFAULT, marks the passes since
the last probe that passed, and sends DRIFT to the core that issued it; outside any job that is only logged. -/
def State.probeEnds (s : State) (mu : Nat) (r : ProbeRun) : State :=
  let m := s.mu mu
  let drift := probeDrift (m.realised m.act.ph) m.act.ld s.free
  let s := { s with free := s.free + 256 }
  let fails := decide (m.dlim.toNat < drift)
  let m := { m with drift := BitVec.ofNat 16 drift, enob := BitVec.ofNat 4 (enobOf drift), pser := m.pser + 1,
                    probing := none, dfault := fails,
                    since := if fails then m.since else m.since.filter (fun n => !r.since.contains n) }
  let s := s.setMu mu m
  let s := match r.c, r.num with | some c, some n => s.muDone c n | _, _ => s
  let s :=
    if fails then
      let cl := mu / 2
      let s := s.markSuspect mu r.since
      let text := pack [(32, r.since.headD 0), (0, r.since.getLastD 0)]
      s.report1 r.c cl { code := Code.drift, core := 16 * cl, unit := unitMu, colour := (s.cluster cl).job.getD 0, info := BitVec.ofNat 64 (r.since.getLastD 0) }
        ⟨Code.drift, 0, m.stat, text, false⟩
    else s
  s.muServe mu

/-- PROBE_COMPLETE (R151, R171, R278, R415, R423). The bank stands since the probe was served as it is measured here. -/
def execProbeComplete (mu : Nat) (s : State) : Host.Outcome State Fault Refusal :=
  let m := s.mu mu
  .next (match m.probing with
    | none => s
    | some r => if !m.evalOk then s else s.probeEnds mu r)

/-- PCAL_COMPLETE (R280): a calibration changes no register and ends with a probe. Kind 2 removes what the Balance loop has
not corrected, which kinds 0 and 1 leave, and finds a stuck modulator working or not: a free value (log 10). -/
def execPcalComplete (mu : Nat) (s : State) : Host.Outcome State Fault Refusal :=
  let m := s.mu mu
  .next (match m.cal with
    | none => s
    | some (c, kind) =>
      let works := (Config.freeWord s.free).getLsbD 0
      let s := if kind = 2 then s.take else s
      (s.setMu mu { m with
        cal := none
        stuck := if kind = 2 ∧ works = true then [] else m.stuck
        dev := if kind = 2 then none else m.dev
        probing := some ⟨some c, none, m.since⟩ }).muServe mu)

/-- BALANCE_HEATER_UPDATE (R170): the loop changes no register; what it leaves uncorrected of the realised phases, and whether
every shifter is in its band, are free values (log 8, log 10). -/
def execBalanceHeaterUpdate (mu : Nat) (s : State) : Host.Outcome State Fault Refusal :=
  .next ((s.upMu mu (fun m => { m with balok := (Config.freeWord s.free).getLsbD 0, dev := some s.free })).take)

/-- MOD_STUCK (R416): passes carry SUSPECT until a calibration finds the modulator working. -/
def execModStuck (mu w j : Nat) (s : State) : Host.Outcome State Fault Refusal :=
  let cl := mu / 2
  .next ((s.upMu mu (fun m => { m with stuck := m.stuck ++ [(w, j)] })).report1 none cl
    { code := Code.modStuck, core := 16 * cl, unit := unitMu, colour := (s.cluster cl).job.getD 0 }
    ⟨Code.modStuck, 0, 0, BitVec.ofNat 64 (32 * w + j), false⟩)

/-- SPARE_LINE_PROBE (R416): the MUs of the die serve commands again and each runs a probe. -/
def execSpareLineProbe (die : Nat) (s : State) : Host.Outcome State Fault Refusal :=
  .next ((((List.range 64).filter (fun m => dieOfCluster (m / 2) == die)).filter (fun m => (s.mu m).pauseMu)).foldl (fun s m =>
    (s.upMu m (fun k => { k with
      pauseMu := false
      probing := match k.probing with | some r => some r | none => some ⟨none, none, k.since⟩ })).muServe m) s)

/-! ### The Decomposition Engine (R159 to R163, R276) -/

/-- Where an address that an engine is given leads: translated memory, or Basin scratch of the issuing core's die. -/
def State.engineAt (s : State) (x : Ctx) (c : Nat) (va : Word) (n : Nat) (wr : Bool) : Except Nat (State × Nat × Bool) :=
  match placeOf c va with
  | .scratch sl off =>
    let d := s.die (dieOfSlice sl)
    let key := scratchKey sl off
    if d.scr * 2 ^ 20 ≤ off then .error Code.addrWin
    else
      let s := if wr then s else s.settle key n
      if s.poisoned key n && !(wr && coversLines key n) then .error Code.poison else .ok (s, key, false)
  | .muBuf m region off => .ok (s, muKey m region off, false)
  | _ => s.unitAt x va n wr

/-- An engine's write at a place. -/
def State.engineStore (s : State) (x : Ctx) (c : Nat) (va : Word) (bs : List Byte) : Except Nat State :=
  match s.engineAt x c va bs.length true with
  | .error e => .error e
  | .ok (s, key, cached) =>
    if s.hostLost key then .ok (s.noteDiscard key)
    else .ok (((s.settleBlock (x.root.toNat % 4096) key).capture (x.root.toNat % 4096) key).poke key bs cached)

/-- Is a place translated memory or Basin scratch? -/
def Place.global : Place → Bool
  | .trans => true
  | .scratch _ _ => true
  | _ => false

/-- A command from the four words of its descriptor, unless a field is out of range (R276). -/
def deCommand (s : State) (w : Nat → Word) : Option DeCmd :=
  let c := s.cur
  let (wva, rstr, iva, f) := (w 0, w 1, w 2, w 3)
  let n := bits f 0 6
  let dest := f.getLsbD 8
  let cl := bits f 9 5
  let stride : Int := (rstr.setWidth 32 : W32).toInt
  let there := match s.job? s.me.colour with | some j => j.holds (16 * cl) | none => false
  let image := match placeOf c iva with
    | .muBuf _ region off => decide (region < 2) && decide (off + 4288 ≤ 262144)
    | p => p.global
  if (placeOf c wva).global && wva.toNat % 4 == 0 && bits rstr 32 32 == 0 && stride % 4 == 0 &&
      bits f 15 49 == 0 && bits f 6 2 == 0 && decide (1 ≤ n) && decide (n ≤ 32) &&
      (if dest then decide (dieOfCluster cl = dieOf c) && there else image && iva.toNat % 64 == 0) then
    some { c := c, num := 0, wva := wva, rstr := stride, iva := iva,
           mu := if dest then some (2 * cl + bits f 14 1) else none, n := n, sup := s.lev.sup }
  else none

/-- PDEC (R276). -/
def execPdec (h : Head) (d a : XReg) (s : State) : Host.Outcome State Fault Refusal :=
  let va := s.getX a
  let die := dieOf s.cur
  .next (
    if s.inTwin then s.trap Code.ctxBad
    else match placeOf s.cur va with
      | .own _ =>
        let es : List Elem := [⟨0, va, s.plan va 32 false⟩]
        s.access h false none es (fun s =>
          match elemKey es 0 with
          | none => s.advance h
          | some (key, _) =>
            match deCommand s (fun i => BitVec.ofNat 64 (leVal (s.readFor s.cur (key + 8 * i) 8))) with
            | none => s.trap Code.deBad
            | some cmd =>
              if 16 ≤ (s.die die).de.length ∨ s.releaseHold then s.block .awake
              else
                let n := if s.me.deNum + 1 = 0 then 1 else s.me.deNum + 1
                let s := s.upDie die (fun k => { k with de := k.de ++ [{ cmd with num := n.toNat }] })
                let s := s.upMe (fun k => { k with
                  deNum := n, deStat := (k.deStat ++ [(n.toNat, 1)]).drop (k.deStat.length - 15) })
                (s.setX d (n.setWidth 64)).advance h)
      | _ => s.trap Code.addrWin va)

/-- PDECQ (R276). -/
def execPdecq (h : Head) (d a : XReg) (s : State) : Host.Outcome State Fault Refusal :=
  let b : BitVec 32 := (s.getX a).setWidth 32
  let st := s.me.deStat
  .next (
    if s.getX a = 0 then
      (s.setX d (BitVec.ofNat 64 (if st.any (fun e => e.2 == 1) then 1 else ((st.find? (fun e => e.2 != 0)).map (·.2)).getD 0))).advance h
    else if ahead b s.me.deNum then s.trap Code.deBad
    else (s.setX d (BitVec.ofNat 64 (((st.find? (fun e => e.1 == b.toNat)).map (·.2)).getD 0))).advance h)

/-- The bytes of the phase image that the DE writes (R158, R162). -/
def imageBytes (n : Nat) (ph : List (Nat × BitVec 16)) (sigma : W32) (id : Word) : List Byte :=
  let body := (List.range 2112).flatMap (fun i => leBytes 2 (NMap.get ph 0 i).toNat) ++ leBytes 4 sigma.toNat ++
    leBytes 4 n ++ leBytes 8 id.toNat ++ leBytes 40 0
  body ++ leBytes 8 (body.foldl crcByte 0).toNat

/-- The translation context of a core's engine commands (R79). -/
def State.coreCtx (s : State) (c : Nat) : Ctx :=
  let k := s.core c
  ⟨clusterOf c, k.root, k.lv[k.lvl].sup⟩

/-- The context of a command of the Decomposition Engine: the privilege is that of the code that did PDEC (R79). -/
def State.deCtx (s : State) (q : DeCmd) : Ctx := { s.coreCtx q.c with sup := q.sup }

/-- Does a command access Basin scratch that a repartitioning in progress holds back (R72)? -/
def State.deWaits (s : State) (q : DeCmd) : Bool :=
  let k := s.die (dieOf q.c)
  let busy (va : Word) : Bool :=
    match placeOf q.c va with
    | .scratch _ off => decide (Nat.min k.scr (k.oldScr.getD k.scr) * 2 ^ 20 ≤ off)
    | _ => false
  k.oldScr.isSome &&
    ((List.range q.n).any (fun i => (List.range q.n).any (fun j => busy (q.wva + BitVec.ofInt 64 (q.rstr * (i : Int) + 4 * (j : Int))))) ||
      (q.mu.isNone && (List.range 67).any (fun i => busy (q.iva + BitVec.ofNat 64 (64 * i)))))

/-- The matrix of a command, row by row. -/
def State.deMatrix (s : State) (q : DeCmd) : Except (Nat × Word) (State × List (List W32)) :=
  (List.range q.n).foldlM (fun (st : State × List (List W32)) (i : Nat) => do
    let (s, row) ← (List.range q.n).foldlM (fun (r : State × List W32) (j : Nat) => do
      let va := q.wva + BitVec.ofInt 64 (q.rstr * (i : Int) + 4 * (j : Int))
      let (s, key, _) ← (r.1.engineAt (r.1.deCtx q) q.c va 4 false).mapError (fun e => (e, va))
      return (s, r.2 ++ [BitVec.ofNat 32 (s.peek key 4)])) (st.1, [])
    return (s, st.2 ++ [row])) (s, [])

/-- Carries out a command: the bank load is placed at the MU, or the image is written line by line (R159, R276). -/
def State.deRun (s : State) (q : DeCmd) : Except (Nat × Word) State := do
  let (s, w) ← s.deMatrix q
  if w.any (fun r => r.any (fun x => match f32 x with | .nan => true | .inf _ => true | _ => false)) then throw (Code.deNan, 0)
  let (ph, sigma) := decompose q.n w
  match q.mu with
  | some m =>
    let b := Bank.filled ph sigma (BitVec.ofNat 6 q.n) q.wva
    return s.upMu m (fun k => { k with loads := k.loads ++ [(k.stamps, b)], stamps := k.stamps + 1 })
  | none =>
    let bytes := imageBytes q.n ph sigma q.wva
    (List.range 67).foldlM (fun (s : State) i =>
      let va := q.iva + BitVec.ofNat 64 (64 * i)
      (s.engineStore (s.deCtx q) q.c va ((bytes.drop (64 * i)).take 64)).mapError (fun e => (e, va))) s

/-- Does a command wait for the host link (R420)? -/
def State.deStalls (s : State) (q : DeCmd) : Bool :=
  s.hub.link == .down && (match s.deRun q with | .error (0, _) => true | _ => false)

/-- DE_COMPLETE (R159, R276): the oldest command of the die is done, or its fault becomes its status and is logged. One that
a repartitioning of Basin or the host link holds back waits (R72, R420). -/
def execDeComplete (die : Nat) (s : State) : Host.Outcome State Fault Refusal :=
  let s0 := s
  .next (match (s.die die).de with
    | [] => s
    | q :: r =>
      if s.deWaits q then s
      else
      let s := s.upDie die (fun k => { k with de := r })
      let status (s : State) (st : Nat) : State := s.upCore q.c (fun k => { k with
        deStat := k.deStat.map (fun e => if e.1 = q.num then (e.1, st) else e) })
      match s.deRun q with
      | .ok s => status s 0
      | .error (0, _) => s0
      | .error (code, addr) =>
        (status s code).logRec die
          { code := code, core := 16 * clusterOf q.c, unit := unitDe, colour := (s.core q.c).colour, addr := addr, info := BitVec.ofNat 64 q.num })

/-- DE_BANK_LOAD (R157, R159, R416): once every command queued before it has taken effect, no exchange is pending, and the MU
serves commands. -/
def execDeBankLoad (mu : Nat) (s : State) : Host.Outcome State Fault Refusal :=
  let m := s.mu mu
  .next (match m.loads with
    | [] => s
    | (st, b) :: r =>
      if m.pauseMu || m.swpend || m.ldbusy || m.q.any (fun q => decide (q.stamp < st)) then s
      else ((s.setMu mu { m with loads := r }).fillShadow mu b none).muServe mu)

end Sys2Proof.Machine
end

