-- ==== Sys2Proof/Machine/Copy.lean ====
section
/-! DEFINITION. The Copy Engine: its control registers, shape records, the EF8 decoder, multicast masks, and transfers
(R83, R95 to R102, R133 to R135, R290 to R294, R395). -/

namespace Sys2Proof.Machine

/-! ### Addresses (R96) -/

/-- A place that CP.SRC or CP.DST names. -/
inductive CpBase where
  | glob (va : Word)
  | host (va : Word)
  | pad (core off : Nat)
  | lane (core off : Nat)
  | acc (core off : Nat)
  | scratch (slice off : Nat)
  | mu (m region off : Nat)
  deriving DecidableEq, Repr

/-- Reads an address by its SPACE; none for SPACE 7, for unnamed bits that are not 0, and for a window of SPACE 1 or 2 that is
neither 0x00 nor 0x03, for which R96 names no code: CP_SPACE as for the others (R96, R98; log 113). -/
def cpBase (c : Nat) (w : Word) : Option CpBase :=
  let a := w.toNat % 2 ^ 61
  let off := a % 2 ^ 18
  let local_ (core : Nat) : Option CpBase :=
    match a / 2 ^ 48 % 256 with
    | 0 => some (.pad core off)
    | 3 => some (.lane core off)
    | _ => none
  match bits w 61 3 with
  | 0 => if a < 2 ^ 56 then some (.glob (BitVec.ofNat 64 a)) else none
  | 1 => if onlyBits a [(48, 8), (0, 18)] then local_ c else none
  | 2 => if onlyBits a [(48, 8), (39, 9), (0, 18)] then local_ (a / 2 ^ 39 % 512) else none
  | 3 => if onlyBits a [(39, 9), (0, 12)] then some (.acc (a / 2 ^ 39) (a % 4096)) else none
  | 4 => if a < 2 ^ 56 then some (.host (BitVec.ofNat 64 a)) else none
  | 5 => if onlyBits a [(30, 2), (24, 6), (0, 24)] then
      some (.scratch (sliceOfDie (a / 2 ^ 30) (a / 2 ^ 24 % 64)) (a % 2 ^ 24)) else none
  | 6 => if onlyBits a [(43, 5), (42, 1), (40, 2), (0, 18)] then
      some (.mu (2 * (a / 2 ^ 43) + a / 2 ^ 42 % 2) (a / 2 ^ 40 % 4) off) else none
  | _ => none

/-- The core whose memory a place is, or the lowest of an MU's cluster. -/
def CpBase.core? : CpBase → Option Nat
  | .pad c _ => some c
  | .lane c _ => some c
  | .acc c _ => some c
  | .mu m _ _ => some (m / 2 * 16)
  | _ => none

/-- Is a place a scratchpad? -/
def CpBase.isPad : CpBase → Bool
  | .pad _ _ => true
  | _ => false

/-- Low bits of the address of a byte at a distance from a place: pieces do not cross 64-byte lines. -/
def CpBase.low (b : CpBase) (d : Int) : Nat :=
  let o : Nat := match b with
    | .glob va => va.toNat
    | .host va => va.toNat
    | .pad _ o => o
    | .lane _ o => o
    | .acc _ o => o
    | .scratch _ o => o
    | .mu _ _ o => o
  (((o : Int) + d) % 64).toNat

/-- The address that a report names: the VA, or the offset of the place. -/
def CpBase.addr (b : CpBase) (d : Int) : Word :=
  let off (o : Nat) : Word := BitVec.ofInt 64 ((o : Int) + d)
  match b with
  | .glob va => va + BitVec.ofInt 64 d
  | .host va => va + BitVec.ofInt 64 d
  | .pad _ o => off o
  | .lane _ o => off o
  | .acc _ o => off o
  | .scratch _ o => off o
  | .mu _ _ o => off o

/-! ### Shape records (R97, R98) -/

/-- Bytes of two elements of a format, so that half-byte formats count 1. -/
def fmtHalfBytes (fmt : Nat) : Nat :=
  match fmt with
  | 0 => 8
  | 1 => 4
  | 2 => 4
  | 8 => 4
  | 7 => 1
  | 11 => 1
  | 12 => 1
  | 15 => 1
  | _ => 2

/-- Extent i. -/
def shapeExt (r : Nat → Word) (i : Nat) : Nat := bits (r 1) (16 * i) 16
/-- FMT of a record. -/
def shapeFmt (r : Nat → Word) : Nat := bits (r 0) 4 4
/-- Number of dimensions. -/
def shapeDims (r : Nat → Word) : Nat := bits (r 0) 0 2 + 1
/-- EF8 of a record. -/
def shapeEf8 (r : Nat → Word) : Bool := (r 0).getLsbD 9
/-- Product of the used extents. -/
def shapeCount (r : Nat → Word) : Nat := ((List.range (shapeDims r)).map (shapeExt r)).foldl (· * ·) 1
/-- A signed 32-bit field of a word. -/
def half32 (w : Word) (hi : Bool) : Int := ((w >>> (if hi then 32 else 0)).setWidth 32 : W32).toInt
/-- Source strides S1 to S3 and destination strides D1 to D3. -/
def shapeSrc (r : Nat → Word) : List Int := [half32 (r 2) false, half32 (r 2) true, half32 (r 3) false]
def shapeDst (r : Nat → Word) : List Int := [half32 (r 3) true, half32 (r 4) false, half32 (r 4) true]

/-- The first word of a shape record that fails the checks of CSHAPE (R98). -/
def shapeFault (r : Nat → Word) : Option Nat :=
  let size : Int := (fmtHalfBytes (shapeFmt r) + 1) / 2
  let ok (s : Int) : Bool := s % size == 0
  let half := fmtHalfBytes (shapeFmt r) == 1
  if bits (r 0) 10 53 ≠ 0 ∨ bits (r 0) 8 1 ≠ 0 ∨ bits (r 0) 2 2 ≠ 0 ∨ (shapeEf8 r = true ∧ shapeFmt r ≠ 3) then some 0
  else if (List.range 4).any (fun i => shapeExt r i == 0 || (decide (shapeDims r ≤ i) && shapeExt r i != 1)) ∨
      (half = true ∧ shapeExt r 0 % 2 = 1) ∨ 2 ^ 32 ≤ shapeCount r ∨ (shapeEf8 r = true ∧ shapeCount r % 32 ≠ 0) then some 1
  else if !ok (half32 (r 2) false) ∨ !ok (half32 (r 2) true) then some 2
  else if !ok (half32 (r 3) false) ∨ !ok (half32 (r 3) true) then some 3
  else if !ok (half32 (r 4) false) ∨ !ok (half32 (r 4) true) then some 4
  else if shapeEf8 r = false ∧ r 5 ≠ 0 then some 5
  else if r 6 ≠ 0 then some 6
  else if r 7 ≠ 0 then some 7
  else none

/-! ### Transfers (R95, R97, R99) -/

/-- A control register of a transfer. -/
def Copy.reg (q : Copy) (i : Nat) : Word := q.regs[i]?.getD 0

/-- A word of the transfer's shape record. -/
def Copy.rec_ (q : Copy) (i : Nat) : Word := ((q.shape.getD [])[i]?).getD 0

/-- Rows of a transfer: source distance, destination distance, bytes. -/
def Copy.rows (q : Copy) : List (Int × Int × Nat) :=
  match q.shape with
  | none =>
    let n := bits (q.reg 4) 0 32
    (List.range (bits (q.reg 4) 32 16)).map (fun (i : Nat) =>
      ((i : Int) * half32 (q.reg 2) false, (i : Int) * half32 (q.reg 2) true, n))
  | some _ =>
    let r := q.rec_
    let ext (i : Nat) := if i < shapeDims r then shapeExt r i else 1
    let n := ext 0 * fmtHalfBytes (shapeFmt r) / 2
    let st (l : List Int) (i : Nat) : Int := l[i]?.getD 0
    (List.range (ext 3)).flatMap (fun (k : Nat) => (List.range (ext 2)).flatMap (fun (j : Nat) => (List.range (ext 1)).map (fun (i : Nat) =>
      let at_ (l : List Int) : Int := (i : Int) * st l 0 + (j : Int) * st l 1 + (k : Int) * st l 2
      (at_ (shapeSrc r), at_ (shapeDst r), n))))

/-- The cores of a multicast mask (R95, R99). -/
def mcTargets (c : Nat) (mask : Word) (sector : Bool) : List Nat :=
  ((List.range 64).filter (fun i => mask.getLsbD i)).map (fun i => if sector then sectorCore c i else clusterOf c * 16 + i)

/-- The places a transfer writes from: its destination, or the scratchpads of its mask (R99). -/
def Copy.targets (q : Copy) : List CpBase :=
  match cpBase q.c (q.reg 1) with
  | none => []
  | some d =>
    if q.reg 5 = 0 then [d]
    else match d with
      | .pad _ off => (mcTargets q.c (q.reg 5) ((q.reg 6).getLsbD 2)).map (fun t => .pad t off)
      | _ => [d]

/-- Length of a block's source when EF8 streams are read: the stream is taken from its start (R100). -/
def Copy.ef8 (q : Copy) : Bool := q.shape.isSome && shapeEf8 q.rec_

/-- Does a row at a distance touch the code region of a scratchpad (R98)? -/
def State.inCode (s : State) (b : CpBase) (d : Int) (n : Nat) : Bool :=
  match b with
  | .pad t off => decide (0 < n) && decide ((off : Int) + d < (s.core t).codeEnd) && decide (0 < (off : Int) + d + n)
  | _ => false

/-- Is a row inside the code region of a scratchpad? -/
def State.allCode (s : State) (b : CpBase) (d : Int) (n : Nat) : Bool :=
  match b with
  | .pad t off => decide (0 ≤ (off : Int) + d) && decide ((off : Int) + d + n ≤ (s.core t).codeEnd)
  | _ => false

/-- The trap that CPGO raises for a transfer, if any (R98), in the order of R98's list. A CP.SHP whose OFF is 0 and which has
another bit set names a record at offset 0, so that SHAPE_BAD comes before CP_SPACE (log 113). -/
def State.cpFault (s : State) (q : Copy) : Option Nat :=
  let shp := q.reg 3
  let fl := q.reg 6
  let mc := q.reg 5
  let size := if q.shape.isSome then (fmtHalfBytes (shapeFmt q.rec_) + 1) / 2 else 1
  let outside (b : CpBase) : Bool := match b.core? with | some t => !s.inPartition t | none => false
  if q.shape.isSome = true ∧ (!(q.rec_ 0).getLsbD 63 ∨ (shapeFault q.rec_).isSome) then some Code.shapeBad
  else if q.shape.isNone = true ∧ (2 ^ 24 < bits (q.reg 4) 0 32 ∨ bits (q.reg 4) 48 16 ≠ 0) then some Code.shapeBad
  else match cpBase q.c (q.reg 0), cpBase q.c (q.reg 1) with
    | some src, some dst =>
      let fromOk := match src with | .glob _ => true | .scratch _ _ => true | _ => false
      let accDst := match dst with | .acc _ _ => true | _ => false
      if (fl &&& 0xE) ≠ fl ∨ (shp &&& 0x3FFC0) ≠ shp ∨ (fl.getLsbD 2 = false ∧ bits mc 16 48 ≠ 0) ∨ accDst = true ∨
          outside src = true ∨ q.targets.any outside = true ∨ (mc ≠ 0 ∧ (fromOk = false ∨ dst.isPad = false)) then
        some Code.cpSpace
      else if src.low 0 % size ≠ 0 ∨ dst.low 0 % size ≠ 0 then some Code.cpAlign
      else if (fl.getLsbD 1 = true ∧ !(dst.isPad && q.rows.all (fun r => q.targets.all (fun t => s.allCode t r.2.1 r.2.2)))) ∨
          (if q.ef8 then s.inCode src 0 1 else q.rows.any (fun r => s.inCode src r.1 r.2.2)) = true then some Code.cpCode
      else none
    | _, _ => some Code.cpSpace

/-! ### Accesses (R79, R98, R102, R410, R420) -/

/-- Where a piece of a transfer lies, or the code that stops it. Code 0 says that the transfer has to wait: for a batch
that writes an accumulator, for a repartitioning or for the host link (R70, R72, R420). -/
def State.cpAt (s : State) (x : Ctx) (c : Nat) (b : CpBase) (d : Int) (n : Nat) (wr code : Bool) :
    Except Nat (State × Nat × Bool) :=
  let range (off size : Nat) : Bool := decide (0 ≤ (off : Int) + d) && decide ((off : Int) + d + n ≤ size)
  let at_ (off : Nat) : Nat := ((off : Int) + d).toNat
  let fin (s : State) (key : Nat) : Except Nat (State × Nat × Bool) :=
    let s := if wr then s else s.settle key n
    if s.poisoned key n && !(wr && coversLines key n) then .error Code.poison else .ok (s, key, false)
  match b with
  | .glob va => s.unitAt x (va + BitVec.ofInt 64 d) n wr
  | .host va =>
    (match s.unitAt x (va + BitVec.ofInt 64 d) n wr with
    | .error e => .error e
    | .ok (s, key, _) =>
      if key < 2 ^ 47 then .error Code.cpSpace
      else if s.hostLost key then .error Code.poison
      else .ok (s, key, false))
  | .pad t off =>
    if !range off (2 ^ 18) then .error Code.addrWin
    else if t ≠ c ∧ s.fenced t = true then .error Code.fenced
    else if at_ off < (s.core t).codeEnd ∧ !(wr && code) then .error Code.xoAccess
    else fin s (padKey t (at_ off))
  | .lane t off =>
    if !range off (2 ^ 14) then .error Code.addrWin
    else if t ≠ c ∧ s.fenced t = true then .error Code.fenced
    else fin s (laneKey t (at_ off))
  | .acc t off =>
    if !range off 4096 then .error Code.addrWin
    else if s.accBusy t (at_ off / 1024) then .error 0
    else
      let key := accKey t (at_ off)
      if s.lostBytes key n then .error Code.poison else .ok (s.settle key n, key, false)
  | .scratch sl off =>
    let k := s.die (dieOfSlice sl)
    if !range off (2 ^ 24) then .error Code.addrWin
    else if k.oldScr.isSome ∧ Nat.min k.scr (k.oldScr.getD k.scr) * 2 ^ 20 ≤ at_ off then .error 0
    else if k.scr * 2 ^ 20 < at_ off + n then .error Code.addrWin
    else fin s (scratchKey sl (at_ off))
  | .mu m region off =>
    if region = 3 ∨ (region = 2 ∧ wr = true) ∨ !range off (if region = 2 then 65536 else 262144) then .error Code.addrWin
    else fin s (muKey m region (at_ off))

/-- Cuts a row into pieces that do not cross a 64-byte line: distance and bytes of each. -/
def cpPieces (b : CpBase) : Nat → Int → Nat → List (Int × Nat)
  | 0, _, _ => []
  | fuel + 1, d, n =>
    if n = 0 then []
    else
      let k := Nat.min n (64 - b.low d)
      (d, k) :: cpPieces b fuel (d + k) (n - k)

/-- Reads a row, or gives the code that stops the transfer and the address. -/
def State.cpRead (s : State) (x : Ctx) (c : Nat) (b : CpBase) (d : Int) (n : Nat) : Except (Nat × Word) (State × List Byte) :=
  (cpPieces b n d n).foldlM (fun (st : State × List Byte) p =>
    match st.1.cpAt x c b p.1 p.2 false false with
    | .error e => .error (e, b.addr p.1)
    | .ok (s, key, _) =>
      let bs := match b with
        | .acc t off => (List.range p.2).map (fun i => (s.core t).accByte (((off : Int) + p.1).toNat + i))
        | _ => s.mem.bytes key p.2
      .ok (s, st.2 ++ bs)) (s, [])

/-- A piece of a transfer performs, or is held back while its bytes lie in a held ring slot (R118, R354). -/
def State.cpPut (s : State) (q : Copy) (key : Nat) (bs : List Byte) (cached : Bool) : State :=
  if s.heldSlot key bs.length then
    { s with heldWrites := s.heldWrites ++ [⟨q.c, false, key, bs, some (clusterOf q.c, q.id)⟩] }
  else s.poke key bs cached

/-- Has a transfer writes that a held ring slot holds back (R354)? -/
def State.cpHeld (s : State) (q : Copy) : Bool := s.heldWrites.any (fun w => w.cp == some (clusterOf q.c, q.id))

/-- Writes a row at one of the places a transfer writes to. -/
def State.cpWrite (s : State) (x : Ctx) (q : Copy) (b : CpBase) (d : Int) (bs : List Byte) : Except (Nat × Word) State :=
  let r : Except (Nat × Word) (State × List Byte) :=
    (cpPieces b bs.length d bs.length).foldlM (fun (st : State × List Byte) (p : Int × Nat) =>
      match st.1.cpAt x q.c b p.1 p.2 true ((q.reg 6).getLsbD 1) with
      | .error e => .error (e, b.addr p.1)
      | .ok (s, key, cached) =>
        let s := if s.hostLost key then s.noteDiscard key
          else ((s.settleBlock (x.root.toNat % 4096) key).capture (x.root.toNat % 4096) key).cpPut q key (st.2.take p.2) cached
        .ok (s, st.2.drop p.2)) (s, bs)
  r.map (·.1)

/-! ### EF8 (R133 to R135) -/

/-- The next n bits of a stream, first bit most significant. -/
def takeBits : Nat → Nat → List Bool → Option (Nat × List Bool)
  | 0, v, l => some (v, l)
  | n + 1, v, b :: l => takeBits n (2 * v + b.toNat) l
  | _ + 1, _, [] => none

/-- The exponent code of an element (R134): the exponent and the bits left. -/
def ef8Exp (e0 t : Int) (l : List Bool) : Option (Int × List Bool) := do
  let (b, l) ← takeBits 1 0 l
  if b = 0 then return (e0 - t, l)
  let (c, l) ← takeBits 2 0 l
  match c with
  | 0 => return (e0 + 1 - t, l)
  | 1 => return (e0 - 1 - t, l)
  | 2 =>
    let (b, l) ← takeBits 1 0 l
    return (if b = 0 then e0 + 2 - t else e0 - 2 - t, l)
  | _ =>
    let (e, l) ← takeBits 4 0 l
    return ((e : Int), l)

/-- `n` elements of a block. -/
def ef8Elems (e0 t : Int) : Nat → List Bool → Option (List Byte × List Bool)
  | 0, l => some ([], l)
  | n + 1, l => do
    let (s, l) ← takeBits 1 0 l
    let (m, l) ← takeBits 3 0 l
    let (e, l) ← ef8Exp e0 t l
    if e < 0 ∨ 15 < e then none
    else
      let (r, l) ← ef8Elems e0 t n l
      return (BitVec.ofNat 8 (s * 128 + e.toNat * 8 + m) :: r, l)

/-- Decodes a block of which the index byte gives the length (R135). -/
def ef8Block (bs : List Byte) : Option (List Byte) := do
  let h := (bs.headD 0).toNat
  if bs.isEmpty ∨ h % 4 ≠ 0 then none
  else
    let stream := (bs.drop 1).flatMap (fun b => (List.range 8).map (fun i => b.getLsbD (7 - i)))
    let (r, rest) ← ef8Elems (h / 16) (h / 4 % 4) 32 stream
    if 8 ≤ rest.length ∨ rest.any id then none else return r

/-- Decodes the stream of a transfer: E4M3 bytes in shape order (R100). -/
def State.ef8Stream (s : State) (x : Ctx) (q : Copy) (src : CpBase) : Except (Nat × Word) (State × List Byte) := do
  let r ← (List.range (shapeCount q.rec_ / 32)).foldlM (fun (st : State × Nat × List Byte) (j : Nat) => do
    let (s, ix) ← st.1.cpRead x q.c (.glob (q.rec_ 5)) j 1
    let len := (ix.headD 0).toNat
    let (s, bs) ← s.cpRead x q.c src st.2.1 len
    match ef8Block bs with
    | none => throw (Code.ef8Bad, src.addr st.2.1)
    | some es => return (s, st.2.1 + len, st.2.2 ++ es)) (s, 0, [])
  return (r.1, r.2.2)

/-! ### Running a transfer (R98 to R102) -/

/-- The context of a transfer: the tables of its core, and the privilege of the code that did CPGO (R79). -/
def State.cpCtx (s : State) (q : Copy) : Ctx := { s.coreCtx q.c with sup := q.sup }

/-- Performs a transfer: each byte is read and written once (R102). -/
def State.cpRun (s : State) (q : Copy) : Except (Nat × Word) State := do
  let x := s.cpCtx q
  match cpBase q.c (q.reg 0) with
  | none => throw (Code.cpSpace, 0)
  | some src =>
    let (s, stream) ← if q.ef8 then s.ef8Stream x q src else pure (s, [])
    let r ← q.rows.foldlM (fun (st : State × List Byte) row => do
      let (s, bs, rest) ← if q.ef8 then pure (st.1, st.2.take row.2.2, st.2.drop row.2.2)
        else do
          let (s, bs) ← st.1.cpRead x q.c src row.1 row.2.2
          pure (s, bs, [])
      let s ← q.targets.foldlM (fun (s : State) t => s.cpWrite x q t row.2.1 bs) s
      return (s, rest)) (s, stream)
    return r.1

/-- Leaves free values in every destination byte that can be written, as a transfer that stopped may (R98). -/
def State.cpSpoil (s : State) (q : Copy) : State :=
  let x := s.cpCtx q
  q.rows.foldl (fun s row => q.targets.foldl (fun s t =>
    (cpPieces t row.2.2 row.2.1 row.2.2).foldl (fun (s : State) p =>
      match s.cpAt x q.c t p.1 p.2 true ((q.reg 6).getLsbD 1) with
      | .ok (s, key, cached) => { (s.cpPut q key (s.freeBytes p.2) cached) with free := s.free + p.2 }
      | .error _ => s) s) s) s

/-- A new ID is pending: the statuses of the 1,024 most recent of the cluster are kept (R101). -/
def Cluster.newCp (k : Cluster) (id : Nat) : Cluster := { k with cpStat := (k.cpStat ++ [(id, 1)]).drop (k.cpStat.length - 1023) }
/-- Sets the status of an ID: one that is no longer among the 1,024 most recent keeps none (R101). -/
def Cluster.keepCp (k : Cluster) (id st : Nat) : Cluster :=
  { k with cpStat := k.cpStat.map (fun e => if e.1 = id then (id, st) else e) }

/-- A transfer is over with a status: its binding delivers its node (R51, R101). -/
def State.cpEnd (s : State) (cl : Nat) (q : Copy) (st : Nat) : State :=
  (s.upCluster cl (fun k => { (k.keepCp q.id st) with copies := k.copies.filter (fun r => r.id != q.id) })).completeBind
    q.c (engineSrc 2 cl) symDone q.bind (BitVec.ofNat 64 q.id) (BitVec.ofNat 64 st)

/-- Bytes that a transfer writes (R373). -/
def Copy.size (q : Copy) : Nat := (q.rows.map (fun r => r.2.2)).foldl (· + ·) 0 * q.targets.length

/-- Does a transfer have to wait before it can go on? One that would end waits too for the node of its binding (R51, R420). -/
def State.cpWaits (s : State) (q : Copy) : Bool :=
  s.bindWaits q.c q.bind ||
    (if q.moved then s.cpHeld q
    else match s.cpRun q with
      | .error (0, _) => true
      | _ => false)

/-- COPY_TRANSFER_START (R101): up to 8 run, in CPGO order. -/
def execCopyTransferStart (cl : Nat) (s : State) : Host.Outcome State Fault Refusal :=
  let k := s.cluster cl
  .next (
    if 8 ≤ k.copies.countP (·.running) then s
    else match k.copies.find? (fun q => !q.running) with
      | none => s
      | some q => s.setCluster cl { k with copies := k.copies.map (fun r => if r.id = q.id then { r with running := true } else r) })

/-- After a CODE transfer the break bits of what it wrote are loaded again (R83, R370). -/
def State.refillCode (s : State) (q : Copy) : State :=
  if (q.reg 6).getLsbD 1 then
    q.rows.foldl (fun (u : State) r => q.targets.foldl (fun (u : State) t =>
      match t with
      | .pad c off => u.refillBreaks c ((off : Int) + r.2.1).toNat r.2.2
      | _ => u) u) s
  else s

/-- Everything of a transfer is written: it is over, or waits with its status for the writes that held ring slots hold back
(R354). -/
def State.cpMoved (s : State) (cl : Nat) (q : Copy) (st : Nat) : State :=
  if s.cpHeld q then
    s.upCluster cl (fun k => { k with copies := k.copies.map (fun r => if r.id = q.id then { r with moved := true, status := st } else r) })
  else s.cpEnd cl q st

/-- COPY_TRANSFER_COMPLETE (R98, R101, R102, R354, R395): the bytes move and the status is 0, once every write that a held
ring slot holds back has performed; or an access fault stops the transfer, leaves its destination unpredictable, and is
logged. How many of its bytes a stopped transfer has written the manual leaves open (R373, log 10). -/
def execCopyTransferComplete (cl id : Nat) (s : State) : Host.Outcome State Fault Refusal :=
  .next (match (s.cluster cl).copies.find? (fun q => q.id == id && q.running) with
    | none => s
    | some q =>
      if q.moved then (if s.cpHeld q then s else s.cpEnd cl q q.status)
      else match s.cpRun q with
      | .ok t => ((t.count q.c 10 q.size).refillCode q).cpMoved cl q 0
      | .error (0, _) => s
      | .error (code, addr) =>
        (((s.cpSpoil q).take.count q.c 10 ((Config.freeWord s.free).toNat % (q.size + 1))).logRec (dieOfCluster cl)
          { code := code, core := 16 * cl, unit := unitCopy, colour := (s.core q.c).colour, addr := addr, info := BitVec.ofNat 64 id }).cpMoved
          cl q code)

/-! ### Instructions (R291 to R294) -/

/-- CPSET (R291): an index of 7 traps. -/
def execCpset (h : Head) (d : XReg) (i : BitVec 3) (s : State) : Host.Outcome State Fault Refusal :=
  .next (
    if i = 7 then s.illegal
    else (s.upMe (fun k => { k with cp := k.cp.setIfInBounds i.toNat (s.getX d) })).advance h)

/-- CPGO (R95, R98, R101, R291). The queue is full with 64 transfers that have not started; the up to 8 that run do not count
(log 94). The shape record is read wherever in the scratchpad it lies, in the code region too (log 95). -/
def execCpgo (h : Head) (d : XReg) (s : State) : Host.Outcome State Fault Refusal :=
  let k := s.me
  let cl := s.cluster s.cl
  let shp := k.cp[3]?.getD 0
  let n := if cl.lastCp + 1 = 0 then 1 else cl.lastCp + 1
  let rec_ := if shp = 0 then none
    else some ((List.range 8).map (fun i =>
      BitVec.ofNat 64 (leVal (s.readFor s.cur (padKey s.cur (shp.toNat % 2 ^ 18 / 64 * 64 + 8 * i)) 8))))
  let q : Copy := ⟨n.toNat, s.cur, k.cp, rec_, k.bind, false, false, 0, s.lev.sup⟩
  .next (
    if s.inTwin then s.trap Code.ctxBad
    else match s.cpFault q with
      | some code => s.trap code
      | none =>
        if 64 ≤ cl.copies.countP (fun q => !q.running) ∨ s.releaseHold ∨ (q.size = 0 ∧ s.bindWaits q.c q.bind = true) then s.block .awake
        else
          let s := s.upCluster s.cl (fun k => { (k.newCp q.id) with lastCp := n, copies := k.copies ++ [q] })
          let s := s.upMe (fun k => { k with bind := none, cpIds := (k.cpIds ++ [q.id]).drop (k.cpIds.length - 1023) })
          let s := if q.size = 0 then s.cpEnd s.cl q 0 else s
          (s.setX d (n.setWidth 64)).advance h)

/-- The statuses of the transfers that the executing core has started and that the engine keeps, in ID order (R292). -/
def State.cpMine (s : State) : List (Nat × Nat) := (s.cluster s.cl).cpStat.filter (fun e => s.me.cpIds.contains e.1)

/-- The status of an ID, or for 0 of all of the core's: 1 while one is pending (R101, R292). -/
def State.cpStatus (s : State) (w : Word) : Nat :=
  if w = 0 then
    (if s.cpMine.any (fun e => e.2 == 1) then 1 else ((s.cpMine.find? (fun e => e.2 != 0)).map (·.2)).getD 0)
  else (((s.cluster s.cl).cpStat.find? (fun e => e.1 == bits w 0 32)).map (·.2)).getD 0

/-- CPWAIT (R292): the wait keeps the ID. -/
def execCpwait (h : Head) (d a : XReg) (s : State) : Host.Outcome State Fault Refusal :=
  let w := match s.waiting with | some v => v.arg | none => s.getX a
  .next (
    if s.inTwin then s.trap Code.ctxBad
    else if w ≠ 0 ∧ ahead (w.setWidth 32) (s.cluster s.cl).lastCp then s.trap Code.cpId
    else if s.cpStatus w = 1 then s.block .engine w
    else (s.setX d (BitVec.ofNat 64 (s.cpStatus w))).advance h)

/-- CPQ (R292). -/
def execCpq (h : Head) (d a : XReg) (s : State) : Host.Outcome State Fault Refusal :=
  let w := s.getX a
  .next (
    if w ≠ 0 ∧ ahead (w.setWidth 32) (s.cluster s.cl).lastCp then s.trap Code.cpId
    else (s.setX d (BitVec.ofNat 64 (s.cpStatus w))).advance h)

/-- CSHAPE (R97, R98, R293). -/
def execCshape (h : Head) (d a : XReg) (s : State) : Host.Outcome State Fault Refusal :=
  let va := s.getX a
  .next (match placeOf s.cur va with
    | .own off =>
      if va.toNat % 64 ≠ 0 then s.trap Code.align va
      else match s.plan va 64 false with
        | .trap c t => s.trap c t
        | .wait => s.block .awake
        | .recover st => (s.askRecovery st).block .awake
        | .late c _ => (s.sendFault c va).advance h
        | .discard _ _ => s.block .awake
        | .go key _ _ _ =>
          if s.heldSlot key 64 then s.block .awake
          else
            let r (i : Nat) : Word := BitVec.ofNat 64 (leVal (s.mem.bytes (padKey s.cur (off + 8 * i)) 8))
            let put (b : Word) : State := s.poke key (leBytes 8 ((r 0 &&& ~~~((1 : Word) <<< 63)) ||| b).toNat)
            match shapeFault r with
            | some i => (put 0).trap Code.shapeBad (BitVec.ofNat 64 i)
            | none => ((put (1 <<< 63)).setX d (BitVec.ofNat 64 (shapeCount r))).advance h
    | _ => s.trap Code.addrWin va)

/-- CPMC (R294). -/
def execCpmc (h : Head) (d a : XReg) (s : State) : Host.Outcome State Fault Refusal :=
  let slot := s.slotOf a
  let sector := (s.getX a).getLsbD 8
  .next (
    if !s.me.memberOf slot then s.trap Code.barNonmember
    else
      let members := match s.group? s.me.colour slot with | some g => g.members | none => []
      let n := if sector then 64 else 16
      let hit (i : Nat) : Bool := members.contains (if sector then sectorCore s.cur i else clusterOf s.cur * 16 + i)
      let mask : Nat := ((List.range n).map (fun i : Nat => (hit i).toNat * 2 ^ i)).sum
      let s := s.upMe (fun k => { k with
        cp := (k.cp.setIfInBounds 5 (BitVec.ofNat 64 mask)).setIfInBounds 6
          (((k.cp[6]?.getD 0) &&& ~~~(4 : Word)) ||| (if sector then 4 else 0)) })
      (s.setX d (BitVec.ofNat 64 ((List.range n).countP hit))).advance h)

end Sys2Proof.Machine
end

