-- ==== Sys2Proof/Machine/Dial.lean ====
section
/-! DEFINITION. The Dial: slot tables, virtual output queues, sending and receiving, the signal lane, and what happens to
ports and comb lines (R295 to R298, R341 to R351, R364, R416 to R419). -/

namespace Sys2Proof.Machine

/-! ### The slot table (R342, R344) -/

/-- DIAL.SLOT.DEST of entry e in force: dark at reset. -/
def Hub.slotDest (h : Hub) (e : Nat) : Word := h.dest.get (BitVec.allOnes 64) e
/-- DIAL.SLOT.TIME of entry e in force. -/
def Hub.slotTime (h : Hub) (e : Nat) : Word := h.dtime.get 0 e
/-- Is entry e enabled? -/
def Hub.slotOn (h : Hub) (e : Nat) : Bool := (h.slotTime e).getLsbD 32
/-- LEN of an entry, 10 ns units. -/
def Hub.slotLen (h : Hub) (e : Nat) : Nat := bits (h.slotTime e) 0 16
/-- GUARD of an entry, 10 ns units. -/
def Hub.slotGuard (h : Hub) (e : Nat) : Nat := bits (h.slotTime e) 16 16
/-- Period R of the rotation, 10 ns units (R344). -/
def Hub.period (h : Hub) : Nat := (((List.range 64).filter h.slotOn).map h.slotLen).foldl (· + ·) 0
/-- Has the table in force an enabled entry, so that it rotates (R342)? One whose slots all have length 0 has no rotation
(log 50). -/
def Hub.rotates (h : Hub) : Bool := decide (0 < h.period)
/-- The next instant E + k·R after the rotation that runs (R344). -/
def Hub.nextRotation (h : Hub) : Int :=
  (h.epoch : Int) + h.period * (((h.rotAt : Int) - h.epoch) / h.period + 1)
/-- The last instant of the microsecond that TIME names, 10 ns units of the reference timer. The timer waits for what the
Dial has to do until then (log 1). -/
def Hub.lastInstant (h : Hub) : Nat := h.time.toNat * 100 + 99
/-- Is a rotation to start within the microsecond that TIME names (R344)? -/
def Hub.rotationDue (h : Hub) : Bool := h.rotates && decide (h.nextRotation ≤ h.lastInstant)
/-- Start of enabled slot e in the rotation that runs (R344). -/
def Hub.slotStart (h : Hub) (e : Nat) : Nat :=
  h.rotAt + (((List.range e).filter h.slotOn).map h.slotLen).foldl (· + ·) 0

/-- The package that entry e names for port p: none for dark, which an entry without a window is on every port. -/
def Hub.slotPkg (h : Hub) (e p : Nat) : Option Nat :=
  let v := bits (h.slotDest e) (8 * p) 8
  if h.slotOn e && decide (h.slotGuard e < h.slotLen e) && decide (v < 144) then some v else none

/-- Time of a message on n wavelengths, in units of 1/(25·n) ns: LEN / (12.5·n) ns and 200 ns (R346, R418). -/
def dialTime (len n : Nat) : Nat := 2 * len + 5000 * n

/-- Window of an entry in the same units. -/
def Hub.windowTime (h : Hub) (e n : Nat) : Nat := (h.slotLen e - h.slotGuard e) * 250 * n

/-- The enabled slots that name a package on a port of a die, with the port (R296). -/
def Hub.slotsFor (h : Hub) (die pkg : Nat) : List (Nat × Nat) :=
  (List.range 64).flatMap (fun e => ([2 * die, 2 * die + 1].filter (fun p => h.slotPkg e p == some pkg)).map (fun p => (e, p)))

/-- Does a message of a length fit some slot that names its package, or is there no such slot (R296)? -/
def State.dialFits (s : State) (die pkg len : Nat) : Bool :=
  let sl := s.hub.slotsFor die pkg
  sl.isEmpty || sl.any (fun (e, p) => decide (dialTime len (s.port p).n ≤ s.hub.windowTime e (s.port p).n))

/-- A port sends light: it is neither dark nor gated, its die has power, and the timer is aligned (R345, R364, R418, R421). -/
def State.lit (s : State) (p : Nat) : Bool :=
  !(s.port p).dark && !(s.port p).noLight && s.hub.aligned && s.hub.power.get .full (p / 2) == .full

/-! ### Senders (R296, R346) -/

/-- Ends a send of a core: it is no longer waited for. -/
def State.dialForget (s : State) (m : DialMsg) : State := s.upCore m.c (fun k => { k with dsOut := k.dsOut.erase m.n })

/-- Ends a send with a fault after issue at its core (R296, R346, R348, R419). -/
def State.dialFail (s : State) (m : DialMsg) (code : Nat) : State :=
  let s := s.dialForget m
  if (s.core m.c).colour = m.colour then s.afterIssue m.c m.lvl code m.pc (BitVec.ofNat 64 m.n) 0 else s

/-- The place of a message's source, or the code of a source that is none (R296). -/
def dialSource (c : Nat) (va : Word) : Except Nat CpBase :=
  match placeOf c va with
  | .trans => .ok (.glob va)
  | .own off => .ok (.pad c off)
  | .scratch sl off => .ok (.scratch sl off)
  | .bad code => .error code
  | _ => .error Code.addrWin

/-- Reads the bytes of a message as it departs (R296, R347). -/
def State.dialRead (s : State) (m : DialMsg) : Except Nat (State × List Byte) :=
  match s.job? m.colour, dialSource m.c m.src with
  | some j, .ok b =>
    (match s.cpRead (j.ctx (clusterOf m.c)) m.c b 0 m.len with
    | .ok r => .ok r
    | .error (code, _) => .error code)
  | none, _ => .error Code.dialBad
  | _, .error code => .error code

/-- Translates the source of a message that has come to the head of its queue: one that faults is discarded, and the next is
the head (R296). `n` bounds the messages. -/
def State.settleHead (s : State) (die pkg : Nat) : Nat → State
  | 0 => s
  | n + 1 =>
    match (s.die die).voq.get [] pkg with
    | [] => s
    | m :: r =>
      match s.dialRead m with
      | .ok _ => s
      | .error 0 => s
      | .error code => ((s.upDie die (fun d => { d with voq := d.voq.set pkg r })).dialFail m code).settleHead die pkg n

/-- A queue has a new head. -/
def State.newHead (s : State) (die pkg : Nat) : State := s.settleHead die pkg ((s.die die).voq.get [] pkg).length

/-- Removes the heads of a queue for which slots exist but none fits (R346, R418). -/
def State.dropUnfit (s : State) (die pkg : Nat) : Nat → State
  | 0 => s
  | fuel + 1 =>
    match (s.die die).voq.get [] pkg with
    | [] => s
    | m :: r =>
      if s.dialFits die pkg m.len then s
      else (((s.upDie die (fun d => { d with voq := d.voq.set pkg r })).dialFail m Code.dialFit).newHead die pkg).dropUnfit die pkg fuel

/-- Removes the unfit heads of every queue of the package. -/
def State.dropAllUnfit (s : State) : State :=
  (List.range 4).foldl (fun s d => (List.range 144).foldl (fun s p => s.dropUnfit d p ((s.die d).voq.get [] p).length) s) s

/-- The rule of R346 at a port whose window is open, at the instant `used` of it: a flit to resend comes first (R417), then the
head of the queue if it ends before the guard. A head whose source faults as it departs is discarded and the next one
tested. -/
def State.portSend (s : State) (p : Nat) : Nat → State
  | 0 => s
  | fuel + 1 =>
    let k := s.port p
    match k.window.bind (fun e => (s.hub.slotPkg e p).map (fun pkg => (e, pkg))) with
    | none => s
    | some (e, pkg) =>
      if !s.lit p || k.sending.isSome || s.hub.slotAt != some e then s
      else match k.resend.find? (fun f => f.1.pkg == pkg) with
        | some f =>
          if s.hub.windowTime e k.n < k.used + 2 * 256 then s
          else s.setPort p { k with sending := some f.1, resend := k.resend.erase f, used := k.used + 2 * 256 }
        | none =>
          match (s.die (p / 2)).voq.get [] pkg with
          | [] => s
          | m :: r =>
            if !s.hub.dialEn || decide (s.hub.windowTime e k.n < k.used + dialTime m.len k.n) then s
            else
              let s' := s.upDie (p / 2) (fun d => { d with voq := d.voq.set pkg r })
              match s'.dialRead m with
              | .error 0 => s
              | .error code => ((s'.dialFail m code).newHead (p / 2) pkg).portSend p fuel
              | .ok (s', bs) =>
                (s'.setPort p { k with sending := some { m with data := bs }, used := k.used + dialTime m.len k.n }).newHead (p / 2) pkg

/-- A port applies the rule of R346. -/
def State.portTest (s : State) (p : Nat) : State :=
  s.portSend p (((s.die (p / 2)).voq.map (fun e => e.2.length)).foldl (· + ·) 1)

/-- A port applies the rule at an instant of the microsecond that TIME names, for a message that has come to an empty queue
(R360): which instant of it, the manual leaves open (log 46). -/
def State.portTestNow (s : State) (p : Nat) : State :=
  match (s.port p).window with
  | none => s
  | some e =>
    let now := s.hub.time.toNat * 100 + (Config.freeWord s.free).toNat % 100
    (s.take.upPort p (fun k => { k with used := Nat.max k.used ((now - s.hub.slotStart e) * 250 * k.n) })).portTest p

/-- Is the end of what a port sends within the microsecond that TIME names (R346)? -/
def State.sendDue (s : State) (p : Nat) : Bool :=
  let k := s.port p
  match k.window with
  | some e => decide (k.used ≤ (s.hub.lastInstant + 1 - s.hub.slotStart e) * 250 * k.n)
  | none => true

/-- The next slot of the rotation in which port p has a window (R344). -/
def State.nextSlot (s : State) (p : Nat) : Option Nat :=
  (List.range 64).find? (fun e => (s.hub.slotPkg e p).isSome && (match (s.port p).window with | some w => decide (w < e) | none => true))

/-- Does port p open its window of slot e next, within the microsecond that TIME names? The windows of a slot open together, after those of the slots before it, when
no port sends any longer in one of those; of the ports of a die the lower one comes first (R344, R346). -/
def State.windowTurn (s : State) (p e : Nat) : Bool :=
  s.nextSlot p == some e && decide (s.hub.slotStart e ≤ s.hub.lastInstant) && (List.range 8).all (fun q =>
    (match s.nextSlot q with | some f => decide (e ≤ f) && !(f == e && q / 2 == p / 2 && decide (q < p)) | none => true) &&
      ((s.port q).sending.isNone || (s.port q).window == some e))

/-- LINK_FAIL (R345, R418): a machine check without colour that names the port, its wavelengths and its spares. -/
def State.linkFail (s : State) (p : Nat) : State :=
  let k := s.port p
  s.machineCheck (p / 2) 0
    { code := Code.linkFail, core := 128 * (p / 2), unit := unitHub, info := pack [(16, k.spares), (8, k.n), (0, p)] }

/-- A wavelength of a port gives way to a spare, or is dropped: below 8 the port goes dark (R418). -/
def State.spareWavelength (s : State) (p : Nat) : State :=
  (s.upPort p (fun k =>
    if 0 < k.spares then { k with spares := k.spares - 1 }
    else { k with n := k.n - 1, dark := k.dark || decide (k.n - 1 < 8) })).linkFail p

/-! ### Instructions (R296 to R298) -/

/-- An own-scratchpad operand of an instruction that reads it at issue (R296, R298): `f` gets its offset. Earlier atomics and
held stores perform first (R120). -/
def State.padOperand (s : State) (h : Head) (va : Word) (n al : Nat) (f : State → Nat → State) : State :=
  match placeOf s.cur va with
  | .own off =>
    if va.toNat % al ≠ 0 then s.trap Code.align va
    else s.access h false none [⟨0, va, if s.releaseHold then .wait else s.planAt s.cur va n al false ⟨true, true, true⟩⟩]
      (fun s => f s off)
  | _ => s.trap Code.addrWin va

/-- A word of the executing core's scratchpad. -/
def State.padWord (s : State) (off : Nat) : Word := BitVec.ofNat 64 (leVal (s.readFor s.cur (padKey s.cur off) 8))

/-- Does a port's open window name a package (R346)? -/
def State.windowNames (s : State) (p pkg : Nat) : Bool :=
  match (s.port p).window with | some e => s.hub.slotPkg e p == some pkg | none => false

/-- DSEND (R296). A message that comes to an empty queue is its head at once: its source is translated, and an idle port whose
open window names the package tests it (R360), the lower one first. -/
def execDsend (h : Head) (d a : XReg) (s : State) : Host.Outcome State Fault Refusal :=
  .next (
    if s.inTwin then s.trap Code.ctxBad
    else s.padOperand h (s.getX a) 32 32 (fun s off =>
      let w (i : Nat) := s.padWord (off + 8 * i)
      let len := bits (w 2) 0 21
      let pkg := bits (w 2) 32 9
      let die := dieOf s.cur
      if len = 0 ∨ 2 ^ 20 < len ∨ 143 < pkg ∨ pkg = s.pkg.toNat ∨ s.hub.dom.getLsbD pkg = false ∨ bits (w 2) 41 23 ≠ 0 ∨
          bits (w 2) 21 11 ≠ 0 ∨ w 3 ≠ 0 then s.trap Code.dialBad
      else if !s.dialFits die pkg len then s.trap Code.dialFit
      else
        let n := if s.me.dsNum + 1 = 0 then 1 else s.me.dsNum + 1
        let first := ((s.die die).voq.get [] pkg).isEmpty
        let m : DialMsg := ⟨s.cur, s.me.lvl.val, s.pc, n.toNat, s.me.colour, w 0, w 1, len, pkg, []⟩
        let s := s.upDie die (fun k => { k with voq := k.voq.set pkg (k.voq.get [] pkg ++ [m]) })
        let s := s.upMe (fun k => { k with dsNum := n, dsOut := k.dsOut ++ [n.toNat] })
        let s := (s.setX d (n.setWidth 64)).advance h
        if first then ([2 * die, 2 * die + 1].filter (fun p => s.windowNames p pkg)).foldl (fun (u : State) p => u.portTestNow p)
          (s.newHead die pkg) else s))

/-- The receive counter of the executing core's job for a source package (R297, R347). -/
def State.dialCount (s : State) (pkg : Nat) : Nat := (s.hub.rcv.get [] s.me.colour).get 0 pkg

/-- DPOLL (R297): the wait keeps the count that x[D] held and the package. -/
def execDpoll (h : Head) (d a : XReg) (s : State) : Host.Outcome State Fault Refusal :=
  let w := s.getX a
  let arg : Word := match s.waiting with
    | some v => v.arg
    | none => BitVec.ofNat 64 (bits (s.getX d) 0 32 * 256 + bits w 0 8)
  let pkg := arg.toNat % 256
  .next (
    if 143 < pkg then s.trap Code.dialBad
    else if (s.waiting.isSome ∨ w.getLsbD 8 = true) ∧ s.dialCount pkg = arg.toNat / 256 then s.block .ext arg
    else (s.setX d (BitVec.ofNat 64 (s.dialCount pkg))).advance h)

/-- DSLOT (R297). -/
def execDslot (h : Head) (d a : XReg) (s : State) : Host.Outcome State Fault Refusal :=
  let w := s.getX a
  let e := bits w 0 6
  let v := if w.getLsbD 6 then
      pack [(40, s.hub.rot % 2 ^ 24), (32, (s.hub.slotOn e).toNat), (16, s.hub.slotGuard e), (0, s.hub.slotLen e)]
    else pack ((List.range 8).map (fun p =>
      let v := bits (s.hub.slotDest e) (8 * p) 8
      (8 * p, if 144 ≤ v ∨ (s.hub.slotOn e = true ∧ s.hub.slotLen e ≤ s.hub.slotGuard e) then 0xFF else v)))
  .next ((s.setX d v).advance h)

/-! ### Collectives of the signal lane (R298, R350, R351) -/

/-- Child ports of a tree in ascending order of the packages behind them (R298). -/
def childPorts (t kids : Word) : List Nat :=
  let before (p q : Nat) : Bool := decide (bits kids (8 * p) 8 < bits kids (8 * q) 8)
  ((List.range 8).filter (fun p => t.getLsbD (16 + p))).foldl (fun l p =>
    l.takeWhile (fun q => !before p q) ++ p :: l.dropWhile (fun q => !before p q)) []

/-- DIAL.TREE of a tree, and its child ports. -/
def Hub.children (h : Hub) (tree : Nat) : List Nat := childPorts (h.tree.get 0 tree) (h.kids.get 0 tree)

/-- Combination of two words (R298). -/
def dsigWord (op : Nat) (x y : Word) : Word :=
  match op with
  | 0 => x + y
  | 1 => if x.toInt < y.toInt then y else x
  | 2 => if y.toInt < x.toInt then y else x
  | 3 => x ||| y
  | 4 => x &&& y
  | 5 =>
    let half (i : Nat) : Word := (famoAdd32 ((x >>> (32 * i)).setWidth 32) ((y >>> (32 * i)).setWidth 32)).setWidth 64 <<< (32 * i)
    half 0 ||| half 1
  | _ => x

/-- Two FP32 numbers as an addition would deliver them: a NaN is the canonical one (R128). -/
def canonPair (w : Word) : Word :=
  (canon32 (w.setWidth 32)).setWidth 64 ||| ((canon32 ((w >>> 32).setWidth 32)).setWidth 64 <<< 32)

/-- Changes the collective at a place of the list. -/
def Hub.putRun (h : Hub) (i : Nat) (r : DsigRun) : Hub := { h with dsigs := h.dsigs.set i r }

/-- What a package sends on: its own contribution, if it makes one, combined with its children's in their order (R298,
R350). -/
def DsigRun.result (r : DsigRun) (kids : List Nat) : List Word :=
  let parts := kids.map (fun p => ((r.parts.find? (fun e => e.1 == p)).map (·.2)).getD [])
  match (r.own.map (·.own)).toList ++ parts with
  | [] => []
  | [ws] => if r.op = 5 then ws.map canonPair else ws
  | w0 :: l => l.foldl (fun ws cs => ws.zipIdx.map (fun (w, i) => dsigWord r.op w (cs[i]?.getD 0))) w0

/-- Has everything that a package of the tree combines come (R350, R351)? -/
def DsigRun.full (r : DsigRun) (t : Word) (kids : List Nat) : Bool :=
  (r.own.isSome || !t.getLsbD 25) && kids.all (fun p => r.parts.any (fun e => e.1 == p))

/-- Something leaves on a signal lane. -/
def State.laneSend (s : State) (m : LaneMsg) : State := s.upHub (fun h => { h with lane := h.lane ++ [m] })

/-- Sends on the first collective of a tree that is complete and has not gone up (R351): to the parent, and from the root
the result comes down at once. A package that does not contribute does so too (R350). -/
def State.dsigUp (s : State) (tree : Nat) : State :=
  let t := s.hub.tree.get 0 tree
  let kids := s.hub.children tree
  match s.hub.dsigs.findIdx? (fun r => r.tree == tree && !r.sent) with
  | none => s
  | some i =>
    match s.hub.dsigs[i]? with
    | none => s
    | some r =>
      if !r.full t kids then s
      else
        let s := s.upHub (fun h => h.putRun i { r with sent := true })
        if t.getLsbD 24 then s.push (dsigChan tree) (.dsigResultArrive tree (r.result kids))
        else s.laneSend (.part tree (bits t 8 3) r.op (r.result kids))

/-- DSIG (R298): the contribution is read at issue, and the core sleeps until the result has been written. -/
def execDsig (h : Head) (d a : XReg) (s : State) : Host.Outcome State Fault Refusal :=
  let va := s.getX a
  let c := s.getX d
  let tree := bits c 0 4
  let op := bits c 4 4
  let n := bits c 8 3 + 1
  let t := s.hub.tree.get 0 tree
  .next (
    match s.waiting with
    | some w =>
      if s.hub.dsigs.any (fun r => match r.own with | some o => o.id == w.arg.toNat | none => false) then s.block .ext w.arg
      else s.advance h
    | none =>
      if s.inTwin then s.trap Code.ctxBad
      else s.padOperand h va (8 * n) 8 (fun s off =>
        if 2 ^ 11 ≤ c.toNat ∨ 6 < op ∨ t.getLsbD 26 = false ∨ t.getLsbD 25 = false then s.trap Code.dialBad
        else if 2 ^ 18 < off + 8 * n then s.trap Code.addrWin va
        else
          let o : Dsig := ⟨s.ids, op, s.cur, s.me.lvl.val, s.pc, off, (List.range n).map (fun i => s.padWord (off + 8 * i))⟩
          let put (h : Hub) : Hub :=
            match h.dsigs.findIdx? (fun r => r.tree == tree && r.own.isNone) with
            | some i => h.putRun i { (h.dsigs[i]?.getD ⟨tree, op, none, [], false⟩) with own := some o }
            | none => { h with dsigs := h.dsigs ++ [⟨tree, op, some o, [], false⟩] }
          ((s.fresh.upHub put).dsigUp tree).block .ext (BitVec.ofNat 64 o.id)))

/-- DSIG_PARTIAL_ARRIVE (R351): a child's partial joins the first collective of the tree that lacks it. None comes on a tree
that is not configured. -/
def execDsigPartialArrive (tree port : Nat) (part : DsigPart) (s : State) : Host.Outcome State Fault Refusal :=
  let put (h : Hub) : Hub :=
    match h.dsigs.findIdx? (fun r => r.tree == tree && !(r.parts.any (fun e => e.1 == port))) with
    | some i =>
      let r := h.dsigs[i]?.getD ⟨tree, part.op, none, [], false⟩
      h.putRun i { r with parts := r.parts ++ [(port, part.ws)] }
    | none => { h with dsigs := h.dsigs ++ [⟨tree, part.op, none, [(port, part.ws)], false⟩] }
  .next (if (s.hub.tree.get 0 tree).getLsbD 26 then (s.upHub put).dsigUp tree else s)

/-- Does the level that contributed to a collective still wait for its result? One that left its DSIG by `rft.next` gets
none (R382). -/
def State.dsigWanted (s : State) (o : Dsig) : Bool :=
  (s.core o.c).lv.toList.any (fun v => (v.wait.toList ++ v.kept.toList).any (fun w =>
    w.reason == .ext && w.arg == BitVec.ofNat 64 o.id))

/-- DSIG_RESULT_ARRIVE (R298, R351): the result goes down every child port, is written over the bytes that contributed, and
the core wakes. -/
def execDsigResultArrive (tree : Nat) (ws : List Word) (s : State) : Host.Outcome State Fault Refusal :=
  .next (match s.hub.dsigs.findIdx? (fun r => r.tree == tree && r.sent) with
    | none => s
    | some i =>
      let own := (s.hub.dsigs[i]?).bind (·.own)
      let s := (s.hub.children tree).foldl (fun (u : State) p => u.laneSend (.result tree p ws))
        (s.upHub (fun h => { h with dsigs := h.dsigs.eraseIdx i }))
      (match own with
      | none => s
      | some o =>
        if s.dsigWanted o then
          s.store o.c (padKey o.c o.off) ((ws.take o.own.length).flatMap (fun (w : Word) => leBytes 8 w.toNat))
        else s).dsigUp tree)

/-! ### Rotations and windows (R342 to R346, R418) -/

/-- The staged table comes into force (R342): without an enabled entry no rotation runs. -/
def Hub.commit (h : Hub) : Hub :=
  let h : Hub := { h with dest := h.destIn, dtime := h.dtimeIn, pendCommit := false }
  { h with rotating := h.rotating && h.rotates }

/-- A commit (R342): at once when no rotation runs, which then starts at the next instant of the epoch (R344), at the next
rotation else. -/
def State.commit (s : State) : State :=
  if s.hub.rotates then s.upHub (fun h => { h with pendCommit := true })
  else (s.upHub (fun h => { h.commit with rotAt := h.time.toNat * 100 })).dropAllUnfit

/-- DIAL_COMMIT (R342). -/
def execDialCommit (s : State) : Host.Outcome State Fault Refusal :=
  .next (if s.hub.fail then s else s.commit)

/-- DIAL_ENABLE (R343). -/
def execDialEnable (en : Bool) (s : State) : Host.Outcome State Fault Refusal :=
  .next (if s.hub.fail then s else s.upHub (fun h => { h with dialEn := en }))

/-- The messages of a port that have departed without their acknowledgement, each once. -/
def Port.underWay (k : Port) : List DialMsg := (k.sending.toList ++ k.unacked ++ k.resend.map (·.1)).eraseDups

/-- Darkens a package in a destination word. -/
def darken (pkg : Nat) (w : Word) : Word :=
  pack ((List.range 8).map (fun p => (8 * p, if bits w (8 * p) 8 = pkg then 0xFF else bits w (8 * p) 8)))

/-- A package leaves the domain (R419): its slots darken, and what waits for it fails at its senders. Which trees lead through
it, and how Crown sets them up anew, are free values (log 10). -/
def State.removePackage (s : State) (pkg : Nat) : State :=
  let gone : List DialMsg := (List.range 4).flatMap (fun d => (s.die d).voq.get [] pkg) ++
    (List.range 8).flatMap (fun p => (s.port p).underWay.filter (fun m => m.pkg == pkg))
  let hit := Config.freeWord s.free
  let trees := (List.range 16).filter (fun t => hit.getLsbD t && (s.hub.tree.get 0 t).getLsbD 26)
  let s := (List.range 4).foldl (fun s d => s.upDie d (fun k => { k with voq := k.voq.erase pkg })) s
  let s := (List.range 8).foldl (fun s p => s.upPort p (fun k => { k with
    sending := k.sending.filter (fun m => m.pkg != pkg), unacked := k.unacked.filter (fun m => m.pkg != pkg), resend := k.resend.filter (fun f => f.1.pkg != pkg) })) s
  let s := gone.foldl (fun s m => s.dialFail m Code.dialBad) s
  let runs := s.hub.dsigs.filter (fun r => trees.contains r.tree)
  let free0 := s.free
  let s := s.upHub (fun h => { h with
    dom := h.dom &&& ~~~(1#192 <<< pkg)
    dest := (List.range 64).foldl (fun d e => d.set e (darken pkg (d.get (BitVec.allOnes 64) e))) h.dest
    tree := trees.foldl (fun m t => m.set t (Config.freeWord (free0 + 1 + t) &&& 0x07FF07FF)) h.tree
    kids := trees.foldl (fun m t => m.set t (Config.freeWord (free0 + 17 + t))) h.kids
    dsigs := h.dsigs.filter (fun r => !trees.contains r.tree) })
  let s := { s with free := s.free + 33 }
  runs.foldl (fun s r => match r.own with
    | some o => s.afterIssue o.c o.lvl Code.dialBad o.pc 0 0
    | none => s) s

/-- A message is refused at this package and counted (R342, R348). -/
def State.dialDrop (s : State) : State := s.upHub (fun h => { h with drops := Nat.min (h.drops + 1) (2 ^ 32 - 1) })

/-- Wavelengths of a port with more than 16 failures in the rotation at one of its ends (R418). -/
def Port.worn (k : Port) : Nat :=
  (k.fails ++ k.farFails).map (·.1) |>.eraseDups.countP (fun w => decide (16 < k.fails.get 0 w) || decide (16 < k.farFails.get 0 w))

/-- DIAL_ROTATION_START (R342, R344, R418, R419), at E + k·R: the rotation before is counted, worn wavelengths give way, a staged
table that waits comes into force, packages that are lost leave the domain, and heads that no longer fit are removed. -/
def execDialRotationStart (s : State) : Host.Outcome State Fault Refusal :=
  .next (
    if !s.hub.rotates then s.upHub (fun h => { h with rotating := false })
    else
      let s := s.upHub (fun h => { h with
        rot := if h.rotating then (h.rot + 1) % 2 ^ 24 else h.rot, rotating := true
        rotAt := h.nextRotation.toNat, slotAt := none })
      let s := (List.range 8).foldl (fun (s : State) p =>
        (List.range (s.port p).worn).foldl (fun s _ => s.spareWavelength p)
          (s.upPort p (fun k => { k with fails := [], farFails := [], window := none, used := 0 }))) s
      let s := if s.hub.pendCommit then s.upHub Hub.commit else s
      (s.hub.lost.foldl (fun (s : State) pkg => s.removePackage pkg) (s.upHub (fun h => { h with lost := [] }))).dropAllUnfit)

/-- DIAL_WINDOW_OPEN (R344, R346): the port's next slot begins, windows of earlier slots are over, and it tests the head of
the queue. -/
def execDialWindowOpen (port e : Nat) (s : State) : Host.Outcome State Fault Refusal :=
  .next (
    if s.windowTurn port e ∧ (s.port port).sending.isNone then
      ((s.upHub (fun h => { h with slotAt := some e })).upPort port (fun k => { k with window := some e, used := 0 })).portTest port
    else s)

/-- DIAL_MESSAGE_END (R346, R417): the message waits for its acknowledgement, and the port tests the next head. -/
def execDialMessageEnd (port : Nat) (s : State) : Host.Outcome State Fault Refusal :=
  let k := s.port port
  .next (match k.sending with
    | none => s
    | some m =>
      let again := k.resend.any (fun f => f.1.c == m.c && f.1.n == m.n)
      (s.setPort port { k with sending := none, unacked := if again then k.unacked else k.unacked ++ [m] }).portTest port)

/-- DIAL_ACK (R348, R349): a delivered message is no longer waited for; a refusal or a fault at the receiver is taken by
the sender after issue. -/
def execDialAck (pkg : Nat) (c : Nat) (n : Nat) (code : Nat) (s : State) : Host.Outcome State Fault Refusal :=
  let this (m : DialMsg) : Bool := m.c == c && m.n == n && m.pkg == pkg
  .next (match (List.range 8).findSome? (fun p => ((s.port p).unacked ++ (s.port p).resend.map (·.1)).find? this) with
    | none => s
    | some m =>
      let s := (List.range 8).foldl (fun (s : State) p => s.upPort p (fun k => { k with
        unacked := k.unacked.filter (fun m => !this m), resend := k.resend.filter (fun f => !this f.1) })) s
      if code = 0 then s.dialForget m else s.dialFail m code)

/-- DIAL_FLIT_NAK (R417, R418): a flit of a message of the port is to be sent again, ahead of what follows, and counts against
its wavelength at the receiver. -/
def execDialFlitNak (port : Nat) (f : FlitNak) (s : State) : Host.Outcome State Fault Refusal :=
  let this (m : DialMsg) : Bool := m.c == f.c && m.n == f.n
  .next (s.upPort port (fun k =>
    let k := { k with farFails := k.farFails.set f.wl (k.farFails.get 0 f.wl + 1) }
    match (k.sending.toList ++ k.unacked ++ k.resend.map (·.1)).find? this with
    | none => k
    | some m =>
      if k.resend.contains (m, f.off) then k
      else { k with resend := k.resend ++ [(m, f.off)], unacked := k.unacked.filter (fun m => !this m) }))

/-! ### Receivers (R347, R348, R417) -/

/-- Bytes of the flits of a message that have come: one flit for each 256 bytes. -/
def Incoming.complete (m : Incoming) : Bool := (List.range ((m.len + 255) / 256)).all (fun i => m.got.contains (256 * i))

/-- Writes received bytes through the page tables of the job, in pieces within 64-byte lines (R347), or gives the fault with
its address. -/
def State.dialWrite (s : State) (j : Job) (va : Word) (bs : List Byte) : Except (Nat × Word) State :=
  let r : Except (Nat × Word) (State × List Byte) := (cpPieces (.glob va) bs.length 0 bs.length).foldlM (fun (st : State × List Byte) (p : Int × Nat) =>
    match st.1.unitStore (j.ctx (j.cx + 8 * j.cy)) (va + BitVec.ofInt 64 p.1) (st.2.take p.2) with
    | .error e => .error (e, va + BitVec.ofInt 64 p.1)
    | .ok s => .ok (s, st.2.drop p.2)) (s, bs)
  r.map (·.1)

/-- Does what a flit writes wait for the host link (R420)? -/
def State.flitWaits (s : State) (f : Flit) : Bool :=
  f.crcOk && s.hub.link == .down &&
    (match s.job? f.colour with
    | some j => (match s.dialWrite j (f.dst + BitVec.ofNat 64 f.off) f.data with | .error (0, _) => true | _ => false)
    | none => false)

/-- DIAL_FLIT_RECEIVE (R347, R348, R417, R418): a flit whose CRC fails counts against its wavelength and comes again. A
message of a colour that no job has, or has any longer, is discarded and counted once; one that faults is not counted by the job. Both are
reported to the sending package when their last flit has come (log 76). -/
def execDialFlitReceive (port : Nat) (f : Flit) (s : State) : Host.Outcome State Fault Refusal :=
  .next (
    if !f.crcOk then (s.upPort port (fun k => { k with fails := k.fails.set f.wl (k.fails.get 0 f.wl + 1) })).laneSend
      (.flit f.src f.c f.n f.off f.wl false)
    else
      let s := s.laneSend (.flit f.src f.c f.n f.off f.wl true)
      let this (m : Incoming) : Bool := m.src == f.src && m.c == f.c && m.n == f.n && m.colour == f.colour
      let s := if s.hub.incoming.any this then s
        else
          (s.upHub (fun h => { h with
            incoming := h.incoming ++ [⟨s.ids, f.src, f.c, f.n, f.colour, f.len, [], 0⟩] })).fresh
      match s.hub.incoming.find? this with
      | none => s
      | some m =>
        let (s, bad) := match s.job? f.colour with
          | none => if m.bad = 0 then (s.dialDrop, Code.dialBad) else (s, m.bad)
          | some j =>
            if m.bad ≠ 0 then (s, m.bad)
            else match s.dialWrite j (f.dst + BitVec.ofNat 64 f.off) f.data with
              | .ok s => (s, 0)
              | .error e => (s, e.1)
        let m' : Incoming := { m with got := m.got ++ [f.off], bad := bad }
        if m'.complete ∧ bad ≠ 0 then
          (s.upHub (fun h => { h with incoming := h.incoming.filter (fun q => !this q) })).laneSend (.fate f.src f.c f.n bad)
        else
          let s := s.upHub (fun h => { h with incoming := h.incoming.map (fun q => if this q then m' else q) })
          if m'.complete then s.pushFree (.dialMessageDelivered f.src m.id) else s)

/-- DIAL_MESSAGE_DELIVERED (R297, R347 to R349): the receive counter of the job increases, and the sending package is told. A
message whose job has ended by then is refused. -/
def execDialMessageDelivered (src n : Nat) (s : State) : Host.Outcome State Fault Refusal :=
  .next (match s.hub.incoming.find? (fun m => m.src == src && m.id == n) with
    | none => s
    | some m =>
      let s := s.upHub (fun h => { h with incoming := h.incoming.filter (fun q => q.id != n) })
      if m.bad ≠ 0 then s
      else if (s.job? m.colour).isNone then s.dialDrop.laneSend (.fate src m.c m.n Code.dialBad)
      else (s.upHub (fun h =>
        let k := h.rcv.get [] m.colour
        { h with rcv := h.rcv.set m.colour (k.set src ((k.get 0 src + 1) % 2 ^ 32)) })).laneSend (.fate src m.c m.n 0))

/-! ### Ports and modules (R345, R364, R416, R418, R419) -/

/-- DIAL_TIMER_DRIFT (R345): the ports darken and LINK_FAIL is raised until the timer is aligned. -/
def execDialTimerDrift (s : State) : Host.Outcome State Fault Refusal :=
  .next ((List.range 8).foldl (fun s p => s.linkFail p) (s.upHub (fun h => { h with aligned := false })))

/-- DIAL_TIMER_ALIGNED (R345). -/
def execDialTimerAligned (s : State) : Host.Outcome State Fault Refusal := .next (s.upHub (fun h => { h with aligned := true }))

/-- LOSS_OF_RETURN_LIGHT (R364, R418): the port is gated dark, a port loss. -/
def execLossOfReturnLight (port : Nat) (s : State) : Host.Outcome State Fault Refusal :=
  .next ((s.upPort port (fun k => { k with noLight := true })).linkFail port)

/-- RETURN_LIGHT_RESTORED (R364): the gate opens again. -/
def execReturnLightRestored (port : Nat) (s : State) : Host.Outcome State Fault Refusal :=
  .next (s.upPort port (fun k => { k with noLight := false }))

/-- DIAL_PRESENCE_LOSS (R419): the package leaves the domain at the next rotation boundary, and at once where no rotation runs
(log 112). -/
def execDialPresenceLoss (pkg : Nat) (s : State) : Host.Outcome State Fault Refusal :=
  let s := s.upHub (fun h => { h with gone := h.gone ||| (1#192 <<< pkg), come := h.come &&& ~~~(1#192 <<< pkg) })
  .next (if s.hub.rotating then s.upHub (fun h => { h with lost := h.lost ++ [pkg] }) else s.removePackage pkg)

/-- MODULE_INSERTION (R362, R419): the package joins the domain at the next bring-up step 6 (log 112). -/
def execModuleInsertion (pkg : Nat) (s : State) : Host.Outcome State Fault Refusal :=
  .next (s.upHub (fun h => { h with come := h.come ||| (1#192 <<< pkg), gone := h.gone &&& ~~~(1#192 <<< pkg) }))

/-- A comb line of an MU's wavelength w is lost: its spare takes over at the next boundary, or the wavelength is gone
(R416). -/
def State.muLine (s : State) (mu w : Nat) : State :=
  let m := s.mu mu
  let cl := mu / 2
  let st := m.lam[w]?.getD 0
  let report (s : State) (info : Nat) : State := s.report1 none cl
    { code := Code.combLoss, core := 16 * cl, unit := unitMu, colour := (s.cluster cl).job.getD 0, info := BitVec.ofNat 64 info }
    ⟨Code.combLoss, 0, 0, 0, false⟩
  if st = 2 ∨ m.due.contains w then s
  else if st = 0 then
    report (s.setMu mu { m with due := m.due ++ [w], stream := m.stream.map (fun p => { p with suspect := true }) }) w
  else report (s.setMu mu { m with lam := m.lam.setIfInBounds w 2 }) (w + 0x100)

/-- COMB_LOSS (R12, R416, R418; log 49): lines 0 to 7 carry the wavelengths of the MUs, 8 to 15 are their spares, 16 to 34 are the
Dial's: a lost one counts as worn at the next rotation of both ports of the die. A spare line that is lost while no
wavelength stands on it, or a switch to it is only due, leaves no trace: a later loss of its line still moves there. -/
def execCombLoss (die w : Nat) (s : State) : Host.Outcome State Fault Refusal :=
  let mus := (List.range 64).filter (fun m => dieOfCluster (m / 2) == die)
  .next (
    if w < 8 then mus.foldl (fun s m => s.muLine m w) s
    else if w < 16 then mus.foldl (fun s m => if (s.mu m).lam[w - 8]?.getD 0 = 1 then s.muLine m (w - 8) else s) s
    else if w < 35 then [2 * die, 2 * die + 1].foldl (fun s p => s.upPort p (fun k => { k with fails := k.fails.set (w - 16) 17 })) s
    else s)

end Sys2Proof.Machine
end

