-- ==== Sys2Proof/Machine/Group.lean ====
section
/-! DEFINITION. Barriers and group collectives at the Weir of a group's lowest member (R61, R222 to R224, R396). -/

namespace Sys2Proof.Machine

/-- A group's standing at a Weir. -/
def State.groupAt (s : State) (cl slot : Nat) : Group := (s.cluster cl).groups.get ⟨0, [], []⟩ slot
/-- Replaces it. -/
def State.setGroup (s : State) (cl slot : Nat) (g : Group) : State :=
  s.upCluster cl (fun k => { k with groups := k.groups.set slot g })

/-- Members of the group of a slot in the job that a cluster holds. -/
def State.membersAt (s : State) (cl slot : Nat) : List Nat :=
  match (s.cluster cl).job with
  | some col => (match s.group? col slot with | some g => g.members | none => [])
  | none => []

/-- BARRIER_ARRIVAL (R61, R396): the last member's arrival completes the phase, and the notices are on their way. -/
def execBarrierArrival (cl slot c : Nat) (s : State) : Host.Outcome State Fault Refusal :=
  let g := s.groupAt cl slot
  let ms := s.membersAt cl slot
  let here := g.here ++ [c]
  .next (
    if ms.all here.contains then
      ms.foldl (fun (u : State) m => u.push (noticeChan cl m) (.barrierCompletionNotice m slot g.phase))
        (s.setGroup cl slot { g with phase := (g.phase + 1) % 2 ^ 32, here := [] })
    else s.setGroup cl slot { g with here := here })

/-- BARRIER_COMPLETION_NOTICE (R222): the member's ARRIVED is cleared. -/
def execBarrierCompletionNotice (c slot phase : Nat) (s : State) : Host.Outcome State Fault Refusal :=
  .next (s.upCore c (fun k =>
    if NMap.find? k.arrived slot = some phase then { k with arrived := k.arrived.erase slot } else k))

/-- Combines two contributions under an OP of GRED (R223). -/
def gredOp (op : Nat) (a b : Word) : Word :=
  match op with
  | 0 => a + b
  | 1 => if a.toInt ≤ b.toInt then a else b
  | 2 => if a.toInt ≤ b.toInt then b else a
  | 3 => a &&& b
  | 4 => a ||| b
  | 5 => a ^^^ b
  | 6 => if a ≤ b then a else b
  | 7 => if a ≤ b then b else a
  | _ => ((fadd32 .rne (a.setWidth 32) (b.setWidth 32)).1).setWidth 64

/-- The result of a collective from the contributions in rank order (R223). -/
def collValue (ks : List Contribution) : Word :=
  match ks with
  | [] => 0
  | k :: r =>
    if k.gbc then ((k :: r)[k.root]?.map (·.v)).getD 0
    else r.foldl (fun v c => gredOp k.op v c.v) (if k.op = 8 then (canon32 (k.v.setWidth 32)).setWidth 64 else k.v)

/-- Do contributions agree in kind, OP and root (R224)? -/
def collAgree (ks : List Contribution) : Bool :=
  match ks with
  | [] => true
  | k :: r => r.all (fun c => c.gbc == k.gbc && c.op == k.op && c.root == k.root)

/-- COLLECTIVE_CONTRIBUTION (R223): the last contribution gives every member the result. -/
def execCollectiveContribution (cl slot : Nat) (k : Contribution) (s : State) : Host.Outcome State Fault Refusal :=
  let g := s.groupAt cl slot
  let ms := s.membersAt cl slot
  let all := g.contrib.map (·.2) ++ [k]
  let ranked := ms.filterMap (fun m => all.find? (fun c => c.c == m))
  .next (
    if ranked.length = ms.length then
      ms.foldl (fun (u : State) m => u.push (noticeChan cl m) (.collectiveResult m slot (collAgree ranked) (collValue ranked)))
        (s.setGroup cl slot { g with contrib := [] })
    else s.setGroup cl slot { g with contrib := g.contrib ++ [(k.c, k)] })

/-- COLLECTIVE_RESULT (R223, R224): the interlocked result lands, or COLL_MISMATCH is taken after issue and x[D] keeps its
value. -/
def execCollectiveResult (c slot : Nat) (ok : Bool) (v : Word) (s : State) : Host.Outcome State Fault Refusal :=
  .next (match NMap.find? (s.core c).coll slot with
    | none => s
    | some (lvl, pc, d) =>
      let s := s.upCore c (fun k => { k with coll := k.coll.erase slot })
      if ok then s.landLocked c lvl d v
      else
        let s := if h : lvl < 4 then s.upCore c (fun k => k.upLv ⟨lvl, h⟩ (fun v => { v with locks := v.locks.erase d })) else s
        s.afterIssue c lvl Code.collMismatch pc 0 0)

end Sys2Proof.Machine
end

