-- ==== Sys2Proof/Machine/Fetch.lean ====
section
/-! DEFINITION. Instruction boundaries: fetching, holding before issue, and what a core does before it fetches (R56, R80,
R82, R180, R183, R184, R369 to R371). -/

namespace Sys2Proof.Machine

/-- Why a marker holds the running level of the executing core: results are outstanding (R184). A marker that waits for a
redeem sleeps with reason TICKET (R235, R397). -/
def State.markHold (s : State) : Option WaitReason :=
  let v := s.lev
  if v.out.isEmpty then none else some (if v.out.any (·.redeem) then .ticket else .awake)

/-- Does the base word of the instruction in these words carry the marker? -/
def markedWords (ws : List W16) : Bool :=
  match ws[wordsRead Parts.empty ws - 1]? with
  | some w => w.getLsbD 15 && w.extractLsb' 10 5 != 31
  | none => false

/-- Registers whose interlocked result has not landed: the running level's, and of the registers that the levels share those
of every level (R183, R186). -/
def Core.locked (k : Core) : List XReg :=
  k.lv[k.lvl].locks ++ (k.lv.toList.flatMap (·.locks)).filter (fun r => decide (32 ≤ r.toNat))

/-- Why the running level of the executing core holds an instruction back before issue: a marker with results
outstanding (R184), or a register whose interlocked result has not landed (R183). A reader of a collective's result sleeps
with reason BARRIER; every other hold but a redeem's is awake (R223, R235, R397). -/
def State.held? (s : State) (i : Instr) : Option WaitReason :=
  let v := s.lev
  let k := s.me
  if i.head.s && !v.out.isEmpty then s.markHold
  else if k.locked.any (i.xRegs.contains ·) then
    some (if k.coll.any (fun e => i.xRegs.contains e.2.2.2) then .barrier else .awake)
  else none

/-- Holds the instruction at the program counter before issue. -/
def State.holdBack (s : State) (r : WaitReason) : State :=
  s.upLev (fun v => { v with wait := some { reason := r, pc := v.pc, arg := 0, stamp := s.changes s.cur, gate := true } })

/-- A cycle in which the core runs a level passes (R235). -/
def Core.ticked (k : Core) : Core :=
  { k with tickCount := if k.tickCount = BitVec.allOnes 32 then k.tickCount else k.tickCount + 1 }

/-- The state in which an instruction that was held before issue is looked at again. -/
def State.unheld (s : State) : State :=
  if s.lev.wait.any (·.gate) then s.upLev (fun v => { v with wait := none }) else s

/-- An instruction issues: CORE.TICK.COUNT and the count of issued instructions take it, once (R235, R373, R425, log 7). One
that sleeps or fences has issued before. -/
def State.issued (s : State) : State :=
  if s.lev.wait.any (fun w => !w.gate && (w.reason != .awake || w.fence)) then s
  else ((s.unheld).upMe Core.ticked).count s.cur 2

/-- A core that looks again from a sleep has been asleep for a number of cycles that only the timing of the part gives: what
event 12 counts (R373; log 10, log 81). -/
def State.slept (s : State) : State :=
  if s.lev.asleep then (s.count s.cur 12 (Config.freeWord s.free).toNat).take else s

/-- Is there something for the core to do at an instruction boundary other than its next instruction: a fault to take,
a message to start, a tick missed? -/
def State.interrupted (s : State) (c : Nat) : Bool :=
  let k := s.core c
  let v := k.lv[k.lvl]
  !v.faults.isEmpty || (!k.pend.isEmpty && !v.active) ||
    (List.range 4).any (fun l => decide (k.lvl.val < l) && !(k.hq[l]?.getD []).isEmpty) ||
    (k.tickLimit != 0 && decide (k.tickLimit ≤ k.tickCount) && v.wait.all (fun w => w.reason == .awake))

/-- Has a core stopped for a pre-emption: at level 0 with no handler due, between activations and tasks or asleep with a
wait reason (R326)? One asleep in a FENCE of an activation has not (R114). -/
def State.parked (s : State) (c : Nat) : Bool :=
  let k := s.core c
  let v := k.lv[k.lvl]
  k.lvl == 0 && k.hq.toList.all (·.isEmpty) && ((!k.inact && !k.intask) || v.wait.any (fun w => w.reason != .awake && !w.fence))

/-- Is step 1 of a pre-emption over for the cores of a job (R326, R397)? No activation or task of theirs runs on: each has
retired, or sleeps with a wait reason. -/
def State.activationsDone (s : State) (j : Job) : Bool :=
  j.allCores.all (fun c =>
    let k := s.core c
    k.status != .running || (!k.inact && !k.intask) || k.lv[(0 : Fin 4)].wait.any (fun w => w.reason != .awake && !w.fence))

/-- Is core `c` stopped because its job is being pre-empted or is switched out (R326)? -/
def State.offDuty (s : State) (c : Nat) : Bool :=
  match (s.cluster (clusterOf c)).job.bind s.job? with
  | some j => j.out || (j.preempting && s.parked c)
  | none => false

/-- Does core `c` run a level without issuing: held awake at a marker, an interlock or a stall, and not stopped by a
debugger or for a pre-emption (R235, R397)? -/
def State.heldAwake (s : State) (c : Nat) : Bool :=
  let k := s.core c
  k.status == .running && k.dbg != .stopped && k.dbg != .draining && !s.contained c && !s.offDuty c &&
    k.lv[k.lvl].wait.any (fun w => w.reason == .awake)

/-- Time passes: CORE.TICK.COUNT of every core that is held awake counts on (R235, R397; log 7). -/
def State.heldTicks (s : State) : State :=
  { s with cores := s.cores.map (fun e => (e.1, if s.heldAwake e.1 then e.2.ticked else e.2)) }

/-- Is the job of core `c` one without a net heap (R281)? -/
def State.noNet (s : State) (c : Nat) : Bool :=
  match s.job? (s.core c).colour with
  | some j => (j.launch.lpb[8]?.getD 0) == 0
  | none => true

/-- Is core `c` at a stop point (R369): level 0 between activations or tasks with no handler running, or for a job
without a net heap any boundary of level 0? -/
def State.stopPoint (s : State) (c : Nat) : Bool :=
  let k := s.core c
  decide (k.lvl = 0) && (s.noNet c || (!k.inact && !k.intask))

/-- The debug stop that core `c` takes before it issues, if one is due (R369). -/
def State.stopDue (s : State) (c : Nat) : Bool := (s.core c).dbg == .stopping && s.stopPoint c

/-- Can core `c` move: it is started, not halted, fenced or stopped by a debugger, and it is awake or something has
changed since it last looked (R63), or a debug stop is due there (R369)? -/
def State.runnable (s : State) (c : Nat) : Bool :=
  let k := s.core c
  k.status == .running && k.dbg != .stopped && k.dbg != .draining && !s.contained c && !s.offDuty c &&
    (s.interrupted c || s.stopDue c || (match k.lv[k.lvl].wait with | none => true | some w => decide (w.stamp < s.changes c)))

/-- Is the break bit of the instruction at the program counter set, which has not issued (R370)? -/
def State.breakDue (s : State) (c : Nat) : Bool :=
  let k := s.core c
  let v := k.lv[k.lvl]
  (k.dbg == .run || k.dbg == .stopping) && k.brk.contains v.pc.toNat && v.wait.all (fun w => w.gate || w.pc != v.pc)

/-- Is the running level of core `c` held at an instruction that has not issued: at a marker or an interlock, or before a
queue that is full (R183, R184, R274)? -/
def State.unissued (s : State) (c : Nat) : Bool :=
  let k := s.core c
  k.lv[k.lvl].wait.any (fun w => w.gate || (w.reason == .awake && !w.fence))

/-- The debugger's part after a move of core `c` (R371): a single step stops once its instruction has issued, a command once
it is queued; a break bit passed is behind. -/
def State.afterStep (s : State) (c : Nat) : State :=
  match (s.core c).dbg with
  | .stepping d =>
    if s.unissued c then s
    else if d then s.upCore c (fun k => { k with dbg := .draining })
    else s.upCore c (fun k => { k with dbg := .stopped })
  | .passing => s.upCore c (fun k => { k with dbg := .run })
  | _ => s

end Sys2Proof.Machine
end

