-- ==== Sys2Proof/Machine/Land.lean ====
section
/-! DEFINITION. What comes about at a core after issue: results that land, stores acknowledged, atomics performed, walks,
parity recovery, class 1 faults, missed ticks and break bits (R68, R78, R116, R184, R202, R370, R384, R397, R408). -/

namespace Sys2Proof.Machine

/-- A vector register with the lanes of a result; a lane without a value is left as it is. -/
def mergeLanes (v : Lanes) (ls : List (Option W32)) : Lanes :=
  Vector.ofFn (fun (i : Fin 8) => ((ls[i.val]?).join).getD v[i])

/-- A result is no longer outstanding (R184). -/
def State.paid (s : State) (c lvl id : Nat) : State :=
  if h : lvl < 4 then
    s.upCore c (fun k => k.upLv ⟨lvl, h⟩ (fun v => { v with out := v.out.filter (fun o => o.id != id) }))
  else s

/-- Writes the general register of a result at its level (R184). -/
def State.landX (s : State) (c lvl : Nat) (d : XReg) (w : Word) : State :=
  if h : lvl < 4 then s.upCore c (fun k => k.setX ⟨lvl, h⟩ d w) else s

/-- Writes the vector register of a result at its level. -/
def State.landV (s : State) (c lvl : Nat) (d : VReg) (ls : List (Option W32)) : State :=
  if h : lvl < 4 then s.upCore c (fun k => k.setV ⟨lvl, h⟩ d (mergeLanes (k.getV ⟨lvl, h⟩ d) ls)) else s

/-- RESULT_LAND (R184): the result is written to its destination, or its fault is taken at the next boundary of the
issuing level (R202). The fault of an access without a destination is its acknowledgement as well (R114, log 17). -/
def execResultLand (c lvl id : Nat) (pc : Word) (r : Landing) (s : State) : Host.Outcome State Fault Refusal :=
  let due := s.owes c lvl id
  let s := s.paid c lvl id
  .next (match r with
    | .regs rs => rs.foldl (fun (u : State) e => u.landX c lvl e.1 e.2) s
    | .vec d ls => s.landV c lvl d ls
    | .bytes off bs => s.storeAt c (padKey c off) bs true
    | .fault code tval text =>
      (if due then s else s.upCore c (fun k => { k with stores := k.stores - 1 })).afterIssue c lvl code pc tval text)

/-- STORE_ACK (R68, R114). -/
def execStoreAck (c : Nat) (s : State) : Host.Outcome State Fault Refusal :=
  .next (s.upCore c (fun k => { k with stores := k.stores - 1 }))

/-! ### Atomics (R116, R146, R225, R227) -/

/-- The integer that the low `n` bytes of a word stand for. -/
def signedOf (n : Nat) (w : Word) : Int := (sext (8 * n) w).toInt

/-- The new value at the location of an atomic, none for a comparison that fails. -/
def atomValue (a : Atom) (old : Word) : Option Word :=
  let half (f : W32 → W32 → W32) (lo : Nat) : Nat := (f (BitVec.ofNat 32 (bits old lo 32)) (BitVec.ofNat 32 (bits a.v lo 32))).toNat
  let add (x y : W32) : W32 := (fadd32 .rne x y).1
  match a.op with
  | .add => some (old + a.v)
  | .and => some (old &&& a.v)
  | .or => some (old ||| a.v)
  | .xor => some (old ^^^ a.v)
  | .min => some (if signedOf a.n old ≤ signedOf a.n a.v then old else a.v)
  | .max => some (if signedOf a.n old ≤ signedOf a.n a.v then a.v else old)
  | .minu => some (if old ≤ a.v then old else a.v)
  | .maxu => some (if old ≤ a.v then a.v else old)
  | .swap => some a.v
  | .cas => if old = a.cmp then some a.v else none
  | .fadd => some (BitVec.ofNat 64 (half add 0))
  | .fadd2 => some (BitVec.ofNat 64 (half add 0 + half add 32 * 2 ^ 32))
  | .fmax => some (BitVec.ofNat 64 (half fmax32 0))
  | .fmin => some (BitVec.ofNat 64 (half fmin32 0))

/-- Is a key one of a scratchpad behind a fence, seen from core `c` (R390)? -/
def State.fencedKey (s : State) (c key : Nat) : Bool :=
  match padOwner key with | some t => t != c && s.fenced t | none => false

/-- Channel of an atomic's answer to core `c`: that of what it was performed at (R332, R333). -/
def atomAnswerChan (key c : Nat) : Nat :=
  match padOwner key with | some t => padAnswerChan t c | none => answerChan (sliceOfKey key) c

/-- ATOMIC_PERFORM (R116): the location is read and written in one step, and the old value is on its way to x[d]. Host memory
behind a failed link is POISON (R420). -/
def execAtomicPerform (c lvl id : Nat) (pc : Word) (d : XReg) (at_ : Atom) (s : State) : Host.Outcome State Fault Refusal :=
  let s := (s.settle at_.key at_.n).settleBlock (s.core c).colour at_.key
  let reply (u : State) (l : Landing) : State := u.push (atomAnswerChan at_.key c) (.resultLand c lvl id pc l)
  let fail (code : Nat) : State :=
    reply (if d = 0 then s.upCore c (fun k => { k with stores := k.stores + 1 }) else s) (.fault code at_.va 0)
  .next (
    if s.fencedKey c at_.key then fail Code.fenced
    else if s.poisoned at_.key at_.n || s.hostLost at_.key then fail Code.poison
    else
      let old := BitVec.ofNat 64 (leVal (s.readFor c at_.key at_.n))
      let s := match atomValue at_ old with
        | some w => s.storeAt c at_.key (leBytes at_.n w.toNat) at_.cached
        | none => s
      if d = 0 then s else reply s (.regs [(d, old)]))

/-! ### Walks, parity and scrubbing -/

/-- TLB_WALK (R73 to R78). -/
def execTlbWalk (w : Walk) (s : State) : Host.Outcome State Fault Refusal := .next (s.doWalk w)

/-- PARITY_RECOVERY (R408): the recovery engine works on the stripe in which an access found a bad word. Where a word of
code was found beyond recovery the machine check of R409 stands for the access. A line of HBM4 that the ECC of its stack
cannot correct is lost (R410). -/
def execParityRecovery (what : Recovery) (_lvl _c : Nat) (_pc : Word) (s : State) : Host.Outcome State Fault Refusal :=
  .next (match what with
    | .stripe n => s.recover n
    | .line n => s.eccLost n)

/-- The damaged stripes whose array a slice keeps: its scratch, its ticket data buffers, and the lines of L2 whose home it
is (R407, R408). -/
def State.scrubStripes (s : State) (sl : Nat) : List Nat :=
  ((s.damage.filter (fun e =>
    let key := e.1 * 8
    if isGlobal key then homeSlice key == sl
    else (decide (scratchKey sl 0 ≤ key) && decide (key < scratchKey (sl + 1) 0)) ||
      (decide (tkKey sl 0 0 ≤ key) && decide (key < tkKey (sl + 1) 0 0)))).map (fun e => stripeOf e.1)).eraseDups

/-- SCRUB (R408): the slice's scrubber reaches a stripe, the first of its arrays with a bad word whose recovery changes it: an
uncorrectable one of a ticket data buffer is left to its reader (R409). -/
def execScrub (sl : Nat) (s : State) : Host.Outcome State Fault Refusal :=
  .next (match (s.scrubStripes sl).find? (fun st => !(s.badWords st).isEmpty && ((s.recover st).badWords st).isEmpty) with
    | some st => s.recover st
    | none => s)

/-! ### At a boundary of a core -/

/-- ASYNC_FAULT_TAKE (R381, R384). -/
def execAsyncFaultTake (c : Nat) (s : State) : Host.Outcome State Fault Refusal := .next (s.take1 c)

/-- TICK_MISS (R397): the core is fenced, and another takes the fault. During a pre-emption the job ends with FAULT, at once
where its first step is over, else when it is. -/
def execTickMiss (c : Nat) (s : State) : Host.Outcome State Fault Refusal :=
  let k := s.core c
  let col := k.colour
  let pc := k.lv[k.lvl].pc
  let s := s.setCore c { k with status := .fenced }
  .next (
    if (match s.job? col with | some j => j.preempting && s.activationsDone j | none => false) then
      (s.logRec (dieOf c) { code := Code.tickMiss, level := k.lvl.val, core := c, colour := col, addr := pc, info := BitVec.ofNat 64 c }).endJob
        col 6 Code.tickMiss
    else
      (s.upJob col (fun j => { j with missed := j.missed || (j.preempting && !j.out) })).report1 none (clusterOf c)
        { code := Code.tickMiss, level := k.lvl.val, core := c, colour := col, addr := pc, info := BitVec.ofNat 64 c }
        ⟨Code.tickMiss, 0, BitVec.ofNat 64 c, 0, false⟩)

/-- BREAKPOINT (R370): the core stops before the instruction whose break bit is set, with cause BREAK. -/
def execBreakpoint (c : Nat) (s : State) : Host.Outcome State Fault Refusal :=
  .next ((s.upCore c (fun k => { k with dbg := .stopped, broke := true })).traceRun c 6 0)

end Sys2Proof.Machine
end

