-- ==== Sys2Proof/Machine/Slice.lean ====
section
/-! DEFINITION. The ticket table of a Basin slice: grants, fetches, redeems, drops, queries, leases and delivery (R52, R86 to
R94, R392, R393). -/

namespace Sys2Proof.Machine

/-- Entry `e` of a slice. -/
def State.tk (s : State) (sl e : Nat) : TkEntry := (s.slice sl).tk.get TkEntry.initial e

/-- Replaces an entry, which has then been used last (R89). -/
def State.setTk (s : State) (sl e : Nat) (t : TkEntry) : State :=
  s.upSlice sl (fun k => { k with tk := k.tk.set e { t with used := k.clock + 1 }, clock := k.clock + 1 })

/-- Counts an orphan: the count saturates (R94). -/
def Slice.orphan (k : Slice) : Slice := { k with orphans := Nat.min (k.orphans + 1) 0xFFFFFFFF }

/-! ### Grants (R86) -/

/-- First entry of a core's range. -/
def tkBase (c : Nat) : Nat := c % 2 * 2048

/-- The entry that a slice grants next in a core's range (R89): a FREE one, else the SPENT or EXPIRED one that has been
unused longest. Which of several FREE entries is the model's choice (log 14), and so is that SPENT and EXPIRED entries of a
switched-out job can be granted, FROZEN or not (log 117). -/
def Slice.grantable (k : Slice) (c : Nat) : Option Nat :=
  let range := (List.range 2048).map (tkBase c + ·)
  match range.find? (fun e => (k.tk.get TkEntry.initial e).st == .free) with
  | some e => some e
  | none =>
    let old := (k.tk.filter (fun p => decide (tkBase c ≤ p.1) && decide (p.1 < tkBase c + 2048) &&
      (p.2.st == .spent || p.2.st == .expired)))
    (old.foldl (fun (b : Option (Nat × Nat)) p => match b with
      | some (e, u) => if p.2.used < u then some (p.1, p.2.used) else some (e, u)
      | none => some (p.1, p.2.used)) none).map (·.1)

/-- Grants that a core has or that are on their way to it. -/
def State.grantsOf (s : State) (c : Nat) : Nat :=
  (s.core c).grants.length + s.agenda.countP (fun f => match f.ev with | .grantArrive d _ => d == c | _ => false)

/-- Has a core's range an entry that can be granted: one that is not listed is FREE (R86)? -/
def Slice.canGrant (k : Slice) (c : Nat) : Bool :=
  decide (k.tk.countP (fun e => decide (tkBase c ≤ e.1) && decide (e.1 < tkBase c + 2048) &&
    !(e.2.st == .free || e.2.st == .spent || e.2.st == .expired)) < 2048)

/-- Is a core short of grants, with an entry of its range to grant (R86)? -/
def State.grantShort (s : State) (sl c : Nat) : Bool :=
  (s.core c).status == .running && decide (s.grantsOf c < 8) && (s.slice sl).canGrant c

/-- May the slice grant to core `c` now: the core is short, and with both short it is its turn (R86)? -/
def State.grantTurn (s : State) (sl c : Nat) : Bool :=
  s.grantShort sl c && (if (coresOfSlice sl).all (fun d => s.grantShort sl d) then decide (c % 2 = if (s.slice sl).lastOdd then 0 else 1) else true)

/-- TICKET_GRANT (R86, R89): an entry becomes GRANTED under a new generation, for the job of the core. -/
def execTicketGrant (sl c : Nat) (s : State) : Host.Outcome State Fault Refusal :=
  .next (if !s.grantTurn sl c then s
    else match (s.slice sl).grantable c with
      | none => s
      | some e =>
        let t := s.tk sl e
        let s := s.setTk sl e { TkEntry.initial with
          st := .granted, gen := (t.gen + 1) % 2 ^ 15, colour := (s.core c).colour, core := c }
        (s.upSlice sl (fun k => { k with lastOdd := decide (c % 2 = 1) })).push (grantChan c) (.grantArrive c e))

/-- GRANT_ARRIVE (R86). -/
def execGrantArrive (c entry : Nat) (s : State) : Host.Outcome State Fault Refusal :=
  .next (s.upCore c (fun k => { k with grants := k.grants ++ [entry] }))

/-! ### Leases (R93, R94) -/

/-- Has an entry's lease run out, and it is not yet EXPIRED? -/
def TkEntry.overdue (t : TkEntry) : Bool := (t.st == .flight || t.st == .arrived) && t.lease == 0

/-- An entry whose lease has run out is EXPIRED, whatever else happens to it (R93, R393). -/
def State.expire (s : State) (sl e : Nat) : State :=
  let t := s.tk sl e
  if t.overdue then (s.setTk sl e { t with st := .expired }).upSlice sl Slice.orphan else s

/-- LEASE_EXPIRE (R89, R93). -/
def execLeaseExpire (sl entry : Nat) (s : State) : Host.Outcome State Fault Refusal := .next (s.expire sl entry)

/-- Does a stop of every core of a job's partition hold its leases (R369)? -/
def State.leasesHeld (s : State) (colour : Nat) : Bool :=
  match s.job? colour with
  | some j => !j.out && (let cs := j.allCores.filter (fun c => (s.core c).status != .off)
      !cs.isEmpty && cs.all (fun c => (s.core c).status != .running || (s.core c).dbg == .stopped))
      && j.allCores.any (fun c => (s.core c).dbg == .stopped)
  | none => false

/-- PACKAGE_TIMER_TICK (R93, R201, R235, R345): TIME advances by 1 µs, the running leases fall by 1, and the cycles of
cores held awake count (log 7). -/
def execPackageTimerTick (s : State) : Host.Outcome State Fault Refusal :=
  let due := s.slices.flatMap (fun (p : Nat × Slice) => (p.2.tk.filter (fun e =>
    (e.2.st == .flight || e.2.st == .arrived) && !e.2.frozen && !s.leasesHeld e.2.colour && e.2.lease == 1)).map (fun e => (p.1, e.1)))
  let tick (t : TkEntry) : TkEntry :=
    if (t.st == .flight || t.st == .arrived) && !t.frozen && !s.leasesHeld t.colour then { t with lease := t.lease - 1 } else t
  let s' := { s with slices := s.slices.map (fun (p : Nat × Slice) => (p.1, { p.2 with tk := p.2.tk.map (fun (e : Nat × TkEntry) => (e.1, tick e.2)) })) }
  let s' := s'.heldTicks.upHub (fun h => { h with time := h.time + 1 })
  .next (due.foldl (fun (u : State) (p : Nat × Nat) => u.pushFree (.leaseExpire p.1 p.2)) s')

/-- R94 at the end of a job: GRANTED becomes FREE, FLIGHT, ARRIVED and PENDING become EXPIRED and are counted, and the
grants of its cores are returned. -/
def State.endTickets (s : State) (colour : Nat) : State :=
  let fate (t : TkEntry) : TkEntry :=
    if t.colour ≠ colour then t
    else match t.st with
      | .granted => { t with st := .free }
      | .flight => { t with st := .expired }
      | .arrived => { t with st := .expired }
      | .pending => { t with st := .expired }
      | _ => t
  let lost (k : Slice) : Nat := k.tk.countP (fun e => e.2.colour == colour && (e.2.st == .flight || e.2.st == .arrived || e.2.st == .pending))
  { s with slices := s.slices.map (fun (p : Nat × Slice) => (p.1, { p.2 with
      tk := p.2.tk.map (fun (e : Nat × TkEntry) => (e.1, fate e.2))
      held := p.2.held.filter (fun h => (p.2.tk.get TkEntry.initial h.1).colour != colour)
      orphans := Nat.min (p.2.orphans + lost p.2) 0xFFFFFFFF })) }

/-! ### Delivery (R52, R91, R392) -/

/-- Sends an answer to a requester: the answers of a slice to a core keep their order (R332, R333). -/
def State.answer (s : State) (r : Redeem) (ws : List Word) (code : Nat) (text : Word) : State :=
  s.fresh.push (answerChan (tkSlice r.ticket) r.c) (.redeemDelivery r ws code text)

/-- TEXT of a fault delivered through a ticket (R378): FVA[63:8] and the inner code. -/
def ticketText (code : Nat) (fva : Word) : Word := (fva &&& ~~~(0xFF : Word)) ||| BitVec.ofNat 64 code

/-- Delivers the data of an entry, or its fault, to a redeemer (R91). A data buffer beyond recovery delivers POISON
(R409). -/
def State.deliverTicket (s : State) (sl e : Nat) (r : Redeem) : State :=
  let s := s.settle (tkKey sl e 0) 256
  let t := s.tk sl e
  let code := if s.lostBytes (tkKey sl e 0) 256 then Code.poison else t.fault
  if code = 0 then s.answer r (t.data.take (t.words + 1)) 0 0 else s.answer r [] code (ticketText code t.fva)

/-- Lanes of RDM.V (R91): word j fills lanes 2j and 2j + 1, low half in the even lane. -/
def redeemLanes (ws : List Word) : List (Option W32) :=
  (List.range 8).map (fun i => some (((ws[i / 2]?.getD 0) >>> (32 * (i % 2))).setWidth 32))

/-- REDEEM_DELIVERY (R91, R92, R392): the result lands, or the requester takes the fault after issue; FENCED comes from the
fence and not through the ticket (R380, R390). The VAL node of a failed NRDM is free again (R52). -/
def execRedeemDelivery (r : Redeem) (ws : List Word) (code : Nat) (text : Word) (s : State) : Host.Outcome State Fault Refusal :=
  let s := s.paid r.c r.lvl r.id
  let w0 := ws[0]?.getD 0
  .next (
    if code ≠ 0 then
      let s := if r.form = 3 then
          (match s.job? r.colour with
          | some j => s.giveBack j (clusterOf r.c) .node r.node
          | none => s).countRecv (clusterOf r.c)
        else s
      s.afterIssue r.c r.lvl code r.pc r.ticket text (decide (code ≠ Code.fenced))
    else match r.form with
      | 0 => s.landX r.c r.lvl (BitVec.ofNat 6 r.reg) w0
      | 1 => s.landV r.c r.lvl (BitVec.ofNat 5 r.reg) (redeemLanes (ws.take 4))
      | 2 => s.storeAt r.c (padKey r.c r.soff) (ws.flatMap (fun w => leBytes 8 w.toNat)) true
      | 3 =>
        (match s.job? r.colour with
        | some j => s.completeNode j r.c (sliceSrc (tkSlice r.ticket)) symVal ⟨r.wire, r.e, r.node⟩ w0 0
        | none => s)
      | 5 => s.landX r.c r.lvl (BitVec.ofNat 6 r.reg) w0
      | _ => s)

/-! ### Requests at the slice (R87, R89, R90) -/

/-- The checks of R90 that come before the state. -/
def State.ticketCheck (s : State) (sl : Nat) (r : Redeem) : Option Nat :=
  let w := r.ticket
  let t := s.tk sl (tkEntry w)
  if !w.getLsbD 63 || tkKind w == 3 || decide (31 < tkWords w) || tkColour w != r.colour then some Code.tktForged
  else if checkByte w (s.keyOf r.colour) ≠ tkCheck w then some Code.tktForged
  else if t.gen ≠ tkGen w ∨ t.colour ≠ tkColour w then some Code.tktStale
  else none

/-- Is the job of a colour being contained (R389)? -/
def State.containing (s : State) (colour : Nat) : Bool :=
  match s.job? colour with
  | some j => j.contain && !j.out
  | none => false

/-- Is the entry of a ticket one of a colour whose job is being contained (R390)? -/
def State.ticketFenced (s : State) (r : Redeem) : Bool := s.containing (tkColour r.ticket)

/-- Does a request wait at the slice for the TLD request of its entry (R89)? -/
def State.ticketHeld (s : State) (sl : Nat) (r : Redeem) : Bool :=
  (s.ticketCheck sl r).isNone && (s.tk sl (tkEntry r.ticket)).st == .granted

/-- Holds a request for a GRANTED entry. -/
def State.holdTicket (s : State) (sl e : Nat) (ev : Instr) : State := s.upSlice sl (fun k => { k with held := k.held ++ [(e, ev)] })

/-- A redeem at its slice (R89, R90). -/
def State.redeemAt (s : State) (sl : Nat) (r : Redeem) : State :=
  let e := tkEntry r.ticket
  let s := s.expire sl e
  if s.ticketFenced r then s.answer r [] Code.fenced 0
  else match s.ticketCheck sl r with
  | some code => s.answer r [] code 0
  | none =>
    let t := s.tk sl e
    match t.st with
    | .granted => s.holdTicket sl e (.redeemArrive sl r)
    | .flight => (s.setTk sl e { t with st := .pending, rd := some r }).count r.c 11
    | .arrived => (s.setTk sl e { t with st := .spent }).deliverTicket sl e r
    | .pending => (s.answer r [] Code.tktSpent 0).count r.c 11
    | .spent => s.answer r [] Code.tktSpent 0
    | .expired => s.answer r [] Code.tktExpired 0
    | .free => s.answer r [] Code.tktExpired 0

/-- A drop at its slice (R89, R90, R218). -/
def State.dropAt (s : State) (sl : Nat) (r : Redeem) : State :=
  let e := tkEntry r.ticket
  let s := s.expire sl e
  if s.ticketFenced r then s.answer r [] Code.fenced 0
  else match s.ticketCheck sl r with
  | some code => s.answer r [] code 0
  | none =>
    let t := s.tk sl e
    match t.st with
    | .granted => s.holdTicket sl e (.tkdropArrive sl r)
    | .flight => s.setTk sl e { t with st := .spent }
    | .arrived => s.setTk sl e { t with st := .spent }
    | .pending => s.answer r [] Code.tktSpent 0
    | .spent => s.answer r [] Code.tktSpent 0
    | .expired => s.answer r [] Code.tktExpired 0
    | .free => s.answer r [] Code.tktExpired 0

/-- The code of R92 for a ticket that passed or failed the checks. -/
def tkqCode (check : Option Nat) (t : TkEntry) : Nat :=
  match check with
  | some code => if code = Code.tktForged then 7 else 6
  | none =>
    match t.st with
    | .granted => 0
    | .flight => 0
    | .arrived => if t.fault = 0 then 1 else 2
    | .pending => 3
    | .spent => 4
    | .expired => 5
    | .free => 5

/-- A query at its slice (R92): a GRANTED entry holds it until the TLD request arrives (R89). -/
def State.queryAt (s : State) (sl : Nat) (r : Redeem) : State :=
  let e := tkEntry r.ticket
  let s := s.expire sl e
  if s.ticketHeld sl r then s.holdTicket sl e (.tkqArrive sl r)
  else s.answer r [BitVec.ofNat 64 (tkqCode (s.ticketCheck sl r) (s.tk sl e))] 0 0

/-- REDEEM_ARRIVE (R89). -/
def execRedeemArrive (sl : Nat) (r : Redeem) (s : State) : Host.Outcome State Fault Refusal := .next (s.redeemAt sl r)
/-- TKDROP_ARRIVE (R89). -/
def execTkdropArrive (sl : Nat) (r : Redeem) (s : State) : Host.Outcome State Fault Refusal := .next (s.dropAt sl r)
/-- TKQ_ARRIVE (R92). -/
def execTkqArrive (sl : Nat) (r : Redeem) (s : State) : Host.Outcome State Fault Refusal := .next (s.queryAt sl r)

/-- Handles the events held for an entry, in their order (R89). -/
def State.unholdTicket (s : State) (sl e : Nat) : State :=
  let evs := (s.slice sl).held.filter (fun h => h.1 == e)
  let s := s.upSlice sl (fun k => { k with held := k.held.filter (fun h => h.1 != e) })
  evs.foldl (fun (u : State) h => match h.2 with
    | .redeemArrive _ r => u.redeemAt sl r
    | .tkdropArrive _ r => u.dropAt sl r
    | .tkqArrive _ r => u.queryAt sl r
    | _ => u) s

/-- Forwards a fetch from a ticket slice to the home slice of its first byte; one that no slice serves has no order (R87). -/
def State.forward (s : State) (sl : Nat) (srcs : List FetchSrc) (ev : Instr) : State :=
  match srcs.head? with
  | some (.at key _) => s.push (fetchChan sl (sliceOfKey key)) ev
  | _ => s.pushFree ev

/-- TLD_REQUEST_ARRIVE (R87, R89): the entry is FLIGHT, and the fetch is forwarded; each word of a gather goes to its own
home slice. A FREE entry discards the request. -/
def execTldRequestArrive (sl : Nat) (r : TldReq) (s : State) : Host.Outcome State Fault Refusal :=
  let t := s.tk sl r.entry
  .next (
    if t.st ≠ .granted ∨ t.gen ≠ r.gen then s
    else
      let s := s.setTk sl r.entry { t with
        st := .flight, colour := r.colour, words := r.words, kind := r.kind, lease := r.lease, fault := 0, fva := 0
        data := List.replicate (r.words + 1) 0, left := r.words + 1, core := r.c }
      let s := if r.kind = 2 then
          (List.range r.srcs.length).foldl (fun (u : State) i =>
            u.forward sl ((r.srcs.drop i).take 1) (.ticketFetchPerform sl r.entry r.gen i ((r.srcs.drop i).take 1))) s
        else s.forward sl r.srcs (.ticketFetchPerform sl r.entry r.gen 0 r.srcs)
      s.unholdTicket sl r.entry)

/-- What a fetch gathers: the state after parity is settled, words, and the first fault with its address. Host memory behind a
failed link is POISON (R420). -/
def State.fetchWord (s : State) (f : FetchSrc) : State × Word × Option (Nat × Word) :=
  match f with
  | .masked => (s, 0, none)
  | .fault code va => (s, 0, some (code, va))
  | .at key va =>
    let s := s.settle key 8
    if s.poisoned key 8 || s.hostLost key then (s, 0, some (Code.poison, va))
    else (s, s.peek64 key, none)

/-- Does a source of a fetch wait for the host link (R420)? -/
def State.srcWaits (s : State) (f : FetchSrc) : Bool := match f with | .at key _ => s.hostWaits key | _ => false

/-- TICKET_FETCH_PERFORM (R87): the fetch is served, and its data or its fault goes to the ticket slice. -/
def execTicketFetchPerform (sl entry gen off : Nat) (srcs : List FetchSrc) (s : State) : Host.Outcome State Fault Refusal :=
  let go (a : State × List Word × Option (Nat × Word)) (f : FetchSrc) : State × List Word × Option (Nat × Word) :=
    let (u, w, e) := a.1.fetchWord f
    (u, a.2.1 ++ [w], a.2.2 <|> e)
  let (u, ws, e) := srcs.foldl go (s, [], none)
  let (code, va) := e.getD (0, 0)
  let ev : Instr := .ticketDataArrive sl entry gen off ws code va
  .next (match srcs.head? with
    | some (.at key _) => u.push (dataChan (sliceOfKey key) sl) ev
    | _ => u.pushFree ev)

/-- TICKET_DATA_ARRIVE (R87, R89): data of another generation is discarded; the last word completes the entry. Words that
are written have good parity (R407). A containment that ends the redeemer's job has ended a PENDING entry (R393). -/
def execTicketDataArrive (sl entry gen off : Nat) (ws : List Word) (code : Nat) (fva : Word) (s : State) :
    Host.Outcome State Fault Refusal :=
  let s := s.expire sl entry
  let t := s.tk sl entry
  .next (
    if t.gen ≠ gen ∨ (t.st ≠ .flight ∧ t.st ≠ .pending) then s
    else if t.st = .pending ∧ s.containing t.colour then
      (s.setTk sl entry { t with st := .expired }).upSlice sl Slice.orphan
    else
      let s := if code = 0 then { s with damage := clearDamage s.damage (tkKey sl entry (8 * off)) (8 * ws.length) } else s
      let data := (List.range ws.length).foldl (fun (d : List Word) i => d.set (off + i) (ws[i]?.getD 0)) t.data
      let t := { t with data := data, left := t.left - ws.length }
      let t := if code ≠ 0 ∧ t.fault = 0 then { t with fault := code, fva := fva } else t
      if t.left ≠ 0 then s.setTk sl entry t
      else if t.st = .flight then s.setTk sl entry { t with st := .arrived }
      else match t.rd with
        | some r => (s.setTk sl entry { t with st := .spent }).deliverTicket sl entry r
        | none => s.setTk sl entry { t with st := .spent })

end Sys2Proof.Machine
end

