-- ==== Sys2Proof/Machine/Quiet.lean ====
section
/-! DEFINITION. Quiescence, status reports, completion waves, and hangs (R62 to R64, R353, R401). -/

namespace Sys2Proof.Machine

/-! ### What is on its way to a cluster -/

/-- The cluster that an event on its way belongs to: that of its core, or the one it acts on. -/
def eventCluster (e : Instr) : Option Nat :=
  match e with
  | .resultLand c _ _ _ _ => some (clusterOf c)
  | .storeAck c => some (clusterOf c)
  | .atomicPerform c _ _ _ _ _ => some (clusterOf c)
  | .tlbWalk w => some w.cl
  | .grantArrive c _ => some (clusterOf c)
  | .ticketFetchPerform sl _ _ _ _ => some (clusterOf ((coresOfSlice sl).headD 0))
  | .ticketDataArrive sl _ _ _ _ _ _ => some (clusterOf ((coresOfSlice sl).headD 0))
  | .tldRequestArrive _ r => some (clusterOf r.c)
  | .redeemArrive _ r => some (clusterOf r.c)
  | .tkdropArrive _ r => some (clusterOf r.c)
  | .tkqArrive _ r => some (clusterOf r.c)
  | .redeemDelivery r _ _ _ => some (clusterOf r.c)
  | .setend cl _ _ _ => some cl
  | .replace cl _ _ _ => some cl
  | .splice cl _ _ _ _ => some cl
  | .adopt cl _ _ _ => some cl
  | .resolve cl _ _ _ _ _ => some cl
  | .unref cl _ _ => some cl
  | .wfreeMessage cl _ => some cl
  | .nfreeMessage cl _ => some cl
  | .pondRequestRound cl => some cl
  | .pondWorkRequest cl _ _ => some cl
  | .pondHighmAnnounce cl _ => some cl
  | .pondHandover cl _ _ _ => some cl
  | .twinCompare cl => some cl
  | .msgArrive c _ => some (clusterOf c)
  | .messageRefusal m => some (clusterOf m.src)
  | .barrierArrival cl _ _ => some cl
  | .barrierCompletionNotice c _ _ => some (clusterOf c)
  | .collectiveContribution cl _ _ => some cl
  | .collectiveResult c _ _ _ => some (clusterOf c)
  | .parityRecovery (.stripe _) _ c _ => some (clusterOf c)
  | .parityRecovery (.line _) _ _ _ => none
  | .fpExcWindowClose cl => some cl
  | .springStockRefill c => some (clusterOf c)
  | .taskStart c => some (clusterOf c)
  | .handlerStart c => some (clusterOf c)
  | .asyncFaultTake c => some (clusterOf c)
  | .tickMiss c => some (clusterOf c)
  | .breakpoint c => some (clusterOf c)
  | .copyTransferStart cl => some cl
  | .copyTransferComplete cl _ => some cl
  | .tileStepStart c => some (clusterOf c)
  | .tileStepRetire c => some (clusterOf c)
  | .phldTakeEffect m => some (m / 2)
  | .shadowSettle m => some (m / 2)
  | .phrdTakeEffect m => some (m / 2)
  | .phwrTakeEffect m => some (m / 2)
  | .ptrimTakeEffect m => some (m / 2)
  | .passBoundary m => some (m / 2)
  | .trimSettle m => some (m / 2)
  | .passStart m => some (m / 2)
  | .passHeaderWrite m => some (m / 2)
  | .probeEvaluation m => some (m / 2)
  | .probeComplete m => some (m / 2)
  | .pcalComplete m => some (m / 2)
  | .deBankLoad m => some (m / 2)
  | _ => none

/-- Does an event on its way keep its cluster from being quiet (R62; log 15)? Acknowledgements of stores, walks, grants,
the collection of FP_EXC reports, and requests between Ponds do not. -/
def eventBusy (e : Instr) : Bool :=
  match e with
  | .storeAck _ => false
  | .tlbWalk _ => false
  | .grantArrive _ _ => false
  | .fpExcWindowClose _ => false
  | .pondRequestRound _ => false
  | .pondWorkRequest _ _ _ => false
  | .pondHighmAnnounce _ _ => false
  | .pondHandover _ _ ps _ => !ps.isEmpty
  | _ => true

/-! ### Quiet clusters (R62, R369) -/

/-- Cores of a cluster. -/
def coresIn (cl : Nat) : List Nat := (List.range 16).map (cl * 16 + ·)

/-- Has a core come to rest: halted, fenced or not started, or asleep in a blocking instruction at level 0 with nothing
new to look at (R62)? A core that a debugger has stopped has not; one that is only asked to stop has, so that a completion
comes first (R369). A task asleep at level 0 is no running handler here (log 89). -/
def State.coreQuiet (s : State) (c : Nat) : Bool :=
  let k := s.core c
  k.tq.isEmpty && k.hq.toList.all (·.isEmpty) && k.batches.isEmpty && k.dsOut.isEmpty && k.offer.isEmpty &&
    (k.status != .running ||
      (k.dbg != .stopped && k.dbg != .draining && k.lvl == 0 && k.pend.isEmpty && k.lv[k.lvl].faults.isEmpty &&
        (match k.lv[k.lvl].wait with | some w => w.reason != .awake && decide (s.changes c ≤ w.stamp) | none => false)))

/-- Is an MU idle, its command queues empty (R62)? -/
def Mu.idle (m : Mu) : Bool := m.q.isEmpty && m.stream.isEmpty && m.probing.isNone && m.cal.isNone

/-- Is a ticket fetch in flight that a core of the cluster issued (R62)? -/
def State.fetching (s : State) (cl : Nat) : Bool :=
  s.slices.any (fun (p : Nat × Slice) => p.2.tk.any (fun (e : Nat × TkEntry) =>
    (e.2.st == .flight || e.2.st == .pending) && clusterOf e.2.core == cl))

/-- Is a Copy Engine at rest: without transfers, or only with such as wait for a ring slot that is held (R62, R354)? With 8 of
those no other can start. -/
def State.copyIdle (s : State) (cl : Nat) : Bool :=
  let waits (q : Copy) : Bool := q.moved && s.cpHeld q
  (s.cluster cl).copies.all waits || decide (8 ≤ (s.cluster cl).copies.countP waits)

/-- Is a cluster quiet (R62)? -/
def State.quiet (s : State) (cl : Nat) : Bool :=
  let k := s.cluster cl
  k.pond.isEmpty && k.stalled.isEmpty && k.twins.isEmpty && s.copyIdle cl &&
    (coresIn cl).all (fun c => s.coreQuiet c) && (s.mu (2 * cl)).idle && (s.mu (2 * cl + 1)).idle &&
    !s.agenda.any (fun f => eventBusy f.ev && eventCluster f.ev == some cl) && !s.fetching cl

/-! ### Reports and waves (R63, R64) -/

/-- Does a core of the cluster wait with a reason? -/
def State.waits (s : State) (cl : Nat) (r : WaitReason) : Bool :=
  (coresIn cl).any (fun c => let k := s.core c; k.status == .running &&
    (match k.lv[k.lvl].wait with | some w => w.reason == r | none => false))

/-- Is a sorted window of one of the cluster's cores open (R63)? -/
def State.windowOpen (s : State) (cl : Nat) : Bool := (coresIn cl).any (fun c => decide (0 < (s.core c).parked))

/-- A combined report (R63): word 0 and word 1. -/
structure Report where
  w0 : Word
  w1 : Word
  deriving DecidableEq, Repr

/-- The report of a job's clusters, combined (R63). -/
def State.combined (s : State) (j : Job) : Report :=
  let cs := j.clusters
  let orBit (n : Nat) (f : Nat → Bool) : Nat × Nat := (n, (cs.any f).toNat)
  let sum (f : Cluster → Nat) : Nat := (cs.map (fun cl => f (s.cluster cl))).foldl (· + ·) 0
  let quiet := cs.all (fun cl => s.quiet cl && !(s.cluster cl).quietDirty)
  { w0 := pack [(63, quiet.toNat), orBit 62 (s.waits · .ext), orBit 61 s.windowOpen, orBit 60 (s.waits · .engine),
      orBit 59 (s.waits · .wire), orBit 58 (s.waits · .pond), orBit 57 (s.waits · .barrier), orBit 56 (s.waits · .ticket),
      (0, sum (·.acts) % 2 ^ 48)]
    w1 := pack [(32, sum (·.sent) % 2 ^ 32), (0, sum (·.recv) % 2 ^ 32)] }

/-- QUIET_NOTICE (R64): the cluster's notice reaches the root, which starts a wave, or another after the one that runs. -/
def execQuietNotice (cl : Nat) (s : State) : Host.Outcome State Fault Refusal :=
  .next (match s.jobAt cl with
    | none => s
    | some j =>
      let s := s.upCluster cl (fun k => { k with noticed := true })
      if j.wave then s.upJob j.colour (fun q => { q with again := true })
      else (s.upJob j.colour (fun q => { q with wave := true })).pushFree (.completionWave j.colour))

/-- COMPLETION_WAVE (R64): the request passes down the tree. -/
def execCompletionWave (colour : Nat) (s : State) : Host.Outcome State Fault Refusal :=
  .next (if (s.job? colour).isSome then s.pushFree (.waveReport colour) else s)

/-! ### Hangs (R401) -/

/-- State of a core in the wait table (R401). -/
def State.waitCode (s : State) (c : Nat) : Nat :=
  let k := s.core c
  match k.status with
  | .off => 0
  | .halted => 1
  | .fenced => 9
  | .running =>
    match k.lv[k.lvl].wait with
    | none => 0
    | some w =>
      match w.reason with
      | .ticket => 2
      | .barrier => 3
      | .pond => 4
      | .wire => 5
      | .engine => 6
      | .window => 7
      | .ext => 8
      | .awake => 0

/-- The wait table of a cluster (R401). -/
def State.waitTable (s : State) (cl : Nat) : Word := pack ((coresIn cl).map (fun c => (c % 16 * 4, s.waitCode c)))

/-- The HANG record of a cluster with a started core (R401). -/
def State.hangRecord (s : State) (colour cl : Nat) : State :=
  match (coresIn cl).filter (fun c => (s.core c).status != .off) with
  | [] => s
  | c0 :: r =>
    let c := ((c0 :: r).find? (fun c => decide (2 ≤ s.waitCode c) && decide (s.waitCode c ≤ 8))).getD c0
    let k := s.core c
    s.logRec (dieOfCluster cl)
      { code := Code.hang, level := k.lvl.val, core := c, colour := colour, addr := k.lv[k.lvl].pc, info := s.waitTable cl }

/-- HANG (R384, R401): a record of every cluster, and the fault for the lowest core that can take it. -/
def State.hang (s : State) (j : Job) (r : Report) : State :=
  let s := j.clusters.foldl (fun (u : State) cl => u.hangRecord j.colour cl) s
  let s := s.upJob j.colour (fun q => { q with hung := true })
  match j.allCores.find? (fun c => s.eligible c) with
  | some c => s.hold1 c ⟨Code.hang, 0, r.w0, r.w1, false⟩
  | none => s.endJob j.colour (statusOf Code.hang) Code.hang

/-- Is the HELD bit of the job's ROOT node set, and what is its word 1 (R64)? -/
def State.rootHeld (s : State) (j : Job) : Option Word :=
  match j.rootNode with
  | none => none
  | some n =>
    match s.loadNode j ((j.clusters).headD 0) n 2, s.loadNode j ((j.clusters).headD 0) n 1 with
    | .ok (_, h), .ok (_, v) => if h.getLsbD 0 then some v else none
    | _, _ => none

/-- Is a job without a net heap complete: every started core has halted (R353)? -/
def State.allHalted (s : State) (j : Job) : Bool :=
  j.word 8 == 0 && j.allCores.all (fun c => (s.core c).status != .running && (s.core c).status != .fenced)

/-- Have the sleepers of a job looked at everything that has changed, so that a report finds them as they are (R62, log 1)? -/
def State.looked (s : State) (j : Job) : Bool :=
  j.allCores.all (fun c => !(s.core c).lv[(s.core c).lvl].asleep || !s.runnable c)

/-- WAVE_REPORT (R64, R353, R401): the combined report comes back up. A cluster that is not quiet at its report sends a
notice when it has become so, and every cluster does after a wave that a pre-emption or an end cuts short: of a job that is
switched out only those that were left to it. -/
def execWaveReport (colour : Nat) (s : State) : Host.Outcome State Fault Refusal :=
  .next (match s.job? colour with
    | none => s
    | some j =>
      let r := s.combined j
      let quiet := r.w0.getLsbD 63
      let all := j.clusters.all (fun cl => s.quiet cl)
      let at_ := (bits r.w0 0 48, bits r.w1 32 32, bits r.w1 0 32)
      let hung := j.hung && j.hangAt == at_
      let now := s.upJob colour (fun q => { q with
        wave := false, again := false, hung := q.hung && q.hangAt == at_, hangAt := at_ })
      let cut := j.ending.isSome || j.out || j.preempting || j.contain
      let next := (j.clusters.filter (fun cl => !(j.out && j.saved.contains cl))).foldl (fun (u : State) cl =>
        u.upCluster cl (fun k => { k with quietDirty := !s.quiet cl, noticed := k.noticed && s.quiet cl && !cut })) now
      let wave (u : State) : State := (u.upJob colour (fun q => { q with wave := true })).pushFree (.completionWave colour)
      if cut then next
      else if quiet && bits r.w1 32 32 == bits r.w1 0 32 then
        (match s.rootHeld j with
        | some v => next.endJob colour 0 0 v
        | none =>
          if s.allHalted j then next.endJob colour 0 0
          else if r.w0.getLsbD 62 || hung then next
          else next.hang j r)
      else if all || j.again then wave next
      else next)

end Sys2Proof.Machine
end

