-- ==== Sys2Proof/Machine/Enable.lean ====
section
/-! DEFINITION. Which events on their way can come about now, and which wait (log 1). -/

namespace Sys2Proof.Machine

/-- Results for one register land in issue order (R184): is this the oldest for its register, of its level or, where the
levels share the register, of any? Result numbers rise in issue order. -/
def State.landsNext (s : State) (c lvl id : Nat) : Bool :=
  if h : lvl < 4 then
    let lv := (s.core c).lv
    (lv[lvl].out.filter (fun o => o.id == id)).all (fun o =>
      (if sharedSlot o.slot then lv.toList.flatMap (·.out) else lv[lvl].out).all (fun q => q.slot != o.slot || decide (id ≤ q.id)))
  else true

/-- Is a wire-protocol event one that the Weir of a cluster handles now? A Weir whose Pond is full waits (R48, R400), and so
does one that needs a record in host memory while the link is down: handling the message would not count it (R420). -/
def State.weirOpen (s : State) (cl : Nat) (o : Host.Outcome State Fault Refusal) : Bool :=
  (s.cluster cl).stalled.isEmpty &&
    (s.hub.link != .down || (match o with | .next t => (t.cluster cl).msgs != (s.cluster cl).msgs | _ => true))

/-- Can an answer to a redeem be delivered: results for its register land in issue order (R184), the bytes of an RDM.S are not
in a held ring slot (R114, R118, R122), and the node of an NRDM does not wait for the host link (R420)? -/
def State.deliverable (s : State) (r : Redeem) (ws : List Word) (code : Nat) : Bool :=
  s.landsNext r.c r.lvl r.id &&
    !(r.form == 2 && code == 0 && s.heldSlot (padKey r.c r.soff) (8 * ws.length)) &&
    !(r.form == 3 && (match s.job? r.colour with
      | some j => s.unitWaits (j.ctx (clusterOf r.c)) (j.nodeVa r.node) true
      | none => false))

/-- Does the comparison of a cluster's twins wait for the host link: it writes nodes that a stream stores to, and gives back
slots (R413, R414, R420)? -/
def State.twinWaits (s : State) (cl : Nat) : Bool :=
  s.hub.link == .down && (match s.jobAt cl with
    | some j => (s.cluster cl).twins.any (fun r =>
        r.slots.any (fun e => s.unitWaits (j.ctx cl) (if e.1 then j.wireVa e.2 else j.nodeVa e.2) true) ||
        r.streams.any (fun l => l.any (fun i => i.kind == 7 && s.unitWaits (j.ctx cl) (j.nodeVa i.a.toNat) true)))
    | none => false)

/-- Does the ROOT node of a job wait for the host link (R64, R420)? -/
def State.rootWaits (s : State) (j : Job) : Bool :=
  match j.rootNode with
  | some n => s.unitWaits (j.ctx ((j.clusters).headD 0)) (j.nodeVa n) false
  | none => false

/-- May a request enter the slice: the slice holds at most 8 for entries whose TLD request has not come (R89)? -/
def State.sliceOpen (s : State) (sl : Nat) (r : Redeem) : Bool :=
  !(s.ticketHeld sl r && decide (8 ≤ (s.slice sl).held.length))

/-- Has a job an atomic that has not performed and can (R319, R389)? -/
def State.atomicDue (s : State) (j : Job) : Bool :=
  s.agenda.any (fun f => match f.ev with
    | .atomicPerform c _ _ _ _ a => j.holds c && !j.out && !s.heldSlot a.key a.n
    | _ => false)

/-- Is a containment of a rectangle in progress on one of a job's clusters (R389)? -/
def State.rectBusy (s : State) (j : Job) : Bool :=
  !j.out && j.clusters.any (fun cl => s.hub.rect.any (fun e => e.2.getLsbD 62 && inRect e.2 cl))

/-- Is the core that contributed to a collective of the signal lane one of a job that is switched out (R326)? -/
def State.dsigAway (s : State) (o : Dsig) : Bool :=
  s.jobs.any (fun j => j.out && j.savedCores.any (fun e => e.1 == o.c && e.2.lv.toList.any (fun v =>
    match v.wait with | some w => w.reason == .ext && w.arg == BitVec.ofNat 64 o.id | none => false)))

/-- Can an event on its way come about now? -/
def State.enabled (s : State) (e : Instr) : Bool :=
  match e with
  | .resultLand c lvl id _ _ => s.landsNext c lvl id
  | .redeemDelivery r ws code _ => s.deliverable r ws code
  | .atomicPerform _ _ _ _ _ a => !s.heldSlot a.key a.n && !s.hostWaits a.key
  | .ticketFetchPerform _ _ _ _ srcs => !srcs.any s.srcWaits
  | .tlbWalk w => !(s.hub.link == .down && (match s.walk w.cl w.root w.va with | .error 0 => true | _ => false))
  | .pondHandover cl _ ps _ =>
    (match s.jobAt cl with | some j => !s.spillWaits j cl ps.length | none => true)
  | .twinCompare cl => !s.twinWaits cl
  | .dialFlitReceive _ f => !s.flitWaits f
  | .msgArrive c m => s.hasRoom c m
  | .setend cl w e p => s.weirOpen cl (execSetend cl w e p s)
  | .replace cl w e p => s.weirOpen cl (execReplace cl w e p s)
  | .splice cl w e w2 e2 => s.weirOpen cl (execSplice cl w e w2 e2 s)
  | .adopt cl w e p => s.weirOpen cl (execAdopt cl w e p s)
  | .resolve cl p ow oe nw ne => s.weirOpen cl (execResolve cl p ow oe nw ne s)
  | .unref cl w d => s.weirOpen cl (execUnref cl w d s)
  | .wfreeMessage cl w => s.weirOpen cl (execWfreeMessage cl w s)
  | .nfreeMessage cl n => s.weirOpen cl (execNfreeMessage cl n s)
  | .redeemArrive sl r => s.sliceOpen sl r
  | .tkdropArrive sl r => s.sliceOpen sl r
  | .tkqArrive sl r => s.sliceOpen sl r
  | .copyTransferComplete cl id =>
    (match (s.cluster cl).copies.find? (fun q => q.id == id) with | some q => !s.cpWaits q | none => true)
  | .jobEnd colour =>
    s.hub.link == .up && (match s.job? colour with | some j => !s.atomicDue j && !s.rectBusy j | none => true)
  | .waveReport colour => (match s.job? colour with | some j => s.looked j && !s.rootWaits j | none => true)
  | .containment _ => !s.jobs.any (fun j => j.contain && s.atomicDue j)
  | .completionEventWrite _ _ => s.hub.link == .up
  | .dispKill _ => s.hub.link == .up
  | .attestReportDone => s.hub.link == .up && s.hub.idKey.isSome
  | .dsigResultArrive tree _ =>
    (match s.hub.dsigs.find? (fun r => r.tree == tree && r.sent) with
    | some r => (match r.own with | some o => !s.dsigAway o | none => true)
    | none => true)
  | _ => true

/-- Has an event of the agenda arrived where it waits for something other than its packet (R118, R184)? Then it does not hold
back the packets that were sent after it. -/
def State.arrived (s : State) (e : Instr) : Bool :=
  match e with
  | .resultLand c lvl id _ _ => !s.landsNext c lvl id
  | .redeemDelivery r ws code _ => !s.deliverable r ws code
  | .atomicPerform _ _ _ _ _ a => s.heldSlot a.key a.n || s.hostWaits a.key
  | _ => false

/-- Positions of the agenda whose event can come about next: the first of each channel, apart from those that have arrived
and wait. -/
def headsFrom (free : Instr → Bool) : List Nat → Nat → List Flight → List Nat
  | _, _, [] => []
  | seen, i, f :: r =>
    if free f.ev then i :: headsFrom free seen (i + 1) r
    else if seen.contains f.chan then headsFrom free seen (i + 1) r
    else i :: headsFrom free (f.chan :: seen) (i + 1) r

/-- Positions of the events that can come about now. -/
def State.heads (s : State) : List Nat :=
  (headsFrom s.arrived [] 0 s.agenda).filter (fun i => match s.agenda[i]? with | some f => s.enabled f.ev | none => false)

end Sys2Proof.Machine
end

