-- ==== Sys2Proof/Machine/System.lean ====
section
/-! DEFINITION. The supervisor instructions of page 7 (R299 to R309, R383), but for MFP and MTP: return from traps, TLB
and cache maintenance, debug stops, counters, replay sessions, error injection and forecasts. -/

namespace Sys2Proof.Machine

/-- A page 7 instruction other than RFT: at user level it raises PRIVILEGE (R299). -/
def State.superv (s : State) (f : State → State) : State := if s.lev.sup then f s else s.trap Code.privilege

/-! ### RFT (R300, R383) -/

/-- Why the running level may not return from a trap, if it may not: at user level only from a trap that was delegated. -/
def State.rftStop (s : State) : Option Nat :=
  let v := s.lev
  if !v.sup && !(v.active && v.deleg) then some Code.privilege
  else if !v.active then some Code.ctxBad
  else none

/-- The wait that `rft` re-enters (R382). -/
def Level.reentered (v : Level) : Option Wait :=
  if v.tcause.getLsbD 23 then
    (match v.kept with | some w => if w.pc = v.tpc then some w else none | none => none)
  else none

/-- The level goes on at an address with its privilege restored (R383). -/
def State.rftTo (s : State) (a : Word) (again : Bool) : State :=
  let v := s.lev
  let pc := v.pc
  let s' := (s.returnTo a again).upLev (fun v => { v with prev := pc })
  if v.tcause.getLsbD 23 && (!again || v.reentered.isNone) then s'.leftWait s'.cur else s'

/-- RFT (R300). -/
def execRft (_h : Head) (s : State) : Host.Outcome State Fault Refusal :=
  .next (match s.rftStop with
    | some code => s.trap code
    | none => s.rftTo s.lev.tpc true)

/-- Bytes of the instruction that begins at an offset of a core's scratchpad (R180, R300): none where R180 refuses its
lead words. -/
def State.lengthAt (s : State) (c off : Nat) : Option Nat :=
  let ws := s.codeWords c (2 ^ 18) 5 off
  match parse Parts.empty ws with
  | .ok _ => some (2 * wordsRead Parts.empty ws)
  | .error .strayHighBits => some (2 * wordsRead Parts.empty ws)
  | .error _ => none

/-- RFT.NEXT (R300). The words that give the length are checked as a fetch checks them (R407, R408). -/
def execRftNext (_h : Head) (s : State) : Host.Outcome State Fault Refusal :=
  .next (match s.rftStop with
    | some code => s.trap code
    | none =>
      let n := s.lengthAt s.cur s.lev.tpc.toNat
      match s.badStripe (padKey s.cur s.lev.tpc.toNat) (n.getD 10) with
      | some stripe => (s.askRecovery stripe).block .awake
      | none =>
      match n with
      | some n => s.rftTo (s.lev.tpc + BitVec.ofNat 64 n) false
      | none => s.illegal)

/-! ### Trap records, TLBs and the code boundary -/

/-- TRREC (R300): the four trap registers of level x[D][1:0]. In a twin it stores only to the core's own scratchpad and result
lane (R413). -/
def execTrrec (h : Head) (d a : XReg) (disp : Word) (s : State) : Host.Outcome State Fault Refusal :=
  let va := s.ea a disp
  let v := s.me.lv[(Fin.ofNat 4 (s.getX d).toNat)]
  .next (s.superv (fun s =>
    match placeOf s.cur va with
    | .bad code => s.trap code va
    | _ =>
      if s.twinStore va then s.trap Code.ctxBad
      else if va.toNat % 32 ≠ 0 then s.trap Code.align va
      else
        let es := (List.range 4).map (fun i => (⟨i, va + BitVec.ofNat 64 (8 * i), s.plan (va + BitVec.ofNat 64 (8 * i)) 8 true ⟨false, true, true⟩⟩ : Elem))
        let ws := [v.tpc, v.tcause, v.tval, v.text]
        s.access h true none es (fun u =>
          (es.foldl (fun (u : State) e => match e.plan with
            | .go key _ cached _ => u.ackedStore s.cur key (leBytes 8 (ws[e.lane]?.getD 0).toNat) cached
            | _ => u) u).advance h)))

/-- Must TLBI and TLBIA wait for the release fence that they begin with (R302)? -/
def State.tlbiWaits (s : State) : Bool := s.fenceWaits 5 2

/-- Does a colour word name the colour of an entry (R302)? An entry without a colour is global. -/
def colourMatch (w : Word) (c : Option Nat) : Bool :=
  w.getLsbD 12 || (match c with | none => true | some k => decide (k = bits w 0 12))

/-- Drops entries of every TLB and of every walker pool. -/
def State.dropTlb (s : State) (f : TlbEntry → Bool) (g : PoolEntry → Bool) : State :=
  { s with
    clusters := s.clusters.map (fun e => (e.1, { e.2 with tlb := e.2.tlb.filter (fun t => !f t) }))
    dies := s.dies.map (fun e => (e.1, { e.2 with pool := e.2.pool.filter (fun t => !g t) })) }

/-- TLBI (R302). -/
def execTlbi (h : Head) (d a : XReg) (s : State) : Host.Outcome State Fault Refusal :=
  let va := s.getX a
  let w := s.getX d
  .next (s.superv (fun s =>
    if s.tlbiWaits then s.block .awake
    else
      (s.dropTlb (fun e => decide (e.va = va.toNat / 2 ^ pageBits e.level * 2 ^ pageBits e.level) && colourMatch w e.colour)
        (fun e => e.covers e.level va && colourMatch w (some e.colour))).advance h))

/-- TLBIA (R302). -/
def execTlbia (h : Head) (a : XReg) (s : State) : Host.Outcome State Fault Refusal :=
  let w := s.getX a
  .next (s.superv (fun s =>
    if s.tlbiWaits then s.block .awake
    else (s.dropTlb (fun e => colourMatch w e.colour) (fun e => colourMatch w (some e.colour))).advance h))

/-- XBSET (R303). -/
def execXbset (h : Head) (a : XReg) (s : State) : Host.Outcome State Fault Refusal :=
  let w := s.getX a
  .next (s.superv (fun s =>
    if 0x400 < w.toNat then s.trap Code.xbRange w
    else (s.upMe (fun k => { k with xb := w.setWidth 11 })).advance h))

/-! ### Cache maintenance (R304) -/

/-- Base of the 256-byte granule that holds an address. -/
def granule (va : Word) : Word := va &&& ~~~(0xFF : Word)

/-- Acts on the granule of a translated address: `go` has its key and whether the page is cached, and ends the
instruction. -/
def State.cacheOp (s : State) (h : Head) (va : Word) (wr : Bool) (go : State → Nat → Bool → State) : State :=
  s.superv (fun s =>
    match placeOf s.cur va with
    | .trans =>
      let e : Elem := ⟨0, granule va, s.plan (granule va) 256 wr ⟨false, false, false⟩⟩
      s.access h wr none [e] (fun u => match e.plan with
        | .go key _ cached _ => go u key cached
        | _ => u.advance h)
    | _ => s.trap Code.addrWin va)

/-- The bytes of a clean line that differ from the memory below are dropped with the line (R304, R409). -/
def State.dropClean (s : State) (key : Nat) : State :=
  let here := s.damage.filter (fun e => decide (e.1 / 32 = key / 256))
  let s' := here.foldl (fun (u : State) e => if s.dirtyLine (e.1 / 8) then u else u.xorWord e.1 e.2) s
  { s' with damage := s'.damage.filter (fun e => !decide (e.1 / 32 = key / 256)) }

/-- CFLUSH (R304): dirty lines of the granule are written back, and the granule leaves L2. -/
def execCflush (h : Head) (a : XReg) (disp : Word) (s : State) : Host.Outcome State Fault Refusal :=
  .next (s.cacheOp h (s.ea a disp) false (fun u key _ =>
    let u := u.dropClean key
    ({ u with under := u.under.filter (fun e => !decide (e.1 / 256 = key / 256)) } : State).advance h))

/-- Is an atomic in flight to a granule (R304)? -/
def State.atomicAt (s : State) (key : Nat) : Bool :=
  s.agenda.any (fun f => match f.ev with | .atomicPerform _ _ _ _ _ at_ => decide (at_.key / 256 = key / 256) | _ => false)

/-- CINV (R304): dirty data of the granule is discarded, with the poison that a dirty line holds. -/
def execCinv (h : Head) (a : XReg) (disp : Word) (s : State) : Host.Outcome State Fault Refusal :=
  .next (s.cacheOp h (s.ea a disp) true (fun u key _ =>
    if u.atomicAt key then u.block .awake
    else
      let u := u.dropClean key
      let here := u.under.filter (fun e => decide (e.1 / 256 = key / 256))
      ({ u with
        mem := here.foldl (fun m e => m.write e.1 e.2) u.mem
        under := u.under.filter (fun e => !decide (e.1 / 256 = key / 256))
        poison := u.poison.filter (fun l => !(decide (l / 4 = key / 256) && here.any (fun e => decide (e.1 / 64 = l)))) } : State).advance h))

/-- CZERO (R304): the granule becomes 0. In a twin it is a store elsewhere (R413). -/
def execCzero (h : Head) (a : XReg) (disp : Word) (s : State) : Host.Outcome State Fault Refusal :=
  let va := s.ea a disp
  .next (
    if s.lev.sup && s.twinStore va then s.trap Code.ctxBad
    else s.cacheOp h va true (fun u key cached => (u.storeAt u.cur key (List.replicate 256 0) cached).advance h))

/-! ### Debug stops and marks (R305, R369) -/

/-- Asks a core to stop at its next stop point (R369). -/
def State.askStop (s : State) (c : Nat) : State :=
  s.upCore c (fun k => if k.status = .running ∧ (k.dbg = .run ∨ k.dbg = .passing) then { k with dbg := .stopping } else k)

/-- Releases a core from a debug stop; one that stands at a break bit issues the instruction (R305, R370). -/
def State.release (s : State) (c : Nat) : State :=
  s.upCore c (fun k => if k.brk.contains k.lv[k.lvl].pc.toNat then { k with dbg := .passing, broke := false } else { k with dbg := .run, broke := false })

/-- The cores that a stop word names: [8:0] core, [9] every core of the partition. -/
def State.stopCores (s : State) (w : Word) : List Nat :=
  if w.getLsbD 9 then (match s.job? s.me.colour with | some j => j.allCores | none => [s.cur]) else [bits w 0 9]

/-- DSTOP (R305). -/
def execDstop (h : Head) (a : XReg) (s : State) : Host.Outcome State Fault Refusal :=
  let w := s.getX a
  .next (s.superv (fun s =>
    if !w.getLsbD 9 && !s.inPartition (bits w 0 9) then s.trap Code.msgTarget
    else ((s.stopCores w).foldl (fun (u : State) c => if w.getLsbD 10 then u.release c else u.askStop c) s).advance h))

/-- TRMARK (R305). -/
def execTrmark (h : Head) (a : XReg) (s : State) : Host.Outcome State Fault Refusal :=
  .next (s.superv (fun s =>
    (s.traceRun s.cur 3 (s.getX a)).advance h))

/-! ### Event counters (R306, R373, R425) -/

/-- EVSEL (R306). -/
def execEvsel (h : Head) (d a : XReg) (s : State) : Host.Outcome State Fault Refusal :=
  let w := s.getX d
  .next (s.superv (fun s =>
    if 2 ^ 14 ≤ w.toNat ∨ bits w 12 2 = 3 then s.illegal
    else (s.upMe (fun k => { k with evc := k.evc.setIfInBounds (bits (s.getX a) 0 2) ⟨w.setWidth 12, w.extractLsb' 12 2, 0⟩ })).advance h))

/-- Does a counter count the issue of an instruction at a level (R306, R425)? -/
def EvCounter.issues (e : EvCounter) (l : Fin 4) : Bool :=
  e.event == 2 && (e.mode == 0 || (e.mode == 1 && l == 0) || (e.mode == 2 && l != 0))

/-- Is an event one whose count only the timing of the part gives (R373; log 10)? Event 12 is counted where a core looks again
from a sleep (`State.slept`). -/
def timedEvent (n : Nat) : Bool := [1, 3, 7].contains n

/-- EVRD (R306, R425): the count without this instruction's own issue; the count of a timed event is free (log 10). -/
def execEvrd (h : Head) (d a : XReg) (s : State) : Host.Outcome State Fault Refusal :=
  let w := s.getX a
  .next (s.superv (fun s =>
    let i := bits w 0 2
    let e := s.me.evc[i]?.getD ⟨0, 0, 0⟩
    let own : BitVec 48 := if e.issues s.me.lvl then 1 else 0
    let timed := timedEvent e.event.toNat
    let v : BitVec 48 := if timed then (Config.freeWord s.free).setWidth 48 else e.count - own
    let s := if timed then s.take else s
    let s := if w.getLsbD 2 then s.upMe (fun k => { k with evc := k.evc.setIfInBounds i { e with count := own } }) else s
    (s.setX d (v.setWidth 64)).advance h))

/-! ### Replay sessions (R307) -/

/-- The session of a colour. -/
def State.session (s : State) (colour : Nat) : Option Replay := s.hub.replays.find? (fun r => r.colour == colour)
/-- Changes the session of a colour. -/
def State.upSession (s : State) (colour : Nat) (f : Replay → Replay) : State :=
  s.upHub (fun h => { h with replays := h.replays.map (fun r => if r.colour == colour then f r else r) })

/-- CAP of HUB.RPLAY in MiB. -/
def Hub.cap (h : Hub) : Nat := bits h.rplay 48 15

/-- The lowest part of the replay region that no session holds, by its PA. -/
def Hub.freePart (h : Hub) : Option Nat :=
  if h.rplay.getLsbD 63 then
    ((List.range (bits h.rplay 0 20 / h.cap)).map (fun i => bits h.rplay 20 28 * 2 ^ 20 + i * h.cap * 2 ^ 20)).find?
      (fun p => !h.replays.any (fun r => r.part == p))
  else none

/-- Signatures of a job's cores, together (R307). -/
def State.jobSig (s : State) (colour : Nat) : Word :=
  match s.job? colour with
  | some j => j.present.foldl (fun w c => w ^^^ (s.core c).sig) (j.savedCores.foldl (fun w e => w ^^^ e.2.sig) 0)
  | none => 0

/-- A pass starts: the signatures of the job's cores, saved ones among them, from 0 (R307). -/
def State.startPass (s : State) (colour : Nat) : State :=
  match s.job? colour with
  | some j =>
    j.present.foldl (fun (u : State) c => u.upCore c (fun k => { k with sig := 0 }))
      (s.upJob colour (fun q => { q with savedCores := q.savedCores.map (fun e => (e.1, { e.2 with sig := 0 })) }))
  | none => s

/-- An RPCAP: `go` has the colour; a control word with other bits raises CTX_BAD. -/
def State.rpcap (s : State) (a : XReg) (op : Nat) (go : State → Nat → State) : State :=
  let w := s.getX a
  s.superv (fun s => if w.toNat ≠ op + bits w 16 12 * 2 ^ 16 then s.trap Code.ctxBad else go s (bits w 16 12))

/-- RPCAP CAPTURE (R307). -/
def execRpcapCapture (h : Head) (d a t : XReg) (s : State) : Host.Outcome State Fault Refusal :=
  .next (s.rpcap a 0 (fun s c =>
    match s.session c, s.hub.freePart with
    | none, some p =>
      let s := (s.startPass c).upHub (fun h => { h with
        replays := h.replays ++ [⟨c, p, true, false, false, false, 0, [], 0, 0, 0⟩]
        released := h.released.filter (fun r => r.colour != c) })
      ((s.setX d (BitVec.ofNat 64 p)).setX t (BitVec.ofNat 64 (s.hub.cap * 2 ^ 20))).advance h
    | _, _ => s.trap Code.ctxBad))

/-- Key of a captured block (R307). -/
def captureKey (id : Nat) : Nat :=
  if id < 2 ^ 62 then id
  else scratchKey (sliceOfDie (id / 2 ^ 30 % 4) (id / 2 ^ 24 % 64)) (id % 2 ^ 24)

/-- RPCAP REPLAY (R307): every L2 line leaves, and the captured blocks are restored. -/
def execRpcapReplay (h : Head) (_d a _t : XReg) (s : State) : Host.Outcome State Fault Refusal :=
  .next (s.rpcap a 1 (fun s c =>
    match s.session c with
    | some r =>
      if r.run || (match s.job? c with | some j => !j.out | none => false) then s.trap Code.ctxBad
      else
        let s := s.evict (fun _ => true)
        let s := (List.range r.blocks.length).foldl (fun (u : State) k =>
          u.poke (captureKey (r.blocks[k]?.getD 0)) (u.mem.bytes (r.part + 65536 + 32768 * k) 32768) false) s
        ((s.startPass c).upSession c (fun r => { r with run := true, acc := 0 })).advance h
    | none => s.trap Code.ctxBad))

/-- RPCAP END (R307). -/
def execRpcapEnd (h : Head) (_d a _t : XReg) (s : State) : Host.Outcome State Fault Refusal :=
  .next (s.rpcap a 2 (fun s c =>
    match s.session c with
    | some r =>
      if !r.run then s.trap Code.ctxBad
      else
        let sig := r.acc ^^^ s.jobSig c
        (s.upSession c (fun r => { r with
          run := false, passes := r.passes + 1, sigN := sig, acc := 0
          sig0 := if r.passes = 0 then sig else r.sig0
          mismatch := r.mismatch || (decide (r.passes ≠ 0) && sig != r.sig0) })).advance h
    | none => s.trap Code.ctxBad))

/-- RPCAP RELEASE (R307): the part is free, and what the session has found stays until the next CAPTURE. -/
def execRpcapRelease (h : Head) (_d a _t : XReg) (s : State) : Host.Outcome State Fault Refusal :=
  .next (s.rpcap a 3 (fun s c =>
    match s.session c with
    | none => s.trap Code.ctxBad
    | some r => (s.upHub (fun h => { h with
        replays := h.replays.filter (fun r => r.colour != c)
        released := h.released.filter (fun r => r.colour != c) ++ [{ r with run := false }] })).advance h))

/-- What RPSTAT reads of a session, open or released (R307). -/
def Replay.read (r : Replay) (isOpen : Bool) (sel : Nat) : Word :=
  match sel with
  | 0 => pack [(16, r.blocks.length % 65536), (8, r.passes % 256), (4, r.host.toNat), (3, r.ovf.toNat), (2, r.mismatch.toNat),
      (1, r.run.toNat), (0, isOpen.toNat)]
  | 1 => r.sig0
  | 2 => r.sigN
  | _ => 0

/-- RPSTAT (R307). -/
def execRpstat (h : Head) (d a : XReg) (s : State) : Host.Outcome State Fault Refusal :=
  let w := s.getX a
  .next (s.superv (fun s =>
    (s.setX d (match s.session (bits w 16 12) with
      | some r => r.read true (bits w 0 2)
      | none => match s.hub.released.find? (fun (r : Replay) => r.colour == bits w 16 12) with
        | some r => r.read false (bits w 0 2)
        | none => 0)).advance h))

/-! ### Error injection and forecasts (R308, R309) -/

/-- TPERT (R308). -/
def execTpert (h : Head) (d a : XReg) (s : State) : Host.Outcome State Fault Refusal :=
  let w := s.getX a
  .next (s.superv (fun s =>
    let armed := if w.getLsbD 12 then some (bits w 8 2 * 256 + bits w 0 8, (s.getX d).setWidth 32) else none
    (s.upMe (fun k => { k with tpert := armed })).advance h))

/-- Where INJ finds its word (R308). -/
def State.injPlan (s : State) (va : Word) : Plan :=
  match placeOf s.cur va with
  | .bad _ => .trap Code.addrWin va
  | .acc _ => .trap Code.addrWin va
  | .muBuf _ _ _ => .trap Code.addrWin va
  | p =>
    if va.toNat % 8 ≠ 0 then .trap Code.align va
    else match p with
      | .own off => .go (padKey s.cur off) true true false
      | .remote t off => if s.fenced t then .late Code.fenced false else .go (padKey t off) false true false
      | .lane off => .go (laneKey s.cur off) false true false
      | .trans =>
        let (r, walk) := s.translate s.cl s.me.root s.lev.sup va false
        (match r with
        | .error 0 => .wait
        | .error code => .late code walk
        | .ok p =>
          if s.hostWaits p.pa then .wait
          else if s.hostLost p.pa then .late Code.poison walk
          else .go p.pa false true walk)
      | _ =>
        match s.planAt s.cur va 8 8 true ⟨false, false, false⟩ with
        | .late _ _ => (match p with | .scratch sl off => .go (scratchKey sl off) false true false | _ => .wait)
        | q => q

/-- Flips the bits of a mask in the word at a key, whose parity stays as it was. -/
def State.flip (s : State) (key : Nat) (mask : Word) : State :=
  let m := s.damage.get 0 (key / 8) ^^^ mask
  { s with
    mem := s.mem.writeBytes key (leBytes 8 (s.peek64 key ^^^ mask).toNat)
    damage := if m = 0 then s.damage.erase (key / 8) else s.damage.set (key / 8) m }

/-- INJ (R308). -/
def execInj (h : Head) (d a : XReg) (disp : Word) (s : State) : Host.Outcome State Fault Refusal :=
  let va := s.ea a disp
  .next (s.superv (fun s =>
    let p : Plan := if s.atomicAhead s.cur then (match s.injPlan va with | .trap c t => .trap c t | _ => .wait) else s.injPlan va
    let e : Elem := ⟨0, va, p⟩
    s.access h false none [e] (fun u => match e.plan with
      | .go key _ _ _ => (u.flip key (s.getX d)).advance h
      | _ => u.advance h)))

/-- DISP.FCAST of an island as PWRF writes it (R309, R331). -/
def fcastWord (time : Word) (src level : Nat) : Word := pack [(32, bits time 0 32), (8, src), (0, level)]

/-- PWRF (R309). -/
def execPwrf (h : Head) (d a : XReg) (s : State) : Host.Outcome State Fault Refusal :=
  .next (s.superv (fun s =>
    (s.upHub (fun k => { k with fcast := k.fcast.set (bits (s.getX a) 0 5) (fcastWord s.hub.time 1 (bits (s.getX d) 0 8)) })).advance h))

end Sys2Proof.Machine
end

