-- ==== Sys2Proof/Machine/Jobs.lean ====
section
/-! DEFINITION. The Dispatcher: submission queues, launch checks, publication, dependences and conditions, selection and
dispatch (R59, R311 to R325, R339, R370). -/

namespace Sys2Proof.Machine

/-! ### Queue registers (R311) -/

/-- Slots of a queue's rings. -/
def Queue.depth (q : Queue) : Nat := 2 ^ q.log2d

/-- Q.CFG. -/
def Queue.cfg (q : Queue) : Word := pack [(16, q.prio), (8, q.log2d), (0, q.en.toNat)]

/-- A write of Q.CFG (R311): LOG2D stays while EN is 1, and with EN going to 1 COMPLETED takes CONSUMED. -/
def Queue.writeCfg (q : Queue) (v : Word) : Queue :=
  let k := bits v 8 4
  let on := v.getLsbD 0
  { q with
    prio := bits v 16 6
    log2d := if q.en then q.log2d else if decide (4 ≤ k) && decide (k ≤ 12) then k else 4
    completed := if on && !q.en then q.consumed else q.completed
    en := on }

/-! ### Publication (R314, R319, R339) -/

/-- Is a 32-bit sequence before another (R311)? -/
def before (a b : BitVec 32) : Bool := (a - b).msb

/-- COMPLETED moves past every completed sequence. -/
def passCompleted (stats : List (Nat × Nat)) : Nat → BitVec 32 → BitVec 32
  | 0, c => c
  | n + 1, c => if stats.any (fun e => e.1 == c.toNat) then passCompleted stats n (c + 1) else c

/-- Writes a completion record and moves COMPLETED, then the event (R314, R339). The statuses of the last 4,096 completions
are kept (R320), by the present numbering of the queue: a sequence that it has not consumed has none. -/
def State.record (s : State) (q seq status detail : Nat) (value : Word) (acts : Nat) : State :=
  let k := s.queue q
  let w0 := seq * 2 ^ 32 + q * 2 ^ 16 + detail * 2 ^ 8 + status
  let pa := (k.cbase.toNat + 32 * (seq % k.depth))
  let s := if populated pa then
      s.poke pa (leBytes 8 w0 ++ leBytes 8 value.toNat ++ leBytes 8 (acts % 2 ^ 48) ++ leBytes 8 s.hub.time.toNat) false
    else s
  let stats := if before (BitVec.ofNat 32 seq) k.consumed then k.stats ++ [(seq, status)] else k.stats
  let done := passCompleted stats stats.length k.completed
  let s := s.setQueue q { k with
    completed := done
    stats := stats.filter (fun e => !before (BitVec.ofNat 32 e.1) (done - 4096)) }
  if s.hub.evmask.getLsbD q then s.push eventChan (.completionEventWrite q seq) else s

/-- COMPLETION_EVENT_WRITE (R339, R386): the event word of a publication, or one of a machine check that waited for the
link, whose queue number stands for 2^31 + die. -/
def execCompletionEventWrite (q seq : Nat) (s : State) : Host.Outcome State Fault Refusal :=
  .next (s.eventWord (if q < 2 ^ 31 then q % 128 * 2 ^ 32 + seq % 2 ^ 32 else 2 ^ 63 + q % 4 * 2 ^ 32 + seq % 2 ^ 32))

/-! ### Dependences and conditions (R320, R321) -/

/-- How a dependence stands. -/
inductive Dep where
  | waits | met | failed | bad
  deriving DecidableEq, Repr

/-- How a dependence of entry `seq` of queue `q` stands (R320). A sequence that was never consumed under the queue's
present numbering has no status, so the entry stays unready (log 32). -/
def State.dep (s : State) (q : Nat) (seq : BitVec 32) (d : Nat × Nat × Bool) : Dep :=
  let k := s.queue d.1
  let ds := BitVec.ofNat 32 d.2.1
  if d.1 = q ∧ before ds seq = false then .bad
  else if before ds k.consumed = false then .waits
  else if before ds (k.completed - 4096) then .bad
  else match k.stats.find? (fun e => e.1 == d.2.1) with
    | none => .waits
    | some (_, st) => if d.2.2 || decide (st ≤ 2) then .met else .failed

/-- The dependences of an entry. -/
def State.depsOf (s : State) (l : Launch) : List Dep := l.deps.map (s.dep l.q (BitVec.ofNat 32 l.seq))

/-- Are the dependences of an entry met (R320)? -/
def State.depsMet (s : State) (l : Launch) : Bool := (s.depsOf l).all (· == .met)

/-- Does MODE hold of a predicate value (R321)? -/
def condHolds (mode : Nat) (v cmp : Word) : Bool :=
  match mode with
  | 0 => v == cmp
  | 1 => v != cmp
  | 2 => decide (v < cmp)
  | _ => decide (cmp ≤ v)

/-- Reads a condition and completes it (R321). -/
def State.condition (s : State) (l : Launch) : State :=
  let s := if populated l.pa then s.settle l.pa 8 else s
  if l.pa % 8 ≠ 0 ∨ populated l.pa = false ∨ s.poisoned l.pa 8 = true ∨ (2 ^ 47 ≤ l.pa ∧ s.hub.link ≠ .up) then
    s.record l.q l.seq 7 Code.launchBad 0 0
  else
    let v := s.peek64 l.pa
    s.record l.q l.seq (if condHolds l.mode v l.cmp then 2 else 3) 0 v 0

/-- A dependence that is met is decided for good: it leaves its entry (R320). -/
def State.latch (s : State) : State :=
  s.upHub (fun h => { h with table := h.table.map (fun l => { l with
    deps := l.deps.filter (fun d => s.dep l.q (BitVec.ofNat 32 l.seq) d != .met) }) })

/-- Completes the entries of the table that a publication decides, one after the other (R320, R321). -/
def State.settleTable : Nat → State → State
  | 0, s => s
  | n + 1, s =>
    let s := s.latch
    let decided (l : Launch) : Bool :=
      let ds := s.depsOf l
      ds.contains .bad || ds.contains .failed || (l.cond && ds.all (· == .met))
    match s.hub.table.find? decided with
    | none => s
    | some l =>
      let ds := s.depsOf l
      let s := s.upHub (fun h => { h with table := h.table.erase l })
      State.settleTable n (
        if ds.contains .bad then s.record l.q l.seq 7 Code.launchDep 0 0
        else if ds.contains .failed then s.record l.q l.seq 4 0 0 0
        else s.condition l)

/-- Publishes a completion and what follows from it (R314, R320, R321). -/
def State.publish (s : State) (q seq status detail : Nat) (value : Word := 0) (acts : Nat := 0) : State :=
  let s := s.record q seq status detail value acts
  State.settleTable (s.hub.table.length + 1) s

/-! ### Consumption (R312, R313, R316, R317) -/

/-- A word of a launch parameter block. -/
def Launch.word (l : Launch) (i : Nat) : Word := l.lpb[i]?.getD 0

/-- PA of a word of the slot of CONSUMED. -/
def Queue.slotPa (q : Queue) (i : Nat) : Nat := q.base.toNat + 64 * (q.consumed.toNat % q.depth) + 8 * i

/-- Can the Dispatcher take the next entry of a queue (R312, R362, R420)? -/
def State.canTake (s : State) (q : Nat) : Bool :=
  let k := s.queue q
  k.en && decide (7 ≤ s.hub.step) && s.hub.link == .up && decide (s.hub.table.length + s.jobs.length < 1024) &&
    populated (k.slotPa 0) && !s.poisoned (k.slotPa 0) 64 && decide (bits (s.peek64 (k.slotPa 0)) 32 32 = k.consumed.toNat)

/-- Is an entry refused by its own fields (R313)? -/
def entryBad (w : Nat → Word) : Bool :=
  let typ := bits (w 0) 0 8
  let n := bits (w 0) 8 3
  decide (bits (w 0) 20 12 ≠ 0) || decide (bits (w 0) 11 5 ≠ 0) || w 3 != 0 || decide (4 < n) || !(typ == 1 || typ == 2) ||
    (typ == 1 && w 2 != 0) || (typ == 2 && decide (3 < bits (w 0) 16 4)) ||
    (List.range 4).any (fun i => let d := w (4 + i)
      if i < n then d.getLsbD 63 || decide (bits d 39 23 ≠ 0) else d != 0)

/-- Alignments of the addresses of a launch parameter block by word, as powers of two (R316). -/
def lpbAligns : List (Nat × Nat) :=
  [(2, 8), (6, 3), (7, 7), (8, 30), (9, 30), (10, 3), (11, 4), (13, 4), (15, 17), (16, 20), (18, 0), (19, 0), (26, 3)]

/-- Word of ring k (R316). -/
def Launch.ringWord (l : Launch) (k : Nat) : Word := BitVec.ofNat 64 (bits (l.word (21 + k / 2)) (32 * (k % 2)) 32)

/-- Is a field of a launch parameter block that must be 0 not 0 (R316, R317)? -/
def Launch.reserved (l : Launch) : Bool :=
  [(0, 42, 14), (0, 20, 4), (0, 7, 1), (1, 16, 16), (3, 50, 14), (3, 27, 5), (3, 11, 5), (4, 40, 24), (12, 31, 33), (12, 5, 3),
    (14, 25, 39), (20, 32, 32)].any (fun (f : Nat × Nat × Nat) => decide (bits (l.word f.1) f.2.1 f.2.2 ≠ 0)) ||
    (List.range 5).any (fun i => l.word (27 + i) != 0) ||
    (List.range 8).any (fun k => decide (bits (l.ringWord k) 0 6 ≠ 0) || decide (bits (l.ringWord k) 18 6 ≠ 0))

/-- Fields of a launch parameter block. -/
def Launch.cores (l : Launch) : Nat := bits (l.word 0) 32 10
def Launch.h (l : Launch) : Nat := bits (l.word 0) 28 4
def Launch.w (l : Launch) : Nat := bits (l.word 0) 24 4
def Launch.colour (l : Launch) : Nat := bits (l.word 0) 8 12
def Launch.xb (l : Launch) : Nat := bits (l.word 3) 16 11
def Launch.clen (l : Launch) : Nat := bits (l.word 3) 0 11
def Launch.entry (l : Launch) : Nat := bits (l.word 3) 32 18
def Launch.ovec (l : Launch) : Nat := bits (l.word 4) 0 18
def Launch.stack (l : Launch) : Nat := bits (l.word 4) 18 18
def Launch.stksz (l : Launch) : Nat := bits (l.word 4) 36 4

/-- Step 5 of R317. -/
def Launch.fieldsBad (l : Launch) : Bool :=
  let rulek := bits (l.word 12) 0 5
  decide (l.colour = 0) || decide (l.word 5 &&& 0xFFFF ≠ 0) ||
    lpbAligns.any (fun (a : Nat × Nat) => decide ((l.word a.1).toNat % 2 ^ a.2 ≠ 0) ||
      !(bits (l.word a.1) 56 8 == 0 || bits (l.word a.1) 56 8 == 0xFF)) ||
    decide (l.xb = 0) || decide (0x400 < l.xb) || decide (l.clen = 0) || decide (l.xb < l.clen) ||
    decide (256 * l.clen ≤ l.entry) || decide (l.entry % 2 = 1) || decide (256 * l.xb ≤ l.ovec) || decide (l.ovec % 2 = 1) ||
    decide (l.stksz = 0) || decide (l.stack % 16 ≠ 0) || decide (l.stack < 256 * l.xb + 4096 * l.stksz * 4) ||
    decide (262144 < l.stack) || ((l.word 0).getLsbD 6 && l.word 10 == 0) || decide (rulek < 10) || decide (24 < rulek) ||
    (List.range 8).any (fun k => (ringFault (l.ringWord k) (256 * l.xb)).isSome)

/-- What the checks of R317 give before dispatch. -/
inductive LaunchCheck where
  | ok | empty
  | rejected (code : Nat)
  deriving DecidableEq, Repr

/-- Steps 1 to 5 of R317, in order. -/
def Launch.check (l : Launch) : LaunchCheck :=
  if bits (l.word 0) 56 8 ≠ 1 ∨ l.reserved = true then .rejected Code.launchBad
  else if l.cores = 0 then .empty
  else if 512 < l.cores then .rejected Code.launchSize
  else if l.w = 0 ∨ 8 < l.w ∨ l.h = 0 ∨ 4 < l.h ∨ 16 * l.w * l.h < l.cores then .rejected Code.launchShape
  else if l.fieldsBad then .rejected Code.launchBad
  else .ok

/-- The check of a launch parameter block's PA (R317): aligned, populated and readable whole. -/
def State.lpbOk (s : State) (pa : Nat) : Bool :=
  decide (pa % 256 = 0) && populated pa && !s.poisoned pa 256 && !(decide (2 ^ 47 ≤ pa) && s.hub.link != .up)

/-- An entry that has passed its checks joins the table, unless its dependences decide it at once (R320, R321). -/
def State.enter (s : State) (l : Launch) : State :=
  let s := s.upHub (fun h => { h with table := h.table ++ [l] })
  State.settleTable (s.hub.table.length + 1) s

/-- SUBMISSION_TAKE (R312, R313, R317): the entry is copied, CONSUMED moves on, and the entry is checked. -/
def execSubmissionTake (q : Nat) (s : State) : Host.Outcome State Fault Refusal :=
  .next (
    if !s.canTake q then s
    else
      let k := s.queue q
      let s := s.settle (k.slotPa 0) 64
      let w (i : Nat) : Word := s.peek64 (k.slotPa i)
      let seq := k.consumed.toNat
      let s := s.setQueue q { k with consumed := k.consumed + 1 }
      let pa := (w 1).toNat
      let deps := (List.range (bits (w 0) 8 3)).map (fun i =>
        (bits (w (4 + i)) 32 7, bits (w (4 + i)) 0 32, (w (4 + i)).getLsbD 62))
      if entryBad w then s.publish q seq 7 Code.launchBad
      else if bits (w 0) 0 8 = 2 then s.enter ⟨q, seq, true, bits (w 0) 16 4, pa, w 2, deps, []⟩
      else
        let s := if populated pa then s.settle pa 256 else s
        if !s.lpbOk pa then s.publish q seq 7 Code.launchBad
        else
          let l : Launch := ⟨q, seq, false, 0, pa, 0, deps, (List.range 32).map (fun i => s.peek64 (pa + 8 * i))⟩
          match l.check with
          | .rejected code => s.publish q seq 7 code
          | .empty => s.publish q seq 1 0
          | .ok => s.enter l)

/-! ### Selection (R322 to R325) -/

/-- Effective priority of a launch that is not dispatched (R322). -/
def State.priority (s : State) (l : Launch) : Nat := Nat.min (bits (l.word 0) 0 6) (s.queue l.q).prio

/-- Is a launch ready (R320, R324)? -/
def State.ready (s : State) (l : Launch) : Bool := !l.cond && s.depsMet l && (s.job? l.colour).isNone

/-- Power standing of a die's islands (R421). -/
def State.powerOf (s : State) (die : Nat) : PowerState := s.hub.power.get .full die

/-- Is a cluster inside a rectangle whose containment is in progress? -/
def State.clusterFenced (s : State) (cl : Nat) : Bool := s.hub.rect.any (fun e => e.2.getLsbD 62 && inRect e.2 cl)

/-- Is a cluster free for a job (R323, R327, R421)? -/
def State.clusterFree (s : State) (cl : Nat) : Bool :=
  (s.cluster cl).job.isNone && s.powerOf (dieOfCluster cl) == .full && !s.clusterFenced cl

/-- Clusters of a rectangle. -/
def rectOf (cx cy w h : Nat) : List Nat := (List.range h).flatMap (fun y => (List.range w).map (fun x => (cy + y) * 8 + cx + x))

/-- The origin at which a rectangle is placed: lowest cy, then lowest cx (R323). -/
def placeRect (free : Nat → Bool) (w h : Nat) : Option (Nat × Nat) :=
  (List.range (5 - h)).findSome? (fun cy =>
    ((List.range (9 - w)).find? (fun cx => (rectOf cx cy w h).all free)).map (fun cx => (cx, cy)))

/-- What the Dispatcher does next. -/
inductive Choice where
  | place (l : Launch) (cx cy : Nat)
  | resume (colour : Nat)
  /-- The launch with its origin, and the victims. -/
  | preempt (l : Launch) (cx cy : Nat) (victims : List Nat)
  deriving DecidableEq, Repr

/-- Insertion by a key, ascending and stable. -/
def insertBy {α : Type} (f : α → Nat) (x : α) : List α → List α
  | [] => [x]
  | y :: r => if f x < f y then x :: y :: r else y :: insertBy f x r

/-- A list in ascending order of a key. -/
def sortBy {α : Type} (f : α → Nat) (l : List α) : List α := l.foldl (fun r x => insertBy f x r) []

/-- The ready launches of a priority in the order of R323: queues in rotation after the queue of the last launch, the
lowest sequence of a queue first. -/
def State.launchesAt (s : State) (p : Nat) : List Launch :=
  let last := s.hub.lastQ.get 127 p
  let age (l : Launch) : Nat := (BitVec.ofNat 32 l.seq - ((s.queue l.q).consumed - BitVec.ofNat 32 (2 ^ 31))).toNat
  sortBy (fun l => (l.q + 127 - last) % 128 * 2 ^ 32 + age l)
    (s.hub.table.filter (fun l => s.ready l && s.priority l == p))

/-- SCR of the die of a cluster. -/
def State.scrOf (s : State) (cl : Nat) : Nat := (s.die (dieOfCluster cl)).scr

/-- Bytes that a job's save area needs now (R328). -/
def State.saveSize (s : State) (j : Job) : Nat := (j.clusters.map (fun cl => (5 + 8 * s.scrOf cl) * 2 ^ 20)).foldl (· + ·) 0

/-- Jobs that a launch of a priority may pre-empt, in the order of R325. -/
def State.victimsBelow (s : State) (p : Nat) : List Job :=
  let top := (s.jobs.map (·.order)).foldl Nat.max 0
  sortBy (fun j => j.prio * (top + 1) + (top - j.order)) (s.jobs.filter (fun j =>
    !j.out && !j.preempting && j.ending.isNone && !j.contain && decide (j.prio < p) && j.word 16 != 0 &&
      decide (s.saveSize j ≤ (j.word 17).toNat)))

/-- Adds victims until a placement fits (R325). -/
def chooseVictims (free : Nat → Bool) (w h : Nat) : List Job → List Job → Option (List Nat × Nat × Nat)
  | _, [] => none
  | taken, v :: r =>
    let taken := taken ++ [v]
    match placeRect (fun cl => free cl || taken.any (fun j => j.holds (cl * 16))) w h with
    | some at_ => some (taken.map (·.colour), at_)
    | none => chooseVictims free w h taken r

/-- Clusters that are free, or that a pre-emption in progress frees. -/
def State.freeSoon (s : State) (cl : Nat) : Bool :=
  s.clusterFree cl || s.jobs.any (fun j => j.preempting && !j.out && j.holds (cl * 16))

/-- What the Dispatcher can do for a launch: place it, or free room for it (R323, R325). -/
def State.choiceFor (s : State) (p : Nat) (l : Launch) : Option Choice :=
  match placeRect s.clusterFree l.w l.h with
  | some (cx, cy) => some (.place l cx cy)
  | none =>
    if (placeRect s.freeSoon l.w l.h).isSome then none
    else (chooseVictims s.freeSoon l.w l.h [] (s.victimsBelow p)).map (fun v => .preempt l v.2.1 v.2.2 v.1)

/-- Is a switched-out job ready for resumption (R329)? -/
def State.resumable (s : State) (j : Job) : Bool :=
  j.out && j.ending.isNone && (List.range 4).all (fun d => decide ((j.scrAt[d]?.getD 0) ≤ (s.die d).scr) && (s.die d).oldScr.isNone)

/-- The Dispatcher's choice at a priority: none where nothing stands at it, else what can be done, if anything can. -/
def State.choiceAt (s : State) (p : Nat) : Option (Option Choice) :=
  let back := s.jobs.filter (fun j => decide (j.prio = p) && s.resumable j)
  let ls := s.launchesAt p
  if back.isEmpty && ls.isEmpty then none
  else some (
    match back.find? (fun j => j.saved.all s.clusterFree) with
    | some j => some (.resume j.colour)
    | none => ls.findSome? (s.choiceFor p))

/-- What the Dispatcher does next: a priority at which something waits lets none below it pass (R323). Nothing is
dispatched while the host link is down, whose memory a launch may need (R420). -/
def State.choice (s : State) : Option Choice :=
  if s.hub.step < 7 ∨ s.hub.link = .down then none
  else ((List.range 64).reverse.findSome? s.choiceAt).join

/-! ### Reading a job's tables -/

/-- Reads bytes through a job's page tables, or gives the fault with its address (R79). -/
def State.jobRead (s : State) (j : Job) (va : Word) (n : Nat) : Except (Nat × Word) (State × List Byte) :=
  (cpPieces (.glob va) n 0 n).foldlM (fun (st : State × List Byte) (p : Int × Nat) =>
    match st.1.unitAt (j.ctx (j.cx + 8 * j.cy)) (va + BitVec.ofInt 64 p.1) p.2 false with
    | .error e => .error (e, va + BitVec.ofInt 64 p.1)
    | .ok (s, key, _) => .ok (s, st.2 ++ s.mem.bytes key p.2)) (s, [])

/-- Word `i` of bytes. -/
def wordAt (bs : List Byte) (i : Nat) : Word := BitVec.ofNat 64 (leVal ((bs.drop (8 * i)).take 8))

/-- A group table entry: none where the bitmap is empty (R59). -/
def groupEntry (bs : List Byte) : Option GroupDef :=
  let map := leVal (bs.take 64)
  let ms := (List.range 512).filter (fun c => map.testBit c)
  if ms.isEmpty then none else some ⟨ms, wordAt bs 8⟩

/-- Does a group keep R59 inside a partition? -/
def GroupDef.ok (g : GroupDef) (j : Job) : Bool :=
  let n := g.dims
  decide (1 ≤ n) && decide (bits g.geo 32 32 = 0) && g.members.all j.holds &&
    decide (((List.range n).map g.ext).foldl (· * ·) 1 = g.members.length)

/-- The groups of a group table, or none where it breaks R59. -/
def groupTable (j : Job) (bs : List Byte) : Option (NMap GroupDef) :=
  let es := (List.range 256).map (fun i => (i, (bs.drop (128 * i)).take 128))
  let gs : NMap GroupDef := es.filterMap (fun e => (groupEntry e.2).map (fun g => (e.1, g)))
  let clean := es.all (fun e => (groupEntry e.2).isNone || (e.2.drop 72).all (· == 0))
  if clean && gs.all (fun (e : Nat × GroupDef) => e.2.ok j) &&
      j.allCores.all (fun c => decide (gs.countP (fun (e : Nat × GroupDef) => e.2.members.contains c) ≤ 4)) then some gs
  else none

/-- CORE.GRP of a core: its slots in ascending order with their valid bits (R59). -/
def grpWord (gs : NMap GroupDef) (c : Nat) : Word :=
  let slots := (gs.filter (fun (e : Nat × GroupDef) => e.2.members.contains c)).map (·.1)
  pack (slots.zipIdx.flatMap (fun e => [(8 * e.2, e.1), (32 + e.2, 1)]))

/-! ### Dispatch (R37, R65, R318, R379) -/

/-- A cluster without a job: what belongs to the cluster and not to a job stays (log 35). Its TLB is empty for the next job
(R427; log 72). -/
def Cluster.cleared (k : Cluster) : Cluster :=
  { Cluster.initial with
    trRead := k.trRead, trWrite := k.trWrite, msgs := k.msgs, loops := k.loops, twinNext := k.twinNext
    chg := k.chg + 1 }

/-- A core given to a job: every register is at its reset value, but CORE.RETAIN and the event counters stay (R65, R306,
R318). -/
def Core.cleared (k : Core) (c : Nat) : Core := { Core.initial c with retainV := k.retainV, retainCol := k.retainCol, evc := k.evc }

/-- A core back on the free list: no rule clears its registers there, so they keep their values until the next launch (R65, R318; log 73).
Its Spring keeps what it holds (R359). What was in flight for its job is gone. -/
def Core.returned (k : Core) (c : Nat) : Core :=
  { k.cleared c with
    lv := k.lv.map (fun l => { l with out := [], locks := [], wait := none, kept := none, faults := [] })
    nfree := k.nfree, wfree := k.wfree, ntop := k.ntop, wtop := k.wtop
    xs := k.xs, vs := k.vs, k := k.k, acc := k.acc, asat := k.asat, xb := k.xb, ovec := k.ovec, cmask := k.cmask
    tickLimit := k.tickLimit, delegTkt := k.delegTkt, delegFp := k.delegFp, uvec := k.uvec }

/-- An MU without commands: what a calibration or a probe found stays with the part (log 35). -/
def Mu.cleared (k : Mu) (m : Nat) : Mu :=
  { Mu.initial m with
    banks := k.banks, active := k.active, drift := k.drift, enob := k.enob, pser := k.pser, dfault := k.dfault
    balok := k.balok, dlim := k.dlim, serial := k.serial, next := k.next, stamps := k.stamps, lam := k.lam, due := k.due
    pauseMu := k.pauseMu, stuck := k.stuck, dev := k.dev, since := k.since }

/-- Zeroes the bytes of a key range. -/
def State.zeroKeys (s : State) (lo hi : Nat) : State :=
  { s with
    mem := s.mem.filter (fun e => !(decide (lo ≤ e.1) && decide (e.1 < hi)))
    damage := s.damage.filter (fun e => !(decide (lo ≤ e.1 * 8) && decide (e.1 * 8 < hi))) }

/-- A started core as R318 gives it. -/
def State.startCore (s : State) (j : Job) (gs : NMap GroupDef) (dtab : List Word) (code : List Byte) (rank c : Nat) : State :=
  let l := j.launch
  let k := s.core c
  let keep := k.retainV && k.retainCol.toNat == j.colour
  let s := s.zeroKeys (padKey c 0) (padKey c (if keep then 256 * l.clen else 262144))
  let s := (s.zeroKeys (laneKey c 0) (laneKey c 16384)).poke (padKey c 0) code
  let sp (i : Nat) : Word := 0xFF00000000000000 + BitVec.ofNat 64 l.stack - BitVec.ofNat 64 (4096 * l.stksz * i)
  let k0 : Core := { k with
    status := .running
    retainV := false
    retainCol := 0
    xb := BitVec.ofNat 11 l.xb
    ovec := BitVec.ofNat 18 l.ovec
    grp := grpWord gs c
    tickLimit := BitVec.ofNat 32 (bits (l.word 1) 32 32)
    lease := BitVec.ofNat 16 (bits (l.word 1) 0 16)
    dtabBase := l.word 6 &&& 0x0000FFFFFFFFFFF8
    dtab := dtab
    root := j.root
    svec := s.hub.svec
    ring := Vector.ofFn (fun (i : Fin 8) =>
      let r := l.ringWord i.val
      (⟨0, 0, 0, 0, bits r 24 8, bits r 6 12⟩ : Ring)) }
  let k1 := (List.finRange 4).foldl (fun (k : Core) lv => k.setX lv 2 (sp lv.val)) k0
  let k2 := (((k1.setX 0 4 (BitVec.ofNat 64 rank)).setX 0 5 (BitVec.ofNat 64 l.cores)).setX 0 6 (BitVec.ofNat 64 l.pa)).setX 0 7 (l.word 25)
  (s.setCore c (k2.upLv 0 (fun v => { v with pc := BitVec.ofNat 64 l.entry, entry := BitVec.ofNat 64 l.entry }))).refillBreaks c 0 262144

/-- The first allocated ROOT node among the slots below the tops of a core's shard (R27, R64). -/
def State.rootIn (s : State) (j : Job) (c : Nat) : Option Nat :=
  ((List.range ((s.core c).ntop - 1)).map (fun i => c * 2 ^ 23 + i + 1)).find? (fun n =>
    match s.unitLoad (j.ctx (clusterOf c)) (j.nodeVa n) 8 with
    | .ok (_, w) => let w := BitVec.ofNat 64 w
                    w.getLsbD 41 && nodeSym w == symRoot
    | .error _ => false)

/-- The cluster in whose Pond the initial pair on a wire of core `c` stands: that of a `.pair` directive, or its owner's
(R196; log 63). -/
def Job.initialPond (j : Job) (c w : Nat) : Nat :=
  let cl := Config.initialPond j.launch.q j.launch.seq w
  if j.clusters.contains cl then cl else clusterOf c

/-- The pairs of the initial net in a core's shard enter their Ponds (R41, R196, R318). -/
def State.initialPairs (s : State) (j : Job) (c : Nat) : State :=
  ((List.range ((s.core c).wtop - 1)).map (fun i => c * 2 ^ 23 + i + 1)).foldl (fun (u : State) w =>
    match u.loadWire j (clusterOf c) w with
    | .error _ => u
    | .ok (u, r) =>
      if r.st ≠ 1 then u
      else match u.testPair j (j.initialPond c w) w r with
        | .ok t => t
        | .error va => u.corrupt j (clusterOf c) unitWeir (16 * clusterOf c) va w) s

/-- How a launch ends whose partition cannot be prepared: STATUS, DETAIL, and the faulting address (R317, R386, R404). -/
abbrev Refused := Nat × Nat × Word

/-- What preparing a partition comes to: the state so far, and how the launch ends if a step fails. -/
abbrev Prep := State × Option Refused

/-- The next step of a preparation. -/
def Prep.and (r : Prep) (f : State → Prep) : Prep := match r.2 with | none => f r.1 | some _ => r

/-- Reads a table, or ends the launch with FAULT (R317). -/
def State.prepRead (s : State) (j : Job) (va : Word) (n : Nat) (f : State → List Byte → Prep) : Prep :=
  match s.jobRead j va n with
  | .error e => (s, some (6, e))
  | .ok (s, bs) => f s bs

/-- Copies the data image (R318). -/
def State.prepImage (s : State) (j : Job) : Prep :=
  s.prepRead j (j.word 18) (bits (j.word 20) 0 32) (fun s bs =>
    match s.dialWrite j (j.word 19) bs with
    | .error e => (s, some (6, e))
    | .ok s => (s, none))

/-- Prepares the partition of a job in the order of R318. -/
def State.prepare (s : State) (j : Job) : Prep :=
  (s.prepImage j).and (fun s => s.prepRead j (j.word 7) 32768 (fun s bs =>
    match groupTable j bs with
    | none => (s, some (7, Code.launchBad, 0))
    | some gs =>
      s.prepRead j (j.word 6) 512 (fun s dt =>
        s.prepRead j (j.word 2) (256 * j.launch.clen) (fun s code =>
          s.prepRead j (j.word 26) (if j.word 26 = 0 then 0 else 4096) (fun s tops =>
            let top (c lo : Nat) : Nat := if j.word 26 = 0 then 1 else Nat.max 1 (bits (wordAt tops c) lo 23)
            let s := j.allCores.foldl (fun (u : State) c => u.upCore c (fun k => { k with ntop := top c 0, wtop := top c 32 })) s
            let s := s.upJob j.colour (fun q => { q with groups := gs })
            let dtab := (List.range 64).map (wordAt dt)
            let s := (j.allCores.take j.cores).zipIdx.foldl (fun (u : State) (e : Nat × Nat) => u.startCore j gs dtab code e.2 e.1) s
            if j.word 8 = 0 then (s, none)
            else
              let s := s.upJob j.colour (fun q => { q with rootNode := j.allCores.findSome? (s.rootIn j) })
              (j.allCores.foldl (fun (u : State) c => u.initialPairs j c) s, none))))))

/-- A job as it is dispatched: the security engine draws its ticket key (R85; log 12). -/
def State.newJob (s : State) (l : Launch) (cx cy : Nat) : Job :=
  { launch := l, prio := s.priority l, colour := l.colour, cx := cx, cy := cy, w := l.w, h := l.h, cores := l.cores,
    key := Config.ticketKey s.free, groups := [], order := (s.jobs.map (·.order)).foldl Nat.max 0 + 1, out := false,
    preempting := false, heir := none, ending := none, contain := false, rootNode := none, hung := false, hangAt := (0, 0, 0), wave := false,
    again := false, scrAt := [], saved := [], savedMem := [], savedCores := [], savedClusters := [],
    savedMus := [], savedMsgs := [], savedFlights := [], missed := false, acts := 0 }

/-- Gives a partition to a job: its clusters hold nothing but the reset values of R49 and R169. -/
def State.grantPartition (s : State) (j : Job) : State :=
  let s := j.clusters.foldl (fun (u : State) cl =>
    let u := u.upCluster cl (fun k => { k.cleared with job := some j.colour, det := j.det, wasLow := true })
    (u.upMu (2 * cl) (fun k => k.cleared (2 * cl))).upMu (2 * cl + 1) (fun k => k.cleared (2 * cl + 1))) s
  j.allCores.foldl (fun (u : State) c => u.upCore c (fun k => k.cleared c)) s

/-- Takes a job's partition back: its clusters and cores hold no job. -/
def State.returnPartition (s : State) (cls : List Nat) : State :=
  let s := cls.foldl (fun (u : State) cl =>
    let u := u.upCluster cl (fun k => k.cleared)
    (u.upMu (2 * cl) (fun k => k.cleared (2 * cl))).upMu (2 * cl + 1) (fun k => k.cleared (2 * cl + 1))) s
  (cls.flatMap coresIn).foldl (fun (u : State) c => u.upCore c (fun k => k.returned c)) s

/-- A launch that fails while its partition is prepared (R317, R386, R404): a fault is logged by the hub, the record is
published and the partition is free again; with the host link gone the record waits with the job (R420). -/
def State.refuseLaunch (s : State) (j : Job) (r : Refused) : State :=
  let (status, code, addr) := r
  let s := if status = 6 then
      s.logRec 0 { code := code, core := 16 * (j.clusters.headD 0), unit := unitHub, colour := j.colour, addr := addr }
    else s
  if s.hub.link = .up then
    let s := s.returnPartition j.clusters
    ({ s with jobs := s.jobs.filter (fun q => q.colour != j.colour) } : State).publish j.launch.q j.launch.seq status code
  else (s.upJob j.colour (fun q => { q with ending := some ⟨status, code, 0⟩ })).pushFree (.jobEnd j.colour)

/-- Dispatches a launch at an origin (R318): the receive counters of its job start at 0 (R297). -/
def State.dispatch (s : State) (l : Launch) (cx cy : Nat) : State :=
  let j := s.newJob l cx cy
  let s := s.take.upHub (fun h => { h with table := h.table.erase l, lastQ := h.lastQ.set j.prio l.q, rcv := h.rcv.erase j.colour })
  let s := ({ s with jobs := s.jobs ++ [j] } : State).grantPartition j
  match s.prepare j with
  | (s, none) => s
  | (s, some r) => s.refuseLaunch j r

/-- DISPATCH_SELECT (R323, R325): the Dispatcher places the launch that it selects, or signals the jobs that must make room
for it. -/
def execDispatchSelect (s : State) : Host.Outcome State Fault Refusal :=
  .next (match s.choice with
    | some (.place l cx cy) => s.dispatch l cx cy
    | some (.preempt l cx cy vs) =>
      vs.foldl (fun (u : State) c => u.upJob c (fun j =>
        { j with preempting := true, saved := (rectOf cx cy l.w l.h).filter (fun cl => j.holds (cl * 16)), heir := some (l, cx, cy) })) s
    | _ => s)

/-- Q_CFG_WRITE (R311, R322). -/
def execQCfgWrite (q : Nat) (v : Word) (s : State) : Host.Outcome State Fault Refusal :=
  .next (if q < 128 ∧ s.hub.fail = false then s.upQueue q (fun k => k.writeCfg v) else s)

end Sys2Proof.Machine
end

