-- ==== Sys2Proof/Machine/Contain.lean ====
section
/-! DEFINITION. How a job leaves its partition: pre-emption and resumption, the end of a job, kills and containment (R65, R94,
R319, R326 to R329, R388 to R391). -/

namespace Sys2Proof.Machine

/-! ### Clusters and keys -/

/-- Slices on a cluster's routers (R16, R17). -/
def slicesOf (cl : Nat) : List Nat := ((coresIn cl).map sliceOf).eraseDups

/-- Does a key lie in a range? -/
def keyIn (lo hi key : Nat) : Bool := decide (lo ≤ key) && decide (key < hi)

/-- Is a key one of a cluster's scratchpads, lane slices and MU buffers (R327)? -/
def clusterKey (cl key : Nat) : Bool :=
  keyIn (padKey (16 * cl) 0) (padKey (16 * cl + 16) 0) key || keyIn (laneKey (16 * cl) 0) (laneKey (16 * cl + 16) 0) key ||
    keyIn (muKey (2 * cl) 0 0) (muKey (2 * cl + 2) 0 0) key

/-- Is a key one of the Basin scratch of the slices on a cluster's routers, up to the scratch size of its die? -/
def scratchOf (scr cl key : Nat) : Bool :=
  (slicesOf cl).any (fun sl => keyIn (scratchKey sl 0) (scratchKey sl (scr * 2 ^ 20)) key)

/-- Is a word of damage one of the arrays that are saved with a cluster? -/
def State.savedWord (s : State) (cl word : Nat) : Bool :=
  clusterKey cl (8 * word) || scratchOf (s.scrOf cl) cl (8 * word) ||
    keyIn (accKey (16 * cl) 0) (accKey (16 * cl + 16) 0) (8 * word) || keyIn (phaseKey (2 * cl) 0 0) (phaseKey (2 * cl + 2) 0 0) (8 * word)

/-- Does an event on its way belong to one of a job's clusters? -/
def Job.hasEvent (j : Job) (e : Instr) : Bool :=
  match eventCluster e with
  | some cl => j.holds (16 * cl)
  | none => false

/-- Has a core come to the end of steps 1 and 2 of R326: its activation, its handlers and what they wait for are over? -/
def State.coreAtRest (s : State) (c : Nat) : Bool :=
  let k := s.core c
  (k.status != .running || s.parked c) && k.lv.toList.all (fun v => v.out.isEmpty)

/-- Is the fixed job of a cluster being pre-empted or switched out (R326)? -/
def State.signalled (s : State) (cl : Nat) : Bool :=
  match s.jobAt cl with
  | some j => j.out || j.preempting
  | none => false

/-- Do the MUs and the Copy Engine of a cluster begin no new command (R326)? From step 3 on: while an activation or a
handler of the job still runs, what it waits for goes on. -/
def State.unitsOff (s : State) (cl : Nat) : Bool :=
  match s.jobAt cl with
  | some j => j.out || (j.preempting && j.allCores.all s.coreAtRest)
  | none => false

/-! ### Pre-emption (R326, R327, R93, R123) -/

/-- Has a core finished what steps 1 to 3 of R326 let it finish? Committed batches finish whether or not it has halted
(R267). -/
def State.coreDrained (s : State) (c : Nat) : Bool :=
  let k := s.core c
  s.coreAtRest c && k.batches.isEmpty && k.stores == 0

/-- Has an MU finished what has taken effect? A bank load behind a kept command is kept with it (R159, R326). -/
def Mu.drained (m : Mu) : Bool :=
  m.stream.isEmpty && m.probing.isNone && m.cal.isNone && !m.ldbusy && !m.hold &&
    (match m.loads with | (st, _) :: _ => m.q.any (fun q => decide (q.stamp < st)) | [] => true)

/-- Has every access of a job performed, stores and atomics that wait for a ring slot among them (R123)? -/
def State.performed (s : State) (j : Job) : Bool :=
  !s.heldWrites.any (fun w => j.holds w.c || (match padOwner w.key with | some t => j.holds t | none => false)) &&
    !s.agenda.any (fun f => match f.ev with | .atomicPerform c _ _ _ _ _ => j.holds c | _ => false)

/-- Is a Dial send of a colour departing, or has it departed without its acknowledgement? -/
def State.dialBusy (s : State) (colour : Nat) : Bool :=
  (List.range 8).any (fun p => let k := s.port p
    k.underWay.any (fun m => m.colour == colour))

/-- Are steps 1 to 4 of R326 over for a job: cores, handlers, engines, its accesses, and everything of its colour on the way?
Messages that still wait for room at a core or a Weir are kept (R123, R326). -/
def State.drainedJob (s : State) (j : Job) : Bool :=
  j.allCores.all s.coreDrained && s.performed j &&
    j.clusters.all (fun cl => (s.mu (2 * cl)).drained && (s.mu (2 * cl + 1)).drained && (s.cluster cl).copies.all (fun q => !q.running)) &&
    (List.range 4).all (fun d => (s.die d).de.all (fun q => !j.holds q.c)) && !s.dialBusy j.colour &&
    s.heads.all (fun i => match s.agenda[i]? with | some f => !j.hasEvent f.ev | none => true)

/-- Sets or clears FROZEN on the entries of a colour (R93). -/
def State.freeze (s : State) (colour : Nat) (b : Bool) : State :=
  { s with slices := s.slices.map (fun (p : Nat × Slice) => (p.1, { p.2 with
      tk := p.2.tk.map (fun (e : Nat × TkEntry) => (e.1, if e.2.colour = colour then { e.2 with frozen := b } else e.2)) })) }

/-- Recovers what parity finds bad in the arrays that are to be saved (R408). -/
def State.recoverSaved (s : State) (cls : List Nat) : State :=
  (((s.damage.filter (fun (e : Nat × Word) => detectable e.2 && cls.any (fun cl => s.savedWord cl e.1))).map (fun (e : Nat × Word) => stripeOf e.1)).eraseDups).foldl
    (fun (u : State) st => u.recover st) s

/-- The messages of a colour in the virtual output queues, each with its die. -/
def State.queuedMsgs (s : State) (colour : Nat) : List (Nat × DialMsg) :=
  (List.range 4).flatMap (fun d => (s.die d).voq.flatMap (fun (e : Nat × List DialMsg) =>
    (e.2.filter (fun m => m.colour == colour)).map (fun m => (d, m))))

/-- The virtual output queues without the messages of a colour. -/
def State.dropMsgs (s : State) (colour : Nat) : State :=
  (List.range 4).foldl (fun (u : State) d => u.upDie d (fun k =>
    { k with voq := k.voq.map (fun (e : Nat × List DialMsg) => (e.1, e.2.filter (fun m => m.colour != colour))) })) s

/-- The save area receives the state of the job in the device's own layout: free values in the bytes that R328 counts
(R327). Where its addresses fault nothing is written (log 105). -/
def State.fillSaveArea (s : State) (j : Job) : State :=
  let n := s.saveSize j
  match s.dialWrite j (j.word 16) (s.freeBytes n) with
  | .ok u => { u with free := u.free + n }
  | .error _ => s

/-- The rule caches of clusters are emptied, and a notice of quiet no longer counts: a wave that was under way reports
nothing (R32, R64). -/
def State.emptyRuleCaches (s : State) (cls : List Nat) : State :=
  cls.foldl (fun (u : State) cl => u.upCluster cl (fun k => { k with rules := [], noticed := false })) s

/-- Steps 5 to 7 of R326: leases freeze, the taken clusters are saved and reset, and the job is switched out. -/
def State.switchOut (s : State) (j : Job) : State :=
  let s := s.recoverSaved j.saved
  match s.job? j.colour with
  | none => s
  | some j =>
    if j.ending.isSome then s
    else
      let s := ((s.freeze j.colour true).emptyRuleCaches j.clusters).fillSaveArea j
      let taken (c : Nat) : Bool := j.saved.contains (clusterOf c)
      let j' : Job := { j with
        out := true
        preempting := false
        heir := none
        scrAt := (List.range 4).map (fun d => if j.clusters.any (fun cl => dieOfCluster cl == d) then (s.die d).scr else 0)
        savedMem := s.mem.filter (fun e => j.saved.any (fun cl => clusterKey cl e.1 || scratchOf (s.scrOf cl) cl e.1))
        savedCores := (j.allCores.filter taken).map (fun c => (c, s.core c))
        savedClusters := j.saved.map (fun cl => (cl, s.cluster cl))
        savedMus := j.saved.flatMap (fun cl => [(2 * cl, s.mu (2 * cl)), (2 * cl + 1, s.mu (2 * cl + 1))])
        savedMsgs := s.queuedMsgs j.colour
        savedFlights := s.agenda.filter (fun f => j.hasEvent f.ev) }
      let s := (s.upJob j.colour (fun _ => j')).dropMsgs j.colour
      let s := { s with
        agenda := s.agenda.filter (fun f => !j.hasEvent f.ev)
        mem := s.mem.filter (fun e => !j.saved.any (fun cl => clusterKey cl e.1)) }
      let s := s.returnPartition j.saved
      j.saved.foldl (fun (u : State) cl =>
        (u.upMu (2 * cl) (fun m => { m with banks := Vector.replicate 2 Bank.zero, active := 0 })).upMu (2 * cl + 1)
          (fun m => { m with banks := Vector.replicate 2 Bank.zero, active := 0 })) s

/-- Step 7 of R326: the clusters go to the pre-empting launch, once all that it takes are free and while it still waits. -/
def State.grantHeir (s : State) (j : Job) : State :=
  match j.heir with
  | none => s
  | some (l, cx, cy) =>
    match s.hub.table.find? (fun (e : Launch) => e.q == l.q && e.seq == l.seq) with
    | none => s
    | some e =>
      if s.ready e && (rectOf cx cy e.w e.h).all s.clusterFree && decide (7 ≤ s.hub.step) && s.hub.link != .down then
        s.dispatch e cx cy
      else s

/-- Is a pre-emption to come about: its job is not contained (R388), and has come to rest, or has missed a Tick and is past
step 1 (R326, R397)? -/
def State.preemptionDue (s : State) (j : Job) : Bool :=
  j.preempting && !j.out && j.ending.isNone && !j.contain && !s.rectBusy j &&
    ((j.missed && s.activationsDone j) || s.drainedJob j)

/-- PREEMPTION (R326, R397): once everything of the job has come to rest, it is saved, and its clusters go to the launch that
pre-empts it. One with a core that has missed its Tick ends with FAULT instead. -/
def execPreemption (colour : Nat) (s : State) : Host.Outcome State Fault Refusal :=
  .next (match s.job? colour with
    | some j =>
      if !s.preemptionDue j then s
      else if j.missed && s.activationsDone j then s.endJob colour 6 Code.tickMiss
      else (s.switchOut j).grantHeir j
    | none => s)

/-- An MU as it resumes: banks and commands come back; what belongs to the part is as it is now (log 35). -/
def Mu.resumed (now was : Mu) : Mu :=
  { was with
    drift := now.drift, enob := now.enob, pser := now.pser, dfault := now.dfault, balok := now.balok, serial := now.serial
    next := now.next, lam := now.lam, due := now.due, pauseMu := now.pauseMu, stuck := now.stuck, dev := now.dev
    since := now.since }

/-- The scratch bytes of a range that has become scratch while the job was switched out hold free values (R329). -/
def State.freshScratch (s : State) (j : Job) : State :=
  (j.saved.flatMap slicesOf).foldl (fun (u : State) sl =>
    let d := dieOfSlice sl
    let old := j.scrAt[d]?.getD 0
    let n := ((u.die d).scr - old) * 2 ^ 20
    { u with mem := u.mem.writeBytes (scratchKey sl (old * 2 ^ 20)) (u.freeBytes n), free := u.free + n }) s

/-- The steps of R326 backwards: memory, clusters, cores and MUs come back, leases resume, kept commands and messages re-enter
their queues. -/
def State.switchIn (s : State) (j : Job) : State :=
  let back (e : Host.Cell) : Bool := j.saved.any (fun cl => clusterKey cl e.1 || scratchOf (j.scrAt[dieOfCluster cl]?.getD 0) cl e.1)
  let mem := j.savedMem.foldl (fun (m : Memory) e => m.write e.1 e.2) (s.mem.filter (fun e => !back e))
  let s := { s with
    mem := mem
    damage := s.damage.filter (fun (e : Nat × Word) => !j.saved.any (fun cl => s.savedWord cl e.1))
    agenda := s.agenda ++ j.savedFlights }
  let s := s.freshScratch j
  let s := j.savedClusters.foldl (fun (u : State) (e : Nat × Cluster) => u.upCluster e.1 (fun now =>
    { e.2 with tlb := now.tlb, trRead := now.trRead, trWrite := now.trWrite, chg := now.chg + 1 })) s
  let s := j.savedCores.foldl (fun (u : State) (e : Nat × Core) => u.setCore e.1 e.2) s
  let s := j.savedMus.foldl (fun (u : State) (e : Nat × Mu) => u.upMu e.1 (fun now => now.resumed e.2)) s
  let s := j.savedMsgs.foldl (fun (u : State) (e : Nat × DialMsg) => u.upDie e.1 (fun k =>
    { k with voq := k.voq.set e.2.pkg (k.voq.get [] e.2.pkg ++ [e.2]) })) s
  (s.freeze j.colour false).upJob j.colour (fun q => { q with
    out := false, saved := [], savedMem := [], savedCores := [], savedClusters := [], savedMus := [], savedMsgs := []
    savedFlights := [], scrAt := [] })

/-- RESUMPTION (R323, R326, R329). -/
def execResumption (colour : Nat) (s : State) : Host.Outcome State Fault Refusal :=
  .next (match s.choice, s.job? colour with
    | some (.resume c), some j => if c = colour then s.switchIn j else s
    | _, _ => s)

/-! ### The end of a job (R65, R94, R319) -/

/-- Activations that a job has retired: the counts of its clusters, saved ones among them (R63, R314). -/
def State.actsOf (s : State) (j : Job) : Nat :=
  ((j.clusters.filter (fun cl => !(j.out && j.saved.contains cl))).map (fun cl => (s.cluster cl).acts)).foldl (· + ·) 0 +
    (j.savedClusters.map (fun e => e.2.acts)).foldl (· + ·) 0

/-- Drops what an ended job has left on its way: events of its clusters, engine commands, and Dial sends. -/
def State.dropTraffic (s : State) (j : Job) (cls : List Nat) : State :=
  let here (c : Nat) : Bool := cls.contains (clusterOf c)
  let s := { s with agenda := s.agenda.filter (fun f => match eventCluster f.ev with | some cl => !cls.contains cl | none => true) }
  let s := (List.range 4).foldl (fun (u : State) d => u.upDie d (fun k => { k with de := k.de.filter (fun q => !here q.c) })) s
  let s := (List.range 8).foldl (fun (u : State) p => u.upPort p (fun k =>
    let keep (m : DialMsg) : Bool := m.colour != j.colour
    { k with sending := k.sending.filter keep, unacked := k.unacked.filter keep, resend := k.resend.filter (fun f => keep f.1) })) s
  (s.dropMsgs j.colour).upHub (fun h => { h with dsigs := h.dsigs.filter (fun r => match r.own with | some o => !here o.c | none => true) })

/-- Performs the stores of the job's cores that waited for a ring slot (R118, R319). -/
def State.performHeld (s : State) (j : Job) : State :=
  let mine (w : HeldWrite) : Bool := !j.out && j.holds w.c
  let ws := s.heldWrites.filter mine
  ws.foldl (fun (u : State) w => u.poke w.key w.bytes) { s with heldWrites := s.heldWrites.filter (fun w => !mine w) }

/-- Zeroes the scratchpads and lane slices of a cluster (R389). -/
def State.zeroCluster (s : State) (cl : Nat) : State :=
  (s.zeroKeys (padKey (16 * cl) 0) (padKey (16 * cl + 16) 0)).zeroKeys (laneKey (16 * cl) 0) (laneKey (16 * cl + 16) 0)

/-- Resets clusters together (R7, R389): the dirty lines of their cores are written back, cores, Ponds, Weirs, Copy Engines
and MUs take their reset values, and scratchpads and lane slices become 0. ENOB stands for the last probe since cold reset,
and PSER with it (R150, R166); lost comb lines, stuck modulators and uncorrected phases are the part's (log 35). -/
def State.resetClusters (s : State) (cls : List Nat) : State :=
  let s := s.evict (fun key => match s.dirtyBy.find? (key / 64) with | some c => cls.contains (clusterOf c) | none => false)
  let s := cls.foldl (fun (u : State) cl =>
    let u := (u.zeroCluster cl).upCluster cl (fun k => { Cluster.initial with
      chg := k.chg + 1, job := k.job, trRead := k.trRead, trWrite := k.trWrite })
    [2 * cl, 2 * cl + 1].foldl (fun (u : State) m => u.upMu m (fun k => { Mu.initial m with
      enob := k.enob, pser := k.pser, stamps := k.stamps, lam := k.lam, due := k.due, pauseMu := k.pauseMu
      stuck := k.stuck, dev := k.dev })) u) s
  (cls.flatMap coresIn).foldl (fun (u : State) c => u.setCore c (Core.initial c)) s

/-- A job leaves its partition (R94, R319, R389): held stores perform, its tickets end, and the clusters are reset or returned.
It keeps its count of activations for its record, and no cluster. -/
def State.leave (s : State) (j : Job) : State :=
  let s := s.performHeld j
  let s := s.endTickets j.colour
  let sig := s.jobSig j.colour
  let s := if s.replaying j.colour then s.upSession j.colour (fun r => { r with acc := r.acc ^^^ sig }) else s
  let acts := s.actsOf j
  let cls := j.clusters.filter (fun cl => (s.cluster cl).job == some j.colour)
  let s := s.dropTraffic j cls
  let s := if j.contain && !j.out then s.resetClusters cls else s
  (s.returnPartition cls).upJob j.colour (fun q => { q with
    w := 0, h := 0, contain := false, acts := q.acts + acts, saved := [], savedMem := [], savedCores := [], savedClusters := []
    savedMus := [], savedMsgs := [], savedFlights := [] })

/-- The end of a job (R319): it leaves its partition, and its record is published. -/
def State.finishJob (s : State) (j : Job) (e : Ending) : State :=
  let s := s.leave j
  let acts := ((s.job? j.colour).map (·.acts)).getD 0
  ({ s with jobs := s.jobs.filter (fun q => q.colour != j.colour) } : State).publish j.launch.q j.launch.seq e.status e.detail
    (if e.status = 0 then e.value else 0) acts

/-- JOB_END (R319). -/
def execJobEnd (colour : Nat) (s : State) : Host.Outcome State Fault Refusal :=
  .next (match s.job? colour with
    | none => s
    | some j =>
      match j.ending with
      | none => s
      | some e => if s.enabled (.jobEnd colour) then s.finishJob j e else s)

/-! ### Kills and containment (R388 to R391) -/

/-- DISP_KILL (R391). -/
def execDispKill (v : Word) (s : State) : Host.Outcome State Fault Refusal :=
  let q := bits v 32 7
  let seq := bits v 0 32
  .next (
    match s.hub.table.find? (fun l => l.q == q && l.seq == seq) with
    | some l => (s.upHub (fun h => { h with table := h.table.erase l })).publish q seq 8 0
    | none =>
      match s.jobs.find? (fun j => j.launch.q == q && j.launch.seq == seq) with
      | none => s
      | some j =>
        if j.ending.isSome then s
        else (s.endJob j.colour 8 0).upJob j.colour (fun k => { k with contain := true }))

/-- Do two rectangles have a cluster in common? -/
def rectsMeet (a b : Word) : Bool := (List.range 32).any (fun cl => inRect a cl && inRect b cl)

/-- The value that a write of CONT.RECTn leaves (R388): BUSY and GO read 0. -/
def State.rectValue (s : State) (n : Nat) (v : Word) : Word :=
  let w := v &&& 0x80000000000003FF
  let bad := decide (bits v 5 3 < bits v 0 3) || decide (bits v 8 2 < bits v 3 2) ||
    s.hub.rect.any (fun e => e.1 != n && rectsMeet w e.2)
  if w.getLsbD 63 && bad then w &&& 0x3FF else w

/-- CONT_RECT_DEFINE (R388): a write while BUSY is ignored. -/
def execContRectDefine (n : Nat) (v : Word) (s : State) : Host.Outcome State Fault Refusal :=
  .next (if (s.hub.rect.get 0 n).getLsbD 62 || s.hub.fail then s else s.upHub (fun h => { h with rect := h.rect.set n (s.rectValue n v) }))

/-- CONT_RECT_GO (R388, R389): only a valid rectangle can be contained. -/
def execContRectGo (n : Nat) (s : State) : Host.Outcome State Fault Refusal :=
  .next (if (s.hub.rect.get 0 n).getLsbD 63 && !s.hub.fail then s.contain n else s)

/-- CONTAINMENT (R388, R389, R391): every job with a cluster inside ends, with the end that came first, what is inside
resets together, and the clusters return; BUSY is 0 again. While the host link is down the record alone waits (R420). -/
def execContainment (n : Nat) (s : State) : Host.Outcome State Fault Refusal :=
  let v := s.hub.rect.get 0 n
  .next (
    if !v.getLsbD 62 then s
    else
      let cls := (List.range 32).filter (inRect v)
      let js := s.jobs.filter (fun j => cls.any (fun cl => (s.cluster cl).job == some j.colour))
      let detail := ((js.findSome? (fun j => j.ending)).map (·.detail)).getD 0
      let s := js.foldl (fun (u : State) j => u.endJob j.colour 6 detail) s
      let s := s.upHub (fun h => { h with rect := h.rect.set n (v &&& ~~~((1 : Word) <<< 62)) })
      let s := js.foldl (fun (u : State) j => match u.job? j.colour with
        | some q => (match q.ending with
          | some e => if u.hub.link = .up then u.finishJob q e else u.leave q
          | none => u)
        | none => u) s
      s.resetClusters (cls.filter (fun cl => (s.cluster cl).job.isNone)))

end Sys2Proof.Machine
end

