-- ==== Sys2Proof/Machine/Platform.lean ====
section
/-! DEFINITION. The hub and what stands around the cores: its register window, the host link, host accesses, the link grid,
forecasts, power, health, bring-up, attestation and the debugger (R331, R335 to R339, R362 to R375, R386, R420, R421). -/

namespace Sys2Proof.Machine

/-! ### Reading the hub register window (R338, R375) -/

/-- PCAP.STATE (R367). -/
def Hub.pcapState (h : Hub) : Word := pack [(3, h.trip.toNat), (2, h.clampW.toNat), (1, h.floor.toNat), (0, h.capping.toNat)]

/-- A register of a submission queue (R311). -/
def Queue.read (k : Queue) (r : Nat) : Word :=
  match r with
  | 0x00 => k.base
  | 0x08 => k.cbase
  | 0x10 => k.cfg
  | 0x18 => k.consumed.setWidth 64
  | 0x20 => k.completed.setWidth 64
  | _ => 0

/-- A record of a fault log as the host reads it (R386). -/
def Die.logWord (d : Die) (slot i : Nat) : Word :=
  match d.log.find? (fun r => decide (bits r.w1 0 32 % 512 = slot)) with
  | some r => if i = 0 then r.w0 else if i = 1 then r.w1 else if i = 2 then r.w2 else r.w3
  | none => 0

/-- DIAL.CTL and DIAL.STAT (R342). -/
def Hub.dialCtl (h : Hub) : Word := pack [(2, h.pendCommit.toNat), (0, h.dialEn.toNat)]
def Hub.dialStat (h : Hub) : Word := pack [(40, h.rot % 2 ^ 24), (0, h.drops % 2 ^ 32)]

/-- PCAP.LIMIT (R367). -/
def Hub.pcapLimit (h : Hub) : Word := pack [(17, h.limitOob.toNat), (0, h.limit)]

/-- A health register (R368): no trend before the first update. -/
def Hub.healthReg (h : Hub) (i : Nat) : Word := h.health.get 0xFFFFFFFF i

/-- What a read of the hub register window returns (R336, R338, R375): write-only registers and reserved offsets read 0, an
offset that no 8-byte access names reads all ones. -/
def State.readReg (s : State) (off : Nat) : Word :=
  let h := s.hub
  if off % 8 ≠ 0 then BitVec.allOnes 64
  else if off < 0x2000 then (s.queue (off / 64)).read (off % 64)
  else if off = 0x10000 then h.evaddr
  else if off = 0x10008 then h.evmask.setWidth 64
  else if off = 0x10010 then (h.evmask >>> 64).setWidth 64
  else if 0x20008 ≤ off ∧ off < 0x20040 then h.rcls.get 0 ((off - 0x20000) / 8)
  else if off = 0x30000 then h.dialCtl
  else if off = 0x30008 then h.dialStat
  else if 0x30010 ≤ off ∧ off < 0x30028 then (h.dom >>> (64 * ((off - 0x30010) / 8))).setWidth 64
  else if 0x31000 ≤ off ∧ off < 0x31400 then
    let e := (off - 0x31000) / 16
    if off % 16 = 0 then h.destIn.get (BitVec.allOnes 64) e else h.dtimeIn.get 0 e
  else if 0x32000 ≤ off ∧ off < 0x32080 then h.tree.get 0xFF ((off - 0x32000) / 8)
  else if off = 0x40000 then pack [(8, h.code), (7, h.fail.toNat), (0, h.step)]
  else if off = 0x40100 then h.pcapLimit
  else if off = 0x40108 then BitVec.ofNat 64 h.window
  else if off = 0x40110 then BitVec.ofNat 64 h.actual
  else if off = 0x40118 then h.pcapState
  else if 0x40200 ≤ off ∧ off < 0x40200 + 8 * 61 then h.healthReg ((off - 0x40200) / 8)
  else if off = 0x40500 then h.svec.setWidth 64
  else if 0x40600 ≤ off ∧ off < 0x40700 then h.fcast.get 0 ((off - 0x40600) / 8)
  else if off = 0x40700 then h.fwwin
  else if off = 0x40820 then h.attr
  else if off = 0x40900 then h.rplay
  else if off = 0x41010 then h.bbase
  else if off = 0x41018 then h.trace
  else if 0x41100 ≤ off ∧ off < 0x41200 then
    let k := s.cluster ((off - 0x41100) / 8)
    pack [(32, k.trRead.toNat), (0, k.trWrite.toNat)]
  else if off = 0x42000 then h.grid
  else if 0x43000 ≤ off ∧ off < 0x43040 then
    let d := s.die ((off - 0x43000) / 16)
    if off % 16 = 0 then pack [(32, d.lost), (0, d.next)] else BitVec.ofNat 64 d.tail
  else if 0x44000 ≤ off ∧ off < 0x44040 then h.rect.get 0 ((off - 0x44000) / 8)
  else if 0x50000 ≤ off ∧ off < 0x60000 then
    (s.die ((off - 0x50000) / 0x4000)).logWord (off % 0x4000 / 32) (off % 32 / 8)
  else if 0x60000 ≤ off ∧ off < 0x60800 then BitVec.ofNat 64 (s.slice ((off - 0x60000) / 8)).orphans
  else 0

/-! ### Writing it (R5, R336, R338, R367, R375) -/

/-- A write of a submission queue's register (R311). With CONSUMED written the statuses of the sequences below it are kept; those
from there on are of the old numbering and count no more (R314, R320; log 32). -/
def Queue.write (k : Queue) (r : Nat) (v : Word) : Queue :=
  match r with
  | 0x00 => if k.en then k else { k with base := v &&& 0x0000FFFFFFFFFFC0 }
  | 0x08 => if k.en then k else { k with cbase := v &&& 0x0000FFFFFFFFFFE0 }
  | 0x10 => k.writeCfg v
  | 0x18 => if k.en then k
    else { k with consumed := v.setWidth 32, stats := k.stats.filter (fun e => before (BitVec.ofNat 32 e.1) (v.setWidth 32)) }
  | _ => k

/-- A write of PCAP.LIMIT (R367): below 300 takes 300, above 1,800 takes 1,800. -/
def Hub.writeLimit (h : Hub) (v : Word) (oob : Bool) : Hub :=
  { h with limit := Nat.max 300 (Nat.min 1800 (bits v 0 16)), limitOob := oob }

/-- Does a path reach a register for writing (R341, R350, R367, R375)? -/
def writePath (off : Nat) (p : Path) : Bool :=
  let pcap := decide (0x40100 ≤ off) && decide (off < 0x40120)
  match p with
  | .oob => pcap
  | .crown => !(off == 0x40700 || (decide (0x40800 ≤ off) && decide (off < 0x40828)) || off == 0x40900)
  | .nql => !((decide (0x30010 ≤ off) && decide (off < 0x30028)) || (decide (0x32000 ≤ off) && decide (off < 0x32080)))

/-- Nonce bytes of HUB.ATTN. -/
def Hub.nonceBytes (h : Hub) : List Byte := (List.range 4).flatMap (fun j => leBytes 8 (h.nonce.get 0 j).toNat)

/-- An attestation report is asked for, or the destination set (R365, R375). A GO while a report is in progress is ignored:
that report keeps the destination and the nonce of its own GO. -/
def State.writeAttr (s : State) (v : Word) : State :=
  let pa := v &&& 0x0000FFFFFFFFF000
  if s.hub.attr.getLsbD 62 || !v.getLsbD 63 then s.upHub (fun h => { h with attr := (h.attr &&& (7 <<< 60)) ||| pa })
  else if decide (pa.toNat < 2 ^ 47) || decide (bits v 0 12 ≠ 0) then s.upHub (fun h => { h with attr := pa ||| (1 <<< 60) })
  else (s.upHub (fun h => { h with attr := pa ||| (1 <<< 62), attrReq := some (pa.toNat, h.nonceBytes) })).pushFree .attestReportDone

/-- The debugger's bitmap moves (R370): with EN = 0 every break bit is 0. -/
def State.writeBbase (s : State) (v : Word) : State :=
  let s := s.upHub (fun h => { h with bbase := v &&& 0x8000FFFFFFFFC000 })
  if v.getLsbD 63 then s else { s with cores := s.cores.map (fun (e : Nat × Core) => (e.1, { e.2 with brk := [] })) }

/-- Asks for a stop, or releases, as DSTOP does (R305, R369). -/
def State.debugStop (s : State) (v : Word) : State :=
  let c := bits v 0 9
  let cs := if v.getLsbD 9 then (match s.job? (s.core c).colour with | some j => j.allCores | none => [c]) else [c]
  cs.foldl (fun (u : State) c => if v.getLsbD 10 then u.release c else u.askStop c) s

/-- Effect of a write that reaches a register of the window. -/
def State.writeReg (s : State) (off : Nat) (v : Word) (oob : Bool) : State :=
  if off < 0x2000 then s.upQueue (off / 64) (fun k => k.write (off % 64) v)
  else if off = 0x10000 then s.upHub (fun h => { h with evaddr := v &&& 0x0000FFFFFFFFFFF8 })
  else if off = 0x10008 then s.upHub (fun h => { h with evmask := (h.evmask >>> 64 <<< 64) ||| v.setWidth 128 })
  else if off = 0x10010 then s.upHub (fun h => { h with evmask := (h.evmask.setWidth 64).setWidth 128 ||| (v.setWidth 128 <<< 64) })
  else if 0x20008 ≤ off ∧ off < 0x20040 then s.upHub (fun h => { h with rcls := h.rcls.set ((off - 0x20000) / 8) (v &&& 0x800000FF) })
  else if off = 0x30000 then
    let s := s.upHub (fun h => { h with dialEn := v.getLsbD 0 })
    if v.getLsbD 1 then s.commit else s
  else if off = 0x30008 then s.upHub (fun h => { h with drops := bits v 0 32 })
  else if 0x30010 ≤ off ∧ off < 0x30028 then s.upHub (fun h =>
    let lo := 64 * ((off - 0x30010) / 8)
    { h with dom := ((h.dom &&& ~~~(((BitVec.allOnes 64).setWidth 192) <<< lo)) ||| (v.setWidth 192 <<< lo)) &&& ((1 <<< 144) - 1) })
  else if 0x31000 ≤ off ∧ off < 0x31400 then
    let e := (off - 0x31000) / 16
    if off % 16 = 0 then s.upHub (fun h => { h with destIn := h.destIn.set e v })
    else s.upHub (fun h => { h with dtimeIn := h.dtimeIn.set e (v &&& 0x1FFFFFFFF) })
  else if 0x32000 ≤ off ∧ off < 0x32080 then
    s.upHub (fun h => { h with tree := h.tree.set ((off - 0x32000) / 8) (v &&& 0x7FF07FF) })
  else if off = 0x40100 then s.upHub (fun h => h.writeLimit v oob)
  else if off = 0x40108 then s.upHub (fun h => { h with window := Nat.max 1 (bits v 0 16) })
  else if off = 0x40118 then s.upHub (fun h => { h with trip := h.trip && !v.getLsbD 3, clampW := h.clampW && !v.getLsbD 2 })
  else if off = 0x40400 then s.pushFree (.dispKill v)
  else if off = 0x40500 then s.upHub (fun h => { h with svec := v.setWidth 18 &&& 0x3FFFE })
  else if off = 0x40700 then s.upHub (fun h => { h with fwwin := v &&& 0xFFFFFFFFFFE00000 })
  else if 0x40800 ≤ off ∧ off < 0x40820 then s.upHub (fun h => { h with nonce := h.nonce.set ((off - 0x40800) / 8) v })
  else if off = 0x40820 then s.writeAttr v
  else if off = 0x40900 then
    if s.hub.replays.isEmpty then s.upHub (fun h => { h with rplay := if bits v 48 15 = 0 then v ||| (1 <<< 48) else v }) else s
  else if off = 0x41000 then s.debugStop v
  else if off = 0x41010 then s.writeBbase v
  else if off = 0x41018 then s.upHub (fun h => { h with trace := v &&& 0xFC00FFFFFFFFFFFF })
  else if 0x41100 ≤ off ∧ off < 0x41200 then s.upCluster ((off - 0x41100) / 8) (fun k => { k with trRead := (v >>> 32).setWidth 32 })
  else if off = 0x42000 then s.upHub (fun h => { h with grid := v &&& 0x83FFFFFFFFFF0000 })
  else if 0x43000 ≤ off ∧ off < 0x43040 ∧ off % 16 = 8 then s.upDie ((off - 0x43000) / 16) (fun d => { d with tail := bits v 0 32 })
  else if 0x44000 ≤ off ∧ off < 0x44040 then
    let n := (off - 0x44000) / 8
    if (s.hub.rect.get 0 n).getLsbD 62 then s
    else
      let s := s.upHub (fun h => { h with rect := h.rect.set n (s.rectValue n v) })
      if v.getLsbD 61 && (s.hub.rect.get 0 n).getLsbD 63 then s.contain n else s
  else if 0x60000 ≤ off ∧ off < 0x60800 then s.upSlice ((off - 0x60000) / 8) (fun k => { k with orphans := bits v 0 32 })
  else s

/-- REGISTER_WRITE (R5, R338, R375): an 8-byte write to the window. A path that does not reach the register changes
nothing, nor does any but the out-of-band path after a failed bring-up (R362). -/
def execRegisterWrite (off : Nat) (v : Word) (path : Path) (s : State) : Host.Outcome State Fault Refusal :=
  .next (if decide (off % 8 = 0) && writePath off path && (path == .oob || !s.hub.fail) then s.writeReg off v (path == .oob) else s)

/-- What a read from outside returns (log 76). -/
def State.reply (s : State) (a : Answer) : State := s.upHub (fun h => { h with answer := a })

/-- REG_UNSUPPORTED_ACCESS (R336): the unsupported-request status, with all ones on a read, and no effect. -/
def execRegUnsupportedAccess (_off : Nat) (wr : Bool) (s : State) : Host.Outcome State Fault Refusal :=
  .next (s.reply (.unsupported (if wr then none else some (BitVec.allOnes 64))))

/-- PCAP_LIMIT_WRITE (R367). -/
def execPcapLimitWrite (v : Word) (oob : Bool) (s : State) : Host.Outcome State Fault Refusal :=
  .next (if s.hub.fail && !oob then s else s.upHub (fun h => h.writeLimit v oob))

/-! ### The host and its link (R336, R337, R420) -/

/-- Lines of bytes from a key. -/
def linesOf (key n : Nat) : List Nat := (List.range ((key + n + 63) / 64 - key / 64)).map (key / 64 + ·)

/-- What the memory firewall lets Crown do (R364, R375): inside the window that HUB.FWWIN opens it reads, and writes with
WR = 1. -/
def Hub.crownMay (h : Hub) (pa n : Nat) (wr : Bool) : Bool :=
  let lo := bits h.fwwin 21 27 * 2 ^ 21
  h.fwwin.getLsbD 63 && (h.fwwin.getLsbD 62 || !wr) && decide (lo ≤ pa) && decide (pa + n ≤ lo + bits h.fwwin 48 14 * 2 ^ 21)

/-- Does an access from outside reach memory: populated bytes, over the host link where it needs it, and let through by the
firewall if it is Crown's? After a failed bring-up none does (R336, R362, R364, R420). -/
def State.outsideMay (s : State) (pa n : Nat) (wr crown : Bool) : Bool :=
  populated pa && populated (pa + n - 1) && (if crown then s.hub.crownMay pa n wr && (decide (pa < 2 ^ 47) || s.hub.link == .up)
    else decide (2 ^ 47 ≤ pa) || s.hub.link == .up) && !s.hub.fail

/-- HOST_MEM_ACCESS (R336, R337, R364, R410): the host, or Crown, reads or writes host memory or HBM4. A read of a poisoned
line comes with the link's indication. A write takes ownership of its lines, which leave L2. -/
def execHostMemAccess (at_ : OutsideAddr) (wr : Option (List (BitVec 8))) (n : Nat) (s : State) :
    Host.Outcome State Fault Refusal :=
  let pa := at_.pa
  .next (match wr with
    | none =>
      if !s.outsideMay pa n false at_.crown then s.reply (.unsupported none)
      else
        let s := s.settle pa n
        s.reply (.data (s.mem.bytes pa n) (s.poisoned pa n))
    | some bs =>
      if !s.outsideMay pa bs.length true at_.crown then s
      else
        let ls := linesOf pa bs.length
        ({ s with under := s.under.filter (fun (e : Nat × Byte) => !ls.contains (e.1 / 64)) } : State).poke pa bs false)

/-- NQL_LINK_DOWN (R420). -/
def execNqlLinkDown (s : State) : Host.Outcome State Fault Refusal :=
  .next (if s.hub.link = .up then s.upHub (fun h => { h with link := .down }) else s)

/-- NQL_FAIL (R420): the link has been down for 10 ms. -/
def execNqlFail (s : State) : Host.Outcome State Fault Refusal :=
  .next (if s.hub.link = .down then
      (s.upHub (fun h => { h with link := .failed })).machineCheck 0 0 { code := Code.nqlFail, unit := unitHub }
    else s)

/-- NQL_RETRAIN (R420). -/
def execNqlRetrain (s : State) : Host.Outcome State Fault Refusal := .next (s.upHub (fun h => { h with link := .up }))

/-! ### Observation (R368, R374) -/

/-- NOC_GRID_SAMPLE (R374): 4,096 words of two counts each, which only the traffic of the part gives (log 10), and the TIME
word after them; the oldest of the 16 samples goes. -/
def execNocGridSample (s : State) : Host.Outcome State Fault Refusal :=
  .next (
    if !s.hub.grid.getLsbD 63 then s
    else
      let base := bits s.hub.grid 16 32 * 65536 + s.hub.gridN % 16 * 32776
      let ws := (List.range 4096).map (fun i => Config.freeWord (s.free + i))
      let s := ({ s with free := s.free + 4096 } : State).upHub (fun h => { h with gridN := (h.gridN + 1) % 16 })
      if populated base && populated (base + 32775) then
        s.poke base ((ws ++ [s.hub.time]).flatMap (fun w => leBytes 8 w.toNat)) false
      else s)

/-- EOL of an indicator from its hourly values, the latest first: the line through the latest value and the one 1,000 hours
before it, or the oldest there is, extrapolated to the limit (R368; log 108). An indicator that has reached its limit, which
an eye margin does falling and every other one rising, has no hours left; one that does not move towards it has no trend. -/
def eolOf (falls : Bool) (limit : Nat) (vs : List Nat) : Nat :=
  let v : Int := vs.headD 0
  let d : Int := v - (vs.getLastD 0 : Nat)
  let g : Int := limit - v
  if (if falls then v ≤ limit else (limit : Int) ≤ v) ∧ 1 < vs.length then 0
  else if g * d ≤ 0 then 0xFFFFFFFF else Nat.min 0xFFFFFFFF (g * (vs.length - 1 : Nat) / d).toNat

/-- HEALTH_UPDATE (R368, R410): the indicators are what the part measures (log 10), the lines that an HBM4 stack has lost among
them; EOL follows from the values of the last 1,000 hours, and WARN from EOL. -/
def execHealthUpdate (s : State) : Host.Outcome State Fault Refusal :=
  let value (i : Nat) : Nat := (bits (Config.freeWord (s.free + i)) 0 16 + (if i < 53 then 0 else s.hub.ecc.get 0 (i - 53))) % 65536
  let hist (i : Nat) : List Nat := (value i :: s.hub.trend.get [] i).take 1001
  let reg (i : Nat) : Word :=
    let eol := eolOf (decide (44 ≤ i ∧ i < 53)) (Config.healthLimit i) (hist i)
    pack [(63, (decide (eol < 2000)).toNat), (32, value i), (0, eol)]
  .next (({ s with free := s.free + 61 } : State).upHub (fun h => { h with
    health := (List.range 61).map (fun i => (i, reg i))
    trend := (List.range 61).map (fun i => (i, hist i)) }))

/-! ### Forecast (R331) -/

/-- The state in which a launch of the prospect has its rectangle. -/
def State.supposed (s : State) (l : Launch) (cx cy : Nat) : State :=
  let j := s.newJob l cx cy
  let s := s.upHub (fun h => { h with table := h.table.erase l, lastQ := h.lastQ.set j.prio l.q })
  j.clusters.foldl (fun (u : State) cl => u.upCluster cl (fun k => { k with job := some j.colour })) { s with jobs := s.jobs ++ [j] }

/-- The state in which a job that the Dispatcher would resume has its clusters again. -/
def State.supposedBack (s : State) (colour : Nat) : State :=
  match s.job? colour with
  | none => s
  | some j => j.saved.foldl (fun (u : State) cl => u.upCluster cl (fun k => { k with job := some colour }))
      (s.upJob colour (fun q => { q with out := false }))

/-- The ready launches that R323 would place next, with their rectangles: after the jobs that it would resume, and past the
launches that first need a pre-emption, whose clusters no one has yet. -/
def State.prospect : Nat → State → List Job
  | 0, _ => []
  | n + 1, s =>
    match s.choice with
    | some (.place l cx cy) => s.newJob l cx cy :: State.prospect n (s.supposed l cx cy)
    | some (.resume c) => State.prospect n (s.supposedBack c)
    | some (.preempt _ _ _ vs) => State.prospect n (vs.foldl (fun (u : State) c => u.upJob c (fun j => { j with preempting := true })) s)
    | none => []

/-- n·255/m to nearest; half way, either neighbour (log 36). -/
def nearest (n m : Nat) (up : Bool) : Nat :=
  let r := 510 * n % (2 * m)
  510 * n / (2 * m) + (if decide (m < r) || (decide (r = m) && up) then 1 else 0)

/-- LEVEL of an island (R331, R366). A fenced core is started, not halted, and asleep only if it was when the fence came. -/
def State.fcastLevel (s : State) (i : Nat) : Nat :=
  let up := (Config.freeWord s.free).getLsbD i
  let ps := State.prospect 1024 s
  let sector (x : Nat) : Nat :=
    let busy := ((List.range 512).filter (fun c => sectorOfCluster (clusterOf c) == x)).countP (fun c =>
      let k := s.core c
      (k.status == .running || k.status == .fenced) && (match k.lv[k.lvl].wait with | some w => w.reason == .awake | none => true))
    let more := (ps.map (fun j => (j.allCores.take j.cores).countP (fun c => sectorOfCluster (clusterOf c) == x))).foldl (· + ·) 0
    nearest (busy + more) 64 up
  let mus (d : Nat) : Nat :=
    let busy := (List.range 64).countP (fun m => dieOfCluster (m / 2) == d && !(s.mu m).q.isEmpty)
    let more := (ps.map (fun j => 2 * j.clusters.countP (fun cl => dieOfCluster cl == d))).foldl (· + ·) 0
    nearest (busy + more) 16 up
  let d := i / 7
  if 28 ≤ i then 255
  else match i % 7 with
    | 0 => sector (2 * d)
    | 1 => sector (2 * d + 1)
    | 2 => mus d
    | 5 => mus d
    | 6 => if (s.die d).voq.any (fun (e : Nat × List DialMsg) => !e.2.isEmpty) then 255 else 0
    | _ => Nat.max (sector (2 * d)) (sector (2 * d + 1))

/-- FCAST_UPDATE (R331). -/
def execFcastUpdate (s : State) : Host.Outcome State Fault Refusal :=
  .next (s.take.upHub (fun h => { h with
    fcast := (List.range 32).map (fun i => (i, fcastWord s.hub.time 0 (Nat.min 255 (s.fcastLevel i)))) }))

/-! ### Power and heat (R367, R421) -/

/-- PCAP_WINDOW_END (R367): the average is known; whether islands run slower for the cap, and whether the limit can be
attained, is the part's (log 10). -/
def execPcapWindowEnd (watts : Nat) (s : State) : Host.Outcome State Fault Refusal :=
  let w := Config.freeWord s.free
  .next (s.take.upHub (fun h => { h with actual := watts % 65536, capping := w.getLsbD 0, floor := w.getLsbD 1 }))

/-- FAST_CLAMP (R367). -/
def execFastClamp (s : State) : Host.Outcome State Fault Refusal :=
  .next (s.upHub (fun h => { h with clamped := true, clampW := true }))

/-- CLAMP_RELEASE (R367). -/
def execClampRelease (s : State) : Host.Outcome State Fault Refusal := .next (s.upHub (fun h => { h with clamped := false }))

/-- THERMAL_TRIP (R421): the die's islands power down, and every job with a cluster on it is contained. -/
def execThermalTrip (die : Nat) (s : State) : Host.Outcome State Fault Refusal :=
  let cls := (List.range 32).filter (fun cl => dieOfCluster cl == die)
  let hit := s.jobs.filter (fun j => cls.any (fun cl => (s.cluster cl).job == some j.colour))
  let s := s.upHub (fun h => { h with power := h.power.set die .tripped, trip := true })
  .next (hit.foldl (fun (u : State) j =>
    let cl := (cls.find? (fun cl => j.holds (16 * cl))).getD 0
    u.machineCheck die cl { code := Code.thermal, core := 16 * cl, unit := unitHub, colour := j.colour }) s)

/-- A calibration of kind 2 with the probe that ends it, outside any job (R150, R171, R280, R362, R415). -/
def State.calibrate (s : State) (m : Nat) : State :=
  (s.upMu m (fun k => { k with stuck := [], dev := none, evalOk := true })).probeEnds m ⟨none, none, (s.mu m).since⟩

/-- THERMAL_RECOVERY (R421): steps 2 and 3 of bring-up are repeated for the die, and its clusters return. -/
def execThermalRecovery (die : Nat) (s : State) : Host.Outcome State Fault Refusal :=
  .next (
    if s.powerOf die = .full then s
    else
      let s := ((List.range 64).filter (fun m => dieOfCluster (m / 2) == die)).foldl (fun (u : State) m => u.calibrate m) s
      s.upHub (fun h => { h with power := h.power.erase die }))

/-! ### Bring-up and attestation (R362 to R365, R375) -/

/-- The first flash copy of the Crown image that boot ROM accepts, with its number (R363). -/
def State.imageOf (s : State) (b : BootInput) : Option (Nat × BootCopy) :=
  (b.copies.zipIdx.find? (fun c => c.1.signed && decide (s.hub.rollback ≤ c.1.version))).map (fun c => (c.2, c.1))

/-- Crown raises the rollback counter, to the version of the image that runs (R363). -/
def State.raiseRollback (s : State) : State :=
  match s.hub.image with
  | some (_, i) => if s.hub.rollback < i.version then s.upHub (fun h => { h with rollback := i.version }) else s
  | none => s

/-- The package's own part of bring-up step 6 (R18, R341, R343, R345, R350): the timer takes the domain's time, and the epoch
is an instant of it; both are free values (log 50). -/
def State.joinDomain (s : State) : State :=
  let n := s.free
  ({ s with pkg := BitVec.ofNat 8 (Config.packageNumber.toNat % 144), free := s.free + 2 } : State).upHub (fun h => { h with
    time := Config.freeWord n
    epoch := (Config.freeWord (n + 1)).toNat
    rotAt := (Config.freeWord n).toNat * 100
    dom := ((Config.dialDomain &&& ~~~h.gone) ||| h.come) &&& ((1 <<< 144) - 1)
    kids := (List.range 16).map (fun t => (t, Config.dialKids t))
    tree := (List.range 16).map (fun t => (t, Config.dialTree t &&& 0x7FF07FF))
    dialEn := true })

/-- Bring-up from the beginning: the module is as after reset, host memory and the other packages are not the module's, and the
fuses keep the rollback counter (R7, R362, R363). -/
def State.coldStart (s : State) : State :=
  { State.reset with
    hub := { Hub.initial with rollback := s.hub.rollback, gone := s.hub.gone, come := s.hub.come }
    mem := s.mem.filter (fun e => decide (2 ^ 47 ≤ e.1) && decide (e.1 < 2 ^ 48))
    agenda := [], turn := s.turn, seq := s.seq, stamp := s.stamp + 1, free := s.free, ids := s.ids }

/-- COLD_RESET (R362, R363, R365): the step in progress is done, or fails and leaves every later step undone. Step 1 takes the
Crown image, and step 6 derives the identity key from it. At step 7, or after a failure, the module starts again. -/
def execColdReset (b : BootInput) (s : State) : Host.Outcome State Fault Refusal :=
  let s := if b.raise && !s.hub.fail then s.raiseRollback else s
  .next (
    if decide (7 ≤ s.hub.step) || s.hub.fail then s.coldStart
    else if b.fail.isSome || (s.hub.step == 1 && (s.imageOf b).isNone) then
      s.upHub (fun h => { h with fail := true, code := b.fail.getD 0 % 256 })
    else
      let s' := match s.hub.step with
        | 1 => s.upHub (fun h => { h with image := s.imageOf b })
        | 3 => (List.range 64).foldl (fun (u : State) m => u.calibrate m) s
        | 6 => s.joinDomain.upHub (fun h => { h with idKey := h.image.map (fun (e : Nat × BootCopy) => e.2.digest) })
        | _ => s
      s'.upHub (fun h => { h with step := h.step + 1 }))

/-- The bytes of an attestation report that are signed (R375): nonce, module serial, digest and version of the image, rollback
counter, and the identity public key. -/
def Hub.reportBody (h : Hub) (nonce : List Byte) (image : BootCopy) (key : BitVec 512) : List Byte :=
  nonce ++ leBytes 8 Config.moduleSerial.toNat ++ leBytes 64 image.digest.toNat ++ leBytes 4 image.version.toNat ++
    leBytes 4 h.rollback.toNat ++ List.replicate 16 0 ++ (List.range 1793).map (Config.identityKey key) ++ List.replicate 127 0

/-- An attestation report (R375). -/
def Hub.report (h : Hub) (nonce : List Byte) (image : BootCopy) (key : BitVec 512) : List Byte :=
  let body := h.reportBody nonce image key
  body ++ (List.range 1280).map (Config.attestSign key body) ++ List.replicate 768 0

/-- ATTEST_GO (R365, R375). -/
def execAttestGo (v : Word) (s : State) : Host.Outcome State Fault Refusal := .next (if s.hub.fail then s else s.writeAttr v)

/-- ATTEST_REPORT_DONE (R365, R375): the report is written, and DONE says so. It waits for the identity key (log 107). -/
def execAttestReportDone (s : State) : Host.Outcome State Fault Refusal :=
  .next (match s.hub.attrReq with
    | none => s
    | some (pa, nonce) =>
      match s.hub.image, s.hub.idKey with
      | some (_, i), some key => (s.poke pa (s.hub.report nonce i key) false).upHub (fun h => { h with
          attr := (h.attr &&& 0x0FFFFFFFFFFFFFFF) ||| (1 <<< 61), attrReq := none })
      | _, _ => s.pushFree .attestReportDone)

/-! ### The debugger (R369 to R371) -/

/-- DEBUG_STOP (R369). -/
def execDebugStop (v : Word) (s : State) : Host.Outcome State Fault Refusal := .next (if s.hub.fail then s else s.debugStop v)

/-- Is a result on its way to a register of a level, by the slot of its landings: 0 to 63 general registers, 64 to 95 vector
registers (R184, R371)? The levels share x32 to x63 and v0 to v15 (R186). -/
def Core.landing (k : Core) (lvl : Fin 4) (slot : Nat) : Bool :=
  let own := decide (slot < 32) || decide (80 ≤ slot)
  (List.finRange 4).any (fun l => (decide (l = lvl) || !own) &&
    (k.lv[l].out.any (fun o => o.slot == slot) || k.lv[l].locks.any (fun r => r.toNat == slot)))

/-- Does a pass in progress write bytes of the result region at an offset: its result slots, or its header slot (R166)? -/
def Pass.writes (p : Pass) (region off : Nat) : Bool :=
  let slot := bits p.desc 42 6
  let head := 0xF000 + 64 * bits p.desc 48 6
  region == 2 && ((decide (1024 * slot ≤ off) && decide (off < 1024 * (slot + bits p.desc 36 6 + 1))) ||
    (decide (head ≤ off) && decide (off < head + 64)))

/-- What a debug access reads (R369, R371): the value, or IN_FLIGHT where a result or a tile step is still on its way there. -/
def State.debugRead (s : State) (c : Nat) (l : Fin 4) (t : DebugItem) : Answer :=
  let k := s.core c
  match t with
  | .x r => if k.landing l r.toNat then .inFlight else .word (k.getX l r)
  | .v r j =>
    if k.landing l (64 + r.toNat) then .inFlight
    else
      let v := k.getV l r
      .word (pack [(32, (v[2 * j.val + 1]?.getD 0).toNat), (0, (v[2 * j.val]?.getD 0).toNat)])
  | .k r => .word ((k.getK r).setWidth 64)
  | .pc => .word k.lv[l].pc
  | .sys n =>
    match (s.setCore c { k with lvl := l }).readSys c n with
    | some w => .word w
    | none => .unsupported none
  | .acc a i =>
    if k.openB.any (fun b => b.acc == a.val) || s.accBusy c a.val then .inFlight
    else if s.lostBytes (accKey c (1024 * a.val + 4 * i.val)) 4 then
      .data (leBytes 4 (k.accAt (256 * a.val + i.val)).toNat) true
    else .word ((k.accAt (256 * a.val + i.val)).setWidth 64)
  | .pad i => .word (s.peek64 (padKey c (8 * i.val)))
  | .res m buf i =>
    let mu := 2 * clusterOf c + m.val
    if (s.mu mu).stream.any (fun p => p.writes buf.val (8 * i.val)) then .inFlight else .word (s.peek64 (muKey mu buf.val (8 * i.val)))

/-- What a debug access writes (R369). The program counter's write ends a wait, and with it a period of quiet (R401); results
of an MU are only read. -/
def State.debugWrite (s : State) (c : Nat) (l : Fin 4) (t : DebugItem) (v : Word) : State :=
  match t with
  | .x r => s.upCore c (fun k => k.setX l r v)
  | .v r j => s.upCore c (fun k =>
      k.setV l r (((k.getV l r).setIfInBounds (2 * j.val) (v.setWidth 32)).setIfInBounds (2 * j.val + 1) ((v >>> 32).setWidth 32)))
  | .k r => s.upCore c (fun k => k.setK r (v.setWidth 8))
  | .pc =>
    let u := if (s.core c).lv[l].asleep then s.upJob (s.core c).colour (fun j => { j with hung := false }) else s
    u.upCore c (fun k => k.upLv l (fun x => { x with pc := v &&& ~~~(1 : Word), wait := none }))
  | .sys n =>
    let was := (s.core c).lvl
    let u : State := { s.upCore c (fun k => { k with lvl := l }) with cur := c }
    if (u.readSys c n).isNone then s
    else ({ u.writeSys n v with cur := s.cur } : State).upCore c (fun k => { k with lvl := was })
  | .acc a i => s.upCore c (fun k => k.setAcc (256 * a.val + i.val) (v.setWidth 32))
  | .pad i => s.poke (padKey c (8 * i.val)) (leBytes 8 v.toNat)
  | .res _ _ _ => s

/-- The key of the array bytes that a debug access names (R407). -/
def debugKey (c : Nat) : DebugItem → Option Nat
  | .acc a i => some (accKey c (1024 * a.val + 4 * i.val))
  | .pad i => some (padKey c (8 * i.val))
  | _ => none

/-- DEBUG_ACCESS (R369, R371): a stopped core's registers and scratchpad are read and written. What a read touches is checked,
and rebuilt where it is bad (R407, R408); a lost accumulator word is marked (log 114). -/
def execDebugAccess (c : Nat) (lvl : Fin 4) (t : DebugItem) (wr : Option Word) (s : State) : Host.Outcome State Fault Refusal :=
  .next (
    if (s.core c).dbg != .stopped || decide (512 ≤ c) || s.hub.fail then
      (match wr with | none => s.reply (.unsupported none) | some _ => s)
    else match wr with
      | none =>
        let u := match debugKey c t with | some key => s.settle key 8 | none => s
        u.reply (u.debugRead c lvl t)
      | some v => s.debugWrite c lvl t v)

/-- SINGLE_STEP (R371). -/
def execSingleStep (c : Nat) (s : State) : Host.Outcome State Fault Refusal :=
  .next (if (s.core c).dbg = .stopped ∧ s.hub.fail = false then s.upCore c (fun k => { k with dbg := .stepping false }) else s)

/-- Have a core's batches, MU commands and copies completed (R371)? -/
def State.enginesDone (s : State) (c : Nat) : Bool :=
  (s.core c).batches.isEmpty && !s.muBusyOf c && s.copiesOf c == 0

/-- STEP_UNTIL_DRAINED (R371): the core issues one instruction, and its stop holds until its engines are done. -/
def execStepUntilDrained (c : Nat) (s : State) : Host.Outcome State Fault Refusal :=
  .next (if s.hub.fail then s else match (s.core c).dbg with
    | .stopped => s.upCore c (fun k => { k with dbg := .stepping true })
    | .draining => if s.enginesDone c then s.upCore c (fun k => { k with dbg := .stopped }) else s
    | _ => s)

end Sys2Proof.Machine
end

