-- ==== Sys2Proof/Machine/Agents.lean ====
section
/-! DEFINITION. Which agent moves next (log 1): the events that can come about now, and the choice between them. -/

namespace Sys2Proof.Machine

/-! ### Events that the state itself enables -/

/-- Of the Dispatcher: entries to take, a choice to carry out, a pre-emption whose job has come to rest (R312, R323, R326). -/
def State.dispatcherMoves (s : State) : List Instr :=
  ((s.queues.map (·.1)).filter s.canTake).map Instr.submissionTake ++
    (match s.choice with
    | some (.resume c) => [.resumption c]
    | some _ => [.dispatchSelect]
    | none => []) ++
    ((s.jobs.filter s.preemptionDue).map (fun j => .preemption j.colour))

/-- Of a core: grants and stocks to refill, the next step of its Tile Engine, the end of a debug step (R86, R269, R284,
R371). -/
def State.coreMoves (s : State) (c : Nat) : List Instr :=
  let k := s.core c
  let sl := sliceOf c
  (if s.grantTurn sl c then [.ticketGrant sl c] else []) ++
    (match s.job? k.colour with
    | some j => if k.status == .running && (k.nstock != k.stockable .node j.heap || k.wstock != k.stockable .wire j.heap) then
        [.springStockRefill c] else []
    | none => []) ++
    (match k.batches with
    | b :: _ =>
      if b.steps.isEmpty then []
      else if !b.started then [.tileStepStart c]
      else if b.steps.length == 1 && s.bindWaits c b.bind then [] else [.tileStepRetire c]
    | [] => []) ++
    (if k.dbg == .draining && s.enginesDone c then [.stepUntilDrained c] else [])

/-- Of an MU: the command at the head of its service order, what waits for a pass boundary, and what is in progress
(R157, R166, R171, R280). New commands are not begun for a job that is being pre-empted (R326). -/
def State.muMoves (s : State) (m : Nat) : List Instr :=
  let k := s.mu m
  (if s.unitsOff (m / 2) then []
    else match k.nextOp with
      | some (.phld _) => [.phldTakeEffect m]
      | some (.phrd _ _) => [.phrdTakeEffect m]
      | some (.phwr _ _) => [.phwrTakeEffect m]
      | some (.ptrim _ _) => [.ptrimTakeEffect m]
      | some (.pass _ _ _) => if k.boundaryDue || k.hold then [] else [.passStart m]
      | _ => []) ++
    (if k.boundaryDue && k.probing.isNone then [.passBoundary m] else []) ++
    (if k.hold then [.trimSettle m] else []) ++
    (if k.ldbusy then [.shadowSettle m] else []) ++
    (match k.stream with | [] => [] | p :: _ => if s.bindWaits p.c p.bind then [] else [.passHeaderWrite m]) ++
    (if k.probing.isSome then (if k.evalOk then [.probeComplete m] else [.probeEvaluation m]) else []) ++
    (if k.cal.isSome then [.pcalComplete m] else []) ++
    (match k.loads with
    | (st, _) :: _ => if k.pauseMu || k.swpend || k.ldbusy || k.q.any (fun q => decide (q.stamp < st)) then [] else [.deBankLoad m]
    | [] => [])

/-- Of a cluster: transfers of its Copy Engine, and the notice of a cluster that has become quiet (R64, R101). -/
def State.clusterMoves (s : State) (cl : Nat) : List Instr :=
  let k := s.cluster cl
  (if k.copies.any (fun q => !q.running) && decide (k.copies.countP (·.running) < 8) && !s.unitsOff cl then [.copyTransferStart cl] else []) ++
    ((k.copies.filter (fun q => q.running && !s.cpWaits q)).map (fun q => .copyTransferComplete cl q.id)) ++
    (if k.job.isSome && !k.noticed && !s.signalled cl && s.quiet cl then [.quietNotice cl] else [])

/-- Of a die and its Dial ports (R159, R344, R346, R416). -/
def State.dieMoves (s : State) (d : Nat) : List Instr :=
  (match (s.die d).de with | [] => [] | q :: _ => if s.deWaits q || s.deStalls q then [] else [.deComplete d]) ++
    (if (s.mus.filter (fun (e : Nat × Mu) => dieOfCluster (e.1 / 2) == d)).any (fun (e : Nat × Mu) => e.2.pauseMu && !e.2.boundaryDue) then
      [.spareLineProbe d] else []) ++
    [2 * d, 2 * d + 1].flatMap (fun p =>
      if (s.port p).sending.isSome then (if s.sendDue p then [.dialMessageEnd p] else [])
      else if s.hub.rotating then (match s.nextSlot p with | some e => if s.windowTurn p e then [.dialWindowOpen p e] else [] | none => []) else [])

/-- Everything that the state itself enables. -/
def State.derived (s : State) : List Instr :=
  (s.cores.map (·.1)).flatMap s.coreMoves ++ (s.mus.map (·.1)).flatMap s.muMoves ++ (s.clusters.map (·.1)).flatMap s.clusterMoves ++
    (List.range 4).flatMap s.dieMoves ++ s.dispatcherMoves

/-- Has the Dial something to do within the microsecond that TIME names: a window to open, a message that ends (R344, R346)? -/
def State.dialDue (s : State) : Bool :=
  (List.range 8).any (fun p =>
    if (s.port p).sending.isSome then s.sendDue p
    else s.hub.rotating && (match s.nextSlot p with | some e => decide (s.hub.slotStart e ≤ s.hub.lastInstant) | none => false))

/-- The reference timer's next move: a tick, or the rotation of the Dial that is due in the present microsecond, once the
windows of the rotation before are over (R344). It waits for what the Dial has to do before (log 1). -/
def State.timerMoves (s : State) : List Instr :=
  if s.dialDue then []
  else if s.hub.rotationDue then
    (if !s.hub.rotating || (List.range 8).all (fun p => (s.port p).sending.isNone && (s.nextSlot p).isNone) then
      [.dialRotationStart] else [])
  else [.packageTimerTick]

/-- Events that come about by themselves as time passes: the timer, forecasts, samples, the Balance loops, and the scrubbers
of slices with damage. -/
def State.ambient (s : State) : List Instr :=
  s.timerMoves ++ [.fcastUpdate] ++ (if s.hub.grid.getLsbD 63 then [.nocGridSample] else []) ++
    (s.mus.map (·.1)).map Instr.balanceHeaterUpdate ++
    ((List.range 256).filter (fun sl => !s.damage.isEmpty && !(s.scrubStripes sl).isEmpty)).map Instr.scrub

/-! ### The choice -/

/-- One alternative of a step: an event of the agenda by its place, an event that the state enables, or a core. -/
inductive Move where
  | event (i : Nat)
  | own (e : Instr)
  | core (c : Nat)
  deriving DecidableEq, Repr

/-- Everything that can happen next, the current core first. -/
def State.moves (s : State) : List Move :=
  (if s.runnable s.cur then [Move.core s.cur] else []) ++
    ((s.cores.map (·.1)).filter (fun c => c != s.cur && s.runnable c)).map Move.core ++
    s.heads.map Move.event ++ s.derived.map Move.own

/-- Picks by number out of a list, its first for 0; with an empty list the reference timer ticks. -/
def pickMove (n : Nat) (l : List Move) : Move :=
  match l with
  | [] => .own .packageTimerTick
  | m :: r => if n = 0 then m else ((m :: r)[n % (r.length + 1)]?).getD m

/-- Picks by number out of a list with a default. -/
def pickFrom {α : Type} (n : Nat) (l : List α) : Option α := l[n % l.length]?

/-- The cores that can move, those after the current one first and itself last: they take turns. -/
def State.coreTurns (s : State) : List Nat :=
  let cs := (s.cores.map (·.1)).filter s.runnable
  match (cs.filter (fun c => decide (s.cur < c))).min? with
  | some c => [c]
  | none => match cs.min? with | some c => [c] | none => []

/-- What the units enable, unit by unit: cores, MUs, clusters, dies and the Dispatcher. -/
def State.unitMoves (s : State) : List (Nat × List Instr) :=
  ((s.cores.map (fun (e : Nat × Core) => (e.1, s.coreMoves e.1))) ++ (s.mus.map (fun (e : Nat × Mu) => (512 + e.1, s.muMoves e.1))) ++
    (s.clusters.map (fun (e : Nat × Cluster) => (576 + e.1, s.clusterMoves e.1))) ++ ((List.range 4).map (fun d => (608 + d, s.dieMoves d))) ++
    [(612, s.dispatcherMoves)]).filter (fun u => !u.2.isEmpty)

/-- The move of the unit whose turn it is: of the units that enable something, the first from number `n` on, around. -/
def State.unitTurn (s : State) (n : Nat) : List Move :=
  let us := s.unitMoves
  let from_ := us.filter (fun u => decide (n % 613 ≤ u.1))
  let least (l : List (Nat × List Instr)) : Option Nat := (l.map (·.1)).min?
  match (match least from_ with | some k => some k | none => least us) with
  | none => []
  | some k => match us.find? (fun u => u.1 == k) with
    | some u => ((pickFrom (n / 613) u.2).map Move.own).toList
    | none => []

/-- The move that is made when the tape is empty (R66; log 1): cores, events and units take turns, and of 64 steps one
ticks the reference timer and one is another of those that come about by themselves. Cores take turns among themselves, and
so do the units; of the events the one that has waited longest comes first. So whatever can happen and stays so does
happen. -/
def State.plainMove (s : State) : Move :=
  let cores := s.coreTurns.map Move.core
  let events := s.heads.map Move.event
  let units := s.unitTurn (s.seq / 4)
  if s.seq % 64 = 63 then pickMove 0 (s.timerMoves.map Move.own ++ units ++ events ++ cores)
  else if s.seq % 64 = 31 then pickMove (s.seq / 64) (s.ambient.map Move.own)
  else if s.seq % 4 = 2 then pickMove 0 (events ++ units ++ cores)
  else if s.seq % 4 = 3 then pickMove 0 (units ++ cores ++ events)
  else pickMove 0 (cores ++ events ++ units)

/-- The next move: while the tape lasts, its next number picks one of the alternatives, 0 the current core while it can run. -/
def State.pick (s : State) : Move :=
  match s.turn with
  | [] => s.plainMove
  | n :: _ => pickMove n (s.moves ++ s.ambient.map Move.own)

/-- The state as a move begins: the tape moves on and the step is counted. -/
def State.begin (s : State) : State := { s with turn := s.turn.drop 1, seq := s.seq + 1 }

end Sys2Proof.Machine
end

