-- ==== Sys2Proof/Machine/Atomic.lean ====
section
/-! DEFINITION. Atomics as a core issues them (R225 to R227). -/

namespace Sys2Proof.Machine

/-- An atomic on its way to the key it executes at: the requests of a core to one slice or scratchpad keep their order (R333).
One of translated memory runs at its home slice or at the core's cluster, as the contention predictor chooses: a free value
(R116; log 115). -/
def State.sendAtomic (s : State) (key : Nat) (ev : Instr) : State :=
  match padOwner key with
  | some t => s.fresh.push (padChan s.cur t) ev
  | none =>
    if !isGlobal key then s.fresh.push (sliceChan s.cur (sliceOfKey key)) ev
    else if (Config.freeWord s.free).getLsbD 0 then (s.fresh.push (sliceChan s.cur (sliceOfKey key)) ev).take
    else (s.pushFree ev).take

/-- Sends an atomic to its executing point (R116, R226): own and remote scratchpads, Basin scratch and translated memory.
The operand is the low `n` bytes of x[D]; the old value lands in x[D]. In a twin only the core's own bytes are in reach
(R413). -/
def State.atomic (s : State) (h : Head) (d a : XReg) (disp : Word) (o : Order) (op : AtomOp) (n : Nat) (cmp : Word) :
    State :=
  let va := s.ea a disp
  if s.orderHold o true then s.block .awake
  else if s.twinStore va then s.trap Code.ctxBad
  else match s.plan va n true ⟨false, false, false⟩ with
    | .trap c t => s.trap c t
    | .wait => s.block .awake
    | .recover st => (s.askRecovery st).block .awake
    | .late c walk =>
      if d ≠ 0 && !s.roomFor then s.block .awake
      else ((s.startWalk walk va true).sendFault c va (slotX d)).advance h
    | .discard _ walk =>
      if d ≠ 0 && !s.roomFor then s.block .awake
      else ((s.startWalk walk va true).sendFault Code.poison va (slotX d)).advance h
    | .go key _ cached walk =>
      match s.badStripe key n with
      | some st => (s.askRecovery st).block .awake
      | none =>
        if d ≠ 0 && !s.roomFor then s.block .awake
        else
          let id := s.ids
          let s := s.startWalk walk va true
          let id := if d = 0 then id else s.ids
          let at_ : Atom := ⟨op, n, key, va, cached, fieldZ64 (s.getX d) n, fieldZ64 cmp n⟩
          let s' := if d = 0 then s else s.owe d.toNat
          (s'.sendAtomic key (.atomicPerform s.cur s.me.lvl.val id s.pc d at_)).advance h
where
  /-- The low `n` bytes of a word. -/
  fieldZ64 (w : Word) (n : Nat) : Word := if n = 4 then w &&& 0xFFFFFFFF else w

/-- Width of an AMO (R225): EXT[0] selects 4 bytes. -/
def amoBytes (w : Bool) : Nat := if w then 4 else 8

/-- AMO.ADD (R225). -/
def execAmoAdd (h : Head) (d a : XReg) (disp : Word) (w : Bool) (o : Order) (s : State) :
    Host.Outcome State Fault Refusal := .next (s.atomic h d a disp o .add (amoBytes w) 0)
/-- AMO.AND (R225). -/
def execAmoAnd (h : Head) (d a : XReg) (disp : Word) (w : Bool) (o : Order) (s : State) :
    Host.Outcome State Fault Refusal := .next (s.atomic h d a disp o .and (amoBytes w) 0)
/-- AMO.OR (R225). -/
def execAmoOr (h : Head) (d a : XReg) (disp : Word) (w : Bool) (o : Order) (s : State) :
    Host.Outcome State Fault Refusal := .next (s.atomic h d a disp o .or (amoBytes w) 0)
/-- AMO.XOR (R225). -/
def execAmoXor (h : Head) (d a : XReg) (disp : Word) (w : Bool) (o : Order) (s : State) :
    Host.Outcome State Fault Refusal := .next (s.atomic h d a disp o .xor (amoBytes w) 0)
/-- AMO.MIN (R225): signed, or unsigned with .u. -/
def execAmoMin (h : Head) (d a : XReg) (disp : Word) (w u : Bool) (o : Order) (s : State) :
    Host.Outcome State Fault Refusal := .next (s.atomic h d a disp o (if u then .minu else .min) (amoBytes w) 0)
/-- AMO.MAX (R225): signed, or unsigned with .u. -/
def execAmoMax (h : Head) (d a : XReg) (disp : Word) (w u : Bool) (o : Order) (s : State) :
    Host.Outcome State Fault Refusal := .next (s.atomic h d a disp o (if u then .maxu else .max) (amoBytes w) 0)
/-- AMO.SWAP (R225). -/
def execAmoSwap (h : Head) (d a : XReg) (disp : Word) (w : Bool) (o : Order) (s : State) :
    Host.Outcome State Fault Refusal := .next (s.atomic h d a disp o .swap (amoBytes w) 0)
/-- AMO.CAS (R225): compares with x[T]. -/
def execAmoCas (h : Head) (d a t : XReg) (disp : Word) (w : Bool) (o : Order) (s : State) :
    Host.Outcome State Fault Refusal := .next (s.atomic h d a disp o .cas (amoBytes w) (s.getX t))
/-- FAMO.ADD (R227). -/
def execFamoAdd (h : Head) (d a : XReg) (disp : Word) (o : Order) (s : State) :
    Host.Outcome State Fault Refusal := .next (s.atomic h d a disp o .fadd 4 0)
/-- FAMO.ADD2 (R227): two FP32 halves of 8 bytes. -/
def execFamoAdd2 (h : Head) (d a : XReg) (disp : Word) (o : Order) (s : State) :
    Host.Outcome State Fault Refusal := .next (s.atomic h d a disp o .fadd2 8 0)
/-- FAMO.MAX (R227). -/
def execFamoMax (h : Head) (d a : XReg) (disp : Word) (o : Order) (s : State) :
    Host.Outcome State Fault Refusal := .next (s.atomic h d a disp o .fmax 4 0)
/-- FAMO.MIN (R227). -/
def execFamoMin (h : Head) (d a : XReg) (disp : Word) (o : Order) (s : State) :
    Host.Outcome State Fault Refusal := .next (s.atomic h d a disp o .fmin 4 0)

end Sys2Proof.Machine
end

