-- ==== Sys2Proof/Machine/Control.lean ====
section
/-! DEFINITION. Control transfer and TRAP (R219 to R221, R237). -/

namespace Sys2Proof.Machine

/-- Address of the next instruction (R219). -/
def State.nxt (s : State) (h : Head) : Word := s.pc + BitVec.ofNat 64 h.len

/-- Target of a branch offset in 2-byte words (R219). -/
def State.branchTarget (s : State) (off : Word) : Word := s.pc + 2 * off

/-- Branches if the condition holds, else goes on (R219, R221). -/
def State.branchIf (s : State) (h : Head) (c : Bool) (off : Word) : State :=
  if c then s.jump (s.branchTarget off) else s.advance h

/-- BR (R219). -/
def execBr (_h : Head) (off : Word) (s : State) : Host.Outcome State Fault Refusal := .next (s.jump (s.branchTarget off))

/-- CALL (R219): x1 takes the return address. -/
def execCall (h : Head) (off : Word) (s : State) : Host.Outcome State Fault Refusal :=
  .next (s.jump (s.branchTarget off) (fun u => u.setX 1 (s.nxt h)))

/-- BZ (R219). -/
def execBz (h : Head) (d : XReg) (imm : Word) (s : State) : Host.Outcome State Fault Refusal :=
  .next (s.branchIf h (s.getX d == 0) imm)

/-- BNZ (R219). -/
def execBnz (h : Head) (d : XReg) (imm : Word) (s : State) : Host.Outcome State Fault Refusal :=
  .next (s.branchIf h (s.getX d != 0) imm)

/-- LOOP (R219): counts x[D] down, and branches unless it has reached 0. A register that holds 0 wraps, x0 never branches,
and at an odd target ALIGN leaves x[D] as it is (R221). -/
def execLoop (h : Head) (d : XReg) (imm : Word) (s : State) : Host.Outcome State Fault Refusal :=
  let n := s.getX d - 1
  .next (if d ≠ 0 ∧ n ≠ 0 then s.jump (s.branchTarget imm) (fun u => u.setX d n) else (s.setX d n).advance h)

/-- JR (R219). -/
def execJr (_h : Head) (a : XReg) (s : State) : Host.Outcome State Fault Refusal := .next (s.jump (s.getX a))

/-- CALLR (R219): the target is read before x1 is written. -/
def execCallr (h : Head) (a : XReg) (s : State) : Host.Outcome State Fault Refusal :=
  .next (s.jump (s.getX a) (fun u => u.setX 1 (s.nxt h)))

/-- RET (R219). -/
def execRet (_h : Head) (s : State) : Host.Outcome State Fault Refusal := .next (s.jump (s.getX 1))

/-- JTAB (R220): n is unsigned; an index at or above n falls through. -/
def execJtab (h : Head) (d a : XReg) (n : Word) (s : State) : Host.Outcome State Fault Refusal :=
  .next (if s.getX d < n then s.jump (s.getX a + 4 * s.getX d) else s.advance h)

/-- TRAP (R237): TVAL is n and TPC the next instruction. -/
def execTrap (h : Head) (n : BitVec 10) (s : State) : Host.Outcome State Fault Refusal :=
  .next (s.takeTrap s.cur Code.trap (s.nxt h) (n.setWidth 64) 0)

end Sys2Proof.Machine
end

