-- ==== Sys2Proof/Machine/Dispatch.lean ====
section
/-! DEFINITION. One arm per constructor of `Instr`: the meaning of each instruction and event. -/

namespace Sys2Proof.Machine

/-- What an instruction does on core `cur`, or what an event of a unit does. -/
def exec (i : Instr) (s : State) : Host.Outcome State Fault Refusal :=
  match i with
  | .breakpoint c => Sys2Proof.Machine.execBreakpoint c s
  | .resultLand c lvl id pc r => Sys2Proof.Machine.execResultLand c lvl id pc r s
  | .storeAck c => Sys2Proof.Machine.execStoreAck c s
  | .atomicPerform c lvl id pc d at_ => Sys2Proof.Machine.execAtomicPerform c lvl id pc d at_ s
  | .tlbWalk w => Sys2Proof.Machine.execTlbWalk w s
  | .ticketGrant sl c => Sys2Proof.Machine.execTicketGrant sl c s
  | .grantArrive c entry => Sys2Proof.Machine.execGrantArrive c entry s
  | .tldRequestArrive sl r => Sys2Proof.Machine.execTldRequestArrive sl r s
  | .ticketFetchPerform sl entry gen off srcs => Sys2Proof.Machine.execTicketFetchPerform sl entry gen off srcs s
  | .ticketDataArrive sl entry gen off ws code fva => Sys2Proof.Machine.execTicketDataArrive sl entry gen off ws code fva s
  | .redeemArrive sl r => Sys2Proof.Machine.execRedeemArrive sl r s
  | .tkdropArrive sl r => Sys2Proof.Machine.execTkdropArrive sl r s
  | .tkqArrive sl r => Sys2Proof.Machine.execTkqArrive sl r s
  | .redeemDelivery r ws code text => Sys2Proof.Machine.execRedeemDelivery r ws code text s
  | .packageTimerTick => Sys2Proof.Machine.execPackageTimerTick s
  | .leaseExpire sl entry => Sys2Proof.Machine.execLeaseExpire sl entry s
  | .setend cl w e p => Sys2Proof.Machine.execSetend cl w e p s
  | .replace cl w e p => Sys2Proof.Machine.execReplace cl w e p s
  | .splice cl w e w2 e2 => Sys2Proof.Machine.execSplice cl w e w2 e2 s
  | .adopt cl w e p => Sys2Proof.Machine.execAdopt cl w e p s
  | .resolve cl p ow oe nw ne => Sys2Proof.Machine.execResolve cl p ow oe nw ne s
  | .unref cl w d => Sys2Proof.Machine.execUnref cl w d s
  | .wfreeMessage cl w => Sys2Proof.Machine.execWfreeMessage cl w s
  | .nfreeMessage cl n => Sys2Proof.Machine.execNfreeMessage cl n s
  | .pondRequestRound cl => Sys2Proof.Machine.execPondRequestRound cl s
  | .pondWorkRequest cl from_ rest => Sys2Proof.Machine.execPondWorkRequest cl from_ rest s
  | .pondHighmAnnounce cl from_ => Sys2Proof.Machine.execPondHighmAnnounce cl from_ s
  | .springStockRefill c => Sys2Proof.Machine.execSpringStockRefill c s
  | .twinCompare cl => Sys2Proof.Machine.execTwinCompare cl s
  | .msgArrive c m => Sys2Proof.Machine.execMsgArrive c m s
  | .handlerStart c => Sys2Proof.Machine.execHandlerStart c s
  | .taskStart c => Sys2Proof.Machine.execTaskStart c s
  | .messageRefusal m => Sys2Proof.Machine.execMessageRefusal m s
  | .barrierArrival cl slot c => Sys2Proof.Machine.execBarrierArrival cl slot c s
  | .barrierCompletionNotice c slot phase => Sys2Proof.Machine.execBarrierCompletionNotice c slot phase s
  | .collectiveContribution cl slot k => Sys2Proof.Machine.execCollectiveContribution cl slot k s
  | .collectiveResult c slot ok v => Sys2Proof.Machine.execCollectiveResult c slot ok v s
  | .copyTransferStart cl => Sys2Proof.Machine.execCopyTransferStart cl s
  | .copyTransferComplete cl id => Sys2Proof.Machine.execCopyTransferComplete cl id s
  | .tileStepStart c => Sys2Proof.Machine.execTileStepStart c s
  | .tileStepRetire c => Sys2Proof.Machine.execTileStepRetire c s
  | .phldTakeEffect mu => Sys2Proof.Machine.execPhldTakeEffect mu s
  | .shadowSettle mu => Sys2Proof.Machine.execShadowSettle mu s
  | .phrdTakeEffect mu => Sys2Proof.Machine.execPhrdTakeEffect mu s
  | .phwrTakeEffect mu => Sys2Proof.Machine.execPhwrTakeEffect mu s
  | .ptrimTakeEffect mu => Sys2Proof.Machine.execPtrimTakeEffect mu s
  | .passBoundary mu => Sys2Proof.Machine.execPassBoundary mu s
  | .trimSettle mu => Sys2Proof.Machine.execTrimSettle mu s
  | .passStart mu => Sys2Proof.Machine.execPassStart mu s
  | .passHeaderWrite mu => Sys2Proof.Machine.execPassHeaderWrite mu s
  | .probeEvaluation mu => Sys2Proof.Machine.execProbeEvaluation mu s
  | .probeComplete mu => Sys2Proof.Machine.execProbeComplete mu s
  | .pcalComplete mu => Sys2Proof.Machine.execPcalComplete mu s
  | .deComplete die => Sys2Proof.Machine.execDeComplete die s
  | .deBankLoad mu => Sys2Proof.Machine.execDeBankLoad mu s
  | .balanceHeaterUpdate mu => Sys2Proof.Machine.execBalanceHeaterUpdate mu s
  | .combLoss die w => Sys2Proof.Machine.execCombLoss die w s
  | .modStuck mu w j => Sys2Proof.Machine.execModStuck mu w j s
  | .parityRecovery what lvl c pc => Sys2Proof.Machine.execParityRecovery what lvl c pc s
  | .scrub sl => Sys2Proof.Machine.execScrub sl s
  | .asyncFaultTake c => Sys2Proof.Machine.execAsyncFaultTake c s
  | .fpExcWindowClose cl => Sys2Proof.Machine.execFpExcWindowClose cl s
  | .tickMiss c => Sys2Proof.Machine.execTickMiss c s
  | .quietNotice cl => Sys2Proof.Machine.execQuietNotice cl s
  | .completionWave colour => Sys2Proof.Machine.execCompletionWave colour s
  | .waveReport colour => Sys2Proof.Machine.execWaveReport colour s
  | .submissionTake q => Sys2Proof.Machine.execSubmissionTake q s
  | .dispatchSelect => Sys2Proof.Machine.execDispatchSelect s
  | .preemption colour => Sys2Proof.Machine.execPreemption colour s
  | .resumption colour => Sys2Proof.Machine.execResumption colour s
  | .jobEnd colour => Sys2Proof.Machine.execJobEnd colour s
  | .completionEventWrite q seq => Sys2Proof.Machine.execCompletionEventWrite q seq s
  | .qCfgWrite q v => Sys2Proof.Machine.execQCfgWrite q v s
  | .dispKill v => Sys2Proof.Machine.execDispKill v s
  | .contRectDefine n v => Sys2Proof.Machine.execContRectDefine n v s
  | .contRectGo n => Sys2Proof.Machine.execContRectGo n s
  | .containment n => Sys2Proof.Machine.execContainment n s
  | .basinSplitWrite die v => Sys2Proof.Machine.execBasinSplitWrite die v s
  | .basinSplitDone die => Sys2Proof.Machine.execBasinSplitDone die s
  | .dialCommit => Sys2Proof.Machine.execDialCommit s
  | .dialEnable en => Sys2Proof.Machine.execDialEnable en s
  | .dialRotationStart => Sys2Proof.Machine.execDialRotationStart s
  | .dialWindowOpen port e => Sys2Proof.Machine.execDialWindowOpen port e s
  | .dialMessageEnd port => Sys2Proof.Machine.execDialMessageEnd port s
  | .dialFlitReceive port f => Sys2Proof.Machine.execDialFlitReceive port f s
  | .dialFlitNak port f => Sys2Proof.Machine.execDialFlitNak port f s
  | .dialMessageDelivered src n => Sys2Proof.Machine.execDialMessageDelivered src n s
  | .dialAck pkg c n code => Sys2Proof.Machine.execDialAck pkg c n code s
  | .dialTimerDrift => Sys2Proof.Machine.execDialTimerDrift s
  | .lossOfReturnLight port => Sys2Proof.Machine.execLossOfReturnLight port s
  | .dialPresenceLoss pkg => Sys2Proof.Machine.execDialPresenceLoss pkg s
  | .dsigPartialArrive tree port part => Sys2Proof.Machine.execDsigPartialArrive tree port part s
  | .dsigResultArrive tree ws => Sys2Proof.Machine.execDsigResultArrive tree ws s
  | .nqlLinkDown => Sys2Proof.Machine.execNqlLinkDown s
  | .nqlFail => Sys2Proof.Machine.execNqlFail s
  | .nqlRetrain => Sys2Proof.Machine.execNqlRetrain s
  | .hostMemAccess at_ wr n => Sys2Proof.Machine.execHostMemAccess at_ wr n s
  | .regUnsupportedAccess off wr => Sys2Proof.Machine.execRegUnsupportedAccess off wr s
  | .registerWrite off v path => Sys2Proof.Machine.execRegisterWrite off v path s
  | .nocGridSample => Sys2Proof.Machine.execNocGridSample s
  | .fcastUpdate => Sys2Proof.Machine.execFcastUpdate s
  | .pcapLimitWrite v oob => Sys2Proof.Machine.execPcapLimitWrite v oob s
  | .pcapWindowEnd watts => Sys2Proof.Machine.execPcapWindowEnd watts s
  | .fastClamp => Sys2Proof.Machine.execFastClamp s
  | .clampRelease => Sys2Proof.Machine.execClampRelease s
  | .thermalTrip die => Sys2Proof.Machine.execThermalTrip die s
  | .thermalRecovery die => Sys2Proof.Machine.execThermalRecovery die s
  | .healthUpdate => Sys2Proof.Machine.execHealthUpdate s
  | .coldReset b => Sys2Proof.Machine.execColdReset b s
  | .attestGo v => Sys2Proof.Machine.execAttestGo v s
  | .attestReportDone => Sys2Proof.Machine.execAttestReportDone s
  | .debugStop v => Sys2Proof.Machine.execDebugStop v s
  | .debugAccess c lvl t wr => Sys2Proof.Machine.execDebugAccess c lvl t wr s
  | .singleStep c => Sys2Proof.Machine.execSingleStep c s
  | .stepUntilDrained c => Sys2Proof.Machine.execStepUntilDrained c s
  | .pondHandover cl from_ ps rest => Sys2Proof.Machine.execPondHandover cl from_ ps rest s
  | .dialTimerAligned => Sys2Proof.Machine.execDialTimerAligned s
  | .moduleInsertion pkg => Sys2Proof.Machine.execModuleInsertion pkg s
  | .returnLightRestored port => Sys2Proof.Machine.execReturnLightRestored port s
  | .spareLineProbe die => Sys2Proof.Machine.execSpareLineProbe die s
  | .ill h d a => Sys2Proof.Machine.execIll h d a s
  | .nop h => Sys2Proof.Machine.execNop h s
  | .tick h => Sys2Proof.Machine.execTick h s
  | .halt h => Sys2Proof.Machine.execHalt h s
  | .mov h d a => Sys2Proof.Machine.execMov h d a s
  | .not h d a => Sys2Proof.Machine.execNot h d a s
  | .neg h d a => Sys2Proof.Machine.execNeg h d a s
  | .clz h d a => Sys2Proof.Machine.execClz h d a s
  | .add h d a t => Sys2Proof.Machine.execAdd h d a t s
  | .sub h d a t => Sys2Proof.Machine.execSub h d a t s
  | .and h d a t => Sys2Proof.Machine.execAnd h d a t s
  | .or h d a t => Sys2Proof.Machine.execOr h d a t s
  | .xor h d a t => Sys2Proof.Machine.execXor h d a t s
  | .shl h d a t => Sys2Proof.Machine.execShl h d a t s
  | .shr h d a t => Sys2Proof.Machine.execShr h d a t s
  | .sar h d a t => Sys2Proof.Machine.execSar h d a t s
  | .min h d a t => Sys2Proof.Machine.execMin h d a t s
  | .max h d a t => Sys2Proof.Machine.execMax h d a t s
  | .minu h d a t => Sys2Proof.Machine.execMinu h d a t s
  | .maxu h d a t => Sys2Proof.Machine.execMaxu h d a t s
  | .seq h d a t => Sys2Proof.Machine.execSeq h d a t s
  | .sne h d a t => Sys2Proof.Machine.execSne h d a t s
  | .slt h d a t => Sys2Proof.Machine.execSlt h d a t s
  | .sltu h d a t => Sys2Proof.Machine.execSltu h d a t s
  | .mul h d a t => Sys2Proof.Machine.execMul h d a t s
  | .mulh h d a t => Sys2Proof.Machine.execMulh h d a t s
  | .mulhu h d a t => Sys2Proof.Machine.execMulhu h d a t s
  | .popc h d a => Sys2Proof.Machine.execPopc h d a s
  | .div h d a t => Sys2Proof.Machine.execDiv h d a t s
  | .divu h d a t => Sys2Proof.Machine.execDivu h d a t s
  | .rem h d a t => Sys2Proof.Machine.execRem h d a t s
  | .remu h d a t => Sys2Proof.Machine.execRemu h d a t s
  | .addi h d imm => Sys2Proof.Machine.execAddi h d imm s
  | .li h d imm => Sys2Proof.Machine.execLi h d imm s
  | .andi h d imm => Sys2Proof.Machine.execAndi h d imm s
  | .shli h d n => Sys2Proof.Machine.execShli h d n s
  | .shri h d n => Sys2Proof.Machine.execShri h d n s
  | .sari h d n => Sys2Proof.Machine.execSari h d n s
  | .ldB h d a disp o => Sys2Proof.Machine.execLdB h d a disp o s
  | .ldH h d a disp o => Sys2Proof.Machine.execLdH h d a disp o s
  | .ldW h d a disp o => Sys2Proof.Machine.execLdW h d a disp o s
  | .ldD h d a disp o => Sys2Proof.Machine.execLdD h d a disp o s
  | .ldzB h d a disp o => Sys2Proof.Machine.execLdzB h d a disp o s
  | .ldzH h d a disp o => Sys2Proof.Machine.execLdzH h d a disp o s
  | .ldzW h d a disp o => Sys2Proof.Machine.execLdzW h d a disp o s
  | .stB h d a disp o => Sys2Proof.Machine.execStB h d a disp o s
  | .stH h d a disp o => Sys2Proof.Machine.execStH h d a disp o s
  | .stW h d a disp o => Sys2Proof.Machine.execStW h d a disp o s
  | .stD h d a disp o => Sys2Proof.Machine.execStD h d a disp o s
  | .tld8 h d a disp t o => Sys2Proof.Machine.execTld8 h d a disp t o s
  | .tld32 h d a disp t o => Sys2Proof.Machine.execTld32 h d a disp t o s
  | .tld64 h d a disp t o => Sys2Proof.Machine.execTld64 h d a disp t o s
  | .tld256 h d a disp t o => Sys2Proof.Machine.execTld256 h d a disp t o s
  | .rdm h d a => Sys2Proof.Machine.execRdm h d a s
  | .rdmV h d a => Sys2Proof.Machine.execRdmV h d a s
  | .rdmS h d a disp => Sys2Proof.Machine.execRdmS h d a disp s
  | .tkq h d a => Sys2Proof.Machine.execTkq h d a s
  | .br h off => Sys2Proof.Machine.execBr h off s
  | .call h off => Sys2Proof.Machine.execCall h off s
  | .bz h d imm => Sys2Proof.Machine.execBz h d imm s
  | .bnz h d imm => Sys2Proof.Machine.execBnz h d imm s
  | .loop h d imm => Sys2Proof.Machine.execLoop h d imm s
  | .jr h a => Sys2Proof.Machine.execJr h a s
  | .callr h a => Sys2Proof.Machine.execCallr h a s
  | .ret h => Sys2Proof.Machine.execRet h s
  | .jtab h d a n => Sys2Proof.Machine.execJtab h d a n s
  | .mfs h d n => Sys2Proof.Machine.execMfs h d n s
  | .mts h d n => Sys2Proof.Machine.execMts h d n s
  | .fence h sc kind => Sys2Proof.Machine.execFence h sc kind s
  | .bar h a => Sys2Proof.Machine.execBar h a s
  | .bara h d a => Sys2Proof.Machine.execBara h d a s
  | .barw h d a => Sys2Proof.Machine.execBarw h d a s
  | .barq h d a => Sys2Proof.Machine.execBarq h d a s
  | .trap h n => Sys2Proof.Machine.execTrap h n s
  | .rol h d a t => Sys2Proof.Machine.execRol h d a t s
  | .ror h d a t => Sys2Proof.Machine.execRor h d a t s
  | .bswap h d a => Sys2Proof.Machine.execBswap h d a s
  | .ctz h d a => Sys2Proof.Machine.execCtz h d a s
  | .ext h d a lo wm => Sys2Proof.Machine.execExt h d a lo wm s
  | .extz h d a lo wm => Sys2Proof.Machine.execExtz h d a lo wm s
  | .dep h d a lo wm => Sys2Proof.Machine.execDep h d a lo wm s
  | .depz h d a lo wm => Sys2Proof.Machine.execDepz h d a lo wm s
  | .lea h d a t sh disp => Sys2Proof.Machine.execLea h d a t sh disp s
  | .madd h d a t => Sys2Proof.Machine.execMadd h d a t s
  | .msub h d a t => Sys2Proof.Machine.execMsub h d a t s
  | .cselz h d a t => Sys2Proof.Machine.execCselz h d a t s
  | .cselnz h d a t => Sys2Proof.Machine.execCselnz h d a t s
  | .sextB h d a => Sys2Proof.Machine.execSextB h d a s
  | .sextH h d a => Sys2Proof.Machine.execSextH h d a s
  | .sextW h d a => Sys2Proof.Machine.execSextW h d a s
  | .zextW h d a => Sys2Proof.Machine.execZextW h d a s
  | .hash h d a t => Sys2Proof.Machine.execHash h d a t s
  | .crc h d a t => Sys2Proof.Machine.execCrc h d a t s
  | .geo h d sel => Sys2Proof.Machine.execGeo h d sel s
  | .adds h d a t => Sys2Proof.Machine.execAdds h d a t s
  | .subs h d a t => Sys2Proof.Machine.execSubs h d a t s
  | .addus h d a t => Sys2Proof.Machine.execAddus h d a t s
  | .subus h d a t => Sys2Proof.Machine.execSubus h d a t s
  | .vadd h d a m => Sys2Proof.Machine.execVadd h d a m s
  | .vsub h d a m => Sys2Proof.Machine.execVsub h d a m s
  | .vmul h d a m => Sys2Proof.Machine.execVmul h d a m s
  | .vmulh h d a m => Sys2Proof.Machine.execVmulh h d a m s
  | .vand h d a m => Sys2Proof.Machine.execVand h d a m s
  | .vor h d a m => Sys2Proof.Machine.execVor h d a m s
  | .vxor h d a m => Sys2Proof.Machine.execVxor h d a m s
  | .vandn h d a m => Sys2Proof.Machine.execVandn h d a m s
  | .vshl h d a m => Sys2Proof.Machine.execVshl h d a m s
  | .vshr h d a m => Sys2Proof.Machine.execVshr h d a m s
  | .vsar h d a m => Sys2Proof.Machine.execVsar h d a m s
  | .vrol h d a m => Sys2Proof.Machine.execVrol h d a m s
  | .vmin h d a m => Sys2Proof.Machine.execVmin h d a m s
  | .vmax h d a m => Sys2Proof.Machine.execVmax h d a m s
  | .vminu h d a m => Sys2Proof.Machine.execVminu h d a m s
  | .vmaxu h d a m => Sys2Proof.Machine.execVmaxu h d a m s
  | .vfadd h d a m rc => Sys2Proof.Machine.execVfadd h d a m rc s
  | .vfsub h d a m rc => Sys2Proof.Machine.execVfsub h d a m rc s
  | .vfmul h d a m rc => Sys2Proof.Machine.execVfmul h d a m rc s
  | .vfma h d a t rc m => Sys2Proof.Machine.execVfma h d a t rc m s
  | .vfmin h d a m => Sys2Proof.Machine.execVfmin h d a m s
  | .vfmax h d a m => Sys2Proof.Machine.execVfmax h d a m s
  | .vfabs h d a m => Sys2Proof.Machine.execVfabs h d a m s
  | .vfneg h d a m => Sys2Proof.Machine.execVfneg h d a m s
  | .vfdiv h d a m rc => Sys2Proof.Machine.execVfdiv h d a m rc s
  | .vfsqrt h d a m rc => Sys2Proof.Machine.execVfsqrt h d a m rc s
  | .vfrcp h d a m rc => Sys2Proof.Machine.execVfrcp h d a m rc s
  | .vfrsq h d a m rc => Sys2Proof.Machine.execVfrsq h d a m rc s
  | .vcmpEq h d a b m => Sys2Proof.Machine.execVcmpEq h d a b m s
  | .vcmpLt h d a b m => Sys2Proof.Machine.execVcmpLt h d a b m s
  | .vcmpLtu h d a b m => Sys2Proof.Machine.execVcmpLtu h d a b m s
  | .vcmpNe h d a b m => Sys2Proof.Machine.execVcmpNe h d a b m s
  | .vfcmpEq h d a b m => Sys2Proof.Machine.execVfcmpEq h d a b m s
  | .vfcmpLt h d a b m => Sys2Proof.Machine.execVfcmpLt h d a b m s
  | .vfcmpLe h d a b m => Sys2Proof.Machine.execVfcmpLe h d a b m s
  | .vfcmpUn h d a b m => Sys2Proof.Machine.execVfcmpUn h d a b m s
  | .vld h d a m disp o => Sys2Proof.Machine.execVld h d a m disp o s
  | .vst h d a m disp o => Sys2Proof.Machine.execVst h d a m disp o s
  | .vldg h d a ix m disp o => Sys2Proof.Machine.execVldg h d a ix m disp o s
  | .vsts h d a ix m disp o => Sys2Proof.Machine.execVsts h d a ix m disp o s
  | .vldl h d a m disp o => Sys2Proof.Machine.execVldl h d a m disp o s
  | .vstl h d a m disp o => Sys2Proof.Machine.execVstl h d a m disp o s
  | .vbcst h d a m => Sys2Proof.Machine.execVbcst h d a m s
  | .vext h d a n z => Sys2Proof.Machine.execVext h d a n z s
  | .vsel h d a b k => Sys2Proof.Machine.execVsel h d a b k s
  | .vperm h d a m => Sys2Proof.Machine.execVperm h d a m s
  | .vlrot h d a n m => Sys2Proof.Machine.execVlrot h d a n m s
  | .vmov h d a m => Sys2Proof.Machine.execVmov h d a m s
  | .vradd h d a m => Sys2Proof.Machine.execVradd h d a m s
  | .vrfadd h d a m rc => Sys2Proof.Machine.execVrfadd h d a m rc s
  | .vrmax h d a m => Sys2Proof.Machine.execVrmax h d a m s
  | .vrmin h d a m => Sys2Proof.Machine.execVrmin h d a m s
  | .kand h d a t => Sys2Proof.Machine.execKand h d a t s
  | .kor h d a t => Sys2Proof.Machine.execKor h d a t s
  | .kxor h d a t => Sys2Proof.Machine.execKxor h d a t s
  | .knot h d a => Sys2Proof.Machine.execKnot h d a s
  | .kany h d a => Sys2Proof.Machine.execKany h d a s
  | .kall h d a => Sys2Proof.Machine.execKall h d a s
  | .kcnt h d a => Sys2Proof.Machine.execKcnt h d a s
  | .kfirst h d a => Sys2Proof.Machine.execKfirst h d a s
  | .kmov h d a => Sys2Proof.Machine.execKmov h d a s
  | .kmovx h d a => Sys2Proof.Machine.execKmovx h d a s
  | .vcvt h d a m fmt dir => Sys2Proof.Machine.execVcvt h d a m fmt dir s
  | .vcvts h d a m fmt => Sys2Proof.Machine.execVcvts h d a m fmt s
  | .vqnt h d a m fmt => Sys2Proof.Machine.execVqnt h d a m fmt s
  | .vdqnt h d a m fmt => Sys2Proof.Machine.execVdqnt h d a m fmt s
  | .vresc h d a m disp i32 => Sys2Proof.Machine.execVresc h d a m disp i32 s
  | .vscal h d a m fmt => Sys2Proof.Machine.execVscal h d a m fmt s
  | .vpack h d a w p => Sys2Proof.Machine.execVpack h d a w p s
  | .vunpk h d a w p => Sys2Proof.Machine.execVunpk h d a w p s
  | .tmmaF32 h acc ra rb z k t => Sys2Proof.Machine.execTmmaF32 h acc ra rb z k t s
  | .tmmaBf h acc ra rb z k t => Sys2Proof.Machine.execTmmaBf h acc ra rb z k t s
  | .tmmaH h acc ra rb z k t => Sys2Proof.Machine.execTmmaH h acc ra rb z k t s
  | .tmmaHb h acc ra rb z k t x => Sys2Proof.Machine.execTmmaHb h acc ra rb z k t x s
  | .tmmaE4 h acc ra rb z k t => Sys2Proof.Machine.execTmmaE4 h acc ra rb z k t s
  | .tmmaE5 h acc ra rb z k t => Sys2Proof.Machine.execTmmaE5 h acc ra rb z k t s
  | .tmmaE45 h acc ra rb z k t x => Sys2Proof.Machine.execTmmaE45 h acc ra rb z k t x s
  | .tmmaE3 h acc ra rb z k t => Sys2Proof.Machine.execTmmaE3 h acc ra rb z k t s
  | .tmmaE2 h acc ra rb z k t => Sys2Proof.Machine.execTmmaE2 h acc ra rb z k t s
  | .tmmaE1 h acc ra rb z k t => Sys2Proof.Machine.execTmmaE1 h acc ra rb z k t s
  | .tmmaI8 h acc ra rb z k t x => Sys2Proof.Machine.execTmmaI8 h acc ra rb z k t x s
  | .tmmaIz8 h acc ra rb z k t => Sys2Proof.Machine.execTmmaIz8 h acc ra rb z k t s
  | .tmmaI4 h acc ra rb z k t => Sys2Proof.Machine.execTmmaI4 h acc ra rb z k t s
  | .tmmaIz4 h acc ra rb z k t => Sys2Proof.Machine.execTmmaIz4 h acc ra rb z k t s
  | .tcommit h d u => Sys2Proof.Machine.execTcommit h d u s
  | .twaitb h d a => Sys2Proof.Machine.execTwaitb h d a s
  | .tbatq h d a => Sys2Proof.Machine.execTbatq h d a s
  | .tlda h d a t disp => Sys2Proof.Machine.execTlda h d a t disp s
  | .tsta h d a t disp => Sys2Proof.Machine.execTsta h d a t disp s
  | .tstaQ h d a t disp i32 => Sys2Proof.Machine.execTstaQ h d a t disp i32 s
  | .tzero h d u => Sys2Proof.Machine.execTzero h d u s
  | .taccq h d u => Sys2Proof.Machine.execTaccq h d u s
  | .rcfg h d a => Sys2Proof.Machine.execRcfg h d a s
  | .rpush h d u => Sys2Proof.Machine.execRpush h d u s
  | .rpos h d a => Sys2Proof.Machine.execRpos h d a s
  | .rrst h d u => Sys2Proof.Machine.execRrst h d u s
  | .tgeo h d sel => Sys2Proof.Machine.execTgeo h d sel s
  | .psel h a => Sys2Proof.Machine.execPsel h a s
  | .pstat h d a => Sys2Proof.Machine.execPstat h d a s
  | .pgain h d a => Sys2Proof.Machine.execPgain h d a s
  | .pserial h d => Sys2Proof.Machine.execPserial h d s
  | .phld h a => Sys2Proof.Machine.execPhld h a s
  | .phsw h => Sys2Proof.Machine.execPhsw h s
  | .phrd h d a => Sys2Proof.Machine.execPhrd h d a s
  | .phwr h d a => Sys2Proof.Machine.execPhwr h d a s
  | .pdec h d a => Sys2Proof.Machine.execPdec h d a s
  | .pdecq h d a => Sys2Proof.Machine.execPdecq h d a s
  | .ppass h a => Sys2Proof.Machine.execPpass h a s
  | .ppassa h a => Sys2Proof.Machine.execPpassa h a s
  | .pflush h d => Sys2Proof.Machine.execPflush h d s
  | .pwait h d a => Sys2Proof.Machine.execPwait h d a s
  | .pprobe h => Sys2Proof.Machine.execPprobe h s
  | .ptrim h d a => Sys2Proof.Machine.execPtrim h d a s
  | .ploop h d a => Sys2Proof.Machine.execPloop h d a s
  | .pcal h a => Sys2Proof.Machine.execPcal h a s
  | .pair h => Sys2Proof.Machine.execPair h s
  | .pairn h => Sys2Proof.Machine.execPairn h s
  | .pushp h a => Sys2Proof.Machine.execPushp h a s
  | .pondq h d => Sys2Proof.Machine.execPondq h d s
  | .nalloc h d => Sys2Proof.Machine.execNalloc h d s
  | .walloc h d => Sys2Proof.Machine.execWalloc h d s
  | .nfree h a => Sys2Proof.Machine.execNfree h a s
  | .wfree h a => Sys2Proof.Machine.execWfree h a s
  | .nld h d a w => Sys2Proof.Machine.execNld h d a w s
  | .nst h d a w => Sys2Proof.Machine.execNst h d a w s
  | .wset h d a => Sys2Proof.Machine.execWset h d a s
  | .wrepl h d a => Sys2Proof.Machine.execWrepl h d a s
  | .wsplice h d a => Sys2Proof.Machine.execWsplice h d a s
  | .wres h d a => Sys2Proof.Machine.execWres h d a s
  | .retire h => Sys2Proof.Machine.execRetire h s
  | .rule h d a => Sys2Proof.Machine.execRule h d a s
  | .yieldp h => Sys2Proof.Machine.execYieldp h s
  | .engw h a => Sys2Proof.Machine.execEngw h a s
  | .nrdm h d a => Sys2Proof.Machine.execNrdm h d a s
  | .nval h d a => Sys2Proof.Machine.execNval h d a s
  | .tldn h d a disp t o => Sys2Proof.Machine.execTldn h d a disp t o s
  | .tldg h d a disp t o => Sys2Proof.Machine.execTldg h d a disp t o s
  | .tkdrop h a => Sys2Proof.Machine.execTkdrop h a s
  | .amoAdd h d a disp w o => Sys2Proof.Machine.execAmoAdd h d a disp w o s
  | .amoAnd h d a disp w o => Sys2Proof.Machine.execAmoAnd h d a disp w o s
  | .amoOr h d a disp w o => Sys2Proof.Machine.execAmoOr h d a disp w o s
  | .amoXor h d a disp w o => Sys2Proof.Machine.execAmoXor h d a disp w o s
  | .amoMin h d a disp w u o => Sys2Proof.Machine.execAmoMin h d a disp w u o s
  | .amoMax h d a disp w u o => Sys2Proof.Machine.execAmoMax h d a disp w u o s
  | .amoSwap h d a disp w o => Sys2Proof.Machine.execAmoSwap h d a disp w o s
  | .amoCas h d a t disp w o => Sys2Proof.Machine.execAmoCas h d a t disp w o s
  | .famoAdd h d a disp o => Sys2Proof.Machine.execFamoAdd h d a disp o s
  | .famoAdd2 h d a disp o => Sys2Proof.Machine.execFamoAdd2 h d a disp o s
  | .famoMax h d a disp o => Sys2Proof.Machine.execFamoMax h d a disp o s
  | .famoMin h d a disp o => Sys2Proof.Machine.execFamoMin h d a disp o s
  | .msg h d a t => Sys2Proof.Machine.execMsg h d a t s
  | .callat h d a t => Sys2Proof.Machine.execCallat h d a t s
  | .mret h => Sys2Proof.Machine.execMret h s
  | .hret h => Sys2Proof.Machine.execHret h s
  | .clsm h a => Sys2Proof.Machine.execClsm h a s
  | .clsu h a => Sys2Proof.Machine.execClsu h a s
  | .mclose h d a => Sys2Proof.Machine.execMclose h d a s
  | .mpoll h d a => Sys2Proof.Machine.execMpoll h d a s
  | .cpset h d ix => Sys2Proof.Machine.execCpset h d ix s
  | .cpgo h d => Sys2Proof.Machine.execCpgo h d s
  | .cpwait h d a => Sys2Proof.Machine.execCpwait h d a s
  | .cpq h d a => Sys2Proof.Machine.execCpq h d a s
  | .cshape h d a => Sys2Proof.Machine.execCshape h d a s
  | .cpmc h d a => Sys2Proof.Machine.execCpmc h d a s
  | .gred h d a => Sys2Proof.Machine.execGred h d a s
  | .gbc h d a => Sys2Proof.Machine.execGbc h d a s
  | .dsend h d a => Sys2Proof.Machine.execDsend h d a s
  | .dpoll h d a => Sys2Proof.Machine.execDpoll h d a s
  | .dslot h d a => Sys2Proof.Machine.execDslot h d a s
  | .dsig h d a => Sys2Proof.Machine.execDsig h d a s
  | .rft h => Sys2Proof.Machine.execRft h s
  | .rftNext h => Sys2Proof.Machine.execRftNext h s
  | .trrec h d a disp => Sys2Proof.Machine.execTrrec h d a disp s
  | .mfp h d a disp => Sys2Proof.Machine.execMfp h d a disp s
  | .mtp h d a disp => Sys2Proof.Machine.execMtp h d a disp s
  | .tlbi h d a => Sys2Proof.Machine.execTlbi h d a s
  | .tlbia h a => Sys2Proof.Machine.execTlbia h a s
  | .xbset h a => Sys2Proof.Machine.execXbset h a s
  | .cflush h a disp => Sys2Proof.Machine.execCflush h a disp s
  | .cinv h a disp => Sys2Proof.Machine.execCinv h a disp s
  | .czero h a disp => Sys2Proof.Machine.execCzero h a disp s
  | .dstop h a => Sys2Proof.Machine.execDstop h a s
  | .trmark h a => Sys2Proof.Machine.execTrmark h a s
  | .evsel h d a => Sys2Proof.Machine.execEvsel h d a s
  | .evrd h d a => Sys2Proof.Machine.execEvrd h d a s
  | .rpcapCapture h d a t => Sys2Proof.Machine.execRpcapCapture h d a t s
  | .rpcapReplay h d a t => Sys2Proof.Machine.execRpcapReplay h d a t s
  | .rpcapEnd h d a t => Sys2Proof.Machine.execRpcapEnd h d a t s
  | .rpcapRelease h d a t => Sys2Proof.Machine.execRpcapRelease h d a t s
  | .rpstat h d a => Sys2Proof.Machine.execRpstat h d a s
  | .tpert h d a => Sys2Proof.Machine.execTpert h d a s
  | .inj h d a disp => Sys2Proof.Machine.execInj h d a disp s
  | .pwrf h d a => Sys2Proof.Machine.execPwrf h d a s

end Sys2Proof.Machine
end

