-- ==== Sys2Proof/Machine/Step.lean ====
section
/-! DEFINITION. One step of the package: a core reaches an instruction boundary, or an event comes about. -/

namespace Sys2Proof.Machine

noncomputable section

/-- Applies a function to the next state of an outcome. -/
def onNext (o : Host.Outcome State Fault Refusal) (f : State → State) : Host.Outcome State Fault Refusal :=
  match o with
  | .next t => .next (f t)
  | .fault r => .fault r
  | .refused r => .refused r

/-- After core `c` has moved: the debugger's part is done, and unless the core is now asleep its cluster looks again. -/
def State.afterCore (c : Nat) (s : State) : State :=
  let s := s.afterStep c
  let k := s.core c
  if k.lv[k.lvl].wait.isSome then s else s.touchCl (clusterOf c)

/-- The executing core was asleep before its instruction: where it has left that wait, a period of quiet is over (R401). -/
def State.afterWait (was : State) (s : State) : State :=
  if was.lev.asleep && !((s.core was.cur).lv[was.me.lvl]).asleep then s.upJob was.me.colour (fun j => { j with hung := false }) else s

/-- Is a pair at hand for the executing core, so that a task does not run twice in a row (R57)? -/
def State.pairAtHand (s : State) : Bool :=
  s.me.kept.isSome || !s.me.offer.isEmpty ||
    (match s.job? s.me.colour with | some j => (s.pondFor j s.cur).isSome | none => false)

/-- Does an instruction end a turn between activations: a task starts there instead, if one is due (R57)? -/
def Instr.pops : Instr → Bool
  | .pair _ => true
  | .pairn _ => true
  | _ => false

/-- The executing core's instruction: one that is only held before a full queue has not issued (R274, R425). -/
def State.enact (s : State) (i : Instr) : Host.Outcome State Fault Refusal :=
  match exec i s.issued with
  | .next t => if t.lev.wait.any (fun w => w.reason == .awake && !w.fence) then exec i s.unheld else .next t
  | o => o

/-- The executing core issues an instruction, or is held before it (R183, R184); a task that is due starts in place of a
PAIR (R57). -/
def State.issue (s : State) (i : Instr) : Host.Outcome State Fault Refusal :=
  match s.held? i with
  | some r => .next (s.holdBack r)
  | none =>
    if Instr.pops i && s.taskDue s.cur s.pairAtHand then
      onNext (exec (.taskStart s.cur) s) (fun t => State.afterCore s.cur (s.afterWait t))
    else onNext (s.enact i) (fun t => State.afterCore s.cur (s.afterWait t))

/-- The instruction that the words at the program counter hold, with which row of RPCAP its control word selects
(R307). -/
def State.select (s : State) (i : Instr) : Instr :=
  match i with
  | .rpcapCapture h d a t =>
    match bits (s.getX a) 0 2 with
    | 0 => .rpcapCapture h d a t
    | 1 => .rpcapReplay h d a t
    | 2 => .rpcapEnd h d a t
    | _ => .rpcapRelease h d a t
  | i => i

/-- The stripe in which a word of the fetched instruction is bad, if one is (R407, R409). -/
def State.fetchBad {ε : Type} (s : State) (r : Except ε (Instr × Nat)) : Option Nat :=
  s.badStripe (padKey s.cur s.pc.toNat) (match r with | .ok (_, n) => n | .error _ => 10)

/-- The executing core fetches and issues (R80, R82, R180, R181). -/
def State.fetchIssue (s : State) : Host.Outcome State Fault Refusal :=
  let v := s.lev
  if s.me.codeEnd ≤ v.pc.toNat then .next (s.overlay s.cur v.pc v.prev).touch
  else
    let r := decodeWords (s.fetchWords s.cur)
    match s.fetchBad r with
    | some stripe => .next ((s.askRecovery stripe).holdBack .awake)
    | none =>
      match r with
      | .error _ =>
        match (if markedWords (s.fetchWords s.cur) then s.markHold else none) with
        | some r => .next (s.holdBack r)
        | none => .next s.issued.illegal.touch
      | .ok (i, _) => s.issue (s.select i)

/-- Core `c` at an instruction boundary: faults first, then messages of higher levels, the Tick rule, the debugger, and
then its next instruction (R56, R202, R381, R397, R369). -/
def State.coreMove (s : State) (c : Nat) : Host.Outcome State Fault Refusal :=
  let s := State.slept { s with cur := c }
  let k := s.me
  let v := s.lev
  match v.faults with
  | f :: r => .next ((s.upLev (fun v => { v with faults := r })).takeTrap c f.code f.pc f.tval f.text f.tk).touch
  | [] =>
    if !k.pend.isEmpty && !v.active then onNext (exec (.asyncFaultTake c) s) State.touch
    else if (List.range 4).any (fun l => decide (k.lvl.val < l) && !(k.hq[l]?.getD []).isEmpty) then
      onNext (exec (.handlerStart c) s) State.touch
    else if s.interrupted c then onNext (exec (.tickMiss c) s) State.touch
    else if s.stopDue c then .next (s.upCore c (fun k => { k with dbg := .stopped })).touch
    else if s.breakDue c then onNext (exec (.breakpoint c) s) State.touch
    else s.fetchIssue

/-- Is an event one that gives nobody a reason to look again (log 1)? -/
def silent : Instr → Bool
  | .quietNotice _ => true
  | .completionWave _ => true
  | .waveReport _ => true
  | .packageTimerTick => true
  | .fcastUpdate => true
  | .nocGridSample => true
  | .healthUpdate => true
  | .balanceHeaterUpdate _ => true
  | .scrub _ => true
  | .pcapWindowEnd _ => true
  | _ => false

/-- After an event: sleepers look again, and its cluster was not quiet (R62, R63). -/
def State.afterEvent (e : Instr) (s : State) : State :=
  if silent e then s
  else match eventCluster e with
    | some cl => if eventBusy e then (s.touchCl cl).touch else s.touch
    | none => s.touch

/-- An event comes about. -/
def State.eventMove (s : State) (e : Instr) : Host.Outcome State Fault Refusal := onNext (exec e s) (State.afterEvent e)

/-- Makes a move. -/
def State.move (s : State) (m : Move) : Host.Outcome State Fault Refusal :=
  match m with
  | .core c => s.coreMove c
  | .own e => s.eventMove e
  | .event i =>
    match s.agenda[i]? with
    | some f => { s with agenda := s.agenda.eraseIdx i }.eventMove f.ev
    | none => .next s

/-- One step. Bring-up comes first (R362): the outside world may act, and until the module is ready nothing else moves;
with bring-up failed and nothing on its way that can come about the run is over. -/
def step (s : State) : Host.Outcome State Fault Refusal :=
  if s.hub.step < 7 then
    match s.heads with
    | i :: _ => s.begin.move (.event i)
    | [] => if s.hub.fail then .fault .bringUpStopped else s.begin.eventMove (.coldReset ⟨[⟨true, 1, 0⟩], false, none⟩)
  else s.begin.move s.pick

end

/-- The job that `withFetchWord` places (log 4): colour 1 on cluster 0. -/
def probeJob : Job :=
  { launch := ⟨0, 0, false, 0, 0, 0, [], []⟩, prio := 0, colour := 1, cx := 0, cy := 0, w := 1, h := 1, cores := 1,
    key := 0, groups := [], order := 0, out := false, preempting := false, heir := none, ending := none, contain := false, rootNode := none, hung := false,
    hangAt := (0, 0, 0), wave := false, again := false, scrAt := [],
    saved := [], savedMem := [], savedCores := [], savedClusters := [], savedMus := [], savedMsgs := [],
    savedFlights := [], missed := false, acts := 0 }

/-- `s` with an instruction placed where the next step fetches (log 4, log 5): the module is up, core 0 runs at level 0
and user privilege with 256 bytes of code, its program counter is 0, and it moves next. The table's 32-bit words
hold the lead word in the high half. -/
def State.withFetchWord (s : State) (nbits w : Nat) : State :=
  let ws := if nbits = 32 then [w / 65536 % 65536, w % 65536] else (List.range (nbits / 16)).map (fun i => w / 65536 ^ i % 65536)
  let bytes := (ws ++ List.replicate (5 - ws.length) 0).flatMap (fun x => [BitVec.ofNat 8 x, BitVec.ofNat 8 (x / 256)])
  let k := s.core 0
  let s := s.setCore 0 { (k.upLv 0 (fun v => { v with pc := 0, wait := none, out := [], locks := [], faults := [] })) with
    status := .running, lvl := 0, under := [], xb := 1, root := 1, dbg := .run, brk := [], pend := [],
    hq := Vector.replicate 4 [], tickLimit := 0, inact := false, intask := false }
  { s with
    mem := s.mem.writeBytes (padKey 0 0) bytes
    hub := { s.hub with step := 7, fail := false, rect := [] }
    jobs := s.jobs.filter (fun j => j.colour != 1 && !j.holds 0) ++ [probeJob]
    clusters := s.clusters.set 0 { s.cluster 0 with job := some 1 }
    cur := 0, turn := 0 :: s.turn, heldWrites := [], poison := [], damage := [] }

end Sys2Proof.Machine
end

