-- ==== Sys2Proof/Safety.lean ====
section
/-! DEFINITION. What counts as a safe run of the package, in the terms that statements use. -/

namespace Sys2Proof

/-- A step from `s` answers a next state. -/
def Steps (s : Machine.State) : Prop := ∃ t, Machine.step s = .next t

/-- The step relation: `t` follows `s`. -/
def Follows (s t : Machine.State) : Prop := Machine.step s = .next t

/-- States that a run of `core` from `s` can reach. -/
inductive Reaches (s : Machine.State) : Machine.State → Prop where
  | here : Reaches s s
  | next {t u : Machine.State} : Reaches s t → Follows t u → Reaches s u

/-- A run is safe up to `n` steps when it has not stopped. The only stop of this machine is a bring-up that failed with
nothing on its way (R362). -/
def SafeFor (n : Nat) (s : Machine.State) : Prop := ∃ t, Host.Core.run core n s = .next t

/-- A property that every step keeps. -/
def Kept (p : Machine.State → Prop) : Prop := ∀ s t, p s → Follows s t → p t

/-! ### Frames

What an instruction leaves as it is, and how it ends. -/

namespace Machine

/-- A level without its registers and without where it stands. -/
def Level.blank (v : Level) : Level :=
  { v with x := Vector.replicate 32 0, v := Vector.replicate 16 (Vector.replicate 8 0), pc := 0, prev := 0, wait := none }

/-- A core whose running level shows what `f` leaves of it, without the registers that the levels share. -/
def Core.hide (k : Core) (f : Level → Level) : Core :=
  { k.upLv k.lvl f with
    xs := Vector.replicate 32 0, vs := Vector.replicate 16 (Vector.replicate 8 0), k := Vector.replicate 8 0 }

/-- A core without its registers and without where the running level stands. -/
def Core.rest (k : Core) : Core := k.hide Level.blank
/-- As `rest`, without the flags of the running level (R138). -/
def Core.restNoFlags (k : Core) : Core := k.hide (fun v => { v.blank with flags := 0 })
/-- As `rest`, without the replay signature, which notes jumps (R307). -/
def Core.restNoSig (k : Core) : Core := { k.rest with sig := 0 }
/-- As `rest`, without the outstanding results of the running level and the event counters, which count walks (R373). -/
def Core.restLate (k : Core) : Core :=
  { k.hide (fun v => { v.blank with out := [] }) with evc := Vector.replicate 4 ⟨0, 0, 0⟩ }
/-- As `restLate`, without the count of stores that are not acknowledged (R114). -/
def Core.restStore (k : Core) : Core := { k.restLate with stores := 0 }

/-- Every general, vector and mask register of the executing core reads as before, but for those named. -/
structure Registers (xs : List XReg) (vs : List VReg) (ks : List KReg) (s t : State) : Prop where
  general : ∀ r, r ∉ xs → t.getX r = s.getX r
  vector : ∀ r, r ∉ vs → t.getV r = s.getV r
  mask : ∀ r, r ∉ ks → t.getK r = s.getK r

/-- Every byte of the package's memory reads as before. -/
def SameBytes (s t : State) : Prop := ∀ a, t.mem.read a = s.mem.read a

/-- Every core but the executing one is as before. -/
def SameCores (s t : State) : Prop := ∀ c, c ≠ s.cur → t.core c = s.core c

/-- Outside the executing core nothing has changed: no memory, no other core, no other unit. -/
structure Outside (s t : State) : Prop where
  units : t = { s with cores := t.cores }
  cores : SameCores s t
  bytes : SameBytes s t

/-- Nothing has changed but the registers named, where the running level stands, and what `keep` does not see of the
executing core: no memory, nothing of another level, core or unit. -/
structure FrameBy (keep : Core → Core) (xs : List XReg) (vs : List VReg) (ks : List KReg) (s t : State) : Prop where
  outside : Outside s t
  registers : Registers xs vs ks s t
  rest : keep t.me = keep s.me

/-- Nothing has changed but the registers named and where the running level stands: no flag, no special register, no
accumulator, no register of a trap, no memory, nothing of another level, core or unit. -/
abbrev Frame (xs : List XReg) (vs : List VReg) (ks : List KReg) (s t : State) : Prop := FrameBy Core.rest xs vs ks s t

/-- The running level has gone on behind the instruction. -/
def Past (h : Head) (s t : State) : Prop := t.pc = s.pc + BitVec.ofNat 64 h.len

/-- The instruction answers a next state of which P holds. -/
def Runs (i : Instr) (s : State) (P : State → Prop) : Prop := ∃ t, exec i s = .next t ∧ P t

/-- The instruction traps at issue (R202): what taking the trap does is `State.takeTrap`. -/
def Traps (i : Instr) (s : State) (code : Nat) (tval : Word := 0) : Prop := exec i s = .next (s.trap code tval)

/-- An instruction writes `f s` to x[d] at once, goes on behind itself, and changes nothing else. -/
def Computes (i : Instr) (h : Head) (d : XReg) (f : State → Word) : Prop :=
  ∀ s, Runs i s fun t => t.getX d = (if d = 0 then 0 else f s) ∧ Past h s t ∧ Frame [d] [] [] s t

/-- A binary operation (R203): with a TRX x[D] becomes f of x[A] and x[T], without one f of x[D] and x[A]. -/
def Binary (i : Head → XReg → XReg → Option XReg → Instr) (f : Word → Word → Word) : Prop :=
  ∀ h d a, (∀ t, Computes (i h d a (some t)) h d (fun s => f (s.getX a) (s.getX t))) ∧
    Computes (i h d a none) h d (fun s => f (s.getX d) (s.getX a))

/-- A unary operation (R206): x[D] becomes g of x[A]. -/
def Unary (i : Head → XReg → XReg → Instr) (g : Word → Word) : Prop :=
  ∀ h d a, Computes (i h d a) h d (fun s => g (s.getX a))

/-- The instruction is done, and its result, if it has one, is outstanding (R183, R184): what comes about at the end of
its channel is that it lands, and nothing else is on its way but walks. No register has changed, no memory, and nothing
of another core or unit. -/
structure Late (h : Head) (res : Option (Nat × Landing)) (s t : State) : Prop where
  past : Past h s t
  owed : ∃ id pre, (∀ f ∈ pre, ∃ w, f.ev = .tlbWalk w) ∧
    t.agenda = s.agenda ++ pre ++ (match res with
      | some (slot, l) => [⟨landChan s.cur s.me.lvl.val slot, .resultLand s.cur s.me.lvl.val id s.pc l⟩]
      | none => []) ∧
    t.lev.out = s.lev.out ++ (match res with | some (slot, _) => [⟨id, slot, false⟩] | none => [])
  registers : Registers [] [] [] s t
  units : t = { s with cores := t.cores, agenda := t.agenda, ids := t.ids }
  cores : SameCores s t
  bytes : SameBytes s t
  rest : t.me.restLate = s.me.restLate

/-- A result for x[d] is on its way; one for x0 is discarded (R183). -/
def LateX (h : Head) (d : XReg) (w : Word) (s t : State) : Prop :=
  Late h (if d = 0 then none else some (d.toNat, .regs [(d, w)])) s t

/-- May the running level owe one more result for x[d]: x0 owes none (R183, R184)? -/
def RoomX (s : State) (d : XReg) : Prop := d = 0 ∨ s.roomFor = true

/-- A store of `bs` at a key is done and will be acknowledged (R68, R114). While a ring slot is held that covers its
bytes, it waits (R118). Every byte outside those stored reads as before, but for the save area of a replay pass (R307). -/
structure Stored (h : Head) (key : Nat) (bs : List Byte) (s t : State) : Prop where
  past : Past h s t
  done : s.heldSlot key bs.length = false → t.heldWrites = s.heldWrites ∧ ∀ i (hi : i < bs.length), t.mem.read (key + i) = bs[i]
  waits : s.heldSlot key bs.length = true → t.heldWrites = s.heldWrites ++ [⟨s.cur, true, key, bs, none⟩] ∧
    ∀ a, t.mem.read a = (s.capture s.me.colour key).mem.read a
  others : ∀ a, a < key ∨ key + bs.length ≤ a → t.mem.read a = (s.capture s.me.colour key).mem.read a
  replay : s.replaying s.me.colour = false → t.hub = s.hub ∧ ∀ a, a < key ∨ key + bs.length ≤ a → t.mem.read a = s.mem.read a
  count : t.me.stores = s.me.stores + 1
  registers : Registers [] [] [] s t
  units : t = { s with
    cores := t.cores, agenda := t.agenda, ids := t.ids, mem := t.mem, under := t.under, dirtyBy := t.dirtyBy, poison := t.poison
    damage := t.damage, heldWrites := t.heldWrites, hub := t.hub }
  cores : SameCores s t
  rest : t.me.restStore = s.me.restStore

/-- A transfer of control to a target (R221): an odd one raises ALIGN with nothing else done; one inside the code leaves
the program counter there; one at or above XB enters the overlay handler after the transfer's other effects (R82).
`also` is a register that the instruction writes and its value. -/
def Transfers (i : Instr) (also : Option (XReg × Word)) (target : Word) (s : State) : Prop :=
  (target.getLsbD 0 = true → Traps i s Code.align target) ∧
  (target.getLsbD 0 = false →
    let Done (u : State) : Prop := u.pc = target ∧
      match also with
      | some (r, w) => u.getX r = (if r = 0 then 0 else w) ∧ FrameBy Core.restNoSig [r] [] [] s u
      | none => FrameBy Core.restNoSig [] [] [] s u
    (target.toNat < s.me.codeEnd → Runs i s Done) ∧
    (s.me.codeEnd ≤ target.toNat → ∃ u, exec i s = .next (u.overlay s.cur target s.pc) ∧ Done u))

/-- A transfer that a condition decides: without it the instruction goes on behind itself. -/
def Branches (i : Instr) (h : Head) (cond : Prop) (target : Word) (s : State) : Prop :=
  (cond → Transfers i none target s) ∧ (¬cond → Runs i s fun t => Past h s t ∧ Frame [] [] [] s t)

/-- Running level `l` of core `c` has taken a trap that the supervisor handles (R378, R380): its trap registers hold it,
it runs privileged at SUP.VEC, and no register, no other level, no other core has changed. -/
structure TrapTaken (c code : Nat) (tpc tval text : Word) (s t : State) : Prop where
  level : (t.core c).lvl = (s.core c).lvl
  running : ∃ prior tcause kept, (t.core c).lv = (s.core c).lv.set (s.core c).lvl { prior with
      tpc := tpc, tval := tval, text := text, tcause := tcause, sup := true, pc := (s.core c).svec.setWidth 64, wait := none
      kept := kept } ∧
    prior = (s.core c).lv[(s.core c).lvl] ∧ tcause.extractLsb' 0 8 = BitVec.ofNat 8 code ∧
    tcause.extractLsb' 18 2 = BitVec.ofNat 2 (classOf code) ∧ tcause.getLsbD 20 = false ∧
    tcause.getLsbD 21 = prior.sup ∧ tcause.getLsbD 22 = true ∧
    tcause.getLsbD 23 = (prior.wait.any (fun w => w.reason != .awake) && classOf code == 1)
  rest : t.core c = { s.core c with lv := (t.core c).lv }
  cores : ∀ c', c' ≠ c → t.core c' = s.core c'
  units : s.hub.trace.getLsbD 63 = false → t = { s with cores := t.cores, jobs := t.jobs }
  jobs : ((s.core c).lv[(s.core c).lvl].wait.any (fun w => w.reason != .awake) && classOf code == 0) = false → t.jobs = s.jobs

/-- An instruction that has ended with these flags of its lanes (R138): they join FP.FLAGS of the running level, and a
report is made where one of them has its trap enabled. Registers but for those named, memory and the rest are as before. -/
structure Flagged (h : Head) (fl : FpFlags) (xs : List XReg) (vs : List VReg) (ks : List KReg) (s t : State) : Prop where
  past : Past h s t
  flags : t.lev.flags = s.lev.flags ||| fl
  registers : Registers xs vs ks s t
  cores : SameCores s t
  bytes : SameBytes s t
  rest : t.me.restNoFlags = s.me.restNoFlags
  quiet : fl &&& s.lev.ten = 0 → t = { s with cores := t.cores }
  report : fl &&& s.lev.ten ≠ 0 → (∃ r, (t.cluster s.cl).fp = (s.cluster s.cl).fp ++ [r] ∧ r.c = s.cur ∧ r.pc = s.pc ∧
    r.flags = fl &&& s.lev.ten) ∧ t = { s with cores := t.cores, clusters := t.clusters, agenda := t.agenda, ids := t.ids }

/-- A binary operation whose result is of variable latency (R205): it is on its way, or the instruction waits for room
(R184). -/
def BinaryLate (i : Head → XReg → XReg → Option XReg → Instr) (f : Word → Word → Word) : Prop :=
  ∀ h d a t s,
    let x := match t with | some _ => s.getX a | none => s.getX d
    let y := match t with | some t => s.getX t | none => s.getX a
    (RoomX s d → Runs (i h d a t) s (LateX h d (f x y) s)) ∧ (¬ RoomX s d → exec (i h d a t) s = .next (s.block .awake))

/-- A load of `n` bytes (R213) whose access performs at a key: with window 0x00 the register is written at once, else the
result is on its way. -/
def Loads (i : Head → XReg → XReg → Word → Order → Instr) (n : Nat) (f : Nat → Word) : Prop :=
  ∀ h d a disp o s key cached walk, s.orderHold o false = false →
    let w := f (leVal (s.bytesAt s.cur key n))
    (s.plan (s.getX a + disp) n false = .go key true cached walk →
      Runs (i h d a disp o) s fun t => t.getX d = (if d = 0 then 0 else w) ∧ Past h s t ∧ Frame [d] [] [] s t) ∧
    (s.plan (s.getX a + disp) n false = .go key false cached walk → RoomX s d → Runs (i h d a disp o) s (LateX h d w s))

/-- A store of the low `n` bytes of x[D], lowest first (R213), whose access performs at a key. -/
def StoresLow (i : Head → XReg → XReg → Word → Order → Instr) (n : Nat) : Prop :=
  ∀ h d a disp o s key own cached walk, s.orderHold o true = false → s.twinStore (s.getX a + disp) = false →
    s.mem.wf = true → s.plan (s.getX a + disp) n true = .go key own cached walk →
    Runs (i h d a disp o) s (Stored h key ((List.range n).map (fun j => (s.getX d >>> (8 * j)).setWidth 8)) s)

/-- An atomic whose access performs at a key is sent there with its operand and comparison value (R225), behind the core's
earlier requests to that scratchpad or slice (R333): x[d] awaits the old value, and no register or byte changes yet. -/
def SendsAtomic (i : Instr) (h : Head) (d : XReg) (va : Word) (o : Order) (op : AtomOp) (n : Nat) (v cmp : Word) (s : State) :
    Prop :=
  ∀ key own cached walk, s.orderHold o true = false → s.twinStore va = false →
    s.plan va n true ⟨false, false, false⟩ = .go key own cached walk → s.badStripe key n = none → RoomX s d →
    Runs i s fun t => Past h s t ∧ Registers [] [] [] s t ∧ SameBytes s t ∧ SameCores s t ∧
      ∃ id chan pre, (∀ f ∈ pre, ∃ w, f.ev = .tlbWalk w) ∧
        (∀ c, padOwner key = some c → chan = padChan s.cur c) ∧
        (padOwner key = none → isGlobal key = false → chan = sliceChan s.cur (sliceOfKey key)) ∧
        t.agenda = s.agenda ++ pre ++ [⟨chan, .atomicPerform s.cur s.me.lvl.val id s.pc d ⟨op, n, key, va, cached, v, cmp⟩⟩] ∧
        t.lev.out = s.lev.out ++ (if d = 0 then [] else [⟨id, d.toNat, false⟩])

/-- A ticket fetch has been sent (R84 to R86): the first grant is used, x[d] takes the ticket, and the request is on its way
to the core's ticket slice. Nothing else has changed but the walks that its translations start. -/
structure TicketSent (h : Head) (d : XReg) (words kind lease : Nat) (srcs : List FetchSrc) (s t : State) : Prop where
  past : Past h s t
  sent : ∃ e rest pre, s.me.grants = e :: rest ∧ t.me.grants = rest ∧ (∀ f ∈ pre, ∃ w, f.ev = .tlbWalk w) ∧
    let gen := ((s.slice (sliceOf s.cur)).tk.get TkEntry.initial e).gen
    t.getX d = (if d = 0 then 0
      else makeTicket (sliceOf s.cur) e gen s.me.colour (words - 1) kind (s.keyOf s.me.colour)) ∧
    t.agenda = s.agenda ++ pre ++ [⟨sliceChan s.cur (sliceOf s.cur),
      .tldRequestArrive (sliceOf s.cur) ⟨s.cur, e, gen, s.me.colour, words - 1, kind, lease, srcs⟩⟩]
  registers : Registers [d] [] [] s t
  units : t = { s with cores := t.cores, agenda := t.agenda, ids := t.ids }
  cores : SameCores s t
  rest : ({ t.me.restLate with grants := [] } : Core) = { s.me.restLate with grants := [] }

/-- A ticket fetch of `nb` bytes aligned to `al` (R215): the lease is its operand's, else TKT.LEASE, where 0 means
65,535 (R93). -/
def FetchesTicket (i : Head → XReg → XReg → Word → XReg → Order → Instr) (nb : Word → Nat) (al : Nat) : Prop :=
  ∀ h d a disp t o s, s.inTwin = false →
    let va := s.getX a + disp
    let n := nb (s.getX t)
    let own := (s.getX t).toNat % 2 ^ 16
    let lease := if own ≠ 0 then own else if s.me.lease = 0 then 65535 else s.me.lease.toNat
    (∀ f walk, s.source va = .src f walk →
      (va.toNat % al ≠ 0 → Traps (i h d a disp t o) s Code.align va) ∧
      (va.toNat % al = 0 → 256 < va.toNat % 256 + n → Traps (i h d a disp t o) s Code.tktSpan va) ∧
      (va.toNat % al = 0 → va.toNat % 256 + n ≤ 256 → s.me.grants ≠ [] → s.atomicAhead s.cur = false → Runs (i h d a disp t o) s
        (TicketSent h d (n / 8) (if o.ord = 2 then 1 else 0) lease
          ((List.range (n / 8)).map (fun j => match f with
            | .at key va => .at (key + 8 * j) (va + BitVec.ofNat 64 (8 * j))
            | f => f)) s))) ∧
    (∀ code, s.source va = .bad code → Traps (i h d a disp t o) s code va)

/-- A redeem, drop or query is on its way to its ticket slice, and the slot its result comes to is outstanding (R217). -/
structure Asked (h : Head) (ev : Redeem → Instr) (form reg soff : Nat) (ticket : Word) (slot : Option Nat) (s t : State) : Prop where
  past : Past h s t
  sent : t.agenda = s.agenda ++ [⟨sliceChan s.cur (tkSlice ticket),
    ev ⟨s.cur, s.me.lvl.val, s.ids, s.pc, form, reg, soff, ticket, s.me.colour, 0, 0, 0⟩⟩]
  owed : t.lev.out = s.lev.out ++ (match slot with | some n => [⟨s.ids, n, decide (form < 4)⟩] | none => [])
  registers : Registers [] [] [] s t
  units : t = { s with cores := t.cores, agenda := t.agenda, ids := s.ids + 1 }
  cores : SameCores s t
  rest : t.me.restLate = s.me.restLate

/-- Entry `e` of ticket slice `sl` becomes `t`, but for the order of use; no other entry changes. -/
def EntryBecomes (sl e : Nat) (t : TkEntry) (s u : State) : Prop :=
  (∃ n, u.tk sl e = { t with used := n }) ∧ (∀ sl' e', ¬(sl' = sl ∧ e' = e) → u.tk sl' e' = s.tk sl' e') ∧ u.mem = s.mem

/-- A requester of a slice is answered with words or a code, behind the slice's earlier answers to it (R89, R90, R333). -/
def Answered (r : Redeem) (ws : List Word) (code : Nat) (text : Word) (s u : State) : Prop :=
  u.agenda = s.agenda ++ [⟨answerChan (tkSlice r.ticket) r.c, .redeemDelivery r ws code text⟩]

/-- The magnitude that a code without its sign stands for, with an exponent that is not bounded above (R126). -/
def FpFmt.mag (f : FpFmt) (c : Nat) : ℚ :=
  if c < 2 ^ f.mbits then c * 2 ^ (1 - (f.bias : ℤ) - f.mbits)
  else ((2 ^ f.mbits + c % 2 ^ f.mbits : ℕ) : ℚ) * 2 ^ (((c / 2 ^ f.mbits : ℕ) : ℤ) - f.bias - f.mbits)

/-- The value of a finite FP32 code (R126). -/
def val32 (w : W32) : ℚ := (if w.msb then -1 else 1) * fp32.mag (w.toNat % 2 ^ 31)

/-- The exponent field does not say infinity or NaN (R126). -/
def Finite32 (w : W32) : Prop := w.toNat % 2 ^ 31 < 0x7F800000

/-- An FP32 magnitude code with a sign. -/
def signed32 (neg : Bool) (c : W32) : W32 := if neg then c ||| 0x80000000 else c

/-- The integer `n` is the magnitude `y` of a value of a sign rounded in a direction (R137). -/
def RoundsInt (rm : Rm) (neg : Prop) (y : ℝ) (n : ℕ) : Prop :=
  let down := (n : ℝ) ≤ y ∧ y < n + 1
  let up := y ≤ n ∧ (n : ℝ) < y + 1
  match rm with
  | .rne => |y - n| ≤ 1 / 2 ∧ (|y - n| = 1 / 2 → n % 2 = 0)
  | .rz => down
  | .ru => (neg → down) ∧ (¬neg → up)
  | .rd => (neg → up) ∧ (¬neg → down)

/-- The signed integer of a rounded magnitude. -/
def RoundedTo (rm : Rm) (x : ℝ) (k : ℤ) : Prop := ∃ n : ℕ, RoundsInt rm (x < 0) |x| n ∧ (x < 0 → k = -n) ∧ (¬x < 0 → k = n)

/-- 2^t is the greatest power of two that is not above |x|. -/
def Binade (x : ℝ) (t : ℤ) : Prop := (2 : ℝ) ^ t ≤ |x| ∧ |x| < 2 ^ (t + 1)

/-- Magnitude code `c` is x rounded in a direction to the spacing of a format at |x|, subnormal spacing included, before any
bound on the exponent (R126, R136, R137). -/
def RoundsMag (f : FpFmt) (rm : Rm) (x : ℝ) (c : Nat) : Prop :=
  ∃ (t : ℤ) (n : ℕ), Binade x t ∧
    let q : ℤ := max t (1 - f.bias) - f.mbits
    RoundsInt rm (x < 0) (|x| / 2 ^ q) n ∧ (f.mag c : ℝ) = n * 2 ^ q

/-- An overflow of a value of a sign goes to infinity, and not to the largest finite value (R136, R140). -/
def OverflowsToInf (rm : Rm) (x : ℝ) : Prop := rm = .rne ∨ (rm = .ru ∧ 0 < x) ∨ (rm = .rd ∧ x < 0)

/-- An FP32 result and its flags for an exact value that is not 0 (R140): the value rounded once, or its overflow with OF and
NX; NX where it differs; UF where it differs and is tiny, that is, its rounding to 24 bits with an unbounded exponent lies
below the smallest normal (log 57). -/
def Rounded32 (rm : Rm) (x : ℝ) (r : W32 × FpFlags) : Prop :=
  ∃ c, RoundsMag fp32 rm x c ∧ (r.1.msb = true ↔ x < 0) ∧
    (0x7F7FFFFF < c → r.2 = 5 ∧ (OverflowsToInf rm x → r.1.toNat % 2 ^ 31 = 0x7F800000) ∧
      (¬OverflowsToInf rm x → r.1.toNat % 2 ^ 31 = 0x7F7FFFFF)) ∧
    (c ≤ 0x7F7FFFFF → r.1.toNat % 2 ^ 31 = c ∧ r.2 &&& 0x3C = 0 ∧ (r.2.getLsbD 0 = true ↔ (fp32.mag c : ℝ) ≠ |x|) ∧
      (r.2.getLsbD 1 = true ↔ (fp32.mag c : ℝ) ≠ |x| ∧
        ∃ (t : ℤ) (n : ℕ), Binade x t ∧ RoundsInt rm (x < 0) (|x| / 2 ^ (t - 23)) n ∧ (n : ℝ) * 2 ^ (t - 23) < 2 ^ (-126 : ℤ)))

/-- A finite value that rounds to magnitude code `c` of a narrower format, as R136 delivers it: clamped with SAT, OF and NX,
in NaN mode overflowed where the format has an infinity, else with NX where it is inexact and UF where that is below the
smallest normal. `toInf` says that an overflow goes to infinity, `inexact` whether the value differs from its rounding. -/
def Delivered (f : FpFmt) (nanp : Bool) (neg toInf inexact : Prop) (c : Nat) (r : W32 × FpFlags) : Prop :=
  let code (m : Nat) : Prop := (neg → r.1.toNat = 2 ^ (f.ebits + f.mbits) + m) ∧ (¬neg → r.1.toNat = m)
  (f.max < c → (nanp = false ∨ f.inf = none → code f.max ∧ r.2 = 37) ∧
    (∀ i, nanp = true → f.inf = some i → (toInf → code i) ∧ (¬toInf → code f.max) ∧ r.2 = 5)) ∧
  (c ≤ f.max → code c ∧ r.2 &&& 0x3C = 0 ∧ (r.2.getLsbD 0 = true ↔ inexact) ∧
    (r.2.getLsbD 1 = true ↔ inexact ∧ c < 2 ^ f.mbits))

/-- A lane operation without flags (R240, R241): an active lane of v[d] becomes f of it and of the lane of v[a], an inactive
one keeps its value; nothing else changes. -/
def Lanewise (i : Head → VReg → VReg → KReg → Instr) (f : W32 → W32 → W32) : Prop :=
  ∀ h d a m s, Runs (i h d a m) s fun t => Past h s t ∧ Frame [] [d] [] s t ∧ ∀ j : Fin 8, (t.getV d)[j] =
    if (s.getK m).getLsbD j then f (s.getV d)[j] (s.getV a)[j] else (s.getV d)[j]

/-- The OR of the active lanes' flags (R138, R240). -/
def joined (m : BitVec 8) (fl : Fin 8 → FpFlags) : FpFlags :=
  (List.finRange 8).foldl (fun x (j : Fin 8) => if m.getLsbD j.val then x ||| fl j else x) 0

/-- As `Lanewise`, with the flags of the active lanes (R242). -/
def LanewiseFp (i : Instr) (h : Head) (d : VReg) (m : KReg) (f : Fin 8 → W32 × FpFlags) (s : State) : Prop :=
  Runs i s fun t => Flagged h (joined (s.getK m) (fun j => (f j).2)) [] [d] [] s t ∧ ∀ j : Fin 8, (t.getV d)[j] =
    if (s.getK m).getLsbD j then (f j).1 else (s.getV d)[j]

/-- As `LanewiseFp`, with a result of variable latency: it is on its way to v[d], and no register has changed yet. -/
def LanewiseLate (i : Instr) (h : Head) (d : VReg) (m : KReg) (f : Fin 8 → W32 × FpFlags) (s : State) : Prop :=
  s.roomFor = true → Runs i s fun t => Past h s t ∧ Registers [] [] [] s t ∧ SameCores s t ∧ SameBytes s t ∧
    t.lev.flags = s.lev.flags ||| joined (s.getK m) (fun j => (f j).2) ∧
    t.lev.out = s.lev.out ++ [⟨s.ids, 64 + d.toNat, false⟩] ∧
    ∃ rest, t.agenda = s.agenda ++ ⟨landChan s.cur s.me.lvl.val (64 + d.toNat), .resultLand s.cur s.me.lvl.val s.ids s.pc
      (.vec d ((List.finRange 8).map (fun (j : Fin 8) => if (s.getK m).getLsbD j.val then some (f j).1 else none)))⟩ :: rest ∧
      ∀ e ∈ rest, e.ev = .fpExcWindowClose s.cl

/-- A comparison (R243): bit j of k[d] is 1 when lane j is active and the condition holds; a write to k0 is discarded. -/
def Compares (i : Head → KReg → VReg → VReg → KReg → Instr) (f : W32 → W32 → Bool) (fl : W32 → W32 → FpFlags) : Prop :=
  ∀ h d a b m s, Runs (i h d a b m) s fun t =>
    Flagged h (joined (s.getK m) (fun j => fl (s.getV a)[j] (s.getV b)[j])) [] [] [d] s t ∧
    ∀ j : Fin 8, (t.getK d).getLsbD j = if d = 0 then true
      else (s.getK m).getLsbD j && f (s.getV a)[j] (s.getV b)[j]

/-- Where the active lanes' elements of a vector access lie: `key j` for lane j (R245, R246). -/
def ElementsAt (s : State) (m : BitVec 8) (ea : Fin 8 → Word) (wr : Bool) (key : Fin 8 → Nat) : Prop :=
  ∀ j : Fin 8, m.getLsbD j = true → ∃ own cached walk, s.plan (ea j) 4 wr = .go (key j) own cached walk

/-- The element of lane j in memory: the value it has in a store's lanes is that of the highest active lane that shares its
address (R246). -/
def StoredLanes (m : BitVec 8) (key : Fin 8 → Nat) (v : Lanes) (s t : State) : Prop :=
  (∀ j : Fin 8, m.getLsbD j = true → (∀ i : Fin 8, j < i → m.getLsbD i = true → key i + 4 ≤ key j ∨ key j + 4 ≤ key i) →
    ∀ b, b < 4 → t.mem.read (key j + b) = (v[j] >>> (8 * b)).setWidth 8) ∧
  ∀ a, (∀ j : Fin 8, m.getLsbD j = true → a < key j ∨ key j + 4 ≤ a) → t.mem.read a = s.mem.read a

/-- A TMMA of a form (R261, R262): it joins the open batch and claims a slot of each ring, of B's only without `.k`; a ring
without slots, one without a ready slot, and a full batch trap. -/
def TileIssues (i : Head → AccReg → RingReg → RingReg → Bool → Bool → Option XReg → Instr) (form : Nat) (x : Bool) : Prop :=
  ∀ h acc ra rb z k t s,
    let a := s.me.ringAt ra.toNat
    let claim (r : Ring) : Ring := { r with head := (r.head + 1) % r.slots, ready := r.ready - 1 }
    let b := if ra = rb then claim a else s.me.ringAt rb.toNat
    let step : TileStep := ⟨form, x, acc.toNat, z, ra.toNat, a.head, rb.toNat, b.head, !k,
      match t with | some r => (s.getX r).setWidth 32 | none => 0x7F7F⟩
    let ready := if ra = rb then 2 ≤ a.ready else 1 ≤ a.ready ∧ 1 ≤ b.ready
    (a.slots ≠ 0 → b.slots ≠ 0 → ready → s.me.openB.length < 16 → Runs (i h acc ra rb z k t) s fun u => Past h s u ∧
      u.me.openB = s.me.openB ++ [step] ∧ u.me.ringAt rb.toNat = (if k then b else claim b) ∧
      (ra ≠ rb → u.me.ringAt ra.toNat = claim a) ∧
      (∀ q : RingReg, q ≠ ra → q ≠ rb → u.me.ringAt q.toNat = s.me.ringAt q.toNat) ∧ Outside s u ∧ Registers [] [] [] s u ∧
      ({ u.me.rest with openB := [], ring := Vector.replicate 8 ⟨0, 0, 0, 0, 0, 0⟩ } : Core) =
        { s.me.rest with openB := [], ring := Vector.replicate 8 ⟨0, 0, 0, 0, 0, 0⟩ }) ∧
    (a.slots = 0 ∨ b.slots = 0 → Traps (i h acc ra rb z k t) s Code.ringBad) ∧
    (a.slots ≠ 0 → b.slots ≠ 0 → ¬ready → Traps (i h acc ra rb z k t) s Code.ringEmpty) ∧
    (a.slots ≠ 0 → b.slots ≠ 0 → ready → 16 ≤ s.me.openB.length → Traps (i h acc ra rb z k t) s Code.teBatch)

/-- Pieces of a store, piece n at `key n` (R114, R264): each byte is written, no other byte changes, and one store more is
not acknowledged. -/
def StoredPieces (h : Head) (count len : Nat) (key : Nat → Nat) (byte : Nat → Nat → Byte) (s t : State) : Prop :=
  Past h s t ∧ Registers [] [] [] s t ∧ SameCores s t ∧ t.me.stores = s.me.stores + 1 ∧
  (∀ n b, n < count → b < len → t.mem.read (key n + b) = byte n b) ∧
  ∀ a, (∀ n, n < count → a < key n ∨ key n + len ≤ a) → t.mem.read a = s.mem.read a

/-- Pieces that lie apart from each other and in no held ring slot. -/
def Apart (s : State) (count len : Nat) (key : Nat → Nat) : Prop :=
  (∀ n m, n < count → m < count → n ≠ m → key n + len ≤ key m ∨ key m + len ≤ key n) ∧
  ∀ n, n < count → s.heldSlot (key n) len = false

/-- Nothing disturbs plain accesses to memory: the list is canonical, no word is damaged, no line poisoned, and no replay
pass of the colour runs. -/
def Undisturbed (s : State) (colour : Nat) : Prop :=
  s.mem.wf = true ∧ s.damage = [] ∧ s.poison = [] ∧ s.replaying colour = false

/-- The TLB of a cluster holds the translation of `va` for its job's units, which see it at a key (R39, R79). -/
def UnitSees (s : State) (j : Job) (cl : Nat) (va : Word) (key : Nat) : Prop :=
  placeOf 0 va = .trans ∧ key + 32 ≤ 2 ^ 47 ∧ ∀ wr, ∃ p, s.translate cl j.root true va wr = (.ok p, false) ∧ p.pa = key

/-- The executing core's job has a net heap (R281). -/
def NetJob (s : State) (j : Job) : Prop := s.job? s.me.colour = some j ∧ j.word 8 ≠ 0

/-- Every byte but those of `n` from a key reads as before. -/
def SameBut (key n : Nat) (s t : State) : Prop := ∀ a, a < key ∨ key + n ≤ a → t.mem.read a = s.mem.read a

/-- A Weir has counted a message and its wire's record is `r`; no other byte, and no core, has changed (R41, R63). -/
structure WireBecomes (cl key : Nat) (r : WireRec) (s t : State) : Prop where
  record : WireRec.ofNat (t.peek key 32) = r
  others : SameBut key 32 s t
  counted : (t.cluster cl).recv = ((s.cluster cl).recv + 1) % 2 ^ 32
  cores : t.cores = s.cores

/-- A wire has been reclaimed (R36, R41): its record is free and links to the slot freed before it, and its slot is the
head of the owner's Spring. -/
structure WireFreed (cl w key : Nat) (s t : State) : Prop where
  free : (WireRec.ofNat (t.peek key 32)).st = 0
  link : (WireRec.ofNat (t.peek key 32)).e0 = s.springHead .wire w
  others : SameBut key 32 s t
  counted : (t.cluster cl).recv = ((s.cluster cl).recv + 1) % 2 ^ 32
  spring : (t.core (ownerOf w)).wfree = w % 2 ^ 23 :: (s.core (ownerOf w)).wfree
  cores : ∀ c, c ≠ ownerOf w → t.core c = s.core c

/-- A record that fails the check of its message raises NET_CORRUPT (R41, R398). -/
def RecordBad (i : Instr) (j : Job) (cl w : Nat) (s : State) : Prop :=
  exec i s = .next (((s.countRecv cl).upCluster cl (fun k => { k with msgs := k.msgs + 1 })).corrupt j cl unitWeir (16 * cl)
    (j.wireVa w) w)

/-- A flight of a message from a Weir (R39). -/
def fromWeir (cl dst : Nat) (ev : Instr) : Flight := ⟨netChan (weirSrc cl) dst, ev⟩

/-- An instruction of the executing core has sent one protocol message and gone on (R39, R63, R286). -/
structure NetSent (h : Head) (dst : Nat) (ev : Instr) (s t : State) : Prop where
  past : Past h s t
  sent : t.agenda = s.agenda ++ [⟨netChan s.cur dst, ev⟩]
  counted : (t.cluster s.cl).sent = ((s.cluster s.cl).sent + 1) % 2 ^ 32
  registers : Registers [] [] [] s t
  cores : SameCores s t
  bytes : SameBytes s t
  rest : ({ t.me.rest with act := none } : Core) = { s.me.rest with act := none }

/-- The Spring of core `c` gives slot `x` next and has it in stock, and the first words of its record lie at keys that are
apart from each other and in no held ring slot (R36, R284). -/
def SlotReady (s : State) (j : Job) (t : Kind) (c x : Nat) (base : Word) (count : Nat) (key : Nat → Nat) : Prop :=
  (∃ k, (s.core c).nextSlot t j.heap = some (x, k)) ∧ (s.core c).stock t ≠ 0 ∧ Apart s count 8 key ∧
  ∀ n, n < count → ∃ own cached walk, s.plan (base + BitVec.ofNat 64 (8 * n)) 8 true = .go (key n) own cached walk

/-- The slot has been taken from the Spring: the head of the free list, or the shard's top (R36). -/
def SlotTaken (t : Kind) (c x : Nat) (s u : State) : Prop :=
  ((s.core c).freeList t = x :: (u.core c).freeList t ∧ (u.core c).top t = (s.core c).top t) ∨
  ((s.core c).freeList t = [] ∧ (u.core c).freeList t = [] ∧ x = (s.core c).top t ∧ (u.core c).top t = x + 1)

/-- Words have been written at keys, and no other byte has changed. -/
def WordsWritten (ws : List Word) (key : Nat → Nat) (s u : State) : Prop :=
  (∀ n w, ws[n]? = some w → u.peek64 (key n) = w) ∧
  ∀ a, (∀ n, n < ws.length → a < key n ∨ key n + 8 ≤ a) → u.mem.read a = s.mem.read a

/-- The pair `p` may run on the executing core under `entry` (R33, R282): level 0, no activation, its nodes at two keys
allocated and not busy, its rule in the cluster's cache, and nothing else in its way. -/
structure PairReady (s : State) (j : Job) (p : PondPair) (k0 k1 : Nat) (entry : Word) : Prop where
  job : NetJob s j
  live : j.preempting = false ∧ j.ending = none ∧ j.det = false
  level : s.me.lvl = 0 ∧ s.me.inact = false ∧ s.me.kept = none ∧ s.me.offer = []
  room : s.roomFor 4 = true
  next : s.pondFor j s.cur = some p ∧ (s.cluster s.cl).stalled = []
  nodes : p.n0 ≠ p.n1 ∧ Apart s 2 8 (fun n => if n = 0 then k0 else k1) ∧
    (∃ own cached walk, s.plan (j.nodeVa p.n0) 8 true = .go k0 own cached walk) ∧
    ∃ own cached walk, s.plan (j.nodeVa p.n1) 8 true = .go k1 own cached walk
  idle : ∀ k ∈ [k0, k1], (s.peek64 k).getLsbD 41 = true ∧ (s.peek64 k).getLsbD 40 = false ∧ s.peek64 k &&& nodeReserved = 0
  rule : let sa := nodeSym (s.peek64 k0)
    let sb := nodeSym (s.peek64 k1)
    Nat.max sa sb < 0xF07 ∧ entry.getLsbD 63 = true ∧
      ∃ r, (s.cluster s.cl).rules.find? (fun r => r.1 == Nat.min sa sb && r.2.1 == Nat.max sa sb) = some r ∧ r.2.2 = entry
  undisturbed : s.mem.wf = true ∧ s.replaying s.me.colour = false ∧ s.hub.trace.getLsbD 63 = false

/-- The newest record of a die's fault log has a code (R386, R387). -/
def Logged (die code : Nat) (t : State) : Prop :=
  ∃ r, (t.die die).log.getLast? = some r ∧ r.w0.extractLsb' 56 8 = BitVec.ofNat 8 code

/-- MU `mu` becomes `m` and serves what it then can; no other MU changes. -/
def MuBecomes (mu : Nat) (m : Mu) (s t : State) : Prop := t.mu mu = m.serve 256 ∧ ∀ i, i ≠ mu → t.mu i = s.mu i

/-- A command of the executing core for its MU (R169, R273 to R278): it joins the core's queue there, after the core's
earlier accesses; a full queue makes it wait, and a twin may not issue it. `own` is what the issue does to the core. -/
def MuIssues (i : Instr) (h : Head) (ops : List MuOp) (num : Nat) (bind : Option Binding) (own : Core → Core) (s : State) : Prop :=
  let mu := 2 * s.cl + s.me.selMu
  let m := s.mu mu
  let queued := m.q.countP (fun q => q.c == s.cur)
  (s.inTwin = true → Traps i s Code.ctxBad) ∧
  (s.inTwin = false → 8 ≤ queued ∨ s.releaseHold = true →
    Runs i s fun t => t.pc = s.pc ∧ t.lev.wait.isSome = true ∧ Frame [] [] [] s t) ∧
  (s.inTwin = false → queued < 8 → s.releaseHold = false → Runs i s fun t => Past h s t ∧
    MuBecomes mu { m with q := m.q ++ [⟨m.stamps, s.cur, s.me.lvl.val, s.pc, num, ops, bind, false⟩], stamps := m.stamps + 1 } s t ∧
    t.me.rest = (own s.me).rest ∧ Registers [] [] [] s t ∧ t = { s with cores := t.cores, mus := t.mus } ∧ SameCores s t)

/-- What issuing `n` passes does to the core: they take numbers, the last takes the binding (R277, R279). -/
def issued (n : Nat) (k : Core) : Core :=
  { k with
    bind := none
    unfinished := k.unfinished ++ (List.range n).map (k.muNext + ·)
    recent := some (k.muNext + n - 1, none)
    muNext := k.muNext + n }

/-- The head of an MU's service order is `op` of command `q` (R169, R274); `m` is the MU once it has been taken out. -/
def Served (s : State) (mu : Nat) (q : MuCmd) (op : MuOp) (m : Mu) : Prop :=
  ∃ k, (s.mu mu).pick = some (q, k) ∧ q.op.head? = some op ∧ m = k.drop q

/-- A pass descriptor that R165 accepts. -/
def passLegal (w : Word) : Prop :=
  w.extractLsb' 60 4 = 0 ∧ w.extractLsb' 11 25 = 0 ∧ w.extractLsb' 54 2 ≠ 3 ∧
  (w.extractLsb' 42 6).toNat + (w.extractLsb' 36 6).toNat < 60 ∧ (w.extractLsb' 0 10).toNat + (w.extractLsb' 36 6).toNat < 992

/-- PA of the completion record of a sequence of a queue (R314). -/
def State.recordPa (s : State) (q seq : Nat) : Nat := (s.queue q).cbase.toNat + 32 * (seq % (s.queue q).depth)

/-- The completion record of a sequence stands in its slot, with the status, the detail and the time, unless nothing is
populated there (R8, R314). -/
def Published (q seq status detail : Nat) (s t : State) : Prop :=
  populated (s.recordPa q seq) = true →
    t.peek (s.recordPa q seq) 8 = (seq * 2 ^ 32 + q * 2 ^ 16 + detail * 2 ^ 8 + status) % 2 ^ 64 ∧
    t.peek (s.recordPa q seq + 24) 8 = s.hub.time.toNat

/-- The words at the front decode to an instruction. -/
def DecodesTo (ws : List W16) (i : Instr) : Prop := decodeWords ws = .ok (i, i.head.len)

/-- Core `c` moves next and nothing stands between it and the instruction at its program counter: no fault to take, no
message to start, no tick missed, no stop and no break bit (R202, R56, R397, R369, R370). `u` is the state in which it
fetches, with the end of a sleep counted (R373). -/
structure Fetches (s : State) (c : Nat) (u : State) : Prop where
  up : 7 ≤ s.hub.step
  turn : s.pick = .core c
  state : u = State.slept { s.begin with cur := c }
  quiet : u.interrupted c = false
  stop : u.stopDue c = false
  bit : u.breakDue c = false

/-- `i` stands at the program counter of the running core of `u`, inside its code, with good words (R80, R180, R407). -/
structure Holds (u : State) (i : Instr) : Prop where
  inside : u.pc.toNat < u.me.codeEnd
  word : ∃ n, decodeWords (u.fetchWords u.cur) = .ok (i, n) ∧ u.fetchBad (ε := DecodeError) (.ok (i, n)) = none

end Machine

end Sys2Proof
end

