-- ==== Sys2Proof/Certificates/Slice0/Obligations.lean ====
section
/-! DEFINITION. The statements about the machine that the provers settle. -/

open Sys2Proof Sys2Proof.Machine

/-! ### Integer arithmetic -/

/-- R203, R204: what the wrapping, bitwise and shift operations write, and that they write nothing else. R203, R204: the
comparing and the saturating operations and the high halves of products, from the exact integers. -/
def Obligations.BinaryResults : Prop :=
  (
  Binary .add (fun x y => x + y) ∧ Binary .sub (fun x y => x - y) ∧ Binary .mul (fun x y => x * y) ∧
  Binary .and (fun x y => x &&& y) ∧ Binary .or (fun x y => x ||| y) ∧ Binary .xor (fun x y => x ^^^ y) ∧
  Binary .shl (fun x y => x <<< (y.toNat % 64)) ∧ Binary .shr (fun x y => x >>> (y.toNat % 64)) ∧
  Binary .sar (fun x y => x.sshiftRight (y.toNat % 64)) ∧
  Binary .rol (fun x y => x.rotateLeft (y.toNat % 64)) ∧ Binary .ror (fun x y => x.rotateRight (y.toNat % 64))) ∧
  (
  Binary .min (fun x y => BitVec.ofInt 64 (Min.min x.toInt y.toInt)) ∧
  Binary .max (fun x y => BitVec.ofInt 64 (Max.max x.toInt y.toInt)) ∧
  Binary .minu (fun x y => BitVec.ofNat 64 (Min.min x.toNat y.toNat)) ∧
  Binary .maxu (fun x y => BitVec.ofNat 64 (Max.max x.toNat y.toNat)) ∧
  Binary .seq (fun x y => if x = y then 1 else 0) ∧ Binary .sne (fun x y => if x ≠ y then 1 else 0) ∧
  Binary .slt (fun x y => if x.toInt < y.toInt then 1 else 0) ∧
  Binary .sltu (fun x y => if x.toNat < y.toNat then 1 else 0) ∧
  Binary .mulh (fun x y => BitVec.ofInt 64 (x.toInt * y.toInt / 2 ^ 64)) ∧
  Binary .mulhu (fun x y => BitVec.ofNat 64 (x.toNat * y.toNat / 2 ^ 64)) ∧
  Binary .adds (fun x y => BitVec.ofInt 64 (Max.max (-2 ^ 63) (Min.min (2 ^ 63 - 1) (x.toInt + y.toInt)))) ∧
  Binary .subs (fun x y => BitVec.ofInt 64 (Max.max (-2 ^ 63) (Min.min (2 ^ 63 - 1) (x.toInt - y.toInt)))) ∧
  Binary .addus (fun x y => BitVec.ofInt 64 (Max.max 0 (Min.min (2 ^ 64 - 1) ((x.toNat : Int) + y.toNat)))) ∧
  Binary .subus (fun x y => BitVec.ofInt 64 (Max.max 0 (Min.min (2 ^ 64 - 1) ((x.toNat : Int) - y.toNat)))))

/-- R206: the unary operations. CLZ and CTZ count to the first one from either end, and give 64 for 0. R207, R209, R210: the
immediate forms, LEA, the multiply-adds and the selects. -/
def Obligations.UnaryAndImmediateResults : Prop :=
  (
  Unary .mov (fun x => x) ∧ Unary .not (fun x => ~~~x) ∧ Unary .neg (fun x => 0 - x) ∧
  Unary .popc (fun x => BitVec.ofNat 64 ((List.range 64).countP (fun i => x.getLsbD i))) ∧
  Unary .sextB (fun x => (x.setWidth 8).signExtend 64) ∧ Unary .sextH (fun x => (x.setWidth 16).signExtend 64) ∧
  Unary .sextW (fun x => (x.setWidth 32).signExtend 64) ∧ Unary .zextW (fun x => (x.setWidth 32).setWidth 64) ∧
  (∃ g, Unary .bswap g ∧ ∀ x j, j < 64 → (g x).getLsbD j = x.getLsbD (8 * (7 - j / 8) + j % 8)) ∧
  (∃ g, Unary .clz g ∧ g 0 = 64 ∧ ∀ x, x ≠ 0 → (g x).toNat < 64 ∧ x.getLsbD (63 - (g x).toNat) = true ∧
    ∀ j, 63 - (g x).toNat < j → x.getLsbD j = false) ∧
  (∃ g, Unary .ctz g ∧ g 0 = 64 ∧ ∀ x, x ≠ 0 → (g x).toNat < 64 ∧ x.getLsbD (g x).toNat = true ∧
    ∀ j, j < (g x).toNat → x.getLsbD j = false)) ∧
  (
  (∀ h d imm, Computes (.addi h d imm) h d (fun s => s.getX d + imm)) ∧
  (∀ h d imm, Computes (.li h d imm) h d (fun _ => imm)) ∧
  (∀ h d imm, Computes (.andi h d imm) h d (fun s => s.getX d &&& imm)) ∧
  (∀ h d n, Computes (.shli h d n) h d (fun s => s.getX d <<< n.toNat)) ∧
  (∀ h d n, Computes (.shri h d n) h d (fun s => s.getX d >>> n.toNat)) ∧
  (∀ h d n, Computes (.sari h d n) h d (fun s => (s.getX d).sshiftRight n.toNat)) ∧
  (∀ h d a t (sh : BitVec 2) disp, Computes (.lea h d a (some t) sh disp) h d (fun s => s.getX a + s.getX t * 2 ^ sh.toNat + disp)) ∧
  (∀ h d a (sh : BitVec 2) disp, Computes (.lea h d a none sh disp) h d (fun s => s.getX a + s.getX d * 2 ^ sh.toNat + disp)) ∧
  (∀ h d a t, Computes (.madd h d a t) h d (fun s => s.getX d + s.getX a * s.getX t)) ∧
  (∀ h d a t, Computes (.msub h d a t) h d (fun s => s.getX d - s.getX a * s.getX t)) ∧
  (∀ h d a t, Computes (.cselz h d a t) h d (fun s => if s.getX t = 0 then s.getX a else s.getX d)) ∧
  (∀ h d a t, Computes (.cselnz h d a t) h d (fun s => if s.getX t ≠ 0 then s.getX a else s.getX d)))

/-- R208: the bit-field instructions write the field from `lo`, `w` bits wide, or trap ILLEGAL when it does not fit. R211:
HASH and CRC. -/
def Obligations.BitFieldHashAndCrcResults : Prop :=
  (
  ∀ (h : Head) (d a : XReg) (lo wm : BitVec 6),
    (lo.toNat + (wm.toNat + 1) ≤ 64 →
      Computes (.ext h d a lo wm) h d
        (fun s => ((s.getX a >>> lo.toNat).setWidth (wm.toNat + 1)).signExtend 64) ∧
      Computes (.extz h d a lo wm) h d (fun s => ((s.getX a >>> lo.toNat).setWidth (wm.toNat + 1)).setWidth 64) ∧
      (∃ g : Word → Word → Word, Computes (.dep h d a lo wm) h d (fun s => g (s.getX d) (s.getX a)) ∧
        ∀ x y j, j < 64 → (g x y).getLsbD j =
          if lo.toNat ≤ j ∧ j < lo.toNat + (wm.toNat + 1) then y.getLsbD (j - lo.toNat) else x.getLsbD j) ∧
      (∃ g : Word → Word, Computes (.depz h d a lo wm) h d (fun s => g (s.getX a)) ∧
        ∀ y j, j < 64 → (g y).getLsbD j =
          if lo.toNat ≤ j ∧ j < lo.toNat + (wm.toNat + 1) then y.getLsbD (j - lo.toNat) else false)) ∧
    (64 < lo.toNat + (wm.toNat + 1) → ∀ s,
      exec (.ext h d a lo wm) s = .next s.illegal ∧ exec (.extz h d a lo wm) s = .next s.illegal ∧
      exec (.dep h d a lo wm) s = .next s.illegal ∧ exec (.depz h d a lo wm) s = .next s.illegal)) ∧
  (
  Binary .hash (fun x y =>
    let p := (x ^^^ y) * 0x9E3779B97F4A7C15
    let q := (p ^^^ (p >>> 29)) * 0xBF58476D1CE4E5B9
    q ^^^ (q >>> 32)) ∧
  Binary .crc (fun x y => (List.range 8).foldl (fun c i =>
    (List.range 8).foldl (fun c _ => if c.getLsbD 63 then (c <<< 1) ^^^ 0x42F0E1EBA9EA3693 else c <<< 1)
      (c ^^^ ((y.extractLsb' (8 * i) 8).setWidth 64 <<< 56))) x))

/-- R205: a division's result by the exact quotient and remainder, with the corners of R205; it is of variable latency. -/
def Obligations.DivisionResults : Prop :=
  BinaryLate .div (fun x y => if y = 0 then BitVec.ofInt 64 (-1) else BitVec.ofInt 64 (x.toInt.tdiv y.toInt)) ∧
  BinaryLate .divu (fun x y => if y = 0 then BitVec.ofNat 64 (2 ^ 64 - 1) else BitVec.ofNat 64 (x.toNat / y.toNat)) ∧
  BinaryLate .rem (fun x y => if y = 0 then x else BitVec.ofInt 64 (x.toInt.tmod y.toInt)) ∧
  BinaryLate .remu (fun x y => if y = 0 then x else BitVec.ofNat 64 (x.toNat % y.toNat))

/-- R234, R235: NOP and TICK have no effect but on the program counter and CORE.TICK.COUNT, and ILL traps ILLEGAL. R114: a
fence goes on once nothing of its kind is outstanding, and waits until then: loads for a full, acquire or drain fence, stores
and atomics for a full, release or drain fence, engines inside its scope for a drain. R349: at domain scope a full, release or
drain fence waits for the acknowledgements of the core's DSENDs too. -/
def Obligations.NopsTicksAndFences : Prop :=
  (
  (∀ h s, Runs (.nop h) s fun t => Past h s t ∧ Frame [] [] [] s t) ∧
  (∀ h s, Runs (.tick h) s fun t => Past h s t ∧ t.me.tickCount = 0 ∧
    FrameBy (fun k => { k.rest with tickCount := 0 }) [] [] [] s t) ∧
  (∀ h d a s, exec (.ill h d a) s = .next s.illegal)) ∧
  (
  ∀ (h : Head) (sc : BitVec 3) (kind : BitVec 2) (s : State),
    let loads := kind ≠ 2 ∧ s.lev.out ≠ []
    let stores := kind ≠ 1 ∧ (s.me.stores ≠ 0 ∨ s.atomicAhead s.cur = true)
    let sends := kind ≠ 1 ∧ sc = 6 ∧ s.me.dsOut ≠ []
    let engines := kind = 3 ∧ s.drained s.cur sc.toNat = false
    (¬loads → ¬stores → ¬sends → ¬engines → Runs (.fence h sc kind) s fun t => Past h s t ∧ Frame [] [] [] s t) ∧
    (loads ∨ stores ∨ sends ∨ engines → Runs (.fence h sc kind) s fun t => t.pc = s.pc ∧ t.lev.wait.isSome = true ∧
      Frame [] [] [] s t))

/-! ### Loads, stores and atomics -/

/-- R213: loads. With window 0x00 the register is written at once, else the result is of variable latency; the bytes are
those at the key that the plan of the access gives. -/
def Obligations.LoadResults : Prop :=
  Loads .ldB 1 (fun v => (BitVec.ofNat 8 v).signExtend 64) ∧ Loads .ldH 2 (fun v => (BitVec.ofNat 16 v).signExtend 64) ∧
  Loads .ldW 4 (fun v => (BitVec.ofNat 32 v).signExtend 64) ∧ Loads .ldD 8 (fun v => BitVec.ofNat 64 v) ∧
  Loads .ldzB 1 (fun v => BitVec.ofNat 64 v) ∧ Loads .ldzH 2 (fun v => BitVec.ofNat 64 v) ∧
  Loads .ldzW 4 (fun v => BitVec.ofNat 64 v)

/-- R213: stores write the low bytes of x[D], lowest first, at the key that the plan of the access gives. -/
def Obligations.StoreResults : Prop :=
  StoresLow .stB 1 ∧ StoresLow .stH 2 ∧ StoresLow .stW 4 ∧ StoresLow .stD 8

/-- R67, R71, R81, R214: the checks of a scalar access of `n` bytes at issue, in their order, and that a load or store
which fails one traps with the address and does nothing else. -/
def Obligations.AccessChecksAtIssue : Prop :=
  ∀ (s : State) (va : Word) (n : Nat) (wr : Bool), n ∈ [1, 2, 4, 8] →
    let p := s.plan va n wr
    (va.toNat / 2 ^ 56 ≠ 0 → va.toNat / 2 ^ 56 ≠ 0xFF → p = .trap Code.vaRange va) ∧
    (placeOf s.cur va = .bad Code.addrWin → p = .trap Code.addrWin va) ∧
    (∀ off, placeOf s.cur va = .own off → va.toNat % n ≠ 0 → p = .trap Code.align va) ∧
    (∀ off, placeOf s.cur va = .own off → va.toNat % n = 0 → off < 256 * s.me.xb.toNat → p = .trap Code.xoAccess va) ∧
    (∀ c off, placeOf s.cur va = .remote c off → va.toNat % n ≠ 0 → p = .trap Code.align va) ∧
    (∀ off, placeOf s.cur va = .lane off → va.toNat % n ≠ 0 → p = .trap Code.align va) ∧
    (placeOf s.cur va = .trans → va.toNat % n ≠ 0 → p = .trap Code.align va) ∧
    (∀ off, placeOf s.cur va = .acc off → wr = true → p = .trap Code.addrWin va) ∧
    (∀ h d a disp o code, s.getX a + disp = va → s.orderHold o wr = false → p = .trap code va →
      (wr = false → (n = 1 → Traps (.ldB h d a disp o) s code va ∧ Traps (.ldzB h d a disp o) s code va) ∧
        (n = 2 → Traps (.ldH h d a disp o) s code va ∧ Traps (.ldzH h d a disp o) s code va) ∧
        (n = 4 → Traps (.ldW h d a disp o) s code va ∧ Traps (.ldzW h d a disp o) s code va) ∧
        (n = 8 → Traps (.ldD h d a disp o) s code va)) ∧
      (wr = true → s.twinStore va = false → (n = 1 → Traps (.stB h d a disp o) s code va) ∧
        (n = 2 → Traps (.stH h d a disp o) s code va) ∧ (n = 4 → Traps (.stW h d a disp o) s code va) ∧
        (n = 8 → Traps (.stD h d a disp o) s code va)))

/-- R225, R226, R227: an atomic is sent to its executing point with its operand and comparison value of its width; x[d]
awaits the old value, and no register or byte changes yet. -/
def Obligations.AtomicsAreSent : Prop :=
  let low (w : Bool) (v : Word) : Word := if w then (v.setWidth 32).setWidth 64 else v
  let width (w : Bool) : Nat := if w then 4 else 8
  ∀ h d a t disp w o s,
    let va := s.getX a + disp
    let v := s.getX d
    SendsAtomic (.amoAdd h d a disp w o) h d va o .add (width w) (low w v) 0 s ∧
    SendsAtomic (.amoAnd h d a disp w o) h d va o .and (width w) (low w v) 0 s ∧
    SendsAtomic (.amoOr h d a disp w o) h d va o .or (width w) (low w v) 0 s ∧
    SendsAtomic (.amoXor h d a disp w o) h d va o .xor (width w) (low w v) 0 s ∧
    SendsAtomic (.amoMin h d a disp w false o) h d va o .min (width w) (low w v) 0 s ∧
    SendsAtomic (.amoMin h d a disp w true o) h d va o .minu (width w) (low w v) 0 s ∧
    SendsAtomic (.amoMax h d a disp w false o) h d va o .max (width w) (low w v) 0 s ∧
    SendsAtomic (.amoMax h d a disp w true o) h d va o .maxu (width w) (low w v) 0 s ∧
    SendsAtomic (.amoSwap h d a disp w o) h d va o .swap (width w) (low w v) 0 s ∧
    SendsAtomic (.amoCas h d a t disp w o) h d va o .cas (width w) (low w v) (low w (s.getX t)) s ∧
    SendsAtomic (.famoAdd h d a disp o) h d va o .fadd 4 (low true v) 0 s ∧
    SendsAtomic (.famoAdd2 h d a disp o) h d va o .fadd2 8 v 0 s ∧
    SendsAtomic (.famoMax h d a disp o) h d va o .fmax 4 (low true v) 0 s ∧
    SendsAtomic (.famoMin h d a disp o) h d va o .fmin 4 (low true v) 0 s

/-- R225: what an integer atomic leaves at its location. R116, R225: an atomic reads and writes its location in one step.
Outside its bytes memory is as before (but for the save area of a replay pass), and the old value is on its way to x[d]; a
comparison that fails writes nothing. R333: the answers from one place to one core keep their order. -/
def Obligations.AtomicsPerform : Prop :=
  (
  ∀ (n key : Nat) (va : Word) (cached : Bool) (v cmp old : Word),
    let at_ (op : AtomOp) : Atom := ⟨op, n, key, va, cached, v, cmp⟩
    let sg (w : Word) : Int := if n = 4 then (w.setWidth 32).toInt else w.toInt
    atomValue (at_ .add) old = some (old + v) ∧ atomValue (at_ .and) old = some (old &&& v) ∧
    atomValue (at_ .or) old = some (old ||| v) ∧ atomValue (at_ .xor) old = some (old ^^^ v) ∧
    atomValue (at_ .swap) old = some v ∧ atomValue (at_ .cas) old = (if old = cmp then some v else none) ∧
    (n = 4 ∨ n = 8 → atomValue (at_ .min) old = some (if sg old ≤ sg v then old else v) ∧
      atomValue (at_ .max) old = some (if sg old ≤ sg v then v else old)) ∧
    atomValue (at_ .minu) old = some (BitVec.ofNat 64 (Min.min old.toNat v.toNat)) ∧
    atomValue (at_ .maxu) old = some (BitVec.ofNat 64 (Max.max old.toNat v.toNat))) ∧
  (
  ∀ c lvl id pc d (a : Atom) s, s.mem.wf = true → s.damage = [] → s.fencedKey c a.key = false → s.poisoned a.key a.n = false →
    s.hostLost a.key = false → s.heldSlot a.key a.n = false → s.replaying (s.core c).colour = false →
    let old := BitVec.ofNat 64 (leVal (s.readFor c a.key a.n))
    Runs (.atomicPerform c lvl id pc d a) s fun t =>
      (∀ w, atomValue a old = some w → ∀ j, j < a.n → t.mem.read (a.key + j) = (w >>> (8 * j)).setWidth 8) ∧
      (atomValue a old = none → SameBytes s t) ∧
      (∀ b, b < a.key ∨ a.key + a.n ≤ b → t.mem.read b = s.mem.read b) ∧
      t.agenda = s.agenda ++ (if d = 0 then [] else [⟨atomAnswerChan a.key c, .resultLand c lvl id pc (.regs [(d, old)])⟩]) ∧
      (∀ c', t.core c' = s.core c') ∧ t.hub = s.hub)

/-- R184: a result that lands is written to its registers at the level that issued it, and is no longer outstanding; a
fault found after issue of an access that had a destination is taken by that level (R202). -/
def Obligations.ResultsLand : Prop :=
  ∀ (c : Nat) (l : Fin 4) (id : Nat) (pc : Word) (s : State),
    let paid (k : Core) : Core := k.upLv l (fun v => { v with out := v.out.filter (fun o => o.id != id) })
    (∀ d w, Runs (.resultLand c l.val id pc (.regs [(d, w)])) s fun t =>
      t.core c = (paid (s.core c)).setX l d w ∧ (∀ c', c' ≠ c → t.core c' = s.core c') ∧ t = { s with cores := t.cores }) ∧
    (∀ d ls, Runs (.resultLand c l.val id pc (.vec d ls)) s fun t =>
      t.core c = (paid (s.core c)).setV l d (Vector.ofFn (fun (j : Fin 8) =>
        match ls[j.val]? with | some (some w) => w | _ => ((s.core c).getV l d)[j])) ∧
      (∀ c', c' ≠ c → t.core c' = s.core c') ∧ t = { s with cores := t.cores }) ∧
    (∀ code tval text, (s.core c).lv[l].out.any (fun o => o.id == id) = true →
      exec (.resultLand c l.val id pc (.fault code tval text)) s =
        .next ((s.setCore c (paid (s.core c))).afterIssue c l.val code pc tval text)) ∧
    (∀ off bs, bs ≠ [] → s.mem.wf = true → s.heldSlot (padKey c off) bs.length = false → s.replaying (s.core c).colour = false →
      Runs (.resultLand c l.val id pc (.bytes off bs)) s fun t =>
        (∀ j (hj : j < bs.length), t.mem.read (padKey c off + j) = bs[j]) ∧
        (∀ b, b < padKey c off ∨ padKey c off + bs.length ≤ b → t.mem.read b = s.mem.read b)) ∧
    (Runs (.storeAck c) s fun t => t.core c = { s.core c with stores := (s.core c).stores - 1 } ∧
      (∀ c', c' ≠ c → t.core c' = s.core c') ∧ t = { s with cores := t.cores })

/-! ### Tickets -/

/-- R84, R85: where the fields of a ticket stand, and its check byte. R215, R216: a ticket fetch uses a grant and writes a
ticket, or traps at issue with its address. TLDG takes eight addresses from the own scratchpad; a word of 0 is masked off. -/
def Obligations.TicketFetches : Prop :=
  (
  ∀ (sl entry gen colour words kind : Nat) (key : Word), sl < 256 → entry < 4096 → gen < 2 ^ 15 → colour < 4096 →
    words < 64 → kind < 4 →
    let t := makeTicket sl entry gen colour words kind key
    let h : Word := ((t >>> 8) ^^^ key) * 0x9E3779B97F4A7C15
    t.getLsbD 63 = true ∧ (t.extractLsb' 55 8).toNat = sl ∧ (t.extractLsb' 43 12).toNat = entry ∧
    (t.extractLsb' 28 15).toNat = gen ∧ (t.extractLsb' 16 12).toNat = colour ∧ (t.extractLsb' 10 6).toNat = words ∧
    (t.extractLsb' 8 2).toNat = kind ∧ t.extractLsb' 0 8 = h.extractLsb' 56 8 ^^^ h.extractLsb' 0 8) ∧
  (
  FetchesTicket .tld8 (fun _ => 8) 8 ∧ FetchesTicket .tld32 (fun _ => 32) 32 ∧ FetchesTicket .tld64 (fun _ => 64) 64 ∧
  FetchesTicket .tld256 (fun _ => 256) 256 ∧ FetchesTicket .tldn (fun x => 8 * (x.toNat / 2 ^ 16 % 32 + 1)) 8 ∧
  (∀ h d a disp t o s, s.inTwin = false → (∀ off, placeOf s.cur (s.getX a + disp) ≠ .own off) →
    Traps (.tldg h d a disp t o) s Code.addrWin (s.getX a + disp)) ∧
  (∀ h d a disp t o s off, s.inTwin = false → placeOf s.cur (s.getX a + disp) = .own off →
    s.plan (s.getX a + disp) 64 false ⟨false, false, false⟩ = .go (padKey s.cur off) true true false →
    s.me.grants ≠ [] →
    let ws := (List.range 8).map (fun j => BitVec.ofNat 64 (leVal (s.readFor s.cur (padKey s.cur off + 8 * j) 8)))
    let own := (s.getX t).toNat % 2 ^ 16
    ∀ f : Word → FetchSrc, f 0 = .masked → (∀ w ∈ ws, w ≠ 0 → w.toNat % 8 = 0 ∧ ∃ walk, s.source w = .src (f w) walk) →
      Runs (.tldg h d a disp t o) s (TicketSent h d 8 2
        (if own ≠ 0 then own else if s.me.lease = 0 then 65535 else s.me.lease.toNat) (ws.map f) s)))

/-- R217, R218: redeems, the query and the drop are sent to the slice that the ticket names; their results are
outstanding, but a drop has none. -/
def Obligations.RedeemsAreSent : Prop :=
  ∀ h a s, s.inTwin = false →
    (∀ d, d ≠ 0 → s.roomFor = true → Runs (.rdm h d a) s (Asked h (.redeemArrive (tkSlice (s.getX a))) 0 d.toNat 0 (s.getX a) (some d.toNat) s) ∧
      Runs (.tkq h d a) s (Asked h (.tkqArrive (tkSlice (s.getX a))) 5 d.toNat 0 (s.getX a) (some d.toNat) s)) ∧
    (Runs (.rdm h 0 a) s (Asked h (.redeemArrive (tkSlice (s.getX a))) 0 0 0 (s.getX a) none s) ∧
      Runs (.tkq h 0 a) s (Asked h (.tkqArrive (tkSlice (s.getX a))) 5 0 0 (s.getX a) none s)) ∧
    (∀ v : VReg, s.roomFor = true →
      Runs (.rdmV h v a) s (Asked h (.redeemArrive (tkSlice (s.getX a))) 1 v.toNat 0 (s.getX a) (some (64 + v.toNat)) s)) ∧
    (∀ d disp off, placeOf s.cur (s.getX d + disp) = .own off → off % 8 = 0 →
      (s.me.codeEnd ≤ off → off + 8 * (tkWords (s.getX a) + 1) ≤ 2 ^ 18 → s.roomFor = true →
        Runs (.rdmS h d a disp) s (Asked h (.redeemArrive (tkSlice (s.getX a))) 2 0 off (s.getX a) (some 128) s)) ∧
      (off < s.me.codeEnd ∨ 2 ^ 18 < off + 8 * (tkWords (s.getX a) + 1) →
        Traps (.rdmS h d a disp) s Code.xoAccess (s.getX d + disp))) ∧
    Runs (.tkdrop h a) s (Asked h (.tkdropArrive (tkSlice (s.getX a))) 4 0 0 (s.getX a) none s)

/-- R89, R90: how an entry changes on a redeem and on a drop, and whom it answers. R91, R92: what a delivery writes for each
form of redeem, and that a failure is taken after issue with the ticket. R114, R118, R122: the delivery of an RDM.S whose bytes
lie in a ring slot that a tile step holds waits for that slot. -/
def Obligations.RedeemsAreDelivered : Prop :=
  (
  ∀ (sl : Nat) (r : Redeem) (s : State),
    let e := tkEntry r.ticket
    let t := s.tk sl e
    t.overdue = false → s.ticketFenced r = false → s.damage = [] →
    (∀ code, s.ticketCheck sl r = some code → Runs (.redeemArrive sl r) s (Answered r [] code 0 s) ∧
      Runs (.tkdropArrive sl r) s (Answered r [] code 0 s)) ∧
    (s.ticketCheck sl r = none →
      (t.st = .flight → Runs (.redeemArrive sl r) s (fun u =>
          EntryBecomes sl e { t with st := .pending, rd := some r } s u ∧ u.agenda = s.agenda) ∧
        Runs (.tkdropArrive sl r) s (fun u => EntryBecomes sl e { t with st := .spent } s u ∧ u.agenda = s.agenda)) ∧
      (t.st = .arrived → Runs (.redeemArrive sl r) s (fun u => EntryBecomes sl e { t with st := .spent } s u ∧
          (if t.fault = 0 then Answered r (t.data.take (t.words + 1)) 0 0 s u
            else Answered r [] t.fault ((t.fva &&& ~~~0xFF) ||| BitVec.ofNat 64 t.fault) s u)) ∧
        Runs (.tkdropArrive sl r) s (fun u => EntryBecomes sl e { t with st := .spent } s u ∧ u.agenda = s.agenda)) ∧
      (t.st = .pending ∨ t.st = .spent → Runs (.redeemArrive sl r) s (Answered r [] Code.tktSpent 0 s) ∧
        Runs (.tkdropArrive sl r) s (Answered r [] Code.tktSpent 0 s)) ∧
      (t.st = .expired ∨ t.st = .free → Runs (.redeemArrive sl r) s (Answered r [] Code.tktExpired 0 s) ∧
        Runs (.tkdropArrive sl r) s (Answered r [] Code.tktExpired 0 s)) ∧
      (t.st = .granted → Runs (.redeemArrive sl r) s (fun u => (u.slice sl).held = (s.slice sl).held ++ [(e, .redeemArrive sl r)] ∧
          u.tk sl e = t ∧ u.agenda = s.agenda) ∧
        Runs (.tkdropArrive sl r) s (fun u => (u.slice sl).held = (s.slice sl).held ++ [(e, .tkdropArrive sl r)] ∧
          u.tk sl e = t ∧ u.agenda = s.agenda)))) ∧
  (
  ∀ (c : Nat) (l : Fin 4) (id : Nat) (pc : Word) (form reg soff : Nat) (tk : Word) (col : Nat) (ws : List Word) (s : State),
    let r : Redeem := ⟨c, l.val, id, pc, form, reg, soff, tk, col, 0, 0, 0⟩
    let paid : Core := (s.core c).upLv l (fun v => { v with out := v.out.filter (fun o => o.id != id) })
    (form = 0 ∨ form = 5 → Runs (.redeemDelivery r ws 0 0) s fun t =>
      t.core c = paid.setX l (BitVec.ofNat 6 reg) (ws[0]?.getD 0) ∧ (∀ c', c' ≠ c → t.core c' = s.core c') ∧
      t = { s with cores := t.cores }) ∧
    (form = 1 → Runs (.redeemDelivery r ws 0 0) s fun t =>
      t.core c = paid.setV l (BitVec.ofNat 5 reg) (Vector.ofFn (fun (j : Fin 8) =>
        ((ws[j.val / 2]?.getD 0) >>> (32 * (j.val % 2))).setWidth 32)) ∧
      (∀ c', c' ≠ c → t.core c' = s.core c') ∧ t = { s with cores := t.cores }) ∧
    (form = 2 → ws ≠ [] → s.mem.wf = true → s.heldSlot (padKey c soff) (8 * ws.length) = false →
      s.replaying (s.core c).colour = false → Runs (.redeemDelivery r ws 0 0) s fun t =>
        (∀ j b, j < ws.length → b < 8 → t.mem.read (padKey c soff + 8 * j + b) = ((ws[j]?.getD 0) >>> (8 * b)).setWidth 8) ∧
        (∀ a, a < padKey c soff ∨ padKey c soff + 8 * ws.length ≤ a → t.mem.read a = s.mem.read a)) ∧
    (form = 2 → s.heldSlot (padKey c soff) (8 * ws.length) = true → s.enabled (.redeemDelivery r ws 0 0) = false) ∧
    (∀ code text, code ≠ 0 → form ≠ 3 → exec (.redeemDelivery r ws code text) s =
      .next ((s.setCore c paid).afterIssue c l.val code pc tk text (decide (code ≠ Code.fenced)))))

/-- R92: TKQ answers the code of the entry's state and changes no entry. -/
def Obligations.TicketQueryCodes : Prop :=
  ∀ (sl : Nat) (r : Redeem) (s : State),
    let e := tkEntry r.ticket
    let t := s.tk sl e
    let Says (n : Nat) : Prop := Runs (.tkqArrive sl r) s fun u => Answered r [BitVec.ofNat 64 n] 0 0 s u ∧
      (∀ sl' e', u.tk sl' e' = s.tk sl' e') ∧ u.mem = s.mem
    t.overdue = false →
    (s.ticketCheck sl r = some Code.tktForged → Says 7) ∧ (s.ticketCheck sl r = some Code.tktStale → Says 6) ∧
    (s.ticketCheck sl r = none →
      (t.st = .flight → Says 0) ∧ (t.st = .arrived → t.fault = 0 → Says 1) ∧ (t.st = .arrived → t.fault ≠ 0 → Says 2) ∧
      (t.st = .pending → Says 3) ∧ (t.st = .spent → Says 4) ∧ (t.st = .expired ∨ t.st = .free → Says 5) ∧
      (t.st = .granted → Runs (.tkqArrive sl r) s fun u => u.agenda = s.agenda ∧
        (u.slice sl).held = (s.slice sl).held ++ [(e, .tkqArrive sl r)] ∧ u.tk sl e = t))

/-- R86, R87, R89: a grant, its arrival, the arrival of a fetch at its slice, its service and the arrival of its data. R93,
R94: TIME rises by 1 with each tick, a running lease falls by 1 with it, and an entry whose lease has run out becomes EXPIRED
and is counted. That a tick is also what raises CORE.TICK.COUNT of a core held awake is the model's choice (log 7), and that
the first fault of a gather is the one kept is its reading (log 31). -/
def Obligations.FetchesAndLeases : Prop :=
  (
  (∀ sl c e s, s.grantTurn sl c = true → (s.slice sl).grantable c = some e → Runs (.ticketGrant sl c) s fun u =>
    EntryBecomes sl e { TkEntry.initial with
      st := .granted, gen := ((s.tk sl e).gen + 1) % 2 ^ 15, colour := (s.core c).colour, core := c } s u ∧
    u.agenda = s.agenda ++ [⟨grantChan c, .grantArrive c e⟩] ∧ (u.slice sl).lastOdd = decide (c % 2 = 1)) ∧
  (∀ c e s, Runs (.grantArrive c e) s fun u => u.core c = { s.core c with grants := (s.core c).grants ++ [e] } ∧
    (∀ c', c' ≠ c → u.core c' = s.core c') ∧ u = { s with cores := u.cores }) ∧
  (∀ sl (r : TldReq) s, let t := s.tk sl r.entry
    (t.st = .granted → t.gen = r.gen → r.kind ≠ 2 → ∃ u, exec (.tldRequestArrive sl r) s = .next (u.unholdTicket sl r.entry) ∧
      EntryBecomes sl r.entry { t with
        st := .flight, colour := r.colour, words := r.words, kind := r.kind, lease := r.lease, fault := 0, fva := 0
        data := List.replicate (r.words + 1) 0, left := r.words + 1, core := r.c } s u ∧
      ∃ chan, u.agenda = s.agenda ++ [⟨chan, .ticketFetchPerform sl r.entry r.gen 0 r.srcs⟩]) ∧
    (t.st ≠ .granted ∨ t.gen ≠ r.gen → exec (.tldRequestArrive sl r) s = .next s)) ∧
  (∀ sl e gen off srcs s, s.damage = [] →
    let lost (k : Nat) : Bool := s.poisoned k 8 || s.hostLost k
    let word (f : FetchSrc) : Word := match f with | .at k _ => if lost k then 0 else s.peek64 k | _ => 0
    let bad (f : FetchSrc) : Option (Nat × Word) := match f with
      | .fault c va => some (c, va)
      | .at k va => if lost k then some (Code.poison, va) else none
      | .masked => none
    Runs (.ticketFetchPerform sl e gen off srcs) s fun u => ∃ chan n, u = { s with ids := n, agenda := s.agenda ++
      [⟨chan, .ticketDataArrive sl e gen off (srcs.map word) ((srcs.findSome? bad).getD (0, 0)).1
        ((srcs.findSome? bad).getD (0, 0)).2⟩] }) ∧
  (∀ sl e gen off (ws : List Word) code fva s, let t := s.tk sl e
    t.overdue = false → s.damage = [] → off + ws.length ≤ t.data.length →
    (t.gen = gen → t.st = .pending → s.containing t.colour = true → Runs (.ticketDataArrive sl e gen off ws code fva) s fun u =>
      EntryBecomes sl e { t with st := .expired } s u ∧ u.agenda = s.agenda ∧
      (u.slice sl).orphans = Nat.min ((s.slice sl).orphans + 1) 0xFFFFFFFF) ∧
    (t.gen = gen → t.left = ws.length →
      t.st = .flight ∨ (t.st = .pending ∧ t.rd.isSome = true ∧ s.containing t.colour = false) →
      Runs (.ticketDataArrive sl e gen off ws code fva) s fun u => ∃ data : List Word, data.length = t.data.length ∧
        (∀ j, data[j]? = if off ≤ j ∧ j < off + ws.length then ws[j - off]? else t.data[j]?) ∧
        EntryBecomes sl e { t with
          st := if t.st = .flight then .arrived else .spent, data := data, left := 0
          fault := if code ≠ 0 ∧ t.fault = 0 then code else t.fault
          fva := if code ≠ 0 ∧ t.fault = 0 then fva else t.fva } s u) ∧
    (t.gen ≠ gen → exec (.ticketDataArrive sl e gen off ws code fva) s = .next s))) ∧
  (
  (∀ s, Runs .packageTimerTick s fun u => u.hub = { s.hub with time := s.hub.time + 1 } ∧ u.mem = s.mem ∧
    (∀ c, let k := s.core c
      u.core c = if s.heldAwake c = false then k else { k with
        tickCount := if k.tickCount = BitVec.allOnes 32 then k.tickCount else k.tickCount + 1 }) ∧
    ∀ sl e, let t := s.tk sl e
      (((t.st = .flight ∨ t.st = .arrived) ∧ t.frozen = false ∧ s.leasesHeld t.colour = false →
          u.tk sl e = { t with lease := t.lease - 1 }) ∧
        (¬((t.st = .flight ∨ t.st = .arrived) ∧ t.frozen = false ∧ s.leasesHeld t.colour = false) → u.tk sl e = t)) ∧
      (t.overdue = false → (u.tk sl e).overdue = true → ∃ f ∈ u.agenda, f.ev = .leaseExpire sl e)) ∧
  (∀ sl e s, let t := s.tk sl e
    (t.overdue = true → Runs (.leaseExpire sl e) s fun u => EntryBecomes sl e { t with st := .expired } s u ∧
      (u.slice sl).orphans = Nat.min ((s.slice sl).orphans + 1) 0xFFFFFFFF ∧ u.agenda = s.agenda) ∧
    (t.overdue = false → exec (.leaseExpire sl e) s = .next s)))

/-! ### Control transfer, traps and the return from one -/

/-- R219, R220, R221, R82: where control goes. LOOP counts x[D] down, unless its odd target raises ALIGN; JTAB's n is
unsigned. -/
def Obligations.ControlTransfers : Prop :=
  ∀ (h : Head) (s : State),
    let nxt := s.pc + BitVec.ofNat 64 h.len
    (∀ off, Transfers (.br h off) none (s.pc + 2 * off) s) ∧
    (∀ off, Transfers (.call h off) (some (1, nxt)) (s.pc + 2 * off) s) ∧
    (∀ d off, Branches (.bz h d off) h (s.getX d = 0) (s.pc + 2 * off) s) ∧
    (∀ d off, Branches (.bnz h d off) h (s.getX d ≠ 0) (s.pc + 2 * off) s) ∧
    (∀ d off,
      (d ≠ 0 → s.getX d ≠ 1 → Transfers (.loop h d off) (some (d, s.getX d - 1)) (s.pc + 2 * off) s) ∧
      (d = 0 ∨ s.getX d = 1 → Runs (.loop h d off) s fun t => t.getX d = 0 ∧ Past h s t ∧ Frame [d] [] [] s t)) ∧
    (∀ a, Transfers (.jr h a) none (s.getX a) s) ∧
    (∀ a, Transfers (.callr h a) (some (1, nxt)) (s.getX a) s) ∧
    Transfers (.ret h) none (s.getX 1) s ∧
    (∀ d a n, Branches (.jtab h d a n) h ((s.getX d).toNat < n.toNat) (s.getX a + 4 * s.getX d) s)

/-- R237: TRAP traps with its number and the address of the next instruction. -/
def Obligations.TrapInstruction : Prop :=
  ∀ h n s, s.lev.active = false → s.me.svec ≠ 0 → s.me.svec.toNat < s.me.codeEnd →
    Runs (.trap h n) s (TrapTaken s.cur Code.trap (s.pc + BitVec.ofNat 64 h.len) (n.setWidth 64) 0 s)

/-- R378, R380: taking a trap at the running level of a core that has a supervisor handler; delegation to user code; the
nested traps; and the end of the job where there is no handler. R300, R383: RFT goes on at TPC, RFT.NEXT behind the
instruction there; privilege comes from PPRIV, and ACTIVE, WAITING and INOVL are cleared. At user level it needs a delegated
trap, and a supervisor's needs ACTIVE = 1; the cause of each refusal is the model's reading (log 21, 22). -/
def Obligations.TrapEntryAndReturn : Prop :=
  (
  ∀ (s : State) (c code : Nat) (tpc tval text : Word) (tk : Bool), code < 256 →
    let k := s.core c
    let v := k.lv[k.lvl]
    let t := s.takeTrap c code tpc tval text tk
    let handler := k.svec ≠ 0 ∧ k.svec.toNat < k.codeEnd
    let nested := v.active = true ∧ classOf code = 0
    let delegated := v.sup = false ∧ ((code = Code.fpExc ∧ k.delegFp = true) ∨ ((isTkt code = true ∨ tk = true) ∧ k.delegTkt = true))
    (¬nested → code ≠ Code.overlay → ¬delegated → handler → TrapTaken c code tpc tval text s t) ∧
    (¬nested → code ≠ Code.overlay → delegated →
      let v' := (t.core c).lv[k.lvl]
      v'.tpc = tpc ∧ v'.tval = tval ∧ v'.text = text ∧ v'.sup = false ∧ v'.pc = k.uvec.setWidth 64 ∧ v'.active = true ∧
        v'.deleg = true ∧ v'.cause = code) ∧
    (¬nested → code = Code.overlay →
      let v' := (t.core c).lv[k.lvl]
      v'.tpc = tpc ∧ v'.tval = tval ∧ v'.sup = v.sup ∧ v'.pc = k.ovec.setWidth 64 ∧ (t.core c).inovl = true ∧ v'.active = true ∧
        v'.cause = Code.overlay) ∧
    (k.inovl = true → v.active = false → handler → ∀ a from_,
      let u := s.overlay c a from_
      let v' := (u.core c).lv[k.lvl]
      v'.tpc = v.tpc ∧ v'.tval = v.tval ∧ v'.text = v.text ∧ v'.sup = true ∧ v'.pc = k.svec.setWidth 64 ∧ v'.active = true ∧
        v'.cause = Code.ovlDouble ∧ v'.tcause.extractLsb' 8 8 = BitVec.ofNat 8 Code.overlay) ∧
    (nested → v.deleg = true ∨ v.cause = Code.overlay → handler →
      let v' := (t.core c).lv[k.lvl]
      v'.tpc = v.tpc ∧ v'.tval = v.tval ∧ v'.text = v.text ∧ v'.sup = true ∧ v'.pc = k.svec.setWidth 64 ∧ v'.active = true ∧
        v'.deleg = false ∧ v'.tcause.getLsbD 23 = v.tcause.getLsbD 23 ∧ v'.tcause.getLsbD 21 = v.sup ∧
        v'.tcause.extractLsb' 8 8 = BitVec.ofNat 8 v.cause ∧
        v'.cause = if v.cause = Code.overlay ∧ code = Code.overlay then Code.ovlDouble else Code.double) ∧
    (nested → v.deleg = false → v.cause ≠ Code.overlay → ∀ j, s.job? k.colour = some j → j.ending = none →
      ∃ j', t.job? k.colour = some j' ∧ j'.ending = some ⟨6, Code.double, 0⟩) ∧
    (¬nested → code ≠ Code.overlay → ¬delegated → ¬handler → ∀ j, s.job? k.colour = some j → j.ending = none →
      ∃ j', t.job? k.colour = some j' ∧ j'.ending = some ⟨if code = Code.hang then 5 else 6, code, 0⟩)) ∧
  (
  ∀ (h : Head) (s : State),
    let v := s.lev
    let Back (a : Word) (t : State) : Prop :=
      t.pc = a ∧ t.lev.sup = v.tcause.getLsbD 21 ∧ t.lev.tcause = v.tcause &&& ~~~0xC00000 ∧ t.me.inovl = false ∧
      t.lev.tpc = v.tpc ∧ t.lev.tval = v.tval ∧ t.lev.text = v.text ∧ t.me.lvl = s.me.lvl ∧ Registers [] [] [] s t ∧
      SameCores s t ∧ SameBytes s t
    (v.active = true → v.sup = true ∨ v.deleg = true →
      Runs (.rft h) s (Back v.tpc) ∧
      (∀ n, s.lengthAt s.cur v.tpc.toNat = some n → Runs (.rftNext h) s (Back (v.tpc + BitVec.ofNat 64 n)))) ∧
    (v.sup = false → ¬(v.active = true ∧ v.deleg = true) →
      Traps (.rft h) s Code.privilege ∧ Traps (.rftNext h) s Code.privilege) ∧
    (v.sup = true → v.active = false → Traps (.rft h) s Code.ctxBad ∧ Traps (.rftNext h) s Code.ctxBad))

/-- R381, R382, R384: a pending class 1 fault is taken at the running level with the next instruction's address, unless a trap
handler runs. R370: a break bit stops the core, and the program takes no trap. R397: a missed tick fences the core and is
logged with its program counter and index, and the lowest core of the cluster that runs for the job takes TICK_MISS; during a
pre-emption the job ends with FAULT, at once where step 1 of R326 is over, else when it will be. R405: the reports of a
collection window are raised as one class 1 fault FP_EXC, at the lowest reporting core that runs, with its earliest report and
the number of the others, and the window is closed. -/
def Obligations.BoundaryAndWindowEvents : Prop :=
  (
  ∀ (c : Nat) (s : State), let k := s.core c
    (∀ f r, k.pend = f :: r → k.lv[k.lvl].active = false → exec (.asyncFaultTake c) s =
      .next ((s.setCore c { k with pend := r }).takeTrap c f.code k.lv[k.lvl].pc f.tval f.text)) ∧
    (k.lv[k.lvl].active = true → exec (.asyncFaultTake c) s = .next s) ∧
    (s.hub.trace.getLsbD 63 = false → Runs (.breakpoint c) s fun t => t.core c = { k with dbg := .stopped, broke := true } ∧
      (∀ c', c' ≠ c → t.core c' = s.core c') ∧ t = { s with cores := t.cores }) ∧
    let u := s.setCore c { k with status := .fenced }
    (s.job? k.colour = none → Runs (.tickMiss c) s fun t => t.core c = { k with status := .fenced } ∧ t.mem = s.mem ∧
      ∀ c', c' ≠ c → (t.core c').lv = (s.core c').lv) ∧
    (∀ j, s.job? k.colour = some j → k.colour ≠ 0 →
      (j.preempting = false → ∀ r, r ≠ c → r / 16 = c / 16 → (s.core r).status = .running → (s.core r).colour = k.colour →
        (∀ b, b ≠ c → b / 16 = c / 16 → (s.core b).status = .running → (s.core b).colour = k.colour → r ≤ b) →
        (s.core r).pend.length < 8 → Runs (.tickMiss c) s fun t => t.core c = { k with status := .fenced } ∧
          t.core r = { s.core r with pend := (s.core r).pend ++ [⟨Code.tickMiss, 0, BitVec.ofNat 64 c, 0, false⟩] } ∧
          (∀ b, b ≠ c → b ≠ r → t.core b = s.core b) ∧ t.mem = s.mem ∧
          ∃ e, (t.die (dieOf c)).log.getLast? = some e ∧ e.w0.extractLsb' 56 8 = BitVec.ofNat 8 Code.tickMiss ∧
            e.w2 = k.lv[k.lvl].pc ∧ e.w3 = BitVec.ofNat 64 c) ∧
      (j.preempting = true → j.ending = none → u.activationsDone j = true → Runs (.tickMiss c) s fun t => t.mem = s.mem ∧
        (t.core c).status = .fenced ∧ ∃ j', t.job? k.colour = some j' ∧ j'.ending = some ⟨6, Code.tickMiss, 0⟩) ∧
      (j.preempting = true → j.out = false → u.activationsDone j = false → Runs (.tickMiss c) s fun t => t.mem = s.mem ∧
        (t.core c).status = .fenced ∧ ∃ j', t.job? k.colour = some j' ∧ j'.missed = true))) ∧
  (
  ∀ cl s, let k := s.cluster cl
    (∀ pre r post, k.fp = pre ++ r :: post → (∀ p ∈ pre, p.c ≠ r.c) → (s.core r.c).status = .running →
      (∀ p ∈ pre ++ post, (s.core p.c).status = .running → r.c ≤ p.c) → (s.core r.c).pend.length < 8 →
      Runs (.fpExcWindowClose cl) s fun t => (t.cluster cl).fp = [] ∧ (t.cluster cl).fpOpen = false ∧
        t.core r.c = { s.core r.c with pend := (s.core r.c).pend ++ [⟨Code.fpExc, 0,
          BitVec.ofNat 64 (r.pc.toNat % 2 ^ 48 + r.lane % 8 * 2 ^ 48 + r.flags.toNat * 2 ^ 51),
          BitVec.ofNat 64 (pre.length + post.length), false⟩] } ∧
        (∀ c, c ≠ r.c → t.core c = s.core c) ∧ t.mem = s.mem) ∧
    (k.fp = [] → Runs (.fpExcWindowClose cl) s fun t => (t.cluster cl).fpOpen = false ∧ t.cores = s.cores ∧ t.mem = s.mem))

/-! ### System registers -/

/-- R199, R200, R301: MFS and MFP read a register by its number; one from 512 up needs supervisor privilege, and MFP always
does. A number that is not assigned traps ILLEGAL. R199, R200, R301: MTS and MTP write the writable fields of a register,
ignore a register without one, and need supervisor privilege from 512 up (MTP always). -/
def Obligations.SystemRegisters : Prop :=
  (
  ∀ (s : State) (h : Head) (d : XReg),
    let k := s.me
    let v := s.lev
    let Reads (n : Nat) (w : Word) : Prop :=
      (n < 512 ∨ v.sup = true → Runs (.mfs h d (BitVec.ofNat 10 n)) s fun t =>
        t.getX d = (if d = 0 then 0 else w) ∧ Past h s t ∧ Frame [d] [] [] s t) ∧
      (512 ≤ n → v.sup = false → Traps (.mfs h d (BitVec.ofNat 10 n)) s Code.privilege) ∧
      (v.sup = true → ∀ a disp, s.getX a + disp = BitVec.ofNat 64 n → Runs (.mfp h d a disp) s fun t =>
        t.getX d = (if d = 0 then 0 else w) ∧ Past h s t ∧ Frame [d] [] [] s t)
    (s.cur < 512 → let n := s.cur % 16
      let cx := s.cur / 16 % 8
      let cy := s.cur / 128
      let x := 2 * cx + n / 2 % 2
      let y := 4 * cy + n / 4
      Reads 0 (BitVec.ofNat 64 (s.pkg.toNat * 2 ^ 32 + (16 * y + x) * 2 ^ 24 + y * 2 ^ 20 + x * 2 ^ 16 + n / 8 * 2 ^ 12 +
        cy % 2 * 2 ^ 11 + (2 * (cy / 2) + cx / 4) * 2 ^ 9 + s.cur))) ∧
    Reads 1 (BitVec.ofNat 64 (k.inovl.toNat * 2 ^ 19 + k.xb.toNat * 2 ^ 8)) ∧ Reads 2 (k.ovec.setWidth 64) ∧ Reads 3 k.grp ∧
    Reads 4 (k.tickLimit ++ k.tickCount) ∧
    Reads 5 (BitVec.ofNat 64 (k.inact.toNat * 8 + k.intask.toNat * 4 + k.lvl.val)) ∧ Reads 6 s.hub.time ∧
    Reads 16 (BitVec.ofNat 64 (v.ten.toNat * 2 ^ 8 + v.nanp.toNat * 4 + v.rm.toNat)) ∧
    Reads 17 (BitVec.ofNat 64 (k.asat.toNat * 2 ^ 8 + v.flags.toNat)) ∧
    Reads 24 v.tpc ∧ Reads 25 v.tcause ∧ Reads 26 v.tval ∧ Reads 27 v.text ∧ Reads 32 (k.dtabBase &&& 0x0000FFFFFFFFFFF8) ∧ Reads 33 v.msgSrc ∧
    Reads 34 (k.cmask.setWidth 64) ∧ Reads 40 (k.lease.setWidth 64) ∧ Reads 512 (k.root &&& 0x0000FFFFFFFF0FFF) ∧
    Reads 514 (BitVec.ofNat 64 (k.retainV.toNat * 2 ^ 15 + k.retainCol.toNat)) ∧
    Reads 515 (BitVec.ofNat 64 (k.delegTkt.toNat * 2 + k.delegFp.toNat)) ∧ Reads 516 (k.uvec.setWidth 64) ∧
    Reads 517 (k.svec.setWidth 64) ∧
    (∀ n : BitVec 10, n.toNat ∈ [48, 49, 50, 51, 64, 65, 66, 67] ∨ (n = 513 ∧ v.sup = true) → ∃ w, s.readSys s.cur n.toNat = some w ∧
      (RoomX s d → Runs (.mfs h d n) s (LateX h d w s))) ∧
    (∀ n : BitVec 10, s.readSys s.cur n.toNat = none → exec (.mfs h d n) s = .next s.illegal) ∧
    (v.sup = false → ∀ a disp, Traps (.mfp h d a disp) s Code.privilege)) ∧
  (
  ∀ (s : State) (h : Head) (d : XReg),
    let w := s.getX d
    let Writes (n : Nat) (t : State) : Prop :=
      (n < 512 ∨ s.lev.sup = true → exec (.mts h d (BitVec.ofNat 10 n)) s = .next (t.advance h)) ∧
      (512 ≤ n → s.lev.sup = false → Traps (.mts h d (BitVec.ofNat 10 n)) s Code.privilege) ∧
      (s.lev.sup = true → ∀ a disp, s.getX a + disp = BitVec.ofNat 64 n → exec (.mtp h d a disp) s = .next (t.advance h))
    Writes 2 (s.upMe fun k => { k with ovec := w.setWidth 18 &&& 0x3FFFE }) ∧
    Writes 16 (s.upLev fun v => { v with ten := w.extractLsb' 8 6, nanp := w.getLsbD 2, rm := w.setWidth 2 }) ∧
    Writes 17 ((s.upMe fun k => { k with asat := k.asat &&& ~~~w.extractLsb' 8 4 }).upLev fun v =>
      { v with flags := v.flags &&& ~~~w.setWidth 6 }) ∧
    Writes 24 (s.upLev fun v => { v with tpc := w }) ∧
    Writes 40 (s.upMe fun k => { k with lease := w.setWidth 16 }) ∧
    Writes 49 (s.upCluster s.cl fun k => { k with loops := w.toNat / 2 ^ 16 % 2 ^ 16 }) ∧
    Writes 65 (s.upMu (2 * s.cl + s.me.selMu) fun m => { m with dlim := w.setWidth 16 }) ∧
    Writes 67 ((s.upMu (2 * s.cl + s.me.selMu) fun m => { m with wgt := w }).muServe (2 * s.cl + s.me.selMu)) ∧
    (s.me.hold = [] → Writes 34 (s.upMe fun k => { k with cmask := w.setWidth 8 &&& 0xFE })) ∧
    Writes 50 (s.upCluster s.cl fun k => { k with
      steal := w.getLsbD 30, highm := w.toNat / 2 ^ 16 % 2 ^ 14, lowm := w.toNat % 2 ^ 14
      wasHigh := decide (w.toNat / 2 ^ 16 % 2 ^ 14 < k.pond.length), wasLow := decide (k.pond.length < w.toNat % 2 ^ 14) }) ∧
    (let d0 := s.die (dieOf s.cur)
     (d0.oldScr.isSome = true ∨ w.toNat % 16 = d0.scr → Writes 513 s) ∧
     (d0.oldScr = none → w.toNat % 16 ≠ d0.scr → s.lev.sup = true → Runs (.mts h d 513) s fun t => Past h s t ∧
       t.die (dieOf s.cur) = { d0 with scr := w.toNat % 16, oldScr := some d0.scr } ∧
       (∃ chan, t.agenda = s.agenda ++ [⟨chan, .basinSplitDone (dieOf s.cur)⟩]) ∧ Registers [] [] [] s t ∧ SameCores s t ∧
       SameBytes s t ∧ t.me.rest = s.me.rest)) ∧
    Writes 512 (s.upMe fun k => { k with root := w &&& 0x0000FFFFFFFF0FFF }) ∧
    Writes 514 (s.upMe fun k => { k with retainV := w.getLsbD 15, retainCol := w.setWidth 12 }) ∧
    Writes 515 (s.upMe fun k => { k with delegTkt := w.getLsbD 1, delegFp := w.getLsbD 0 }) ∧
    Writes 516 (s.upMe fun k => { k with uvec := w.setWidth 18 &&& 0x3FFFE }) ∧
    Writes 517 (s.upMe fun k => { k with svec := w.setWidth 18 &&& 0x3FFFE }) ∧
    (∀ n ∈ [0, 1, 3, 4, 5, 6, 25, 26, 27, 32, 33, 48, 51, 64, 66], Writes n s) ∧
    (s.lev.sup = false → ∀ a disp, Traps (.mtp h d a disp) s Code.privilege))

/-! ### Fences, barriers and collectives -/

/-- R60, R212, R266: GEO's values from the member's rank and the extents of the geometry word; TGEO gives the tile origins
and extents in elements, and the three origins packed. A membership that is not valid gives all ones, and a code without a
meaning traps ILLEGAL. -/
def Obligations.GroupGeometry : Prop :=
  (∀ (h : Head) (d : XReg) (s : State) (m : Nat), m < 4 → s.me.grp.getLsbD (32 + m) = false →
    let Ones (i : Instr) : Prop := Runs i s fun t =>
      t.getX d = (if d = 0 then 0 else BitVec.allOnes 64) ∧ Past h s t ∧ Frame [d] [] [] s t
    (∀ code, code < 10 → Ones (.geo h d (BitVec.ofNat 6 (16 * m + code)))) ∧
    (∀ code ∈ [0, 1, 2, 4, 5, 6, 7], Ones (.tgeo h d (BitVec.ofNat 6 (16 * m + code))))) ∧
  (∀ h d s, ∀ sel : BitVec 6, (sel.toNat % 16 = 3 ∨ 8 ≤ sel.toNat % 16 → exec (.tgeo h d sel) s = .next s.illegal) ∧
    (10 ≤ sel.toNat % 16 → exec (.geo h d sel) s = .next s.illegal)) ∧
  ∀ (h : Head) (d : XReg) (s : State) (m : Nat) (g : GroupDef), m < 4 → s.me.grp.getLsbD (32 + m) = true →
    let slot := (s.me.grp.extractLsb' (8 * m) 8).toNat
    s.group? s.me.colour slot = some g →
    let rank := g.members.countP (fun c => decide (c < s.cur))
    let e0 := (g.geo.extractLsb' 0 10).toNat
    let e1 := (g.geo.extractLsb' 10 10).toNat
    let Gives (code value : Nat) : Prop := Runs (.geo h d (BitVec.ofNat 6 (16 * m + code))) s fun t =>
      t.getX d = (if d = 0 then 0 else BitVec.ofNat 64 value) ∧ Past h s t ∧ Frame [d] [] [] s t
    Gives 0 (rank % e0) ∧ Gives 1 (rank / e0 % e1) ∧ Gives 2 (rank / (e0 * e1)) ∧ Gives 3 rank ∧ Gives 4 e0 ∧ Gives 5 e1 ∧
    (let Tile (code value : Nat) : Prop := Runs (.tgeo h d (BitVec.ofNat 6 (16 * m + code))) s fun t =>
        t.getX d = (if d = 0 then 0 else BitVec.ofNat 64 value) ∧ Past h s t ∧ Frame [d] [] [] s t
     Tile 0 (16 * (rank % e0)) ∧ Tile 1 (16 * (rank / e0 % e1)) ∧ Tile 2 (16 * (rank / (e0 * e1))) ∧ Tile 4 (16 * e0) ∧
     Tile 5 (16 * e1) ∧ Tile 6 (16 * (g.geo.extractLsb' 20 10).toNat) ∧
     Tile 7 (16 * (rank % e0) % 2 ^ 16 + 16 * (rank / e0 % e1) % 2 ^ 16 * 2 ^ 16 + 16 * (rank / (e0 * e1)) % 2 ^ 16 * 2 ^ 32)) ∧
    Gives 6 (g.geo.extractLsb' 20 10).toNat ∧ Gives 7 g.members.length ∧ Gives 8 (g.geo.extractLsb' 30 2).toNat ∧ Gives 9 slot

/-- R61, R222: the barrier instructions and the barrier's events at the group's Weir. That BARW of a core which has arrived in
the phase it names sleeps until the notice has reached that core is the model's reading (log 86). R223, R224: a contribution
is sent to the group's Weir; the last one gives every member the result in rank order, which lands in its register: the sum,
the signed and unsigned minimum and maximum, AND, OR, XOR, the FP32 sum rounded after each addition, or the root's
contribution. Contributions that do not agree raise COLL_MISMATCH after issue, and x[D] keeps its value. -/
def Obligations.BarriersAndCollectives : Prop :=
  (
  (∀ h d a s g, let slot := (s.getX a).toNat % 256
    s.waiting = none → s.group? s.me.colour slot = some g →
    let phase := s.phase s.cur slot
    let Arrives (t : State) : Prop := NMap.find? t.me.arrived slot = some phase ∧
      t.agenda = s.agenda ++ [⟨groupChan s.cur g.home, .barrierArrival g.home slot s.cur⟩] ∧ SameBytes s t ∧ SameCores s t
    (s.me.memberOf slot = true → NMap.find? s.me.arrived slot = none → s.releaseHold = false →
      Runs (.bar h a) s (fun t => Arrives t ∧ t.pc = s.pc ∧ t.lev.wait.isSome = true ∧ Registers [] [] [] s t) ∧
      Runs (.bara h d a) s (fun t => Arrives t ∧ Past h s t ∧ t.getX d = (if d = 0 then 0 else BitVec.ofNat 64 phase) ∧
        Registers [d] [] [] s t)) ∧
    (s.me.memberOf slot = true → (NMap.find? s.me.arrived slot).isSome = true →
      Traps (.bar h a) s Code.barDouble ∧ Traps (.bara h d a) s Code.barDouble) ∧
    (s.me.memberOf slot = true →
      (phase ≠ (s.getX d).toNat % 2 ^ 32 → NMap.find? s.me.arrived slot ≠ some ((s.getX d).toNat % 2 ^ 32) →
        Runs (.barw h d a) s fun t => Past h s t ∧ Frame [] [] [] s t) ∧
      (phase = (s.getX d).toNat % 2 ^ 32 ∨ NMap.find? s.me.arrived slot = some ((s.getX d).toNat % 2 ^ 32) →
        Runs (.barw h d a) s fun t => t.pc = s.pc ∧ t.lev.wait.isSome = true ∧
        Frame [] [] [] s t) ∧
      Runs (.barq h d a) s fun t => t.getX d = (if d = 0 then 0 else BitVec.ofNat 64 phase) ∧ Past h s t ∧ Frame [d] [] [] s t) ∧
    (s.me.memberOf slot = false → Traps (.bar h a) s Code.barNonmember ∧ Traps (.bara h d a) s Code.barNonmember ∧
      Traps (.barw h d a) s Code.barNonmember ∧ Traps (.barq h d a) s Code.barNonmember)) ∧
  (∀ h d a s w, s.waiting = some w → w.reason = .barrier → let slot := w.arg.toNat % 256
    let p := w.arg.toNat / 256
    (NMap.find? s.me.arrived slot ≠ some p → Runs (.bar h a) s fun t => Past h s t ∧ Frame [] [] [] s t) ∧
    (NMap.find? s.me.arrived slot ≠ some p → s.phase s.cur slot ≠ p →
      Runs (.barw h d a) s fun t => Past h s t ∧ Frame [] [] [] s t)) ∧
  (∀ cl slot c s, let g := s.groupAt cl slot
    let ms := s.membersAt cl slot
    ((∀ m ∈ ms, m ∈ g.here ∨ m = c) → Runs (.barrierArrival cl slot c) s fun t =>
      t.groupAt cl slot = { g with phase := (g.phase + 1) % 2 ^ 32, here := [] } ∧
      t.agenda.map (·.ev) = s.agenda.map (·.ev) ++ ms.map (fun m => .barrierCompletionNotice m slot g.phase) ∧ t.mem = s.mem) ∧
    (¬(∀ m ∈ ms, m ∈ g.here ∨ m = c) → Runs (.barrierArrival cl slot c) s fun t =>
      t.groupAt cl slot = { g with here := g.here ++ [c] } ∧ t.agenda = s.agenda ∧ t.mem = s.mem)) ∧
  (∀ c slot phase s, NMap.find? (s.core c).arrived slot = some phase → Runs (.barrierCompletionNotice c slot phase) s fun t =>
    NMap.find? (t.core c).arrived slot = none ∧ t.core c = { s.core c with arrived := (t.core c).arrived } ∧
    (∀ c', c' ≠ c → t.core c' = s.core c') ∧ t = { s with cores := t.cores })) ∧
  (
  (∀ h d a s g, let w := s.getX a
    let slot := w.toNat % 256
    let op := w.toNat / 2 ^ 8 % 16
    let root := w.toNat / 2 ^ 16 % 2 ^ 10
    s.group? s.me.colour slot = some g → s.me.memberOf slot = true →
    let Sent (k : Contribution) (t : State) : Prop := Past h s t ∧
      NMap.find? t.me.coll slot = some (s.me.lvl.val, s.pc, d) ∧ t.lev.locks = s.lev.locks ++ (if d = 0 then [] else [d]) ∧
      t.agenda = s.agenda ++ [⟨groupChan s.cur g.home, .collectiveContribution g.home slot k⟩] ∧ Registers [] [] [] s t ∧
      SameBytes s t ∧ SameCores s t
    (NMap.find? s.me.coll slot = none → s.releaseHold = false →
      (op ≤ 8 → Runs (.gred h d a) s (Sent ⟨s.cur, s.me.lvl.val, s.pc, false, op, 0, s.getX d⟩)) ∧
      (root < g.members.length → Runs (.gbc h d a) s (Sent ⟨s.cur, s.me.lvl.val, s.pc, true, 0, root, s.getX d⟩))) ∧
    (8 < op → Traps (.gred h d a) s Code.collBad) ∧ (g.members.length ≤ root → Traps (.gbc h d a) s Code.collBad)) ∧
  (∀ cl slot (k : Contribution) s, let g := s.groupAt cl slot
    let ms := s.membersAt cl slot
    let ranked := ms.filterMap (fun m => (g.contrib.map (·.2) ++ [k]).find? (fun c => c.c == m))
    (ranked.length = ms.length → Runs (.collectiveContribution cl slot k) s fun t =>
      t.agenda.map (·.ev) = s.agenda.map (·.ev) ++ ms.map (fun m => .collectiveResult m slot (collAgree ranked) (collValue ranked)) ∧
      t.groupAt cl slot = { g with contrib := [] } ∧ t.mem = s.mem) ∧
    (ranked.length ≠ ms.length → Runs (.collectiveContribution cl slot k) s fun t => t.agenda = s.agenda ∧
      t.groupAt cl slot = { g with contrib := g.contrib ++ [(k.c, k)] } ∧ t.mem = s.mem)) ∧
  (∀ (c slot : Nat) (l : Fin 4) pc d v s, NMap.find? (s.core c).coll slot = some (l.val, pc, d) →
    Runs (.collectiveResult c slot true v) s fun t => (t.core c).getX l d = (if d = 0 then 0 else v) ∧
      NMap.find? (t.core c).coll slot = none ∧ (∀ r, r ≠ d → (t.core c).getX l r = (s.core c).getX l r) ∧
      (∀ c', c' ≠ c → t.core c' = s.core c') ∧ t.mem = s.mem) ∧
  (∀ (c slot : Nat) (l : Fin 4) pc d v s, NMap.find? (s.core c).coll slot = some (l.val, pc, d) →
    exec (.collectiveResult c slot false v) s = .next ((s.setCore c ({ s.core c with coll := (s.core c).coll.erase slot }.upLv l
      (fun u => { u with locks := u.locks.erase d }))).afterIssue c l.val Code.collMismatch pc 0 0)) ∧
  (∀ ks : List Contribution, collAgree ks = true ↔ ∀ a ∈ ks, ∀ b ∈ ks, a.gbc = b.gbc ∧ a.op = b.op ∧ a.root = b.root) ∧
  (let Folds (op : Nat) (f : Word → Word → Word) : Prop := ∀ k (r : List Contribution), (∀ c ∈ k :: r, c.gbc = false ∧ c.op = op) →
     collValue (k :: r) = r.foldl (fun x c => f x c.v) k.v
   Folds 0 (fun x y => x + y) ∧ Folds 1 (fun x y => BitVec.ofInt 64 (Min.min x.toInt y.toInt)) ∧
   Folds 2 (fun x y => BitVec.ofInt 64 (Max.max x.toInt y.toInt)) ∧ Folds 3 (fun x y => x &&& y) ∧
   Folds 4 (fun x y => x ||| y) ∧ Folds 5 (fun x y => x ^^^ y) ∧ Folds 6 (fun x y => BitVec.ofNat 64 (Min.min x.toNat y.toNat)) ∧
   Folds 7 (fun x y => BitVec.ofNat 64 (Max.max x.toNat y.toNat))) ∧
  (∀ k (r : List Contribution), (∀ c ∈ k :: r, c.gbc = false ∧ c.op = 8) → ∃ w : W32,
    collValue (k :: r) = (r.foldl (fun x c => (fadd32 .rne x (c.v.setWidth 32)).1) w).setWidth 64 ∧
    (isNan32 (k.v.setWidth 32) = false → w = k.v.setWidth 32) ∧ (isNan32 (k.v.setWidth 32) = true → w = 0x7FC00000)) ∧
  (∀ ks : List Contribution, (∀ c ∈ ks, c.gbc = true ∧ c.root = (ks.headD ⟨0, 0, 0, true, 0, 0, 0⟩).root) →
    ∀ c, ks[(ks.headD ⟨0, 0, 0, true, 0, 0, 0⟩).root]? = some c → collValue ks = c.v))

/-! ### Messages, tasks and handlers -/

/-- R228, R230: MSG and CALLAT send a message with the core's next sequence number; a target outside the partition and a type
without a handler trap. R56, R229, R232: a message that arrives is refused by a core that takes none, held while its class is
masked, else counted and queued at its level; a task joins the task queue; a refusal is taken by the sender after issue. R58:
a message of a SORTED type is parked in its window; the one that completes the count closes the window, whose messages join
their level's queue in ascending order of sender and of sequence number. -/
def Obligations.Messages : Prop :=
  (
  ∀ (h : Head) (d a t : XReg) (s : State), s.inTwin = false →
    let w := s.getX d
    let tgt := w.toNat % 512
    let typ := w.toNat / 2 ^ 16 % 64
    let cls := w.toNat / 2 ^ 24 % 8
    let entry := s.me.dtab[if cls = 0 then typ else 55 + cls]?.getD 0
    let handled := entry.getLsbD 63 = true ∧ entry.extractLsb' 60 2 ≠ 0 ∧ ¬(cls = 0 ∧ typ = 63)
    let Sent (chan : Nat) (m : UMsg) (u : State) : Prop := Past h s u ∧ u.me.seq = s.me.seq + 1 ∧
      u.agenda = s.agenda ++ [⟨chan, .msgArrive tgt m⟩] ∧ (u.cluster s.cl).sent = ((s.cluster s.cl).sent + 1) % 2 ^ 32 ∧
      SameCores s u ∧ SameBytes s u ∧ ({ u.me.rest with seq := 0 } : Core) = { s.me.rest with seq := 0 }
    (s.inPartition tgt = true → handled → s.releaseHold = false → Runs (.msg h d a t) s fun u =>
      Sent (msgChan s.cur tgt cls) ⟨s.cur, tgt, s.me.seq + 1, cls, typ, .msg, [s.getX a, s.getX t], 0, s.me.lvl.val, s.pc,
        s.routeOf s.cur tgt cls⟩ u ∧ Registers [] [] [] s u) ∧
    ((s.getX a).getLsbD 0 = false → s.inPartition tgt = true → (s.me.dtab[63]?.getD 0).getLsbD 63 = true →
      s.releaseHold = false → Runs (.callat h d a t) s fun u =>
        Sent (msgChan s.cur tgt 0) ⟨s.cur, tgt, s.me.seq + 1, 0, 0, .task, [s.getX 4, s.getX 5, s.getX 6, s.getX 7], s.getX a,
          s.me.lvl.val, s.pc, s.routeOf s.cur tgt 0⟩ u ∧
        u.getX t = (if t = 0 then 0 else (s.me.seq + 1).setWidth 64) ∧ Registers [t] [] [] s u) ∧
    (s.inPartition tgt = false → Traps (.msg h d a t) s Code.msgTarget) ∧
    (s.inPartition tgt = true → ¬handled → Traps (.msg h d a t) s Code.msgType) ∧
    ((s.getX a).getLsbD 0 = true → Traps (.callat h d a t) s Code.align (s.getX a)) ∧
    ((s.getX a).getLsbD 0 = false → s.inPartition tgt = false → Traps (.callat h d a t) s Code.msgTarget) ∧
    ((s.getX a).getLsbD 0 = false → s.inPartition tgt = true → (s.me.dtab[63]?.getD 0).getLsbD 63 = false →
      Traps (.callat h d a t) s Code.msgType)) ∧
  (
  ∀ (c : Nat) (m : UMsg) (s : State), let k := s.core c
    let counted (t : State) : Prop := (t.cluster (clusterOf c)).recv = ((s.cluster (clusterOf c)).recv + 1) % 2 ^ 32 ∧
      (∀ c', c' ≠ c → t.core c' = s.core c') ∧ t.mem = s.mem
    let sorted := m.kind = .msg ∧ m.cls = 0 ∧ (k.dtab[m.typ]?.getD 0).getLsbD 62 = true
    (s.accepts c = false → Runs (.msgArrive c m) s fun t => counted t ∧ t.core c = k ∧
      ∃ chan, t.agenda = s.agenda ++ [⟨chan, .messageRefusal m⟩]) ∧
    (s.accepts c = true → m.kind = .msg → m.cls ≠ 0 → k.cmask.getLsbD m.cls = true → Runs (.msgArrive c m) s fun t =>
      t.core c = { k with hold := k.hold ++ [m] } ∧ (∀ c', c' ≠ c → t.core c' = s.core c') ∧ t = { s with cores := t.cores }) ∧
    (s.accepts c = true → m.kind = .task → Runs (.msgArrive c m) s fun t => counted t ∧
      t.core c = { k with tq := k.tq ++ [m] } ∧ t.agenda = s.agenda) ∧
    (s.accepts c = true → m.kind ≠ .task → ¬(m.kind = .msg ∧ m.cls ≠ 0 ∧ k.cmask.getLsbD m.cls = true) → ¬sorted →
      let l := msgLevel m k
      l < 4 → Runs (.msgArrive c m) s fun t => counted t ∧
        (t.core c).hq[l]? = some ((k.hq[l]?.getD []) ++ [m]) ∧ (∀ j, j ≠ l → (t.core c).hq[j]? = k.hq[j]?) ∧
        t.core c = { k with hq := (t.core c).hq } ∧ t.agenda = s.agenda) ∧
    (s.accepts c = true → sorted → let w := NMap.get k.win ⟨none, [], none⟩ m.typ
      let n := w.expect.getD (s.groupSize c (entryGroup (k.dtab[m.typ]?.getD 0)))
      w.msgs.length + 1 < n → k.parked < 64 → Runs (.msgArrive c m) s fun t => counted t ∧ t.agenda = s.agenda ∧ (t.core c).hq = k.hq ∧
        NMap.get (t.core c).win ⟨none, [], none⟩ m.typ = { w with expect := some n, msgs := w.msgs ++ [m] }) ∧
    (s.accepts c = true → sorted → let w := NMap.get k.win ⟨none, [], none⟩ m.typ
      let n := w.expect.getD (s.groupSize c (entryGroup (k.dtab[m.typ]?.getD 0)))
      let l := msgLevel m k
      n ≤ w.msgs.length + 1 → k.parked < 64 → l < 4 → Runs (.msgArrive c m) s fun t => counted t ∧ t.agenda = s.agenda ∧
        ∃ q, (t.core c).hq[l]? = some ((k.hq[l]?.getD []) ++ q) ∧ (∀ j, j ≠ l → (t.core c).hq[j]? = k.hq[j]?) ∧
          q = sortMsgs (w.msgs ++ [m]) ∧ q.Perm (w.msgs ++ [m]) ∧ q.Pairwise (fun x y => x.src ≤ y.src) ∧
          NMap.get (t.core c).win ⟨none, [], none⟩ m.typ = ⟨if w.next = some 0 then none else w.next, [], none⟩) ∧
    (∀ x y : UMsg, x.src = y.src → (x.seq - y.seq).msb = true → (y.seq - x.seq).msb = false →
      sortMsgs [x, y] = [x, y] ∧ sortMsgs [y, x] = [x, y]) ∧
    exec (.messageRefusal m) s = .next (s.afterIssue m.src m.lvl (if s.fenced m.tgt then Code.fenced else Code.msgTarget) m.pc
      (m.seq.setWidth 64) 0))

/-- R56, R57, R231: a handler starts with the oldest message of the highest queue above the running level, which makes room
there for a held message that is no longer masked (R232), and ends with HRET; a task starts with x4 to x7 of its message and ends with MRET, which sends x4 back. -/
def Obligations.HandlersAndTasks : Prop :=
  (∀ c s (l : Fin 4) m r, let k := s.core c
    k.lvl < l → k.hq[l] = m :: r → (∀ j : Fin 4, l < j → k.hq[j] = []) → s.hub.trace.getLsbD 63 = false →
    (∀ q, k.hold = [q] → q.kind = .msg → q.cls ≠ 0 → k.cmask.getLsbD q.cls = false → msgLevel q k = l.val → r.length < 64 →
      Runs (.handlerStart c) s fun t => (t.core c).hq[l] = r ++ [q] ∧ (t.core c).hold = []) ∧
    ((∀ q ∈ k.hold, q.cls ≠ 0 ∧ k.cmask.getLsbD q.cls = true) → Runs (.handlerStart c) s fun t => (t.core c).hold = k.hold ∧
      (t.core c).lvl = l ∧ (t.core c).under = k.lvl :: k.under ∧ (t.core c).hq[l] = r ∧
      (t.core c).lv[l].pc = BitVec.ofNat 64 ((k.entry (entryIndex m)).toNat % 2 ^ 48) ∧
      (t.core c).getX l 8 = m.a[0]?.getD 0 ∧ (t.core c).getX l 9 = m.a[1]?.getD 0 ∧
      (t.core c).lv[l].msgSrc = BitVec.ofNat 64 (m.seq.toNat * 2 ^ 32 + m.src) ∧
      (∀ j : Fin 4, j ≠ l → (t.core c).lv[j] = k.lv[j]) ∧ (∀ c', c' ≠ c → t.core c' = s.core c') ∧ t.mem = s.mem)) ∧
  (∀ h s l r, s.me.under = l :: r → s.me.lvl ≠ 0 → Runs (.hret h) s fun t => t.me.lvl = l ∧ t.me.under = r ∧
    t.me.lv[l].pc = s.me.lv[l].pc ∧ t.me.hq = s.me.hq ∧ Outside s t) ∧
  (∀ h s, s.me.lvl = 0 → Traps (.hret h) s Code.ctxBad) ∧
  (∀ c s m r, let k := s.core c
    k.tq = m :: r → Runs (.taskStart c) s fun t => (t.core c).tq = r ∧ (t.core c).intask = true ∧
      (t.core c).lv[0].pc = m.code ∧ (t.core c).taskRet = k.lv[0].pc ∧
      (∀ j, j < 4 → (t.core c).getX 0 (BitVec.ofNat 6 (4 + j)) = m.a[j]?.getD 0) ∧
      (∀ q : XReg, q ≠ 4 → q ≠ 5 → q ≠ 6 → q ≠ 7 → (t.core c).getX 0 q = k.getX 0 q) ∧
      (∀ c', c' ≠ c → t.core c' = s.core c') ∧ t = { s with cores := t.cores }) ∧
  (∀ h s, s.me.lvl = 0 → s.me.intask = true → s.releaseHold = false → Runs (.mret h) s fun t =>
    let tgt := s.lev.msgSrc.toNat % 512
    t.me.intask = false ∧ t.pc = s.me.taskRet ∧ t.me.seq = s.me.seq + 1 ∧ Registers [] [] [] s t ∧ SameCores s t ∧
    SameBytes s t ∧ t.agenda = s.agenda ++ [⟨msgChan s.cur tgt 0, .msgArrive tgt ⟨s.cur, tgt, s.me.seq + 1, 0, 63, .reply,
      [s.getX 4, BitVec.ofNat 64 (s.lev.msgSrc.toNat / 2 ^ 32)], 0, 0, s.pc, s.routeOf s.cur tgt 0⟩⟩]) ∧
  (∀ h s, s.me.lvl ≠ 0 ∨ s.me.intask = false → Traps (.mret h) s Code.ctxBad)

/-- R232, R233, R236: class masks, the count of a window, queue lengths, and the halt of a core. A message held while its
class was masked joins its level's queue when CLSU unmasks it, in arrival order among all classes, while there is room (R56). -/
def Obligations.MaskWindowHalt : Prop :=
  (∀ h a s l, let x := (s.getX a).setWidth 8 &&& 0xFE
    let old := s.me.hq[l]?.getD []
    (∀ q ∈ s.me.hold, q.kind = .msg ∧ q.cls ≠ 0 ∧ x.getLsbD q.cls = true ∧ msgLevel q s.me = l) → l < 4 →
    (old.length + s.me.hold.length ≤ 64 → Runs (.clsu h a) s fun t => Past h s t ∧ t.me.hold = [] ∧
      t.me.hq[l]? = some (old ++ s.me.hold) ∧ (∀ j, j ≠ l → t.me.hq[j]? = s.me.hq[j]?) ∧ SameBytes s t ∧ SameCores s t) ∧
    (64 ≤ old.length → Runs (.clsu h a) s fun t => Past h s t ∧ t.me.hold = s.me.hold ∧ t.me.hq = s.me.hq ∧ SameBytes s t ∧
      SameCores s t)) ∧
  (∀ h a s, let x := (s.getX a).setWidth 8 &&& 0xFE
    (∀ q ∈ s.me.hold, q.cls ≠ 0 ∧ ((s.me.cmask &&& 0xFE) &&& ~~~x).getLsbD q.cls = true) →
    Runs (.clsm h a) s (fun t => t.me.cmask = (s.me.cmask &&& 0xFE) ||| x ∧ Past h s t ∧ Registers [] [] [] s t ∧ SameCores s t ∧
      SameBytes s t ∧ t.agenda = s.agenda) ∧
    Runs (.clsu h a) s (fun t => t.me.cmask = (s.me.cmask &&& 0xFE) &&& ~~~x ∧ Past h s t ∧ Registers [] [] [] s t ∧ SameCores s t ∧
      SameBytes s t ∧ t.agenda = s.agenda)) ∧
  (∀ h d a s, let typ := (s.getX a).toNat % 64
    let entry := s.me.dtab[typ]?.getD 0
    let n := (s.getX d).toNat
    let w := NMap.get s.me.win ⟨none, [], none⟩ typ
    (entry.getLsbD 63 = true → entry.getLsbD 62 = true → n ≤ 4096 → Runs (.mclose h d a) s fun t => Past h s t ∧
      NMap.get t.me.win ⟨none, [], none⟩ typ = (if w.msgs = [] then { w with expect := if n = 0 then none else some n }
        else { w with next := some n }) ∧
      ({ t.me.rest with win := [] } : Core) = { s.me.rest with win := [] } ∧ Registers [] [] [] s t ∧ Outside s t) ∧
    (entry.getLsbD 63 = true → entry.getLsbD 62 = true → 4096 < n → Traps (.mclose h d a) s Code.winCount) ∧
    (entry.getLsbD 63 = false ∨ entry.getLsbD 62 = false → Traps (.mclose h d a) s Code.msgType)) ∧
  (∀ h d a s, let x := s.getX a
    let w := NMap.get s.me.win ⟨none, [], none⟩ (x.toNat % 64)
    let len (l : Fin 4) : Nat := s.me.hq[l].length % 256
    Runs (.mpoll h d a) s fun t => Past h s t ∧ Frame [d] [] [] s t ∧ t.getX d = (if d = 0 then 0
      else if x.getLsbD 6 then BitVec.ofNat 64 (len 1 + len 2 * 2 ^ 8 + len 3 * 2 ^ 16 + s.me.tq.length % 256 * 2 ^ 24)
      else BitVec.ofNat 64 (w.msgs.length % 2 ^ 16 + w.expect.getD 0xFFFF % 2 ^ 16 * 2 ^ 16 + if w.msgs = [] then 0 else 2 ^ 32))) ∧
  (∀ h s, let busy := (∃ v ∈ s.me.lv.toList, v.out ≠ [] ∨ v.locks ≠ []) ∨ s.me.stores ≠ 0 ∨ s.releaseHold = true
    let legal := s.me.lvl = 0 ∧ s.me.inact = false ∧ s.me.intask = false ∧ s.me.tq = []
    (¬legal → Traps (.halt h) s Code.ctxBad) ∧
    (legal → ¬busy → Runs (.halt h) s fun t => t.me.status = .halted ∧ t.me.openB = [] ∧ t.me.hold = [] ∧
      Registers [] [] [] s t ∧ SameCores s t ∧ SameBytes s t ∧
      (∀ e ∈ s.me.win, ∀ m ∈ e.2.msgs, ∃ f ∈ t.agenda, f.ev = .messageRefusal m) ∧
      ∀ m ∈ s.me.hold, ∃ f ∈ t.agenda, f.ev = .messageRefusal m) ∧
    (legal → busy → Runs (.halt h) s fun t => t.pc = s.pc ∧ t.lev.wait.isSome = true ∧ Frame [] [] [] s t))

/-! ### The vector unit -/

/-- R241: the integer lane operations. -/
def Obligations.VectorIntegerLanes : Prop :=
  Lanewise .vadd (fun d a => d + a) ∧ Lanewise .vsub (fun d a => d - a) ∧ Lanewise .vmul (fun d a => d * a) ∧
  Lanewise .vmulh (fun d a => BitVec.ofInt 32 (d.toInt * a.toInt / 2 ^ 32)) ∧ Lanewise .vand (fun d a => d &&& a) ∧
  Lanewise .vor (fun d a => d ||| a) ∧ Lanewise .vxor (fun d a => d ^^^ a) ∧ Lanewise .vandn (fun d a => d &&& ~~~a) ∧
  Lanewise .vshl (fun d a => d <<< (a.toNat % 32)) ∧ Lanewise .vshr (fun d a => d >>> (a.toNat % 32)) ∧
  Lanewise .vsar (fun d a => d.sshiftRight (a.toNat % 32)) ∧ Lanewise .vrol (fun d a => d.rotateLeft (a.toNat % 32)) ∧
  Lanewise .vmin (fun d a => BitVec.ofInt 32 (Min.min d.toInt a.toInt)) ∧
  Lanewise .vmax (fun d a => BitVec.ofInt 32 (Max.max d.toInt a.toInt)) ∧
  Lanewise .vminu (fun d a => BitVec.ofNat 32 (Min.min d.toNat a.toNat)) ∧
  Lanewise .vmaxu (fun d a => BitVec.ofNat 32 (Max.max d.toNat a.toNat))

/-- R140, R242: the FP32 lane operations under their rounding code; those of variable latency are on their way. R126, R137,
R138, R140: for finite operands the result is the exact one rounded once, with NX, UF, OF and its overflow; an exact zero has
the sign R140 gives it, and a quotient by zero sets DZ. That UF goes by tininess after rounding is the model's reading (log
57). R128, R140, R242: a NaN gives the canonical NaN; infinite operands; the special rows of division and roots. -/
def Obligations.VectorFloat : Prop :=
  (
  (∀ h (d a t : VReg) (m : KReg) (rc : BitVec 3) (s : State),
    let rm := Rm.of (if rc = 4 then s.lev.rm.toNat else rc.toNat)
    let x (j : Fin 8) := (s.getV d)[j]
    let y (j : Fin 8) := (s.getV a)[j]
    let z (j : Fin 8) := (s.getV t)[j]
    LanewiseFp (.vfadd h d a m rc) h d m (fun j => fadd32 rm (x j) (y j)) s ∧
    LanewiseFp (.vfsub h d a m rc) h d m (fun j => fsub32 rm (x j) (y j)) s ∧
    LanewiseFp (.vfmul h d a m rc) h d m (fun j => fmul32 rm (x j) (y j)) s ∧
    (∀ k : BitVec 2, LanewiseFp (.vfma h d a t rc k) h d (k.setWidth 3) (fun j => ffma32 rm (y j) (z j) (x j)) s) ∧
    LanewiseLate (.vfdiv h d a m rc) h d m (fun j => fdiv32 rm (x j) (y j)) s ∧
    LanewiseLate (.vfsqrt h d a m rc) h d m (fun j => fsqrt32 rm (y j)) s ∧
    LanewiseLate (.vfrcp h d a m rc) h d m (fun j => frcp32 rm (y j)) s ∧
    LanewiseLate (.vfrsq h d a m rc) h d m (fun j => frsq32 rm (y j)) s) ∧
  Lanewise .vfmin fmin32 ∧ Lanewise .vfmax fmax32 ∧
  Lanewise .vfabs (fun _ y => if isNan32 y then 0x7FC00000 else y &&& 0x7FFFFFFF) ∧
  Lanewise .vfneg (fun _ y => if isNan32 y then 0x7FC00000 else y ^^^ 0x80000000)) ∧
  (
  (∀ rm w, isNan32 w = false → to32 rm (f32 w) = (w, 0)) ∧
  (∀ rm x y, isNan32 x = true ∨ isNan32 y = true → fadd32 rm x y = (0x7FC00000, 0) ∧ fsub32 rm x y = (0x7FC00000, 0) ∧
    fmul32 rm x y = (0x7FC00000, 0) ∧ fdiv32 rm x y = (0x7FC00000, 0) ∧ fmin32 x y = 0x7FC00000 ∧ fmax32 x y = 0x7FC00000) ∧
  (fp32 = ⟨8, 23, 127, 0x7F7FFFFF, some 0x7F800000, some 0x7FC00000⟩) ∧
  (∀ rm a b d, Finite32 a → Finite32 b → Finite32 d →
    let x := val32 a
    let y := val32 b
    let z := val32 d
    let tie : W32 := if rm = .rd then 0x80000000 else 0
    let odd := a.msb ^^ b.msb
    (x + y ≠ 0 → Rounded32 rm (x + y : ℚ) (fadd32 rm a b)) ∧ (x + y = 0 → fadd32 rm a b = (if a = b then a else tie, 0)) ∧
    (x - y ≠ 0 → Rounded32 rm (x - y : ℚ) (fsub32 rm a b)) ∧ (x - y = 0 → fsub32 rm a b = (if a = b then tie else a, 0)) ∧
    (x * y ≠ 0 → Rounded32 rm (x * y : ℚ) (fmul32 rm a b)) ∧ (x * y = 0 → fmul32 rm a b = (signed32 odd 0, 0)) ∧
    (x * y + z ≠ 0 → Rounded32 rm (x * y + z : ℚ) (ffma32 rm a b d)) ∧
    (x * y + z = 0 → ffma32 rm a b d = (if x * y = 0 ∧ (a.msb ^^ b.msb) = d.msb then d else tie, 0)) ∧
    (x ≠ 0 → y ≠ 0 → Rounded32 rm (x / y : ℚ) (fdiv32 rm a b)) ∧ (x = 0 → y ≠ 0 → fdiv32 rm a b = (signed32 odd 0, 0)) ∧
    (x ≠ 0 → y = 0 → fdiv32 rm a b = (signed32 odd 0x7F800000, 8)) ∧ (x = 0 → y = 0 → fdiv32 rm a b = (0x7FC00000, 16)) ∧
    (0 < x → Rounded32 rm (Real.sqrt x) (fsqrt32 rm a) ∧ Rounded32 rm (1 / Real.sqrt x) (frsq32 rm a)) ∧
    frcp32 rm a = fdiv32 rm 0x3F800000 a) ∧
  (∀ rm (i b : W32), i.toNat % 2 ^ 31 = 0x7F800000 → let odd := i.msb ^^ b.msb
    (Finite32 b → fadd32 rm i b = (i, 0) ∧ fsub32 rm i b = (i, 0) ∧ fsub32 rm b i = (i ^^^ 0x80000000, 0) ∧
      fdiv32 rm i b = (signed32 odd 0x7F800000, 0) ∧ fdiv32 rm b i = (signed32 odd 0, 0) ∧
      fmul32 rm i b = (if val32 b = 0 then (0x7FC00000, 16) else (signed32 odd 0x7F800000, 0)) ∧
      (val32 b = 0 → ∀ d, ffma32 rm i b d = (0x7FC00000, 16) ∧ ffma32 rm b i d = (0x7FC00000, 16))) ∧
    fadd32 rm i i = (i, 0) ∧ fadd32 rm i (i ^^^ 0x80000000) = (0x7FC00000, 16) ∧ fsub32 rm i i = (0x7FC00000, 16) ∧
    fmul32 rm i i = (0x7F800000, 0) ∧ fdiv32 rm i i = (0x7FC00000, 16)) ∧
  (∀ rm x y, fadd32 rm x y = fadd32 rm y x ∧ fmul32 rm x y = fmul32 rm y x) ∧
  (∀ rm, fsqrt32 rm 0 = (0, 0) ∧ frcp32 rm 0 = (0x7F800000, 8) ∧ frsq32 rm 0 = (0x7F800000, 8) ∧
    fsqrt32 rm 0x80000000 = (0x80000000, 0) ∧ frcp32 rm 0x80000000 = (0xFF800000, 8) ∧
    frsq32 rm 0x80000000 = (0xFF800000, 8) ∧ frcp32 rm 0x7F800000 = (0, 0) ∧ frsq32 rm 0x7F800000 = (0, 0) ∧
    fsqrt32 rm 0x7F800000 = (0x7F800000, 0)) ∧
  (∀ rm w, w.msb = true → w ≠ 0x80000000 → isNan32 w = false →
    fsqrt32 rm w = (0x7FC00000, 16) ∧ frsq32 rm w = (0x7FC00000, 16)) ∧
  (∀ w, isNan32 w = decide (0x7F800000 < (w &&& 0x7FFFFFFF).toNat)))

/-- R243: the comparisons. FP32 treats −0 as equal to +0; a NaN makes all but UN false and sets NV in LT and LE. -/
def Obligations.VectorComparisons : Prop :=
  Compares .vcmpEq (fun x y => decide (x = y)) (fun _ _ => 0) ∧ Compares .vcmpNe (fun x y => decide (x ≠ y)) (fun _ _ => 0) ∧
  Compares .vcmpLt (fun x y => decide (x.toInt < y.toInt)) (fun _ _ => 0) ∧
  Compares .vcmpLtu (fun x y => decide (x.toNat < y.toNat)) (fun _ _ => 0) ∧
  (let nan (w : W32) : Bool := decide (0x7F800000 < (w &&& 0x7FFFFFFF).toNat)
    let mag (w : W32) : Int := ((w &&& 0x7FFFFFFF).toNat : Int)
    let val (w : W32) : Int := if w.msb then -mag w else mag w
    let nv (x y : W32) : FpFlags := if nan x || nan y then 16 else 0
    Compares .vfcmpEq (fun x y => !nan x && !nan y && decide (val x = val y)) (fun _ _ => 0) ∧
    Compares .vfcmpLt (fun x y => !nan x && !nan y && decide (val x < val y)) nv ∧
    Compares .vfcmpLe (fun x y => !nan x && !nan y && decide (val x ≤ val y)) nv ∧
    Compares .vfcmpUn (fun x y => nan x || nan y) (fun _ _ => 0))

/-- R244: the mask instructions. k0 reads 0xFF and discards writes. -/
def Obligations.MaskInstructions : Prop :=
  (let Sets (i : Instr) (h : Head) (d : KReg) (v : BitVec 8) (s : State) : Prop := Runs i s fun t =>
      t.getK d = (if d = 0 then 0xFF else v) ∧ Past h s t ∧ Frame [] [] [d] s t
    ∀ h d a k x s,
      Sets (.kand h d a (some k)) h d (s.getK a &&& s.getK k) s ∧ Sets (.kand h d a none) h d (s.getK d &&& s.getK a) s ∧
      Sets (.kor h d a (some k)) h d (s.getK a ||| s.getK k) s ∧ Sets (.kor h d a none) h d (s.getK d ||| s.getK a) s ∧
      Sets (.kxor h d a (some k)) h d (s.getK a ^^^ s.getK k) s ∧ Sets (.kxor h d a none) h d (s.getK d ^^^ s.getK a) s ∧
      Sets (.knot h d a) h d (~~~s.getK a) s ∧ Sets (.kmov h d x) h d ((s.getX x).setWidth 8) s) ∧
  (∀ h d a, Computes (.kany h d a) h d (fun s => if s.getK a ≠ 0 then 1 else 0) ∧
    Computes (.kall h d a) h d (fun s => if s.getK a = 0xFF then 1 else 0) ∧
    Computes (.kcnt h d a) h d (fun s => BitVec.ofNat 64 ((List.range 8).countP (fun j => (s.getK a).getLsbD j))) ∧
    Computes (.kmovx h d a) h d (fun s => (s.getK a).setWidth 64) ∧
    ∃ g : BitVec 8 → Word, Computes (.kfirst h d a) h d (fun s => g (s.getK a)) ∧ g 0 = 8 ∧
      ∀ m, m ≠ 0 → (g m).toNat < 8 ∧ m.getLsbD (g m).toNat = true ∧ ∀ j, j < (g m).toNat → m.getLsbD j = false)

/-- R245, R246, R247: vector loads and stores of the active lanes whose elements all lie at a key: a load from window 0x00
or the lane slices writes its lanes at once, another is on its way; a store writes in ascending lane order. -/
def Obligations.VectorMemory : Prop :=
  ∀ h (d v : VReg) (a : XReg) (k : KReg) disp o s (key : Fin 8 → Nat),
    let m := s.getK k
    let line (j : Fin 8) : Word := s.getX a + disp + BitVec.ofNat 64 (4 * j.val)
    let spread (j : Fin 8) : Word := s.getX a + disp + ((s.getV v)[j]).signExtend 64
    let slice (j : Fin 8) : Nat := (((s.getV v)[j]).toNat + disp.toNat) % 2 ^ 32
    let el (j : Fin 8) : W32 := BitVec.ofNat 32 (leVal (s.bytesAt s.cur (key j) 4))
    let Late (t : State) : Prop := Past h s t ∧ Registers [] [] [] s t ∧ Outside s { t with agenda := s.agenda, ids := s.ids } ∧
      ∃ id pre, (∀ f ∈ pre, ∃ w, f.ev = .tlbWalk w) ∧ t.agenda = s.agenda ++ pre ++ [⟨landChan s.cur s.me.lvl.val (64 + d.toNat),
        .resultLand s.cur s.me.lvl.val id s.pc (.vec d ((List.finRange 8).map (fun (j : Fin 8) =>
          if m.getLsbD j.val then some (el j) else none)))⟩]
    let At (t : State) : Prop := Past h s t ∧ Frame [] [d] [] s t ∧
      ∀ j : Fin 8, (t.getV d)[j] = if m.getLsbD j then el j else (s.getV d)[j]
    let Put (t : State) : Prop := Past h s t ∧ Registers [] [] [] s t ∧ SameCores s t ∧ StoredLanes m key (s.getV d) s t
    (s.orderHold o false = false →
      (∀ off, placeOf s.cur (s.getX a + disp) = .own off →
        (∀ j : Fin 8, m.getLsbD j = true → s.plan (line j) 4 false = .go (key j) true true false) → Runs (.vld h d a k disp o) s At) ∧
      ((∀ off, placeOf s.cur (s.getX a + disp) ≠ .own off) → s.roomFor = true → ElementsAt s m line false key →
        Runs (.vld h d a k disp o) s Late) ∧
      (ElementsAt s m spread false key → s.roomFor = true → Runs (.vldg h d a v k disp o) s Late) ∧
      ((∀ j : Fin 8, m.getLsbD j = true → slice j < 2048 ∧ slice j % 4 = 0 ∧ key j = laneKey s.cur (2048 * j.val + slice j)) →
        s.cur < 512 → s.damage = [] → s.poison = [] → s.atomicAhead s.cur = false → s.heldWrites = [] →
        (o.ord = 2 → s.lev.out = []) →
        Runs (.vldl h d v k disp o) s At)) ∧
    (s.orderHold o true = false → s.mem.wf = true → s.inTwin = false → s.replaying s.me.colour = false →
      (∀ j : Fin 8, m.getLsbD j = true → s.heldSlot (key j) 4 = false) →
      (ElementsAt s m line true key → Runs (.vst h d a k disp o) s Put) ∧
      (ElementsAt s m spread true key → Runs (.vsts h d a v k disp o) s Put) ∧
      ((∀ j : Fin 8, m.getLsbD j = true → slice j < 2048 ∧ slice j % 4 = 0 ∧ key j = laneKey s.cur (2048 * j.val + slice j)) →
        s.damage = [] → s.poison = [] → s.atomicAhead s.cur = false → Runs (.vstl h d v k disp o) s Put))

/-- R248, R253: moves, permutes, packs and unpacks. R249: reductions in their one fixed order over the active lanes. -/
def Obligations.VectorMovesAndReductions : Prop :=
  (
  (∀ h (d a b : VReg) (x : XReg) (k : KReg) (n : BitVec 3) s,
    let m := s.getK k
    let Lanes (i : Instr) (f : Fin 8 → W32) : Prop := Runs i s fun t => Past h s t ∧ Frame [] [d] [] s t ∧
      ∀ j : Fin 8, (t.getV d)[j] = if m.getLsbD j then f j else (s.getV d)[j]
    Lanes (.vbcst h d x k) (fun _ => (s.getX x).setWidth 32) ∧
    Lanes (.vmov h d a k) (fun j => (s.getV a)[j]) ∧
    Lanes (.vperm h d a k) (fun j => let p := (s.getV d)[j]
      if p.getLsbD 3 then 0 else (s.getV a)[p.toNat % 8]'(by omega)) ∧
    Lanes (.vlrot h d a n k) (fun j => (s.getV a)[(j.val + n.toNat) % 8]'(by omega)) ∧
    (Runs (.vsel h d a b k) s fun t => Past h s t ∧ Frame [] [d] [] s t ∧
      ∀ j : Fin 8, (t.getV d)[j] = if m.getLsbD j then (s.getV a)[j] else (s.getV b)[j])) ∧
  (∀ h (d : XReg) (a : VReg) (n : BitVec 3), Computes (.vext h d a n false) h d (fun s => ((s.getV a)[n.toNat]'n.isLt).signExtend 64) ∧
    Computes (.vext h d a n true) h d (fun s => ((s.getV a)[n.toNat]'n.isLt).setWidth 64)) ∧
  (∀ h (d a : VReg) (w : BitVec 2) (p : BitVec 3) s, w ≠ 3 →
    let n := if w = 0 then 16 else if w = 1 then 8 else 4
    8 * n * (p.toNat + 1) ≤ 256 →
    let bit (v : Lanes) (q : Nat) : Bool := ((v[q / 32]?).getD 0).getLsbD (q % 32)
    (Runs (.vpack h d a w p) s fun t => Past h s t ∧ Frame [] [d] [] s t ∧ ∀ q, q < 256 → bit (t.getV d) q =
      if 8 * n * p.toNat ≤ q ∧ q < 8 * n * (p.toNat + 1) then (((s.getV a)[(q - 8 * n * p.toNat) / n]?).getD 0).getLsbD (q % n)
      else bit (s.getV d) q) ∧
    (Runs (.vunpk h d a w p) s fun t => Past h s t ∧ Frame [] [d] [] s t ∧ ∀ (j : Fin 8) b, b < 32 →
      ((t.getV d)[j]).getLsbD b = if b < n then bit (s.getV a) (8 * n * p.toNat + n * j.val + b) else false))) ∧
  (
  ∀ h (d : XReg) (a : VReg) (k : KReg) (rc : BitVec 3) s,
    let m := s.getK k
    let l (j : Fin 8) : W32 := (s.getV a)[j]
    let on : List (Fin 8) := (List.finRange 8).filter (fun j => m.getLsbD j)
    let Gives (i : Instr) (P : Word → Prop) : Prop := Runs i s fun t => (d ≠ 0 → P (t.getX d)) ∧ Past h s t ∧ Frame [d] [] [] s t
    Gives (.vradd h d a k) (fun w => w = on.foldl (fun x j => x + (l j).signExtend 64) 0) ∧
    Gives (.vrmax h d a k) (fun w => if on = [] then w = BitVec.ofInt 64 (-2 ^ 31)
      else (∃ j ∈ on, w = (l j).signExtend 64) ∧ ∀ j ∈ on, (l j).toInt ≤ w.toInt) ∧
    Gives (.vrmin h d a k) (fun w => if on = [] then w = 0x7FFFFFFF
      else (∃ j ∈ on, w = (l j).signExtend 64) ∧ ∀ j ∈ on, w.toInt ≤ (l j).toInt) ∧
    (let rm := Rm.of (if rc = 4 then s.lev.rm.toNat else rc.toNat)
      let op (p q : Option W32) : Option W32 := match p, q with
        | none, q => q
        | p, none => p
        | some p, some q => some (fadd32 rm p q).1
      let e (j : Fin 8) : Option W32 := if m.getLsbD j then some (l j) else none
      let r := op (op (op (e 0) (e 1)) (op (e 2) (e 3))) (op (op (e 4) (e 5)) (op (e 6) (e 7)))
      let w := r.getD 0
      Runs (.vrfadd h d a k rc) s fun t => t.getX d = (if d = 0 then 0 else if isNan32 w then 0x7FC00000 else w.setWidth 64) ∧ Past h s t ∧
        Registers [d] [] [] s t ∧ SameBytes s t ∧ SameCores s t))

/-- R250 to R255: conversions and quantisation, lane by lane with their flags; the block formats over whole registers. R126,
R136: what a conversion of FP32 to an integer and to a narrower format gives, with the flags of its one rounding, and that one
to FP32 is exact but for INT32. R139: stochastic rounding. R144: VSCAL, VQNT and VDQNT; what VQNT gives with s = 0 is the
model's choice (log 118). R131, R132: the shared exponent and the mantissas of a block. -/
def Obligations.VectorConversions : Prop :=
  (∀ e ∈ ([(0, 32, -2 ^ 31, 2 ^ 31 - 1), (8, 16, -2 ^ 15, 2 ^ 15 - 1), (9, 8, -128, 127), (10, 8, 0, 255), (11, 4, -8, 7),
      (12, 4, 0, 15)] : List (Nat × Nat × ℤ × ℤ)),
    ∀ rm np (x rb : W32), let (fmt, width, lo, hi) := e
      let out (k : ℤ) : W32 := (BitVec.ofInt width k).setWidth 32
      let clamped (k : ℤ) (fl : FpFlags) : W32 × FpFlags :=
        if k < lo then (out lo, 32 ||| fl) else if hi < k then (out hi, 32 ||| fl) else (out k, fl)
      (isNan32 x = true → cvtTo fmt rm np x = (0, 16)) ∧ cvtTo fmt rm np 0x7F800000 = (out hi, 32) ∧
      cvtTo fmt rm np 0xFF800000 = (out lo, 32) ∧
      (Finite32 x → ∃ k, RoundedTo rm (val32 x) k ∧ ∃ fl : FpFlags, (fl = if lo ≤ k ∧ k ≤ hi ∧ (k : ℚ) ≠ val32 x then 1 else 0) ∧
        cvtTo fmt rm np x = clamped k fl) ∧
      (¬Finite32 x ∨ val32 x = 0 → roundSr fmt np x rb = cvtTo fmt .rne np x) ∧
      (Finite32 x → ∀ t, Binade (val32 x : ℝ) t →
        (23 ≤ max t (-126) → roundSr fmt np x rb = cvtTo fmt .rne np x) ∧
        (max t (-126) < 23 → let w := min (23 - max t (-126)).toNat 16
          let n := ⌊|val32 x|⌋
          let up := 2 ^ w ≤ ⌊(|val32 x| - n) * 2 ^ w⌋ + ((rb.toNat % 2 ^ w : ℕ) : ℤ)
          let k := if up then n + 1 else n
          roundSr fmt np x rb = clamped (if val32 x < 0 then -k else k) (if (n : ℚ) = |val32 x| then 0 else 1))) ∧
      (0 < fmt → ∃ v : ℤ, (v = if lo = 0 then ((x.setWidth width).toNat : ℤ) else (x.setWidth width).toInt) ∧
        Finite32 (cvtFrom fmt rm x).1 ∧ val32 (cvtFrom fmt rm x).1 = v ∧ (v = 0 → (cvtFrom fmt rm x).1 = 0) ∧ (cvtFrom fmt rm x).2 = 0)) ∧
  (∀ rm x, (x.toInt ≠ 0 → Rounded32 rm (x.toInt : ℝ) (cvtFrom 0 rm x)) ∧ cvtFrom 0 rm 0 = (0, 0)) ∧
  ([1, 2, 3, 4, 5, 6, 7].map fpFmtOf = [⟨8, 7, 127, 0x7F7F, some 0x7F80, some 0x7FC0⟩, ⟨5, 10, 15, 0x7BFF, some 0x7C00, some 0x7E00⟩,
    ⟨4, 3, 7, 0x7E, none, some 0x7F⟩, ⟨5, 2, 15, 0x7B, some 0x7C, some 0x7E⟩, ⟨3, 2, 3, 0x1F, none, none⟩,
    ⟨2, 3, 1, 0x1F, none, none⟩, ⟨2, 1, 1, 0x7, none, none⟩]) ∧
  (∀ fmt ∈ [1, 2, 3, 4, 5, 6, 7], ∀ rm np (x rb : W32), let f := fpFmtOf fmt
    let sign : Nat := if x.msb then 2 ^ (f.ebits + f.mbits) else 0
    let mag := x.toNat % 2 ^ (f.ebits + f.mbits)
    let neg := x.getLsbD (f.ebits + f.mbits)
    let y := cvtFrom fmt rm x
    (isNan32 x = true → cvtTo fmt rm np x = (match f.nan with | some c => (BitVec.ofNat 32 c, 0) | none => (0, 16))) ∧
    (x.toNat % 2 ^ 31 = 0x7F800000 → cvtTo fmt rm np x = (match np, f.inf, f.nan with
      | true, some c, _ => (BitVec.ofNat 32 (sign + c), 0)
      | true, none, some c => (BitVec.ofNat 32 c, 0)
      | _, _, _ => (BitVec.ofNat 32 (sign + f.max), 32))) ∧
    (x.toNat % 2 ^ 31 = 0 → cvtTo fmt rm np x = (BitVec.ofNat 32 sign, 0)) ∧
    (Finite32 x → val32 x ≠ 0 → ∃ c, RoundsMag f rm (val32 x) c ∧
      Delivered f np (val32 x < 0) (OverflowsToInf rm (val32 x)) (f.mag c ≠ |val32 x|) c (cvtTo fmt rm np x)) ∧
    (¬Finite32 x ∨ val32 x = 0 → roundSr fmt np x rb = cvtTo fmt .rne np x) ∧
    (Finite32 x → ∀ t, Binade (val32 x : ℝ) t → let q : ℤ := max t (1 - f.bias) - f.mbits
      let ulp := max t (-126) - 23
      (q ≤ ulp → roundSr fmt np x rb = cvtTo fmt .rne np x) ∧
      (ulp < q → let w := min (q - ulp).toNat 16
        let n := ⌊|val32 x| / 2 ^ q⌋
        let up := 2 ^ w ≤ ⌊(|val32 x| / 2 ^ q - n) * 2 ^ w⌋ + ((rb.toNat % 2 ^ w : ℕ) : ℤ)
        ∃ c, f.mag c = (if up then n + 1 else n : ℤ) * 2 ^ q ∧
          Delivered f np (val32 x < 0) True ((n : ℚ) * 2 ^ q ≠ |val32 x|) c (roundSr fmt np x rb))) ∧
    y.2 = 0 ∧ (mag ≤ f.max → Finite32 y.1 ∧ y.1.msb = neg ∧ |val32 y.1| = f.mag mag) ∧
    (f.max < mag → y.1 = if f.inf = some mag then signed32 neg 0x7F800000 else 0x7FC00000)) ∧
  (∀ fmt ∈ [10, 12], ∀ (x s m : W32), let b := if fmt = 12 then 4 else 8
    let q : ℚ := ((x.toNat % 2 ^ b : ℕ) : ℚ)
    let top : ℤ := 2 ^ b - 1
    (isNan32 s = true ∨ isNan32 m = true → vqnt32 fmt x s m = (0, 16)) ∧
    (isNan32 s = true ∨ (isNan32 m = true ∧ Finite32 s) → vdqnt32 fmt x s m = (0x7FC00000, 0)) ∧
    (isNan32 s = false → isNan32 m = false → isNan32 x = true → vqnt32 fmt x s m = (0, 16)) ∧
    (Finite32 s → Finite32 m → val32 s ≠ 0 →
      (Finite32 x → ∃ k, RoundedTo .rne ((val32 x - val32 m) / val32 s : ℚ) k ∧ vqnt32 fmt x s m =
        if k < 0 then (0, 32) else if top < k then (BitVec.ofInt 32 top, 32)
        else (BitVec.ofInt 32 k, if (k : ℚ) = (val32 x - val32 m) / val32 s then 0 else 1)) ∧
      (x.toNat % 2 ^ 31 = 0x7F800000 → vqnt32 fmt x s m = if x.msb = s.msb then (BitVec.ofInt 32 top, 32) else (0, 32))) ∧
    (Finite32 s → Finite32 m → Finite32 x → val32 s = 0 → vqnt32 fmt x s m = if val32 x = val32 m then (0, 16)
      else if val32 x < val32 m ↔ s.msb = true then (BitVec.ofInt 32 top, 32) else (0, 32)) ∧
    (Finite32 s → Finite32 m → (q * val32 s + val32 m ≠ 0 → Rounded32 .rne (q * val32 s + val32 m : ℚ) (vdqnt32 fmt x s m)) ∧
      (q * val32 s + val32 m = 0 → vdqnt32 fmt x s m = (if q * val32 s = 0 ∧ s.msb = m.msb then m else 0, 0))) ∧
    (¬Finite32 x ∨ ¬Finite32 s → vscal32 fmt x s = (0x7FC00000, 0x7FC00000, 16)) ∧
    (Finite32 x → Finite32 s → (val32 s = val32 x → vscal32 fmt x s = (0x3F800000, x, 0)) ∧
      (val32 s ≠ val32 x → (vscal32 fmt x s).2.1 = x ∧
        Rounded32 .ru ((val32 s - val32 x) / top : ℚ) ((vscal32 fmt x s).1, (vscal32 fmt x s).2.2)))) ∧
  (∀ e ∈ ([(13, 128), (14, 32), (15, 8)] : List (Nat × Nat)), ∀ xs : List W32, let (fmt, half) := e
    let r := bfpConvert fmt xs
    let m : ℤ := half - 1
    let fits (ex : ℤ) : Prop := ∀ x ∈ xs, |val32 x| ≤ (m / half : ℚ) * 2 ^ ex
    r.1.length = xs.length ∧
    ((∃ x ∈ xs, ¬Finite32 x) → r = (List.replicate xs.length 0, 0xFF, 16)) ∧
    ((∀ x ∈ xs, Finite32 x) → ∃ ex : ℤ, -127 ≤ ex ∧ ex ≤ 127 ∧ (r.2.1 : ℤ) = ex + 127 ∧ (ex < 127 → fits ex) ∧
      (-127 < ex → ¬fits (ex - 1)) ∧
      (∀ (j : ℕ) x, xs[j]? = some x → ∃ k, RoundedTo .rne (val32 x * half / 2 ^ ex : ℚ) k ∧ r.1[j]? = some (max (-m) (min m k))) ∧
      (r.2.2.getLsbD 5 = true ↔ ¬fits ex) ∧
      (r.2.2.getLsbD 0 = true ↔ ∃ (j : ℕ) (x : W32) (k : ℤ), xs[j]? = some x ∧ r.1[j]? = some k ∧ (k : ℚ) * 2 ^ ex / half ≠ val32 x) ∧
      (r.2.2.getLsbD 1 = true ↔ ∃ (j : ℕ) (x : W32), xs[j]? = some x ∧ val32 x ≠ 0 ∧ r.1[j]? = some 0) ∧ r.2.2 &&& 0x1C = 0)) ∧
  ∀ h (d a : VReg) (x : XReg) (k : KReg) (fmt : BitVec 4) s,
    let v (j : Fin 8) := (s.getV a)[j]
    let old (j : Fin 8) := (s.getV d)[j]
    let next (j : Fin 8) := (s.getV (d + 1))[j]
    let rm := Rm.of s.lev.rm.toNat
    let r (j : Fin 8) := vscal32 fmt.toNat (v j) ((s.getV (a + 1))[j])
    (fmt.toNat < 13 → LanewiseFp (.vcvt h d a k fmt false) h d k (fun j => cvtTo fmt.toNat rm s.lev.nanp (v j)) s ∧
      LanewiseFp (.vcvt h d a k fmt true) h d k (fun j => cvtFrom fmt.toNat rm (v j)) s ∧
      LanewiseFp (.vcvts h d a k fmt) h d k (fun j => roundSr fmt.toNat s.lev.nanp (v j) (old j)) s ∧
      LanewiseFp (.vqnt h d a k fmt) h d k (fun j => vqnt32 fmt.toNat (v j) (old j) (next j)) s) ∧
    LanewiseFp (.vdqnt h d a k fmt) h d k (fun j => vdqnt32 fmt.toNat (v j) (old j) (next j)) s ∧
    (Runs (.vscal h d a k fmt) s fun t => Flagged h (joined (s.getK k) (fun j => (r j).2.2)) [] [d, d + 1] [] s t ∧
        ∀ j : Fin 8, if (s.getK k).getLsbD j then (t.getV d)[j] = (r j).1 ∧ (t.getV (d + 1))[j] = (r j).2.1
          else (t.getV d)[j] = old j ∧ (t.getV (d + 1))[j] = next j) ∧
    (13 ≤ fmt.toNat →
      (let c := bfpConvert fmt.toNat ((List.range 32).map (fun j => lane (s.getV (a + BitVec.ofNat 5 (j / 8))) (j % 8)))
       let width := if fmt = 15 then 4 else 8
       let Block (i : Instr) : Prop := Runs i s fun t => Flagged h c.2.2 [] [d, d + 1] [] s t ∧
         (∀ j q, c.1[j]? = some q → element (t.getV d) width j = (q % (if fmt = 15 then 16 else if fmt = 14 then 64 else 256)).toNat) ∧
         (fmt = 15 → ∀ j : Fin 8, 4 ≤ j.val → (t.getV d)[j] = 0) ∧
         ∀ j : Fin 8, (t.getV (d + 1))[j] = if j = 0 then BitVec.ofNat 32 c.2.1 else 0
       Block (.vcvt h d a k fmt false) ∧ Block (.vqnt h d a k fmt)) ∧
      Runs (.vcvt h d a k fmt true) s fun t => Past h s t ∧ Frame [] [d, d + 1, d + 2, d + 3] [] s t ∧ ∀ j, j < 32 →
        let code := ((s.getV (a + 1))[0]).toNat % 256
        lane (t.getV (d + BitVec.ofNat 5 (j / 8))) (j % 8) = if code = 0xFF then 0x7FC00000
          else (to32 .rne (bfpValue fmt.toNat (element (s.getV a) (if fmt = 15 then 4 else 8) j) code)).1) ∧
    (∀ disp off i32, placeOf s.cur (s.getX x + disp) = .own off → off % 16 = 0 →
      (∀ j : Fin 8, (s.getK k).getLsbD j = true → ∃ key,
        s.plan (s.getX x + disp + BitVec.ofNat 64 (16 * j.val)) 16 false ⟨false, false, false⟩ = .go key true true false) →
      (∀ r : Fin 8 → Resc, (∀ j : Fin 8, (s.getK k).getLsbD j = true → s.rescAt (off + 16 * j.val) = some (r j)) →
        LanewiseFp (.vresc h d x k disp i32) h d k (fun j => let c := (r j).apply (accNum i32 (old j))
          (BitVec.ofNat 32 c.1, c.2)) s) ∧
      ((∃ j : Fin 8, (s.getK k).getLsbD j = true ∧ s.rescAt (off + 16 * j.val) = none) →
        Traps (.vresc h d x k disp i32) s Code.rescBad))

/-! ### The Tile Engine -/

/-- R258, R259, R261, R262: TMMA in its fourteen forms, and the ring instructions. R260, R263: TCOMMIT submits the open batch
under the next number, TWAITB waits for a batch, TBATQ reports it. -/
def Obligations.TileWork : Prop :=
  (
  TileIssues .tmmaF32 0 false ∧ TileIssues .tmmaBf 1 false ∧ TileIssues .tmmaH 2 false ∧
  (∀ x, TileIssues (fun h c a b z k t => .tmmaHb h c a b z k t x) 3 x) ∧ TileIssues .tmmaE4 4 false ∧ TileIssues .tmmaE5 5 false ∧
  (∀ x, TileIssues (fun h c a b z k t => .tmmaE45 h c a b z k t x) 6 x) ∧ TileIssues .tmmaE3 7 false ∧
  TileIssues .tmmaE2 8 false ∧ TileIssues .tmmaE1 9 false ∧
  (∀ x, TileIssues (fun h c a b z k t => .tmmaI8 h c a b z k t x) 10 x) ∧ TileIssues .tmmaIz8 11 false ∧
  TileIssues .tmmaI4 12 false ∧ TileIssues .tmmaIz4 13 false ∧
  (∀ h (d : RingReg) a u x s, s.heldWrites = [] →
    let r := s.me.ringAt d.toNat
    let v := s.getX a
    let slots := (v.extractLsb' 24 8).toNat
    let base := (v.extractLsb' 6 12).toNat
    let Becomes (i : Instr) (r' : Ring) : Prop := Runs i s fun t => Past h s t ∧ t.me.ringAt d.toNat = r' ∧
      (∀ q : RingReg, q ≠ d → t.me.ringAt q.toNat = s.me.ringAt q.toNat) ∧ Registers [] [] [] s t ∧ Outside s t ∧
      t.me.openB = s.me.openB ∧ t.me.batches = s.me.batches
    (v.extractLsb' 0 6 ≠ 0 → Traps (.rcfg h d a) s Code.align v) ∧
    (v.extractLsb' 0 6 = 0 → slots ≠ 0 → 64 * base < s.me.codeEnd ∨ 2 ^ 18 < 64 * base + 768 * slots →
      Traps (.rcfg h d a) s Code.ringBad) ∧
    (v.extractLsb' 0 6 = 0 → slots = 0 ∨ (s.me.codeEnd ≤ 64 * base ∧ 64 * base + 768 * slots ≤ 2 ^ 18) →
      s.me.openClaims d.toNat = false → s.me.flightClaims d.toNat = false → Becomes (.rcfg h d a) ⟨0, 0, 0, 0, slots, base⟩) ∧
    (s.me.openClaims d.toNat = false → s.me.flightClaims d.toNat = false →
      Becomes (.rrst h d u) ⟨0, 0, 0, 0, r.slots, r.base⟩) ∧
    (s.me.openClaims d.toNat = true → Traps (.rrst h d u) s Code.teOpen) ∧
    (r.slots ≠ 0 → r.held ≠ r.slots → s.releaseHold = false →
      Becomes (.rpush h d u) { r with held := r.held + 1, ready := r.ready + 1, tail := (r.tail + 1) % r.slots }) ∧
    (r.slots = 0 → Traps (.rpush h d u) s Code.ringBad) ∧
    (r.held < 256 → r.ready < 256 → r.head < 256 → r.tail < 256 → r.slots < 256 → r.base < 2 ^ 12 →
      Runs (.rpos h x d) s fun t => Past h s t ∧ Frame [x] [] [] s t ∧ (x ≠ 0 → let w := t.getX x
        (w.extractLsb' 56 8).toNat = r.held ∧ (w.extractLsb' 48 8).toNat = r.ready ∧ (w.extractLsb' 40 8).toNat = r.head ∧
        (w.extractLsb' 32 8).toNat = r.tail ∧ (w.extractLsb' 24 8).toNat = r.slots ∧ (w.extractLsb' 6 12).toNat = r.base)))) ∧
  (
  (∀ h d u s, s.me.batches.length < 4 → s.releaseHold = false → s.me.bind = none ∨ s.me.openB ≠ [] →
    let n := if s.me.lastBatch + 1 = 0 then 1 else s.me.lastBatch + 1
    Runs (.tcommit h d u) s fun t => Past h s t ∧ t.getX d = (if d = 0 then 0 else n.setWidth 64) ∧ t.me.lastBatch = n ∧
      t.me.openB = [] ∧ t.me.bind = none ∧ Registers [d] [] [] s t ∧ Outside s t ∧ t.me.ring = s.me.ring ∧
      (s.me.openB = [] → t.me.batches = s.me.batches ∧ (n.toNat, 0) ∈ t.me.bstat) ∧
      (s.me.openB ≠ [] → t.me.bstat = s.me.bstat ∧
        t.me.batches = s.me.batches ++ [⟨n.toNat, s.me.openB, false, 0, s.me.openB, s.me.bind⟩])) ∧
  (∀ h d a s, let x := s.getX a
    let b : BitVec 32 := x.setWidth 32
    let ahead := x ≠ 0 ∧ 1 ≤ (b - s.me.lastBatch).toNat ∧ (b - s.me.lastBatch).toNat < 2 ^ 31
    let flying := if x = 0 then s.me.batches ≠ [] else ∃ q ∈ s.me.batches, q.num = b.toNat
    let recent := s.me.bstat.filter (fun e => decide (s.me.batchAge e.1 < 64))
    let status : Nat := ((recent.find? (fun e => if x = 0 then e.2 != 0 else e.1 == b.toNat)).map (·.2)).getD 0
    (ahead → Traps (.tbatq h d a) s Code.teBatch ∧ (s.waiting = none → Traps (.twaitb h d a) s Code.teBatch)) ∧
    (¬ahead → flying →
      (Runs (.tbatq h d a) s fun t => t.getX d = (if d = 0 then 0 else 1) ∧ Past h s t ∧ Frame [d] [] [] s t) ∧
      (s.waiting = none → Runs (.twaitb h d a) s fun t => t.pc = s.pc ∧ t.lev.wait.isSome = true ∧ Frame [] [] [] s t)) ∧
    (¬ahead → ¬flying →
      (Runs (.tbatq h d a) s fun t => t.getX d = (if d = 0 then 0 else BitVec.ofNat 64 status) ∧ Past h s t ∧ Frame [d] [] [] s t) ∧
      (s.waiting = none → Runs (.twaitb h d a) s fun t => t.getX d = (if d = 0 then 0 else BitVec.ofNat 64 status) ∧ Past h s t ∧
        Frame [d] [] [] s t))))

/-- R118, R141, R142, R264, R265, R269: the accumulator instructions on an accumulator that no batch names, and the steps
of the engine: an integer step adds the products and clamps; a step that retires gives its slots back. That TLDA, TSTA and
TSTA.Q perform all their bytes in the step that issues them is the model's reading (log 54). -/
def Obligations.TileAccumulators : Prop :=
  (∀ h (d : AccReg) (a : XReg) (t : Option XReg) disp u s, s.me.accOpen d.toNat = false → s.accBusy s.cur d.toNat = false →
    let st := match t with | some r => ((s.getX r).setWidth 32).signExtend 64 | none => 64
    let va (n : Nat) : Word := s.getX a + disp + BitVec.ofNat 64 (n / 16) * st + BitVec.ofNat 64 (4 * (n % 16))
    let el (x : State) (n : Nat) : W32 := x.me.accAt (256 * d.toNat + n)
    let Sets (i : Instr) (f : Nat → W32) : Prop := Runs i s fun x => Past h s x ∧ Registers [] [] [] s x ∧ SameCores s x ∧
      SameBytes s x ∧ (∀ n, n < 256 → el x n = f n) ∧
      ∀ n, n < 256 * d.toNat ∨ 256 * d.toNat + 256 ≤ n → x.me.accAt n = s.me.accAt n
    Sets (.tzero h d u) (fun _ => 0) ∧
    (∀ key : Nat → Nat, (∀ n, n < 256 → ∃ own cached walk, s.plan (va n) 4 false ⟨false, true, true⟩ = .go (key n) own cached walk) →
      s.badStripe (accKey s.cur (1024 * d.toNat)) 1024 = none → Sets (.tlda h d a t disp) (fun n => BitVec.ofNat 32 (leVal (s.bytesAt s.cur (key n) 4)))) ∧
    (∀ key : Nat → Nat, s.damage = [] → s.inTwin = false → s.mem.wf = true → s.replaying s.me.colour = false →
      (∀ n, n < 256 → ∃ own cached walk, s.plan (va n) 4 true ⟨false, true, true⟩ = .go (key n) own cached walk) →
      Apart s 256 4 key → Runs (.tsta h d a t disp) s
        (StoredPieces h 256 4 key (fun n b => (el s n >>> (8 * b)).setWidth 8) s))) ∧
  (∀ h (d : AccReg) (a t : XReg) disp i32 s (rs : Fin 16 → Resc) (w : Nat) (key : Nat → Nat),
    let x := s.getX t
    let tab := (x.extractLsb' 32 18).toNat
    let step := if w = 32 then 4 else if w = 16 then 2 else 1
    let va (i : Nat) : Word := s.getX a + disp + BitVec.ofNat 64 i * (x.setWidth 32).signExtend 64
    let out (n : Nat) : Nat := ((rs (Fin.ofNat 16 (n % 16))).apply (accNum i32 (s.me.accAt (256 * d.toNat + n)))).1
    s.me.accOpen d.toNat = false → s.accBusy s.cur d.toNat = false → s.damage = [] → s.inTwin = false → s.mem.wf = true →
    s.replaying s.me.colour = false → tab % 16 = 0 →
    (∀ j : Fin 16, ∃ k, s.plan (0xFF00000000000000 + BitVec.ofNat 64 (tab + 16 * j.val)) 16 false ⟨false, false, false⟩ =
      .go k true true false) →
    (∀ j : Fin 16, s.rescAt (tab + 16 * j.val) = some (rs j) ∧ fmtWidth (rs j).fmt = w) → w ≠ 4 →
    (∀ n, n < 256 → ∃ own cached walk, s.plan (va (n / 16) + BitVec.ofNat 64 (n % 16 * step)) step true ⟨false, true, true⟩ =
      .go (key n) own cached walk) →
    Apart s 256 step key → s.lev.ten = 0 → Runs (.tstaQ h d a t disp i32) s
      (StoredPieces h 256 step key (fun n b => BitVec.ofNat 8 (out n / 2 ^ (8 * b))) s)) ∧
  (∀ h d u s, Runs (.taccq h d u) s fun t => Past h s t ∧ Frame [d] [] [] s t ∧ (d ≠ 0 → let w := t.getX d
    (∀ a, a < 4 → w.getLsbD a = s.accBusy s.cur a ∧ w.getLsbD (4 + a) = s.me.accOpen a) ∧ w.extractLsb' 8 4 = s.me.asat)) ∧
  (∀ form fa fb sw a b acc, 10 ≤ form → (stepElem form fa fb sw a b acc).1 = BitVec.ofInt 32 (Max.max (-2 ^ 31) (Min.min (2 ^ 31 - 1)
    (acc.toInt + ((a.zip b).map (fun p => intOf fa p.1 * (intOf fb p.2 - zeroPoint form sw))).sum)))) ∧
  (∀ c b r t ts s, (s.core c).batches = b :: r → b.steps = t :: ts → s.damage = [] →
    (Runs (.tileStepStart c) s fun u => u.core c = { s.core c with batches := { b with started := true } :: r } ∧
      (∀ c', c' ≠ c → u.core c' = s.core c') ∧ u = { s with cores := u.cores }) ∧
    (b.bind = none → (s.core c).tpert = none → s.heldWrites = [] → b.status = 0 → Runs (.tileStepRetire c) s fun u =>
      (∀ n, n < 256 → (u.core c).accAt (256 * t.acc + n) = (((s.stepAcc c t)[n]?).map (·.1)).getD 0) ∧
      (∀ n, n < 256 * t.acc ∨ 256 * t.acc + 256 ≤ n → (u.core c).accAt n = (s.core c).accAt n) ∧
      (t.ra ≠ t.rb ∨ t.claimB = false → t.ra < 8 →
        (u.core c).ringAt t.ra = { (s.core c).ringAt t.ra with held := ((s.core c).ringAt t.ra).held - 1 }) ∧
      (ts = [] → (u.core c).batches = r ∧ (b.num, 0) ∈ (u.core c).bstat) ∧
      (ts ≠ [] → (u.core c).batches = { b with steps := ts, started := false } :: r) ∧
      (∀ c', c' ≠ c → u.core c' = s.core c') ∧ u.mem = s.mem))

/-! ### The net -/

/-- R41, R42: what the Weir does with SETEND, REPLACE, SPLICE, ADOPT, UNREF, WFREE and RESOLVE, by the state of the wire; a
record that fails the check, one whose reserved fields are not 0 among them (R6; the model's choice, log 103), raises
NET_CORRUPT. R36, R42, R43, R64, R284: RESOLVE moves the port of a node that still refers
to the shunt and answers with UNREF; NFREE frees a node; a wire whose two ends are principal ports gives its pair to the Pond,
and ROOT⋈VAL takes the value instead. What ROOT⋈VAL leaves of the wire (log 79), the fate of SETEND at a shunt (log 101) and
the form of a free record's link (log 102) are the model's. -/
def Obligations.WeirsServeMessages : Prop :=
  (
  ∀ cl w e w2 e2 key p d j s, s.jobAt cl = some j → UnitSees s j cl (j.wireVa w) key → Undisturbed s (j.root.toNat % 4096) → e < 2 →
    let r := WireRec.ofNat (s.peek key 32)
    let spent := s.spent cl w e = true
    let unpaired (x : WireRec) : Prop := isPrincipal x.e0 = false ∨ isPrincipal x.e1 = false
    let fw := r.fwd.1
    let fe := r.fwd.2
    let attached := (r.setEnd e p).put 1 (r.refs + 1)
    let replaced := (r.setEnd e p).put 1 (r.refs + if isOpen (r.ends e) = true then 1 else 0)
    let adopted := (r.setEnd e p).put 1 (r.refs + if isOpen p = true then 65535 else 0)
    let q := r.ends (1 - e)
    let owner := weirOf (endNode p)
    (r.good = false → RecordBad (.setend cl w e p) j cl w s ∧ RecordBad (.replace cl w e p) j cl w s ∧
      RecordBad (.adopt cl w e p) j cl w s ∧ RecordBad (.splice cl w e w2 e2) j cl w s ∧ RecordBad (.unref cl w d) j cl w s ∧
      RecordBad (.wfreeMessage cl w) j cl w s) ∧
    (r.good = true → r.st = 1 → isOpen (r.ends e) = true → unpaired attached →
      Runs (.setend cl w e p) s fun t => WireBecomes cl key attached s t ∧ t.agenda = s.agenda) ∧
    (r.st ≠ 1 ∨ isOpen (r.ends e) = false → RecordBad (.setend cl w e p) j cl w s) ∧
    (r.good = true → r.st = 1 → unpaired replaced → Runs (.replace cl w e p) s fun t => WireBecomes cl key replaced s t ∧ t.agenda = s.agenda) ∧
    (r.good = true → r.st = 2 → ¬spent → Runs (.replace cl w e p) s fun t => WireBecomes cl key (r.put 2 (r.refs + 1)) s t ∧
      t.agenda = s.agenda ++ [fromWeir cl owner (.resolve owner p w e fw fe), fromWeir cl (weirOf fw) (.replace (weirOf fw) fw fe p)]) ∧
    (r.good = true → r.st = 1 → unpaired adopted → Runs (.adopt cl w e p) s fun t => WireBecomes cl key adopted s t ∧ t.agenda = s.agenda) ∧
    (r.good = true → r.st = 2 → ¬spent → Runs (.adopt cl w e p) s fun t => WireBecomes cl key r s t ∧
      t.agenda = s.agenda ++ [fromWeir cl (weirOf fw) (.adopt (weirOf fw) fw fe p)]) ∧
    (r.st = 0 ∨ (r.st = 2 ∧ spent) → RecordBad (.replace cl w e p) j cl w s ∧ RecordBad (.adopt cl w e p) j cl w s ∧
      RecordBad (.splice cl w e w2 e2) j cl w s) ∧
    (r.good = true → r.st = 1 → w2 ≠ w → Runs (.splice cl w e w2 e2) s fun t =>
      WireBecomes cl key { r.put 2 r.refs with w3 := portWord w2 e2 } s t ∧ t.spent cl w e = true ∧
      t.agenda = s.agenda ++ fromWeir cl (weirOf w2) (.adopt (weirOf w2) w2 e2 q) ::
        (if isPort q = true then [fromWeir cl (weirOf (endNode q)) (.resolve (weirOf (endNode q)) q w (1 - e) w2 e2)] else [])) ∧
    (r.good = true → r.st = 1 → Runs (.splice cl w e w (1 - e)) s fun t => WireFreed cl w key s t ∧ t.agenda = s.agenda ∧
      (t.cluster cl).loops = Nat.min ((s.cluster cl).loops + 1) 65535) ∧
    (r.good = true → r.st = 2 → ¬spent → w2 < 2 ^ 32 → e2 < 2 → Runs (.splice cl w e w2 e2) s fun t =>
      t.agenda = s.agenda ++ [fromWeir cl (weirOf fw) (.splice (weirOf fw) fw fe w2 e2)] ∧
      (r.refs ≠ 1 → WireBecomes cl key (r.put 2 (r.refs + 65535)) s t) ∧ (r.refs = 1 → WireFreed cl w key s t)) ∧
    (r.good = true → r.st = 2 → d + 1 ≤ r.refs → Runs (.unref cl w d) s fun t => t.agenda = s.agenda ∧
      (d + 1 ≠ r.refs → WireBecomes cl key (r.put 2 (r.refs - 1 - d)) s t) ∧ (d + 1 = r.refs → WireFreed cl w key s t)) ∧
    (r.st ≠ 2 → RecordBad (.unref cl w d) j cl w s) ∧
    (r.good = true → r.st ≠ 0 → Runs (.wfreeMessage cl w) s fun t => WireFreed cl w key s t ∧ t.agenda = s.agenda) ∧
    (r.st = 0 → RecordBad (.wfreeMessage cl w) j cl w s)) ∧
  (
  ∀ cl j s, s.jobAt cl = some j → Undisturbed s (j.root.toNat % 4096) →
    (∀ p ow oe nw ne k0 kk, let n := endNode p
      let k := (p.extractLsb' 32 2).toNat
      UnitSees s j cl (j.nodeVa n 0) k0 → UnitSees s j cl (j.nodeVa n k) kk → ow < 2 ^ 32 →
      let w0 := s.peek64 k0
      let pw := s.peek64 kk
      let moves := w0.getLsbD 41 = true ∧ w0.getLsbD 40 = false ∧ pw.extractLsb' 0 33 = (portWord ow oe).extractLsb' 0 33
      let clean := w0 &&& nodeReserved = 0 ∧ (k = 0 ∨ pw >>> 33 = 0)
      let answer (d : Nat) (t : State) : Prop := t.agenda = s.agenda ++ [fromWeir cl (weirOf ow) (.unref (weirOf ow) ow d)]
      (moves → ¬clean → exec (.resolve cl p ow oe nw ne) s =
        .next (((s.countRecv cl).upCluster cl (fun k => { k with msgs := k.msgs + 1 })).corrupt j cl unitWeir (16 * cl)
          (j.nodeVa n) ow)) ∧
      (moves → clean → Runs (.resolve cl p ow oe nw ne) s fun t => answer 1 t ∧ SameBut kk 8 s t ∧
        (t.peek64 kk).extractLsb' 0 33 = (portWord nw ne).extractLsb' 0 33 ∧ (t.peek64 kk).extractLsb' 33 31 = pw.extractLsb' 33 31) ∧
      (¬moves → Runs (.resolve cl p ow oe nw ne) s fun t => answer 0 t ∧ SameBytes s t)) ∧
    (∀ n k0 k1, UnitSees s j cl (j.nodeVa n 0) k0 → UnitSees s j cl (j.nodeVa n 1) k1 → k0 + 8 ≤ k1 ∨ k1 + 8 ≤ k0 →
      let sound := (s.peek64 k0).getLsbD 41 = true ∧ s.peek64 k0 &&& nodeReserved = 0
      (sound → Runs (.nfreeMessage cl n) s fun t => t.peek64 k0 = 0 ∧
        t.peek64 k1 = s.springHead .node n ∧ (t.core (ownerOf n)).nfree = n % 2 ^ 23 :: (s.core (ownerOf n)).nfree ∧
        t.agenda = s.agenda) ∧
      (¬sound → exec (.nfreeMessage cl n) s =
        .next (((s.countRecv cl).upCluster cl (fun k => { k with msgs := k.msgs + 1 })).corrupt j cl unitWeir (16 * cl)
          (j.nodeVa n) n))) ∧
    (∀ w e p key k0 k1, e < 2 → UnitSees s j cl (j.wireVa w) key → let r := WireRec.ofNat (s.peek key 32)
      let r' := (r.setEnd e p).put 1 (r.refs + 1)
      let n0 := endNode r'.e0
      let n1 := endNode r'.e1
      r.good = true → r.st = 1 → isOpen (r.ends e) = true → isPrincipal r'.e0 = true → isPrincipal r'.e1 = true →
      UnitSees s j cl (j.nodeVa n0 0) k0 → UnitSees s j cl (j.nodeVa n1 0) k1 →
      (∀ k ∈ [k0, k1], key + 32 ≤ k ∨ k + 8 ≤ key) → (∀ k ∈ [k0, k1], s.peek64 k &&& nodeReserved = 0) →
      let sa := nodeSym (s.peek64 k0)
      let sb := nodeSym (s.peek64 k1)
      ¬(sa = symRoot ∧ sb = symVal) → ¬(sa = symVal ∧ sb = symRoot) → (s.cluster cl).stalled = [] → (s.cluster cl).pond.length < 16384 →
      Runs (.setend cl w e p) s fun t => (t.cluster cl).pond = (s.cluster cl).pond ++ [⟨w, n0, n1, sa, sb⟩] ∧
        WireRec.ofNat (t.peek key 32) = r' ∧ SameBut key 32 s t) ∧
    (∀ w e p key root val r0 r1 r2 v0 v1, e < 2 → UnitSees s j cl (j.wireVa w) key → let r := WireRec.ofNat (s.peek key 32)
      r.good = true → r.st = 1 → isOpen (r.ends e) = true → isPrincipal p = true → isPrincipal (r.ends (1 - e)) = true →
      (endNode p, endNode (r.ends (1 - e))) = (root, val) ∨ (endNode p, endNode (r.ends (1 - e))) = (val, root) →
      UnitSees s j cl (j.nodeVa root 0) r0 → UnitSees s j cl (j.nodeVa root 1) r1 → UnitSees s j cl (j.nodeVa root 2) r2 →
      UnitSees s j cl (j.nodeVa val 0) v0 → UnitSees s j cl (j.nodeVa val 1) v1 →
      ([(key, 32), (r0, 8), (r1, 8), (r2, 8), (v0, 8), (v1, 8)] : List (Nat × Nat)).Pairwise
        (fun x y => x.1 + x.2 ≤ y.1 ∨ y.1 + y.2 ≤ x.1) →
      s.peek64 r0 &&& nodeReserved = 0 → s.peek64 v0 &&& nodeReserved = 0 →
      nodeSym (s.peek64 r0) = symRoot → nodeSym (s.peek64 v0) = symVal → s.job? j.colour = some j →
      Runs (.setend cl w e p) s fun t => t.peek64 r1 = s.peek64 v1 ∧ t.peek64 r2 = s.peek64 r2 ||| 1 ∧ t.peek64 v0 = 0 ∧
        (WireRec.ofNat (t.peek key 32)).st = 0 ∧ (t.job? j.colour).map (·.rootNode) = some (some root) ∧
        (t.cluster cl).acts = ((s.cluster cl).acts + 1) % 2 ^ 48 ∧ (t.cluster cl).pond = (s.cluster cl).pond ∧
        t.agenda = s.agenda))

/-- R281, R284, R286: without a net heap every instruction of the net traps; outside a twin NFREE, WFREE, WSET, WREPL and
WSPLICE send one message to the owner of the record, or trap on a bad index. R30, R32, R48, R283, R285, R286, R289: NLD and
NST access a node's words, WRES follows shunts, RULE writes the rule's slot or takes RULE_FULL after 64, PUSHP gives a pair to a
Pond, and PONDQ counts the Pond's pairs. R413: RULE inside a twin traps CTX_BAD. -/
def Obligations.NetMessages : Prop :=
  (
  (∀ h d a w s, s.job? s.me.colour = none ∨ (∃ j, s.job? s.me.colour = some j ∧ j.word 8 = 0) →
    ∀ i ∈ [Instr.pair h, .pairn h, .pushp h a, .pondq h d, .yieldp h, .nalloc h d, .walloc h d, .nfree h a, .wfree h a, .nld h d a w,
      .nst h d a w, .wset h d a, .wrepl h d a, .wsplice h d a, .wres h d a, .retire h, .rule h d a, .engw h a, .nrdm h d a, .nval h d a],
      Traps i s Code.netCtx) ∧
  ∀ (h : Head) (d a : XReg) s j, NetJob s j →
    let v := s.getX a
    let r := s.getX d
    let w := v.toNat % 2 ^ 32
    let e := v.toNat / 2 ^ 32 % 2
    let index (x : Word) (n : Nat) : Prop := x.toNat < 2 ^ n ∧ x.toNat % 2 ^ 23 ≠ 0 ∧ s.inPartition (ownerOf (x.toNat % 2 ^ 32)) = true
    let mine := ownerOf w = s.cur ∨ ∃ q, s.me.act = some q ∧ w ∈ q.wires
    (s.inTwin = false → s.releaseHold = false →
      (index v 32 → Runs (.nfree h a) s (NetSent h (weirOf w) (.nfreeMessage (weirOf w) w) s)) ∧
      (index v 33 → e = 0 → Runs (.wfree h a) s (NetSent h (weirOf w) (.wfreeMessage (weirOf w) w) s)) ∧
      (index v 33 → index r 34 → mine → Runs (.wset h d a) s (NetSent h (weirOf w) (.setend (weirOf w) w e r) s)) ∧
      (index v 33 → index r 34 → Runs (.wrepl h d a) s (NetSent h (weirOf w) (.replace (weirOf w) w e r) s)) ∧
      (index v 33 → index r 33 → Runs (.wsplice h d a) s
        (NetSent h (weirOf w) (.splice (weirOf w) w e (r.toNat % 2 ^ 32) (r.toNat / 2 ^ 32 % 2)) s))) ∧
    (¬index v 32 → Traps (.nfree h a) s Code.nodeBad v) ∧
    (¬index v 33 ∨ e = 1 → Traps (.wfree h a) s Code.wireBad v) ∧
    (¬index v 33 → Traps (.wset h d a) s Code.wireBad v ∧ Traps (.wrepl h d a) s Code.wireBad v ∧
      Traps (.wsplice h d a) s Code.wireBad v ∧ Traps (.wres h d a) s Code.wireBad v) ∧
    (index v 33 → ¬index r 34 → Traps (.wset h d a) s Code.wireBad r ∧ Traps (.wrepl h d a) s Code.wireBad r) ∧
    (index v 33 → index r 34 → ¬mine → Traps (.wset h d a) s Code.wireBad v) ∧
    (index v 33 → ¬index r 33 → Traps (.wsplice h d a) s Code.wireBad r)) ∧
  (
  ∀ (h : Head) (d a : XReg) s j, NetJob s j →
    let v := s.getX a
    let x := s.getX d
    let nodeOk := v.toNat < 2 ^ 32 ∧ v.toNat % 2 ^ 23 ≠ 0 ∧ s.inPartition (ownerOf v.toNat) = true
    let byte (w : Word) (b : Nat) : Byte := (w >>> (8 * b)).setWidth 8
    let keep : Word := 3 <<< 40
    (∀ (n : BitVec 2) key cached walk, nodeOk → let va := j.nodeVa v.toNat n.toNat
      let w := BitVec.ofNat 64 (leVal (s.bytesAt s.cur key 8))
      (s.plan va 8 false = .go key true cached walk → Runs (.nld h d a n) s fun t =>
        t.getX d = (if d = 0 then 0 else w) ∧ Past h s t ∧ Frame [d] [] [] s t) ∧
      (s.plan va 8 false = .go key false cached walk → RoomX s d → Runs (.nld h d a n) s (LateX h d w s)) ∧
      (∀ own, s.plan va 8 true = .go key own cached walk → s.inTwin = false → s.mem.wf = true →
        n ≠ 0 ∨ (x.extractLsb' 48 2 = 0 ∧ x.extractLsb' 42 2 = 0 ∧ x.extractLsb' 33 7 = 0) →
        Runs (.nst h d a n) s (Stored h key ((List.range 8).map
          (byte (if n = 0 then (x &&& ~~~keep) ||| (s.peek64 key &&& keep) else x))) s.soil))) ∧
    (∀ n : BitVec 2, ¬nodeOk → Traps (.nld h d a n) s Code.nodeBad v ∧ Traps (.nst h d a n) s Code.nodeBad v) ∧
    (nodeOk → x.extractLsb' 48 2 ≠ 0 ∨ x.extractLsb' 42 2 ≠ 0 ∨ x.extractLsb' 33 7 ≠ 0 → Traps (.nst h d a 0) s Code.nodeBad x) ∧
    (∀ (n : Nat) (at_ : Nat → Nat × Nat) (key : Nat → Nat), n ≤ 16 → v.toNat < 2 ^ 33 → v.toNat % 2 ^ 23 ≠ 0 →
      s.inPartition (ownerOf (v.toNat % 2 ^ 32)) = true → at_ 0 = (v.toNat % 2 ^ 32, v.toNat / 2 ^ 32) →
      (∀ i, i ≤ n → ∃ own cached walk,
        s.plan (j.wireVa (at_ i).1) 32 false = .go (key i) own cached walk) →
      (∀ i, i < n → (WireRec.ofNat (s.peek (key i) 32)).st = 2 ∧ at_ (i + 1) = (WireRec.ofNat (s.peek (key i) 32)).fwd) →
      let r := WireRec.ofNat (s.peek (key n) 32)
      r.st ≠ 2 ∨ n = 16 → Runs (.wres h d a) s fun t => Past h s t ∧ Registers [d] [] [] s t ∧ SameCores s t ∧ SameBytes s t ∧
        t.getX d = if d = 0 then 0 else if r.st = 1 then r.ends (1 - (at_ n).2) else 0) ∧
    (∀ n (key : Nat → Nat) wk, s.inTwin = false → s.me.stores = 0 → s.releaseHold = false → v.toNat < 2 ^ 24 →
      x.extractLsb' 48 8 = 0 → s.mem.wf = true → s.replaying s.me.colour = false →
      let lo := v.toNat % 2 ^ 12
      let hi := v.toNat / 2 ^ 12
      let slot (i : Nat) : Word := j.word 11 + BitVec.ofNat 64 (16 * ((4099 * lo + hi + i) % 2 ^ bits (j.word 12) 0 5))
      let word (i : Nat) : Word := BitVec.ofNat 64 (leVal (s.bytesAt s.cur (key i) 8))
      let dropped (t : State) : Prop := ∀ cl ∈ j.clusters, ∀ r ∈ (t.cluster cl).rules, ¬(r.1 = lo ∧ r.2.1 = hi)
      lo ≤ hi → n < 64 → (∀ i, i ≤ n → ∃ own cached walk, s.plan (slot i) 16 false = .go (key i) own cached walk) →
      (∀ i, i < n → (word i).getLsbD 63 = true ∧ (word i).toNat % 2 ^ 24 ≠ v.toNat) →
      ((word n).getLsbD 63 = true → (word n).toNat % 2 ^ 24 = v.toNat →
        (∃ own cached walk, s.plan (slot n + 8) 8 true = .go wk own cached walk) → s.heldSlot wk 8 = false →
        Runs (.rule h d a) s fun t => Past h s t ∧ Registers [] [] [] s t ∧ dropped t ∧ t.peek64 wk = x ∧ SameBut wk 8 s t) ∧
      ((word n).getLsbD 63 = false → x.getLsbD 63 = true →
        (∃ own cached walk, s.plan (slot n) 16 true = .go wk own cached walk) → s.heldSlot wk 16 = false →
        Runs (.rule h d a) s fun t => Past h s t ∧ Registers [] [] [] s t ∧ dropped t ∧
          t.peek64 wk = BitVec.ofNat 64 (2 ^ 63 + v.toNat) ∧ t.peek64 (wk + 8) = x ∧ SameBut wk 16 s t) ∧
      ((word n).getLsbD 63 = false → x.getLsbD 63 = false →
        Runs (.rule h d a) s fun t => Past h s t ∧ Registers [] [] [] s t ∧ dropped t ∧ SameBytes s t)) ∧
    (∀ key : Nat → Nat, s.inTwin = false → s.me.stores = 0 → s.releaseHold = false → v.toNat < 2 ^ 24 → x.extractLsb' 48 8 = 0 →
      let lo := v.toNat % 2 ^ 12
      let hi := v.toNat / 2 ^ 12
      let word (i : Nat) : Word := BitVec.ofNat 64 (leVal (s.bytesAt s.cur (key i) 8))
      lo ≤ hi → (∀ i, i < 64 → (∃ own cached walk, s.plan (j.word 11 + BitVec.ofNat 64 (16 * ((4099 * lo + hi + i) %
        2 ^ bits (j.word 12) 0 5))) 16 false = .go (key i) own cached walk) ∧
        (word i).getLsbD 63 = true ∧ (word i).toNat % 2 ^ 24 ≠ v.toNat) →
      Runs (.rule h d a) s fun t => Past h s t ∧ Registers [] [] [] s t ∧ SameBytes s t ∧ SameCores s t ∧
        (x.getLsbD 63 = true → t.agenda = s.agenda ++ [⟨landChan s.cur s.me.lvl.val 192,
          .resultLand s.cur s.me.lvl.val s.ids s.pc (.fault Code.ruleFull v 0)⟩]) ∧
        (x.getLsbD 63 = false → t.agenda = s.agenda)) ∧
    (v.toNat / 2 ^ 12 % 2 ^ 12 < v.toNat % 2 ^ 12 ∨ 2 ^ 24 ≤ v.toNat ∨ x.extractLsb' 48 8 ≠ 0 → s.inTwin = false →
      Traps (.rule h d a) s Code.ruleBad v) ∧
    (s.inTwin = true → Traps (.rule h d a) s Code.ctxBad) ∧
    (∀ off key own cached walk, placeOf s.cur v = .own off → s.plan v 16 false = .go key own cached walk →
      let w0 := leVal ((s.bytesAt s.cur key 16).take 8)
      let w1 := leVal ((s.bytesAt s.cur key 16).drop 8)
      let cl := if j.det then weirOf (w0 % 2 ^ 32) else s.cl
      (w1 / 2 ^ 56 = 0 → (s.cluster cl).stalled = [] → (s.cluster cl).pond.length < 16384 → Runs (.pushp h a) s fun t =>
        Past h s t ∧ Registers [] [] [] s t ∧ SameBytes s t ∧ (t.cluster cl).pond = (s.cluster cl).pond ++
          [⟨w0 % 2 ^ 32, w0 / 2 ^ 32, w1 % 2 ^ 32, w1 / 2 ^ 32 % 2 ^ 12, w1 / 2 ^ 44 % 2 ^ 12⟩]) ∧
      (w1 / 2 ^ 56 ≠ 0 → Traps (.pushp h a) s Code.nodeBad)) ∧
    (Runs (.pondq h d) s fun t => Past h s t ∧ Frame [d] [] [] s t ∧ (d ≠ 0 → let k := s.cluster s.cl
      ((t.getX d).extractLsb' 0 15).toNat = (k.pond.length - k.spill) % 2 ^ 15 ∧ ((t.getX d).extractLsb' 16 25).toNat = k.spill % 2 ^ 25)))

/-- R36, R51, R52, R54, R284, R287: NALLOC, WALLOC and NVAL take the slot that the Spring gives next and write the record's
first words; ENGW and NRDM take a node for a completion. In deterministic mode an activation's path says whose Spring, which
NALLOC asks first, asleep for the round trip. That ENGW and NRDM, and an allocation outside any activation, use the core's own
Spring is the model's reading (log 53). -/
def Obligations.NetAllocation : Prop :=
  (∀ h (d a : XReg) s j x, NetJob s j → s.inTwin = false → s.mem.wf = true → s.replaying s.me.colour = false →
    let i := s.cur * 2 ^ 23 + x
    let idx : Word := BitVec.ofNat 64 i
    let v := s.getX a
    let w := v.toNat % 2 ^ 32
    let e := v.toNat / 2 ^ 32
    let endOk := v.toNat < 2 ^ 33 ∧ v.toNat % 2 ^ 23 ≠ 0 ∧ s.inPartition (ownerOf w) = true
    let Done (k : Kind) (d : Option XReg) (ws : List Word) (key : Nat → Nat) (t : State) : Prop := Past h s t ∧ SlotTaken k s.cur x s t ∧
      WordsWritten ws key s t ∧ SameCores s t ∧ Registers d.toList [] [] s t ∧ ∀ d', d = some d' → d' ≠ 0 → t.getX d' = idx
    let own := j.det = false ∨ s.inAct = false
    (own → ∀ key, SlotReady s j .node s.cur x (j.nodeVa i) 1 key →
      Runs (.nalloc h d) s (Done .node (some d) [1 <<< 41] key)) ∧
    (own → ∀ key, SlotReady s j .wire s.cur x (j.wireVa i) 4 key →
      Runs (.walloc h d) s (Done .wire (some d) [3 <<< 62, 3 <<< 62, 1 <<< 62, s.peek64 (key 3) &&& 0x1FFFFFFFF] key)) ∧
    ((s.core s.cur).freeList .node = [] → j.heap < (s.core s.cur).top .node → own → Traps (.nalloc h d) s Code.heapFull) ∧
    (s.inAct = true → endOk → j.det = false → s.releaseHold = false → ∀ key, SlotReady s j .node s.cur x (j.nodeVa i) 2 key →
      Runs (.nval h d a) s fun t => Done .node none [BitVec.ofNat 64 (0xF00 * 2 ^ 52 + 2 ^ 41 + v.toNat), s.getX d] key t ∧
        ∃ pre, t.agenda = pre ++ [⟨netChan s.cur (weirOf w), .replace (weirOf w) w e idx⟩] ∧
          (t.cluster s.cl).sent = ((s.cluster s.cl).sent + 1) % 2 ^ 32) ∧
    (s.inAct = true → endOk → (∃ k, s.me.nextSlot .node j.heap = some (x, k)) → s.me.nstock ≠ 0 →
      (s.me.bind = none → Runs (.engw h a) s fun t => Past h s t ∧ SlotTaken .node s.cur x s t ∧ t.me.bind = some ⟨w, e, i⟩ ∧
        (t.cluster s.cl).sent = ((s.cluster s.cl).sent + 1) % 2 ^ 32 ∧ Registers [] [] [] s t ∧ SameBytes s t ∧ SameCores s t ∧
        t.agenda = s.agenda) ∧
      (Runs (.nrdm h d a) s fun t => Past h s t ∧ SlotTaken .node s.cur x s t ∧ Registers [] [] [] s t ∧ SameBytes s t ∧
        SameCores s t ∧ (t.cluster s.cl).sent = ((s.cluster s.cl).sent + 1) % 2 ^ 32 ∧
        ∃ chan, t.agenda = s.agenda ++ [⟨chan, .redeemArrive (tkSlice (s.getX d))
          ⟨s.cur, s.me.lvl.val, s.ids, s.pc, 3, 0, 0, s.getX d, s.me.colour, i, w, e⟩⟩])) ∧
    (s.inAct = false → Traps (.engw h a) s Code.ctxBad ∧ Traps (.nrdm h d a) s Code.ctxBad ∧ Traps (.nval h d a) s Code.ctxBad)) ∧
  (∀ h d s j x q key pk, NetJob s j → s.inTwin = false → s.mem.wf = true → s.replaying s.me.colour = false → j.det = true →
    s.inAct = true → s.me.act = some q → let path := crcPair q.path (BitVec.ofNat 64 q.kn)
    let c := j.allCores[path.toNat % j.allCores.length]?.getD s.cur
    let i := c * 2 ^ 23 + x
    (∃ k, (s.core c).nextSlot .node j.heap = some (x, k)) → Apart s 2 8 (fun n => if n = 0 then key else pk) →
    (∃ own cached walk, s.plan (j.nodeVa i) 8 true = .go key own cached walk) →
    (∃ own cached walk, s.plan (j.word 10 + BitVec.ofNat 64 (8 * i)) 8 true = .go pk own cached walk) →
    (s.waiting.any (fun w => w.reason == .wire) = false → Runs (.nalloc h d) s fun t => t.pc = s.pc ∧ Registers [] [] [] s t ∧
      SameBytes s t ∧ t.lev.wait.map (·.reason) = some .wire ∧
      ∃ chan, t.agenda = s.agenda ++ [⟨chan, .springStockRefill c⟩]) ∧
    (s.waiting.any (fun w => w.reason == .wire) = true → Runs (.nalloc h d) s fun t => Past h s t ∧ SlotTaken .node c x s t ∧ t.getX d = (if d = 0 then 0 else BitVec.ofNat 64 i) ∧
      WordsWritten [1 <<< 41, path] (fun n => if n = 0 then key else pk) s t ∧ t.me.act.map (·.kn) = some (q.kn + 1))) ∧
  (∀ c s j, s.job? (s.core c).colour = some j → Runs (.springStockRefill c) s fun t =>
    t = { s with cores := t.cores } ∧ (∀ c', c' ≠ c → t.core c' = s.core c') ∧
    t.core c = { s.core c with
      nstock := Nat.min 8 ((s.core c).nfree.length + (j.heap + 1 - (s.core c).ntop))
      wstock := Nat.min 8 ((s.core c).wfree.length + (j.heap + 1 - (s.core c).wtop)) })

/-- R33, R282: PAIR and PAIRN take the oldest pair and enter its activation: both nodes are marked BUSY, the pair leaves the
Pond, and x10 to x13 await the wire, the nodes in the rule's order and the rule. Without a pair PAIR waits, and with PAIRN they await 0.
R34, R41, R44, R283, R288: RETIRE frees the pair's wire, releases the shunts that its nodes were read through, and ends the
activation; YIELDP gives the pair back with its nodes no longer BUSY. That RETIRE frees the wire of the low half of x10 (log
58) and waits for messages beyond 8 (log 99), the form of a free record's link (log 102) and the refusal of reserved bits (log
103) are the model's. R413: YIELDP inside a twin traps CTX_BAD. -/
def Obligations.ActivationsRun : Prop :=
  (
  (∀ h s j p k0 k1 entry, PairReady s j p k0 k1 entry → entry.getLsbD 62 = false →
    let wa := s.peek64 k0
    let wb := s.peek64 k1
    let sa := nodeSym wa
    let sb := nodeSym wb
    let low := sa < sb ∨ (sa = sb ∧ p.n0 ≤ p.n1)
    let first := if entry.getLsbD 61 = true ∧ sa ≠ sb then ¬low else low
    let Taken (t : State) : Prop := Past h s t ∧ Registers [] [] [] s t ∧ SameCores s t ∧ t.me.inact = true ∧
      (first → t.me.act = some ⟨p.n0, p.n1, p.wire, wa.toNat % 2 ^ 32, wb.toNat % 2 ^ 32, false, [], s.cl, p, entry, 0, 0, 0, 0⟩) ∧
      (¬first → t.me.act = some ⟨p.n1, p.n0, p.wire, wb.toNat % 2 ^ 32, wa.toNat % 2 ^ 32, false, [], s.cl, p, entry, 0, 0, 0, 0⟩) ∧
      WordsWritten [wa ||| 1 <<< 40, wb ||| 1 <<< 40] (fun n => if n = 0 then k0 else k1) s t ∧
      (t.cluster s.cl).pond = (s.cluster s.cl).pond.erase p ∧
      ∃ pre i, let n (v : Nat) : Word := BitVec.ofNat 64 v
        let land (r id : Nat) (w : Word) : Flight :=
          ⟨landChan s.cur s.me.lvl.val r, .resultLand s.cur s.me.lvl.val id s.pc (.regs [(BitVec.ofNat 6 r, w)])⟩
        t.agenda = pre ++ [land 10 i (n p.wire), land 11 (i + 1) (n (t.me.act.elim 0 (·.a))),
          land 12 (i + 2) (n (t.me.act.elim 0 (·.b))), land 13 (i + 3) entry] ∧
        t.lev.out = s.lev.out ++ [⟨i, 10, false⟩, ⟨i + 1, 11, false⟩, ⟨i + 2, 12, false⟩, ⟨i + 3, 13, false⟩]
    Runs (.pair h) s Taken ∧ Runs (.pairn h) s Taken) ∧
  (∀ h s j, NetJob s j → s.me.lvl = 0 → s.me.inact = false → s.me.kept = none → s.me.offer = [] → s.roomFor 4 = true →
    s.pondFor j s.cur = none → (Runs (.pair h) s fun t => t.pc = s.pc ∧ t.lev.wait.isSome = true ∧ Frame [] [] [] s t) ∧
      (Runs (.pairn h) s fun t => Past h s t ∧ Registers [] [] [] s t ∧ SameBytes s t ∧ SameCores s t ∧
        let land (r id : Nat) : Flight :=
          ⟨landChan s.cur s.me.lvl.val r, .resultLand s.cur s.me.lvl.val id s.pc (.regs [(BitVec.ofNat 6 r, 0)])⟩
        t.agenda = s.agenda ++ [land 10 s.ids, land 11 (s.ids + 1), land 12 (s.ids + 2), land 13 (s.ids + 3)] ∧
        t.lev.out = s.lev.out ++ [⟨s.ids, 10, false⟩, ⟨s.ids + 1, 11, false⟩, ⟨s.ids + 2, 12, false⟩, ⟨s.ids + 3, 13, false⟩])) ∧
  (∀ h s j, NetJob s j → s.me.lvl ≠ 0 ∨ s.me.inact = true → Traps (.pair h) s Code.ctxBad ∧ Traps (.pairn h) s Code.ctxBad)) ∧
  (
  (∀ h s j q, NetJob s j → s.inAct = true → s.me.act = some q → s.me.bind = none → s.me.twin = none →
    s.hub.trace.getLsbD 63 = false → let w := (s.getX 10).toNat % 2 ^ 32
    let flight (n : Nat) (ev : Nat → Instr) : Flight := ⟨netChan s.cur (weirOf n), ev (weirOf n)⟩
    (8 < s.backedUp s.cur → Runs (.retire h) s fun t => t.pc = s.pc ∧ t.lev.wait.map (·.reason) = some .wire ∧ Frame [] [] [] s t) ∧
    (s.backedUp s.cur ≤ 8 → q.wa < 2 ^ 32 → q.wb < 2 ^ 32 → Runs (.retire h) s fun t => Past h s t ∧ Registers [] [] [] s t ∧ SameBytes s t ∧ SameCores s t ∧
      t.me.inact = false ∧ t.me.act = none ∧ (t.cluster s.cl).acts = ((s.cluster s.cl).acts + 1) % 2 ^ 48 ∧
      t.agenda = s.agenda ++ [flight w (fun cl => .wfreeMessage cl w)] ++
        (if q.wa = w then [] else [flight q.wa (fun cl => .unref cl q.wa 0)]) ++
        (if q.wb = w then [] else [flight q.wb (fun cl => .unref cl q.wb 0)]))) ∧
  (∀ h s j, NetJob s j → s.inAct = false ∨ s.me.bind.isSome = true → Traps (.retire h) s Code.ctxBad) ∧
  (∀ h s j q k0 k1, NetJob s j → s.inAct = true → s.inTwin = false → s.me.act = some q → q.dirty = false → s.mem.wf = true →
    s.replaying s.me.colour = false → Apart s 2 8 (fun n => if n = 0 then k0 else k1) →
    (∃ own cached walk, s.plan (j.nodeVa q.pair.n0) 8 true = .go k0 own cached walk) →
    (∃ own cached walk, s.plan (j.nodeVa q.pair.n1) 8 true = .go k1 own cached walk) →
    (s.cluster q.pond).stalled = [] → (s.cluster q.pond).pond.length < 16384 → Runs (.yieldp h) s fun t => Past h s t ∧
      Registers [] [] [] s t ∧ SameCores s t ∧ t.me.inact = false ∧ t.me.act = none ∧
      WordsWritten [s.peek64 k0 &&& ~~~((1 : Word) <<< 40), s.peek64 k1 &&& ~~~((1 : Word) <<< 40)] (fun n => if n = 0 then k0 else k1) s t ∧
      (t.cluster q.pond).pond = (s.cluster q.pond).pond ++ [q.pair]) ∧
  (∀ h s j q, NetJob s j → s.me.act = some q → s.inAct = false ∨ q.dirty = true ∨ s.inTwin = true → Traps (.yieldp h) s Code.ctxBad))

/-- R50: a Pond that has fallen below LOWM asks one Pond after the other; one above HIGHM hands over the oldest half of its
surplus, else it refuses; after a round that failed everywhere an announcement starts a new one. R412 to R414: twins whose
streams agree perform the stream once, and slots that neither used go back; two that differ ask a third core; three that
differ end in TWIN_FAIL. -/
def Obligations.PondsAndTwins : Prop :=
  (
  (∀ cl s j, s.jobAt cl = some j →
    (∀ v r, j.victims cl = v :: r → Runs (.pondRequestRound cl) s fun t => ((t.cluster cl).round = true ∧ (t.cluster cl).failed = false) ∧
      (∃ chan, t.agenda = s.agenda ++ [⟨chan, .pondWorkRequest v cl r⟩]) ∧ t = { s with
        clusters := t.clusters, agenda := t.agenda, ids := t.ids }) ∧
    (j.victims cl = [] → Runs (.pondRequestRound cl) s fun t => (t.cluster cl).round = false ∧ (t.cluster cl).failed = true ∧
      t.agenda = s.agenda)) ∧
  (∀ cl thief rest s j, s.jobAt cl = some j → let k := s.cluster cl
    let n := (k.pond.length - k.highm) / 2
    (k.pond.length ≤ k.highm → Runs (.pondWorkRequest cl thief rest) s fun t => (t.cluster cl).pond = k.pond ∧
      ∃ chan, t.agenda = s.agenda ++ [⟨chan, .pondHandover thief cl [] rest⟩]) ∧
    (k.highm < k.pond.length → n = 0 → k.stalled = [] → thief ≠ cl → Runs (.pondWorkRequest cl thief rest) s fun t =>
      (t.cluster cl).pond = k.pond ∧ (t.cluster thief).round = false) ∧
    (k.highm < k.pond.length → n ≠ 0 → k.stalled = [] → Runs (.pondWorkRequest cl thief rest) s fun t =>
      (t.cluster cl).pond = k.pond.drop n ∧ ∃ pre chan, t.agenda = pre ++ [⟨chan, .pondHandover thief cl (k.pond.take n) []⟩])) ∧
  (∀ cl victim v r s, Runs (.pondHandover cl victim [] (v :: r)) s fun t => t.clusters = s.clusters ∧
    ∃ chan, t.agenda = s.agenda ++ [⟨chan, .pondWorkRequest v cl r⟩]) ∧
  (∀ cl victim s, Runs (.pondHandover cl victim [] []) s fun t => (t.cluster cl).round = false ∧ (t.cluster cl).failed = true ∧
    t.agenda = s.agenda) ∧
  (∀ cl victim p rest s j, s.jobAt cl = some j → (s.cluster cl).stalled = [] → (s.cluster cl).pond.length < 16384 →
    Runs (.pondHandover cl victim [p] rest) s fun t => (t.cluster cl).pond = (s.cluster cl).pond ++ [p]) ∧
  (∀ cl other s, let k := s.cluster cl
    let low := k.pond.length < k.lowm ∧ k.steal = true ∧ k.det = false
    (k.failed = true → low → Runs (.pondHighmAnnounce cl other) s fun t => (t.cluster cl).round = true ∧
      (t.cluster cl).failed = false ∧ ∃ chan, t.agenda = s.agenda ++ [⟨chan, .pondRequestRound cl⟩]) ∧
    (k.failed = true → ¬low → Runs (.pondHighmAnnounce cl other) s fun t => t.agenda = s.agenda ∧
      t.cluster cl = { k with failed := false }) ∧
    (k.failed = false → exec (.pondHighmAnnounce cl other) s = .next s))) ∧
  (
  (∀ cl s, (∀ q ∈ (s.cluster cl).twins, q.done.length ≠ q.cores.length) → exec (.twinCompare cl) s = .next s) ∧
  ∀ cl s j r, s.jobAt cl = some j → (s.cluster cl).twins.find? (fun t => t.done.length == t.cores.length) = some r →
    let hash (i : Nat) : Word := streamHash (r.streams[i]?.getD [])
    (r.cores.length = 2 → hash 0 = hash 1 → (∀ i ∈ r.streams[0]?.getD [], i.kind ≠ 7 ∧ i.kind ≠ 8) → r.slots = [] →
      Runs (.twinCompare cl) s fun t => t.cores = s.cores ∧ t.mem = s.mem ∧
        t.agenda = s.agenda ++ (r.streams[0]?.getD []).map (fun i => fromWeir cl i.event.1 i.event.2) ∧
        (t.cluster cl).acts = ((s.cluster cl).acts + 1) % 2 ^ 48 ∧ (t.cluster cl).twins = (s.cluster cl).twins.filter (·.id != r.id)) ∧
    (∀ c, r.cores.length = 2 → hash 0 ≠ hash 1 →
      ((List.range 16).map (16 * cl + ·)).find? (fun c => s.twinEligible j c r.cores) = some c → Runs (.twinCompare cl) s fun t =>
        (t.core c).offer = (s.core c).offer ++ [(⟨cl, r.id, 2⟩, r.pair, r.entry)] ∧ (∀ c', c' ≠ c → t.core c' = s.core c') ∧
        (∀ q ∈ (s.cluster cl).twins, q.id = r.id → { q with cores := q.cores ++ [c] } ∈ (t.cluster cl).twins) ∧
        t.agenda = s.agenda ∧ t.mem = s.mem) ∧
    (r.cores.length = 2 → hash 0 ≠ hash 1 →
      ((List.range 16).map (16 * cl + ·)).find? (fun c => s.twinEligible j c r.cores) = none →
      exec (.twinCompare cl) s = .next (s.twinFail j cl r)) ∧
    (r.cores.length ≠ 2 → hash 2 ≠ hash 0 → hash 2 ≠ hash 1 → exec (.twinCompare cl) s = .next (s.twinFail j cl r)) ∧
    (r.cores.length ≠ 2 → hash 2 = hash 0 ∨ hash 2 = hash 1 →
      let dissent := r.cores[if hash 2 = hash 0 then 1 else 0]?.getD 0
      let wire : Word := BitVec.ofNat 64 r.pair.wire
      exec (.twinCompare cl) s = .next (((s.endTwin j cl r (some 2)).logRec (dieOfCluster cl)
        { code := Code.twinMismatch, core := 16 * cl, unit := unitWeir, colour := j.colour, info := wire }).raise1 none cl
          j.colour ⟨Code.twinMismatch, 0, wire, BitVec.ofNat 64 dissent, false⟩)))

/-! ### Matrix Units and Decomposition Engines -/

/-- R165, R273 to R280: every command of a Matrix Unit is checked, joins the core's queue at the selected MU, and traps when
it is out of range. R278, R279, R423: what PSTAT, PGAIN and PSERIAL report, how PWAIT waits, also for a DRIFT that the core has
not taken, and what PFLUSH cancels;
that it counts a PLOOP once, and gives the register of a cancelled PHRD a free value, is the model's reading (log 39, 40).
R413: inside a twin they trap CTX_BAD; which commands the rule's engine work takes in is the model's reading (log 41). -/
def Obligations.PhotonicIssue : Prop :=
  (
  ∀ (h : Head) (d a : XReg) s,
    let w := s.getX a
    let x := s.getX d
    let i := (w.extractLsb' 0 12).toNat
    let sel (top : Nat) : Prop := w.toNat < 2 ^ 13 ∧ i ≤ top
    let sigmaBad : Prop := i = 2112 ∧ sigmaOk (x.setWidth 32) = false
    let plain (j : Instr) (op : MuOp) : Prop := MuIssues j h [op] 0 none id s
    (Runs (.psel h a) s fun t => Past h s t ∧ t.me.selMu = w.toNat % 2 ∧ Registers [] [] [] s t ∧ Outside s t ∧
      ({ t.me.rest with selMu := 0 } : Core) = { s.me.rest with selMu := 0 }) ∧
    (2 ^ 19 ≤ w.toNat → Traps (.phld h a) s Code.muBad) ∧
    (w.toNat < 2 ^ 19 → w.toNat % 64 ≠ 0 → Traps (.phld h a) s Code.align w) ∧
    (w.toNat < 2 ^ 19 → w.toNat % 64 = 0 → 2 ^ 18 < w.toNat % 2 ^ 18 + 4288 → Traps (.phld h a) s Code.addrWin w) ∧
    (w.toNat < 2 ^ 19 → w.toNat % 64 = 0 → w.toNat % 2 ^ 18 + 4288 ≤ 2 ^ 18 → plain (.phld h a) (.phld w)) ∧
    plain (.phsw h) .phsw ∧
    (sel 2114 → MuIssues (.phrd h d a) h [.phrd w d] 0 none
      (fun k => if d = 0 then k else k.upLv k.lvl (fun v => { v with locks := v.locks ++ [d] })) s) ∧
    (sel 2114 → ¬(i = 2113 ∧ 32 < x.toNat % 64) → ¬sigmaBad → plain (.phwr h d a) (.phwr w x)) ∧
    (sel 2111 → plain (.ptrim h d a) (.ptrim w x)) ∧
    (¬sel 2114 → Traps (.phrd h d a) s Code.muBad ∧ Traps (.phwr h d a) s Code.muBad) ∧
    (sel 2114 → (i = 2113 ∧ 32 < x.toNat % 64) ∨ sigmaBad → Traps (.phwr h d a) s Code.muBad) ∧
    (¬sel 2111 → Traps (.ptrim h d a) s Code.muBad) ∧
    (passLegal w → MuIssues (.ppass h a) h [.pass w false true] s.me.muNext s.me.bind (issued 1) s ∧
      MuIssues (.ppassa h a) h [.pass w true true] s.me.muNext s.me.bind (issued 1) s) ∧
    (¬passLegal w → Traps (.ppass h a) s Code.passBad ∧ Traps (.ppassa h a) s Code.passBad ∧ Traps (.ploop h d a) s Code.passBad) ∧
    (∀ c n, c = x.toNat % 16 + 1 → n = (w.extractLsb' 36 6).toNat + 1 →
      let legal := x.toNat < 32 ∧ passLegal w ∧ (w.extractLsb' 42 6).toNat + (c - 1) * n + (n - 1) < 60 ∧
        (w.extractLsb' 0 10).toNat + (c - 1) * n + (n - 1) < 992 ∧ (w.extractLsb' 48 6).toNat + (c - 1) ≤ 63
      (legal → MuIssues (.ploop h d a) h ((List.range c).map (fun k =>
        .pass (w + BitVec.ofNat 64 (k * 2 ^ 48 + k * n * 2 ^ 42 + k * n)) (x.getLsbD 4) (k + 1 == c))) s.me.muNext s.me.bind (issued c) s) ∧
      (¬legal → Traps (.ploop h d a) s Code.passBad)) ∧
    MuIssues (.pprobe h) h [.probe] s.me.muNext none (fun k => { k with
      unfinished := k.unfinished ++ [k.muNext], muNext := k.muNext + 1 }) s ∧
    (w.toNat < 3 → w ≠ 2 ∨ s.lev.sup = true → plain (.pcal h a) (.pcal w.toNat)) ∧
    (3 ≤ w.toNat → Traps (.pcal h a) s Code.muBad) ∧ (w = 2 → s.lev.sup = false → Traps (.pcal h a) s Code.privilege)) ∧
  (
  ∀ (h : Head) (d a : XReg) s,
    let mu := 2 * s.cl + s.me.selMu
    let m := s.mu mu
    let v := s.getX a
    let mine := m.q.countP (fun q => q.c == s.cur)
    let gone := m.q.filter (fun q => q.c == s.cur && !q.begun)
    let before := s.me.unfinished.countP (fun k => decide (k < s.me.muNext)) + s.me.pend.countP (fun f => f.code == Code.drift)
    (RoomX s d →
      (v.toNat % 4 = 0 → Runs (.pstat h d a) s (LateX h d m.stat s)) ∧
      (v.toNat % 4 = 1 → Runs (.pstat h d a) s (LateX h d (m.serial.setWidth 64) s)) ∧
      (v.toNat % 4 = 2 → mine < 16 → Runs (.pstat h d a) s (LateX h d (BitVec.ofNat 64 (s.me.lastSerial.toNat * 2 ^ 32 +
        (if m.stream.any (fun p => p.c == s.cur) = true then 16 else 0) + mine)) s)) ∧
      (v.toNat % 4 = 3 → s.me.selMu < 2 → Runs (.pstat h d a) s (LateX h d (BitVec.ofNat 64 (s.cur / 8 % 2 * 2 + s.me.selMu)) s))) ∧
    (¬RoomX s d → exec (.pstat h d a) s = .next (s.block .awake)) ∧
    (∀ g : Int, let fits (g : Int) (n : Nat) (e : Int) : Prop := 1024 * n * 2 ^ (e + 200).toNat < 1023 * 2 ^ (g + 200).toNat
      (match f32 (v.setWidth 32) with
        | .nan => g = 7
        | .inf _ => g = 7
        | .zero _ => g = -8
        | .fin _ n e _ => -8 ≤ g ∧ g ≤ 7 ∧ (g = 7 ∨ fits g n e) ∧ ∀ g', -8 ≤ g' → g' < g → ¬fits g' n e) →
      Runs (.pgain h d a) s fun t => Past h s t ∧ Frame [d] [] [] s t ∧ t.getX d = (if d = 0 then 0 else (s.getX d).extractLsb' 60 4 ++ BitVec.ofInt 4 g ++ (s.getX d).extractLsb' 0 56)) ∧
    (Runs (.pserial h d) s fun t => Past h s t ∧ match s.me.recent with
      | none => t.getX d = 0 ∧ Frame [d] [] [] s t
      | some (_, some n) => t.getX d = (if d = 0 then 0 else BitVec.ofNat 64 n) ∧ Frame [d] [] [] s t
      | some (n, none) => Registers [] [] [] s t ∧ Outside s t ∧ (d ≠ 0 → t.lev.locks = s.lev.locks ++ [d] ∧
        t.me.serials = s.me.serials ++ [(s.me.lvl.val, d, n)])) ∧
    (∀ c num serial lvl r, (lvl, r, num) ∈ (s.core c).serials → (s.core c).serials.countP (fun e => e.2.2 == num) = 1 → lvl < 4 →
      r ≠ 0 → ∀ l : Fin 4, l.val = lvl → let t := s.giveSerial c num serial
        (t.core c).getX l r = BitVec.ofNat 64 serial ∧ (t.core c).serials = (s.core c).serials.filter (fun e => e.2.2 != num)) ∧
    (s.waiting = none → s.me.muNext < 2 ^ 58 →
      (s.inTwin = false → before ≤ v.toNat % 64 → Runs (.pwait h d a) s fun t => Past h s t ∧ Frame [d] [] [] s t ∧
        t.getX d = (if d = 0 then 0 else s.me.lastHdr)) ∧
      (s.inTwin = false → v.toNat % 64 < before → Runs (.pwait h d a) s fun t => t.pc = s.pc ∧ Frame [] [] [] s t ∧
        t.lev.wait.map (·.reason) = some .engine) ∧
      (s.inTwin = true → Traps (.pwait h d a) s Code.ctxBad)) ∧
    (s.inTwin = false → (∀ q ∈ gone, q.bind = none) → Runs (.pflush h d) s fun t => Past h s t ∧
        t.getX d = (if d = 0 then 0 else BitVec.ofNat 64 gone.length) ∧ SameBytes s t ∧ SameCores s t ∧
        MuBecomes mu { m with q := m.q.filter (fun q => q.c != s.cur || q.begun) } s t ∧
        (∀ q ∈ gone, ∀ w acc last r, q.op = .pass w acc last :: r → ∀ i, i < q.op.length → q.num + i ∉ t.me.unfinished) ∧
        ((∀ q ∈ gone, ∀ w r, q.op.head? ≠ some (.phrd w r)) → s.me.serials = [] → Registers [d] [] [] s t)) ∧
    (s.inTwin = true → Traps (.pflush h d) s Code.ctxBad))

/-- R156 to R158, R275, R422: a phase image that passes its checks fills the shadow bank, another raises PH_BAD; writes and
trims reach the shadow bank at once and the active bank at the next pass boundary, where an exchange happens too. R149, R166,
R277, R278: a pass that starts takes the next serial and writes its result slots; when it finishes, its header is written and
its core no longer waits for it. That the slots are written when the pass starts and only the header later is the model's
reading (log 34); the noise in the codes is a free value (log 8). -/
def Obligations.PhasesAndPasses : Prop :=
  (
  (∀ bs b, bs.length = 4288 → imageBank bs = some b → (∀ i, i < 2112 → b.read i = BitVec.ofNat 64 (leVal ((bs.drop (2 * i)).take 2))) ∧
    b.read 2112 = BitVec.ofNat 64 (leVal ((bs.drop 4224).take 4)) ∧ b.read 2113 = (bs[4228]?.getD 0).setWidth 64 ∧
    b.read 2114 = BitVec.ofNat 64 (leVal ((bs.drop 4232).take 8)) ∧ b.ld = b.ph ∧ b.bad = false) ∧
  (∀ bs, bs.length = 4288 → ((imageBank bs).isSome = true ↔
    leVal (bs.drop 4280) = ((bs.take 4280).foldl crcByte 0).toNat ∧ leVal ((bs.drop 4228).take 1) ≤ 32 ∧
    leVal ((bs.drop 4229).take 3) = 0 ∧ leVal ((bs.drop 4240).take 40) = 0 ∧
    sigmaOk (BitVec.ofNat 32 (leVal ((bs.drop 4224).take 4))) = true)) ∧
  ∀ mu q k s,
    (∀ loc, Served s mu q (.phld loc) k →
      let bs := s.mem.bytes (muKey mu (bits loc 18 1) (bits loc 0 18)) 4288
      (∀ b, imageBank bs = some b → Runs (.phldTakeEffect mu) s fun t =>
        MuBecomes mu { (k.setBank (1 - k.active) b) with ldbusy := true, ldCore := some q.c } s t ∧ t.cores = s.cores ∧ t.mem = s.mem) ∧
      (imageBank bs = none → ∃ u, exec (.phldTakeEffect mu) s = .next ((u.afterIssue q.c q.lvl Code.phBad q.pc loc 0).muServe mu) ∧
        u.mu mu = k ∧ Logged (dieOf q.c) Code.phBad u ∧ u.cores = s.cores ∧ u.mem = s.mem)) ∧
    (Runs (.shadowSettle mu) s fun t => MuBecomes mu { s.mu mu with ldbusy := false, ldCore := none } s t ∧
      t = { s with mus := t.mus }) ∧
    (∀ sel d (l : Fin 4), Served s mu q (.phrd sel d) k → q.lvl = l.val → s.damage = [] → d ≠ 0 →
      let bank := if sel.getLsbD 12 = true then k.banks[1 - k.active] else k.writes.foldl Bank.change k.banks[k.active]
      Runs (.phrdTakeEffect mu) s fun t => MuBecomes mu k s t ∧ (t.core q.c).getX l d = bank.read (bits sel 0 12) ∧
        (t.core q.c).lv[l].locks = (s.core q.c).lv[l].locks.erase d ∧ (∀ c, c ≠ q.c → t.core c = s.core c) ∧ t.mem = s.mem) ∧
    (∀ sel v trim, let i := bits sel 0 12
      let ev : Instr := if trim = true then .ptrimTakeEffect mu else .phwrTakeEffect mu
      Served s mu q (if trim = true then .ptrim sel v else .phwr sel v) k →
      (sel.getLsbD 12 = false → Runs ev s fun t =>
        MuBecomes mu { k with writes := k.writes ++ [(i, v, trim)], owners := q.c :: k.owners } s t ∧
        t = { s with mus := t.mus }) ∧
      (sel.getLsbD 12 = true → s.damage = [] → let b := k.banks[1 - k.active]
        Runs ev s fun t => t = { s with mus := t.mus } ∧
          MuBecomes mu (k.setBank (1 - k.active) (if trim = true then b.trim i v else b.write i v)) s t)) ∧
    (let m := s.mu mu
    (m.probing ≠ none → exec (.passBoundary mu) s = .next s) ∧
    (m.probing = none → s.damage = [] → Runs (.passBoundary mu) s fun t => t = { s with mus := t.mus } ∧ ∃ u : Mu, MuBecomes mu u s t ∧ u.writes = [] ∧
      u.swpend = false ∧ u.due = [] ∧ u.banks = m.banks.set m.active (m.writes.foldl Bank.change m.banks[m.active]) ∧
      u.active = (if m.swpend = true then 1 - m.active else m.active) ∧
      (u.hold = true ↔ m.hold = true ∨ ∃ w ∈ m.writes, w.2.2 = true) ∧
      (∀ w : Fin 8, u.lam[w] = if w.val ∈ m.due then 1 else m.lam[w]) ∧ (u.pauseMu = true ↔ m.pauseMu = true ∨ m.due ≠ []))) ∧
    (Runs (.trimSettle mu) s fun t => t = { s with mus := t.mus } ∧ let m := s.mu mu
      MuBecomes mu { m with hold := false, owners := if m.boundaryDue = true then m.owners else [] } s t) ∧
    (∀ st b r, let m := s.mu mu
      m.loads = (st, b) :: r → m.pauseMu = false → m.swpend = false → m.ldbusy = false → (∀ q ∈ m.q, st ≤ q.stamp) → Runs (.deBankLoad mu) s fun t =>
        MuBecomes mu { (m.setBank (1 - m.active) b) with loads := r, ldbusy := true, ldCore := none } s t ∧ t.cores = s.cores ∧
        t.mem = s.mem)) ∧
  (
  ∀ mu s, let m := s.mu mu
    (∀ q k desc acc last, Served s mu q (.pass desc acc last) k → passLegal desc → m.boundaryDue = false → m.hold = false →
      s.damage = [] → s.mem.wf = true → let count := (desc.extractLsb' 36 6).toNat + 1
      let slot (i : Nat) : Nat := muKey mu 2 (1024 * ((desc.extractLsb' 42 6).toNat + i))
      Runs (.passStart mu) s fun t => ∃ (p : Pass) (u : Mu), MuBecomes mu u s t ∧ u.stream = k.stream ++ [p] ∧
        u.next = (if k.next + 1 = 0 then 1 else k.next + 1) ∧ u.since = k.since ++ [k.next.toNat] ∧
        (p.c, p.num, p.serial, p.desc, p.acc, p.last) = (q.c, q.num, k.next.toNat, desc, acc, last) ∧ p.bank = k.active.val ∧
        (p.image, p.sigma) = (k.banks[k.active].image, k.banks[k.active].sigma) ∧
        (p.suspect = true ↔ k.dfault = true ∨ k.stuck ≠ []) ∧ t.free = s.free + 256 * count ∧
        (∀ i n, i < count → n < 256 → BitVec.ofNat 32 (t.peek (slot i + 4 * n) 4) =
          ((s.passSymbol mu (transfer (k.realised k.act.ph)) { p with satf := false, nanv := false } i).1[n]?).getD 0) ∧
        SameBut (slot 0) (1024 * count) s t) ∧
    (m.boundaryDue = true ∨ m.hold = true → exec (.passStart mu) s = .next s) ∧
    (∀ (sigma : W32) ex g code, sigmaOk sigma = true → passElem sigma ex g code none =
      (to32 .rne (if code = 0 ∨ (f32 sigma).isZero = true then .zero false
        else (f32 sigma).mul (Num.ofInt code ((ex : Int) - 136 + g)))).1) ∧
    (∀ p r, m.stream = p :: r → p.bind = none → s.mem.wf = true → p.serial < 2 ^ 32 →
      let hdr := muKey mu 2 (0xF000 + 64 * (p.desc.extractLsb' 48 6).toNat)
      Runs (.passHeaderWrite mu) s fun t => MuBecomes mu { m with stream := r, serial := BitVec.ofNat 32 p.serial } s t ∧
        SameBut hdr 64 s t ∧ t.peek (hdr + 32) 32 = 0 ∧ t.peek64 (hdr + 8) = p.image ∧
        t.peek (hdr + 16) 8 = p.sigma.toNat ∧ t.peek (hdr + 24) 8 = m.pser.toNat * 2 ^ 48 ∧
        (t.peek64 hdr).extractLsb' 32 32 = BitVec.ofNat 32 p.serial ∧ (t.peek64 hdr).extractLsb' 28 4 = m.enob ∧
        (t.peek64 hdr).getLsbD 27 = p.suspect ∧ (t.peek64 hdr).getLsbD 26 = p.satf ∧ (t.peek64 hdr).getLsbD 25 = p.acc ∧
        (t.peek64 hdr).getLsbD 24 = p.nanv ∧ (t.peek64 hdr).extractLsb' 22 2 = BitVec.ofNat 2 p.bank ∧
        (t.peek64 hdr).extractLsb' 0 7 = (p.desc.extractLsb' 36 6).setWidth 7 + 1 ∧
        (t.core p.c).lastHdr = t.peek64 hdr ∧ (t.core p.c).lastSerial = BitVec.ofNat 32 p.serial ∧
        (t.core p.c).unfinished = (s.core p.c).unfinished.filter (· != p.num) ∧ (∀ c, c ≠ p.c → t.core c = s.core c)))

/-- R151, R170, R171, R280, R415, R416: a probe gives DRIFT, ENOB and PSER, and one above LIMIT sets DFAULT and is reported; a
calibration ends with a probe; a stuck modulator and a lost comb line are noted; a spare line lets the MUs go on. R159, R276:
PDEC queues a decomposition whose descriptor is in range and numbers it; PDECQ gives the status of one; a command that is done
loads a bank or writes an image, and one that the host link holds back waits (R420). The numbers of the comb lines, the loss of
a spare that nothing stands on, and a lost Dial line as a worn wavelength are the model's (log 49), and so is that a
decomposition which fails leaves memory as it was (log 20). -/
def Obligations.ProbesAndDecompositions : Prop :=
  (
  (∀ mu s r, let m := s.mu mu
    let drift := probeDrift (m.realised m.act.ph) m.act.ld s.free
    let probed : Mu := { m with
      drift := BitVec.ofNat 16 drift, enob := BitVec.ofNat 4 (enobOf drift), pser := m.pser + 1, probing := none
      dfault := decide (m.dlim.toNat < drift), since := if m.dlim.toNat < drift then m.since else m.since.filter (fun n => !r.since.contains n) }
    m.probing = some r →
      (Runs (.probeEvaluation mu) s fun t => t.mu mu = { m with evalOk := true } ∧ t = { s with mus := t.mus }) ∧
      (m.evalOk = true → drift ≤ m.dlim.toNat → Runs (.probeComplete mu) s fun t => MuBecomes mu probed s t ∧ t.free = s.free + 256 ∧
        t.mem = s.mem ∧ ∀ c n, r.c = some c → r.num = some n → (t.core c).unfinished = (s.core c).unfinished.filter (· != n)) ∧
      (∀ c n, m.evalOk = true → m.dlim.toNat < drift → m.stream = [] → (∀ i, i < 64 →
          (s.peek (muKey mu 2 (0xF000 + 64 * i) + 4) 4) ∉ r.since) → (s.cluster (mu / 2)).job = some n → n ≠ 0 → r.c = some c →
          (s.core c).status = .running → (s.core c).colour = n → (s.core c).pend.length < 8 → Runs (.probeComplete mu) s fun t =>
        MuBecomes mu probed s t ∧ Logged (dieOfCluster (mu / 2)) Code.drift t ∧ t.mem = s.mem ∧
        ∃ f, (t.core c).pend = (s.core c).pend ++ [f] ∧ f.code = Code.drift)) ∧
  (∀ mu s, (s.mu mu).probing = none → exec (.probeEvaluation mu) s = .next s ∧ exec (.probeComplete mu) s = .next s) ∧
  (∀ e d, d < 65536 → (enobOf d = e → 0 < e → 12 * d * d * 2 ^ (2 * e) ≤ 2 ^ 26) ∧
    (e ≤ 10 → 12 * d * d * 2 ^ (2 * e) ≤ 2 ^ 26 → e ≤ enobOf d)) ∧
  (∀ mu s c kind, let m := s.mu mu
    m.cal = some (c, kind) → Runs (.pcalComplete mu) s fun t => t = { s with mus := t.mus, free := t.free } ∧
      ∃ stuck, MuBecomes mu { m with cal := none, stuck := stuck, dev := if kind = 2 then none else m.dev, probing := some ⟨some c, none, m.since⟩ } s t ∧
        (kind ≠ 2 → stuck = m.stuck) ∧ (stuck = m.stuck ∨ stuck = [])) ∧
  (∀ mu s, Runs (.balanceHeaterUpdate mu) s fun t => ∃ b, t.mu mu = { s.mu mu with balok := b, dev := some s.free } ∧ (∀ i, i ≠ mu → t.mu i = s.mu i) ∧
    t = { s with mus := t.mus, free := s.free + 1 }) ∧
  (∀ mu w j s, (s.cluster (mu / 2)).job = none → Runs (.modStuck mu w j) s fun t =>
    t.mu mu = { s.mu mu with stuck := (s.mu mu).stuck ++ [(w, j)] } ∧ Logged (dieOfCluster (mu / 2)) Code.modStuck t ∧
    t = { s with mus := t.mus, dies := t.dies }) ∧
  (∀ die s, Runs (.spareLineProbe die) s fun t => t = { s with mus := t.mus } ∧ ∀ mu, let m := s.mu mu
    (mu < 64 → dieOfCluster (mu / 2) = die → m.pauseMu = true → ∃ p, m.probing.elim (p = ⟨none, none, m.since⟩) (fun r => p = r) ∧
      t.mu mu = ({ m with pauseMu := false, probing := some p } : Mu).serve 256) ∧
    (¬(mu < 64 ∧ dieOfCluster (mu / 2) = die ∧ m.pauseMu = true) → t.mu mu = m)) ∧
  (∀ die w s, die < 4 → (∀ mu, mu < 64 → dieOfCluster (mu / 2) = die → (s.cluster (mu / 2)).job = none) →
    (∀ l : Fin 8, w = l.val → Runs (.combLoss die w) s fun t => t = { s with mus := t.mus, dies := t.dies } ∧
      ∀ mu, mu < 64 → dieOfCluster (mu / 2) = die → let m := s.mu mu
        (m.lam[l] = 0 → w ∉ m.due → (t.mu mu).due = m.due ++ [w] ∧ ∀ p ∈ (t.mu mu).stream, p.suspect = true) ∧
        (m.lam[l] = 1 → w ∉ m.due → (t.mu mu).lam = m.lam.set l 2) ∧ (m.lam[l] = 2 → t.mu mu = m)) ∧
    (∀ l : Fin 8, w = 8 + l.val → Runs (.combLoss die w) s fun t => t = { s with mus := t.mus, dies := t.dies } ∧
      ∀ mu, mu < 64 → dieOfCluster (mu / 2) = die → let m := s.mu mu
        (m.lam[l] = 1 → l.val ∉ m.due → (t.mu mu).lam = m.lam.set l 2) ∧ (m.lam[l] ≠ 1 → t.mu mu = m)) ∧
    (16 ≤ w → w < 35 → Runs (.combLoss die w) s fun t => t = { s with ports := t.ports } ∧
      ∀ p ∈ [2 * die, 2 * die + 1], NMap.get (t.port p).fails 0 (w - 16) = 17))) ∧
  (
  (∀ h (d a : XReg) s off key own cached, let va := s.getX a
    let n := if s.me.deNum + 1 = 0 then 1 else s.me.deNum + 1
    let die := dieOf s.cur
    let w (i : Nat) : Word := BitVec.ofNat 64 (leVal (s.readFor s.cur (key + 8 * i) 8))
    placeOf s.cur va = .own off → s.plan va 32 false = .go key own cached false → s.inTwin = false →
    (∀ cmd, deCommand s w = some cmd → (s.die die).de.length < 16 → s.releaseHold = false → Runs (.pdec h d a) s fun t =>
      Past h s t ∧ t.getX d = (if d = 0 then 0 else n.setWidth 64) ∧ (t.die die).de = (s.die die).de ++ [{ cmd with num := n.toNat }] ∧
      t.me.deNum = n ∧ (n.toNat, 1) ∈ t.me.deStat ∧ Registers [d] [] [] s t ∧ SameCores s t ∧
      t = { s with cores := t.cores, dies := t.dies }) ∧
    (∀ cmd, deCommand s w = some cmd → (16 ≤ (s.die die).de.length ∨ s.releaseHold = true) →
      exec (.pdec h d a) s = .next (s.block .awake)) ∧
    (deCommand s w = none → Traps (.pdec h d a) s Code.deBad)) ∧
  (∀ s w cmd, deCommand s w = some cmd → cmd.c = s.cur ∧ cmd.wva = w 0 ∧ cmd.iva = w 2 ∧
    cmd.rstr = ((w 1).extractLsb' 0 32).toInt ∧ cmd.n = (w 3).toNat % 64 ∧ 1 ≤ cmd.n ∧ cmd.n ≤ 32 ∧ cmd.wva.toNat % 4 = 0 ∧
    cmd.mu = (if (w 3).getLsbD 8 then some (2 * ((w 3).extractLsb' 9 5).toNat + ((w 3).extractLsb' 14 1).toNat) else none)) ∧
  (∀ h (d a : XReg) s, let b : BitVec 32 := (s.getX a).setWidth 32
    let st := s.me.deStat
    let Gives (w : Nat) : Prop := Runs (.pdecq h d a) s fun t => t.getX d = (if d = 0 then 0 else BitVec.ofNat 64 w) ∧ Past h s t ∧
      Frame [d] [] [] s t
    (s.getX a = 0 → (∃ e ∈ st, e.2 = 1) → Gives 1) ∧ (s.getX a = 0 → (∀ e ∈ st, e.2 = 0) → Gives 0) ∧
    (s.getX a ≠ 0 → 1 ≤ (b - s.me.deNum).toNat → (b - s.me.deNum).toNat < 2 ^ 31 → Traps (.pdecq h d a) s Code.deBad) ∧
    (s.getX a ≠ 0 → ¬(1 ≤ (b - s.me.deNum).toNat ∧ (b - s.me.deNum).toNat < 2 ^ 31) →
      Gives (((st.find? (fun e => e.1 == b.toNat)).map (·.2)).getD 0))) ∧
  (∀ die s q r, (s.die die).de = q :: r → s.deWaits q = true → exec (.deComplete die) s = .next s) ∧
  (∀ die s q r, (s.die die).de = q :: r → s.deWaits q = false → let s' := s.upDie die (fun k => { k with de := r })
    let Status (n : Nat) (k k' : Core) : Prop := k'.deStat = k.deStat.map (fun e => if e.1 = q.num then (e.1, n) else e)
    (∀ u w m, s'.deMatrix q = .ok (u, w) → u.core q.c = s.core q.c → q.mu = some m → (∀ row ∈ w, ∀ x ∈ row, isNan32 x = false ∧
        ∀ neg, f32 x ≠ .inf neg) → Runs (.deComplete die) s fun t => Status 0 (s.core q.c) (t.core q.c) ∧ t.mem = u.mem ∧
      (t.mu m).loads = (u.mu m).loads ++ [((u.mu m).stamps,
        Bank.filled (decompose q.n w).1 (decompose q.n w).2 (BitVec.ofNat 6 q.n) q.wva)]) ∧
    (∀ addr, s'.deRun q = .error (0, addr) → exec (.deComplete die) s = .next s) ∧
    (∀ code addr, s'.deRun q = .error (code, addr) → code ≠ 0 → Runs (.deComplete die) s fun t =>
      Status code (s.core q.c) (t.core q.c) ∧ Logged die code t ∧ t.mem = s.mem) ∧
    (∀ u, s'.deRun q = .ok u → u.core q.c = s.core q.c → Runs (.deComplete die) s fun t => t.mem = u.mem ∧
      Status 0 (s.core q.c) (t.core q.c))) ∧
  (∀ die s, (s.die die).de = [] → exec (.deComplete die) s = .next s))

/-! ### The Copy Engine and the Dial -/

/-- R95 to R98, R101, R291 to R294: the control registers, how CPGO starts a transfer, what CPWAIT and CPQ report, what CSHAPE
checks, and the mask that CPMC makes of a group. R98, R101, R102, R395: eight transfers run in CPGO order; a completed one has
copied each byte once, a fault becomes its status and is logged; one whose writes a ring slot holds back is not over before
they have performed (R118). R413: CPGO and CPWAIT inside a twin trap CTX_BAD, as the model reads it (log 41). That all bytes
move at completion (log 43), which transfers count as queued (log 94), that CPGO reads its shape record unchecked (log 95) and
that the privilege of the CPGO goes with its transfer (log 111) are the model's. -/
def Obligations.Copies : Prop :=
  (
  ∀ (h : Head) (d a : XReg) (s : State),
    let k := s.cluster s.cl
    let v := s.getX a
    let n := if k.lastCp + 1 = 0 then 1 else k.lastCp + 1
    let shp := s.me.cp[3]
    let shape := if shp = 0 then none else some ((List.range 8).map (fun i =>
      BitVec.ofNat 64 (leVal (s.readFor s.cur (padKey s.cur (shp.toNat % 2 ^ 18 / 64 * 64 + 8 * i)) 8))))
    let q : Copy := ⟨n.toNat, s.cur, s.me.cp, shape, s.me.bind, false, false, 0, s.lev.sup⟩
    let status := ((k.cpStat.find? (fun e => e.1 == v.toNat % 2 ^ 32)).map (·.2)).getD 0
    let own := k.cpStat.filter (fun e => s.me.cpIds.contains e.1)
    let unknown := v ≠ 0 ∧ 1 ≤ ((v.setWidth 32 : BitVec 32) - k.lastCp).toNat ∧ ((v.setWidth 32 : BitVec 32) - k.lastCp).toNat < 2 ^ 31
    let Gives (i : Instr) (w : Nat) : Prop := Runs i s fun t => t.getX d = (if d = 0 then 0 else BitVec.ofNat 64 w) ∧ Past h s t ∧
      Frame [d] [] [] s t
    let Sleeps (i : Instr) : Prop := Runs i s fun t => t.pc = s.pc ∧ t.lev.wait.isSome = true ∧ Frame [] [] [] s t
    (∀ i : Fin 7, Runs (.cpset h d (BitVec.ofNat 3 i.val)) s fun t => Past h s t ∧ t.me.cp = s.me.cp.set i (s.getX d) ∧
      Registers [] [] [] s t ∧ Outside s t ∧ ({ t.me.rest with cp := s.me.cp } : Core) = s.me.rest) ∧
    exec (.cpset h d 7) s = .next s.illegal ∧
    (s.inTwin = false → s.cpFault q = none → k.copies.countP (fun q => !q.running) < 64 → s.releaseHold = false →
      q.size ≠ 0 ∨ s.me.bind = none → Runs (.cpgo h d) s fun t => Past h s t ∧ t.getX d = (if d = 0 then 0 else n.setWidth 64) ∧
        (t.cluster s.cl).lastCp = n ∧ t.me.bind = none ∧ Registers [d] [] [] s t ∧ SameCores s t ∧ SameBytes s t ∧
        t.agenda = s.agenda ∧ (q.size ≠ 0 → (t.cluster s.cl).copies = k.copies ++ [q]) ∧
        (q.size = 0 → (∃ e ∈ (t.cluster s.cl).cpStat, e = (n.toNat, 0)) ∧
          (t.cluster s.cl).copies = k.copies.filter (fun r => r.id != n.toNat))) ∧
    (s.inTwin = false → s.cpFault q = none → 64 ≤ k.copies.countP (fun q => !q.running) ∨ s.releaseHold = true → Sleeps (.cpgo h d)) ∧
    (∀ code, s.inTwin = false → s.cpFault q = some code → Traps (.cpgo h d) s code) ∧
    (s.inTwin = true → Traps (.cpgo h d) s Code.ctxBad ∧ Traps (.cpwait h d a) s Code.ctxBad) ∧
    (shp = 0 → 2 ^ 24 < s.me.cp[4].toNat % 2 ^ 32 → s.cpFault q = some Code.shapeBad) ∧
    (shp = 0 → s.me.cp[4].toNat % 2 ^ 32 ≤ 2 ^ 24 → s.me.cp[4].toNat < 2 ^ 48 → s.me.cp[0].toNat / 2 ^ 61 = 7 ∨ s.me.cp[1].toNat / 2 ^ 61 = 7 →
      s.cpFault q = some Code.cpSpace) ∧
    (unknown → Traps (.cpq h d a) s Code.cpId ∧ (s.inTwin = false → s.waiting = none → Traps (.cpwait h d a) s Code.cpId)) ∧
    (v ≠ 0 → ¬unknown → Gives (.cpq h d a) status ∧ (s.inTwin = false → s.waiting = none →
      (status ≠ 1 → Gives (.cpwait h d a) status) ∧ (status = 1 → Sleeps (.cpwait h d a)))) ∧
    (v = 0 → ((∃ e ∈ own, e.2 = 1) → Gives (.cpq h d a) 1 ∧ (s.inTwin = false → s.waiting = none → Sleeps (.cpwait h d a))) ∧
      ((∀ e ∈ own, e.2 = 0) → Gives (.cpq h d a) 0 ∧ (s.inTwin = false → s.waiting = none → Gives (.cpwait h d a) 0))) ∧
    (∀ off key walk own cached, placeOf s.cur v = .own off → v.toNat % 64 = 0 → s.plan v 64 false = .go key own cached walk →
      key = padKey s.cur off → s.heldSlot key 64 = false → s.mem.wf = true →
      let r (i : Nat) : Word := s.peek64 (key + 8 * i)
      (shapeFault r = none → Runs (.cshape h d a) s fun t => Past h s t ∧ Registers [d] [] [] s t ∧ SameCores s t ∧ SameBut key 8 s t ∧
        t.getX d = (if d = 0 then 0 else BitVec.ofNat 64 (shapeCount r)) ∧ t.peek64 key = r 0 ||| 1 <<< 63) ∧
      (∀ i, shapeFault r = some i → ∃ u : State, exec (.cshape h d a) s = .next (u.trap Code.shapeBad (BitVec.ofNat 64 i)) ∧
        SameBut key 8 s u ∧ u.peek64 key = r 0 &&& ~~~((1 : Word) <<< 63) ∧ u.cores = s.cores)) ∧
    (∀ off, placeOf s.cur v = .own off → v.toNat % 64 ≠ 0 → Traps (.cshape h d a) s Code.align v) ∧
    (∀ g, s.group? s.me.colour (v.toNat % 256) = some g → s.me.memberOf (v.toNat % 256) = true →
      let core (i : Nat) : Nat := if v.getLsbD 8 = true then sectorCore s.cur i else 16 * s.cl + i
      let width := if v.getLsbD 8 = true then 64 else 16
      Runs (.cpmc h d a) s fun t => Past h s t ∧ Registers [d] [] [] s t ∧ Outside s t ∧
        t.getX d = (if d = 0 then 0 else BitVec.ofNat 64 ((List.range width).countP (fun i => g.members.contains (core i)))) ∧
        (∀ i, i < 64 → t.me.cp[5].getLsbD i = (decide (i < width) && g.members.contains (core i))) ∧
        t.me.cp[6].getLsbD 2 = v.getLsbD 8 ∧ (∀ i, i ≠ 2 → t.me.cp[6].getLsbD i = s.me.cp[6].getLsbD i) ∧
        ∀ i : Fin 5, t.me.cp[i] = s.me.cp[i]) ∧
    (s.me.memberOf (v.toNat % 256) = false → Traps (.cpmc h d a) s Code.barNonmember)) ∧
  (
  (∀ cl s, let k := s.cluster cl
    (∀ q, k.copies.countP (·.running) < 8 → k.copies.find? (fun q => !q.running) = some q → Runs (.copyTransferStart cl) s fun t =>
      t = { s with clusters := t.clusters } ∧ (∀ c, c ≠ cl → t.cluster c = s.cluster c) ∧
      t.cluster cl = { k with copies := k.copies.map (fun r => if r.id = q.id then { r with running := true } else r) }) ∧
    (8 ≤ k.copies.countP (·.running) → exec (.copyTransferStart cl) s = .next s)) ∧
  (∀ cl id s q, (s.cluster cl).copies.find? (fun q => q.id == id && q.running) = some q → q.bind = none →
    let Done (n : Nat) (t : State) : Prop := (t.cluster cl).copies = (s.cluster cl).copies.filter (fun r => r.id != id) ∧
      (t.cluster cl).cpStat = (s.cluster cl).cpStat.map (fun e => if e.1 = id then (id, n) else e)
    let Waits (n : Nat) (t : State) : Prop := (t.cluster cl).cpStat = (s.cluster cl).cpStat ∧ (t.cluster cl).copies =
      (s.cluster cl).copies.map (fun r => if r.id = id then { r with moved := true, status := n } else r)
    (∀ u, q.moved = false → s.cpRun q = .ok u → u.cluster cl = s.cluster cl → (q.reg 6).getLsbD 1 = false →
      (u.cpHeld q = false → Runs (.copyTransferComplete cl id) s fun t => Done 0 t ∧ t.mem = u.mem) ∧
      (u.cpHeld q = true → Runs (.copyTransferComplete cl id) s fun t => Waits 0 t ∧ t.mem = u.mem ∧ t.heldWrites = u.heldWrites)) ∧
    (q.moved = true → s.cpHeld q = true → exec (.copyTransferComplete cl id) s = .next s) ∧
    (q.moved = true → s.cpHeld q = false → Runs (.copyTransferComplete cl id) s fun t => Done q.status t ∧ t.mem = s.mem) ∧
    (∀ code addr, q.moved = false → s.cpRun q = .error (code, addr) → code ≠ 0 → ∃ u : State, (u.cpHeld q = false → Done code u) ∧
      (u.cpHeld q = true → Waits code u) ∧ Logged (dieOfCluster cl) code u ∧ exec (.copyTransferComplete cl id) s = .next u ∧
      ∃ r, (u.die (dieOfCluster cl)).log.getLast? = some r ∧ r.w2 = addr ∧ r.w3 = BitVec.ofNat 64 id) ∧
    (∀ addr, q.moved = false → s.cpRun q = .error (0, addr) → exec (.copyTransferComplete cl id) s = .next s) ∧
    (∀ cs so cd dd n, q.shape = none → cpBase q.c (q.reg 0) = some (.pad cs so) → cpBase q.c (q.reg 1) = some (.pad cd dd) →
      q.reg 4 = BitVec.ofNat 64 (2 ^ 32 + n) → n < 2 ^ 18 → q.reg 5 = 0 → q.reg 6 = 0 → so + n ≤ 2 ^ 18 → dd + n ≤ 2 ^ 18 →
      (s.core cs).codeEnd ≤ so → (s.core cd).codeEnd ≤ dd → s.fenced cs = false → s.fenced cd = false →
      Undisturbed s (s.core q.c).colour → (∀ m i, s.heldSlot m i = false) → q.moved = false → s.cpHeld q = false →
      Runs (.copyTransferComplete cl id) s fun t => Done 0 t ∧ SameBut (padKey cd dd) n s t ∧
        ∀ i, i < n → t.mem.read (padKey cd dd + i) = s.mem.read (padKey cs so + i))))

/-- R296 to R298, R350, R351: DSEND queues a message for a package of the domain, DPOLL and DSLOT report, and DSIG gives a
contribution that is combined with the children's before it goes up the tree. R360: a message that comes to an empty queue is
tested at an idle port whose open window names its package. R413: inside a twin they trap CTX_BAD, as the model reads it (log
41). Which package stands behind a port is a constant of the model (log 47). -/
def Obligations.DialCommands : Prop :=
  (∀ (h : Head) (d a : XReg) (s : State) off key own cached, let va := s.getX a
    let w (i : Nat) : Word := s.padWord (off + 8 * i)
    let len := (w 2).toNat % 2 ^ 21
    let pkg := (w 2).toNat / 2 ^ 32 % 2 ^ 9
    let die := dieOf s.cur
    let n := if s.me.dsNum + 1 = 0 then 1 else s.me.dsNum + 1
    let legal := len ≠ 0 ∧ len ≤ 2 ^ 20 ∧ pkg ≤ 143 ∧ pkg ≠ s.pkg.toNat ∧ s.hub.dom.getLsbD pkg = true ∧ (w 2).toNat / 2 ^ 41 = 0 ∧
      (w 2).extractLsb' 21 11 = 0 ∧ w 3 = 0
    s.inTwin = false → placeOf s.cur va = .own off → va.toNat % 32 = 0 → s.releaseHold = false →
    s.planAt s.cur va 32 32 false ⟨true, true, true⟩ = .go key own cached false →
      (legal → s.dialFits die pkg len = true → ∃ t : State, exec (.dsend h d a) s = .next (if NMap.get (s.die die).voq [] pkg = []
          then ([2 * die, 2 * die + 1].filter (fun p => t.windowNames p pkg)).foldl (fun u p => u.portTestNow p) (t.newHead die pkg)
          else t) ∧
        Past h s t ∧ Registers [d] [] [] s t ∧ SameCores s t ∧
        t.getX d = (if d = 0 then 0 else n.setWidth 64) ∧ t.me.dsNum = n ∧ t.me.dsOut = s.me.dsOut ++ [n.toNat] ∧
        t = { s with cores := t.cores, dies := t.dies } ∧ NMap.get (t.die die).voq [] pkg = NMap.get (s.die die).voq [] pkg ++
          [⟨s.cur, s.me.lvl.val, s.pc, n.toNat, s.me.colour, w 0, w 1, len, pkg, []⟩] ∧
        ∀ p, p ≠ pkg → NMap.get (t.die die).voq [] p = NMap.get (s.die die).voq [] p) ∧
      (legal → s.dialFits die pkg len = false → Traps (.dsend h d a) s Code.dialFit) ∧ (¬legal → Traps (.dsend h d a) s Code.dialBad)) ∧
  (∀ h d a s, s.inTwin = true → Traps (.dsend h d a) s Code.ctxBad ∧ (s.waiting = none → Traps (.dsig h d a) s Code.ctxBad)) ∧
  (∀ (h : Head) (d a : XReg) (s : State), let v := s.getX a
    let pkg := v.toNat % 256
    let n := s.dialCount pkg
    s.waiting = none →
      (143 < pkg → Traps (.dpoll h d a) s Code.dialBad) ∧
      (pkg ≤ 143 → v.getLsbD 8 = false ∨ n ≠ (s.getX d).toNat % 2 ^ 32 → Runs (.dpoll h d a) s fun t => Past h s t ∧
        Frame [d] [] [] s t ∧ t.getX d = (if d = 0 then 0 else BitVec.ofNat 64 n)) ∧
      (pkg ≤ 143 → v.getLsbD 8 = true → n = (s.getX d).toNat % 2 ^ 32 → Runs (.dpoll h d a) s fun t => t.pc = s.pc ∧
        Frame [] [] [] s t ∧ t.lev.wait.map (·.reason) = some .ext)) ∧
  (∀ (h : Head) (d a : XReg) (s : State), d ≠ 0 → let v := s.getX a
    let e := v.toNat % 64
    Runs (.dslot h d a) s fun t => Past h s t ∧ Frame [d] [] [] s t ∧ let x := t.getX d
      (v.getLsbD 6 = true → x.extractLsb' 0 16 = (s.hub.slotTime e).extractLsb' 0 16 ∧
        x.extractLsb' 16 16 = (s.hub.slotTime e).extractLsb' 16 16 ∧ x.getLsbD 32 = (s.hub.slotTime e).getLsbD 32 ∧
        (x.extractLsb' 40 24).toNat = s.hub.rot % 2 ^ 24) ∧
      (v.getLsbD 6 = false → ∀ p, p < 8 → let y := (s.hub.slotDest e).extractLsb' (8 * p) 8
        let dark := 144 ≤ y.toNat ∨ (s.hub.slotOn e = true ∧ s.hub.slotLen e ≤ s.hub.slotGuard e)
        (dark → x.extractLsb' (8 * p) 8 = 0xFF) ∧ (¬dark → x.extractLsb' (8 * p) 8 = y))) ∧
  (∀ (h : Head) (d a : XReg) (s : State) off key own cached, let va := s.getX a
    let c := s.getX d
    let tree := c.toNat % 16
    let n := c.toNat / 256 % 8 + 1
    let t := NMap.get s.hub.tree 0 tree
    let kids := s.hub.children tree
    let op := c.toNat / 16 % 16
    let legal := c.toNat < 2 ^ 11 ∧ c.toNat / 16 % 16 ≤ 6 ∧ t.getLsbD 26 = true ∧ t.getLsbD 25 = true
    let o : Dsig := ⟨s.ids, c.toNat / 16 % 16, s.cur, s.me.lvl.val, s.pc, off, (List.range n).map (fun i => s.padWord (off + 8 * i))⟩
    let sum := if op = 5 then o.own.map canonPair else o.own
    s.waiting = none → s.inTwin = false → placeOf s.cur va = .own off → va.toNat % 8 = 0 → s.releaseHold = false →
    s.planAt s.cur va (8 * n) 8 false ⟨true, true, true⟩ = .go key own cached false → off + 8 * n ≤ 2 ^ 18 →
      (legal → (∀ r ∈ s.hub.dsigs, r.tree ≠ tree) → Runs (.dsig h d a) s fun u => u.pc = s.pc ∧ Registers [] [] [] s u ∧
        SameCores s u ∧ SameBytes s u ∧ u.lev.wait.map (·.arg) = some (BitVec.ofNat 64 s.ids) ∧
        (kids ≠ [] → u.hub.dsigs = s.hub.dsigs ++ [⟨tree, op, some o, [], false⟩] ∧ u.agenda = s.agenda ∧ u.hub.lane = s.hub.lane) ∧
        (kids = [] → u.hub.dsigs = s.hub.dsigs ++ [⟨tree, op, some o, [], true⟩] ∧
          (t.getLsbD 24 = true → u.agenda = s.agenda ++ [⟨dsigChan tree, .dsigResultArrive tree sum⟩]) ∧
          (t.getLsbD 24 = false → u.agenda = s.agenda ∧
            u.hub.lane = s.hub.lane ++ [.part tree (t.extractLsb' 8 3).toNat op sum]))) ∧
      (¬legal → Traps (.dsig h d a) s Code.dialBad)) ∧
  (∀ h d a s w, s.waiting = some w → (∀ r ∈ s.hub.dsigs, ∀ o, r.own = some o → o.id ≠ w.arg.toNat) →
    Runs (.dsig h d a) s fun t => Past h s t ∧ Frame [] [] [] s t) ∧
  (∀ tree port op ws s r l, s.hub.dsigs = r :: l → r.tree = tree → r.sent = false → (∀ e ∈ r.parts, e.1 ≠ port) →
    let t := NMap.get s.hub.tree 0 tree
    let kids := s.hub.children tree
    let r' : DsigRun := { r with parts := r.parts ++ [(port, ws)] }
    (t.getLsbD 26 = true → r'.full t kids = false → Runs (.dsigPartialArrive tree port ⟨op, ws⟩) s fun u =>
      u.hub.dsigs = r' :: l ∧ u.agenda = s.agenda ∧ u.cores = s.cores ∧ u.mem = s.mem) ∧
    (t.getLsbD 26 = true → r'.full t kids = true → Runs (.dsigPartialArrive tree port ⟨op, ws⟩) s fun u =>
      u.hub.dsigs = { r' with sent := true } :: l ∧ u.cores = s.cores ∧ u.mem = s.mem ∧
      (t.getLsbD 24 = true → u.agenda = s.agenda ++ [⟨dsigChan tree, .dsigResultArrive tree (r'.result kids)⟩] ∧
        u.hub.lane = s.hub.lane) ∧
      (t.getLsbD 24 = false → u.agenda = s.agenda ∧
        u.hub.lane = s.hub.lane ++ [.part tree (t.extractLsb' 8 3).toNat r.op (r'.result kids)]))) ∧
  (∀ tree port op ws s, (NMap.get s.hub.tree 0 tree).getLsbD 26 = false →
    exec (.dsigPartialArrive tree port ⟨op, ws⟩) s = .next s) ∧
  (∀ x y : Word, dsigWord 0 x y = x + y ∧ (dsigWord 1 x y).toInt = Max.max x.toInt y.toInt ∧
    (dsigWord 2 x y).toInt = Min.min x.toInt y.toInt ∧ dsigWord 3 x y = x ||| y ∧ dsigWord 4 x y = x &&& y ∧ dsigWord 6 x y = x) ∧
  (∀ tree ws s r l o, s.hub.dsigs = r :: l → r.tree = tree → r.sent = true → r.own = some o → (∀ q ∈ l, q.tree ≠ tree) →
    let Down (u : State) : Prop := u.hub.dsigs = l ∧ u.cores = s.cores ∧ u.agenda = s.agenda ∧
      u.hub.lane = s.hub.lane ++ (s.hub.children tree).map (fun p => .result tree p ws)
    (s.dsigWanted o = false → Runs (.dsigResultArrive tree ws) s fun u => Down u ∧ u.mem = s.mem) ∧
    (s.dsigWanted o = true → s.heldSlot (padKey o.c o.off) (8 * o.own.length) = false → ws.length = o.own.length → s.mem.wf = true →
      Runs (.dsigResultArrive tree ws) s fun u => Down u ∧
      SameBut (padKey o.c o.off) (8 * ws.length) s u ∧ ∀ i w, ws[i]? = some w → u.peek64 (padKey o.c o.off + 8 * i) = w))

/-- R342 to R346, R417, R418: the slot table, its rotation, and a port that sends the head of a queue in its window. R297,
R345, R347, R348, R362, R364, R418, R419: flits that arrive are written through the job's page tables, a message that is whole
is counted once, by its job or as a drop; what happens to ports, the timer and packages of the domain.
The instants of windows and LINK_FAIL of every port at a drift (logs 46, 50), the report of a discarded message with its last flit
(log 76) and a package that leaves where no rotation runs (log 112) are the model's. -/
def Obligations.DialTraffic : Prop :=
  (
  (∀ s, s.hub.fail = false → (s.hub.rotates = true → Runs .dialCommit s fun t => t = { s with hub := { s.hub with pendCommit := true } }) ∧
    (s.hub.rotates = false → (∀ d, d < 4 → ∀ p, p < 144 → NMap.get (s.die d).voq [] p = []) → Runs .dialCommit s fun t =>
      t = { s with hub := { s.hub with
        dest := s.hub.destIn, dtime := s.hub.dtimeIn, pendCommit := false, rotAt := s.hub.time.toNat * 100
        rotating := s.hub.rotating && ({ s.hub with dtime := s.hub.dtimeIn } : Hub).rotates } })) ∧
  (∀ en s, (s.hub.fail = false → exec (.dialEnable en) s = .next { s with hub := { s.hub with dialEn := en } }) ∧
    (s.hub.fail = true → exec (.dialEnable en) s = .next s ∧ exec .dialCommit s = .next s)) ∧
  (∀ s, (s.hub.rotates = false → exec .dialRotationStart s = .next { s with hub := { s.hub with rotating := false } }) ∧
    (s.hub.rotates = true → s.hub.lost = [] →
      (∀ p, p < 8 → ∀ w, NMap.get (s.port p).fails 0 w ≤ 16 ∧ NMap.get (s.port p).farFails 0 w ≤ 16) →
      (∀ d, d < 4 → ∀ p, p < 144 → NMap.get (s.die d).voq [] p = []) → Runs .dialRotationStart s fun t =>
        t = { s with hub := t.hub, ports := t.ports } ∧
        (∀ p, p < 8 → t.port p = { s.port p with fails := [], farFails := [], window := none, used := 0 }) ∧
        t.hub.rotating = (!s.hub.pendCommit || ({ s.hub with dtime := s.hub.dtimeIn } : Hub).rotates) ∧
        t.hub.rotAt = s.hub.nextRotation.toNat ∧ t.hub.slotAt = none ∧
        t.hub.rot = (if s.hub.rotating = true then (s.hub.rot + 1) % 2 ^ 24 else s.hub.rot) ∧
        (s.hub.pendCommit = true → t.hub.dest = s.hub.destIn ∧ t.hub.dtime = s.hub.dtimeIn ∧ t.hub.pendCommit = false) ∧
        (s.hub.pendCommit = false → t.hub.dest = s.hub.dest ∧ t.hub.dtime = s.hub.dtime))) ∧
  (∀ p e pkg m r s u bs, let k := s.port p
    let die := p / 2
    s.windowTurn p e = true → k.sending = none → (∀ f ∈ k.resend, f.1.pkg ≠ pkg) → s.hub.slotPkg e p = some pkg → s.lit p = true → s.hub.dialEn = true →
    NMap.get (s.die die).voq [] pkg = m :: r →
      (2 * m.len + 5000 * k.n ≤ s.hub.windowTime e k.n →
        (State.upDie ((s.upHub (fun h => { h with slotAt := some e })).upPort p (fun k => { k with window := some e, used := 0 })) die
          (fun d => { d with voq := NMap.set d.voq pkg r })).dialRead m = .ok (u, bs) → ∃ t : State,
        exec (.dialWindowOpen p e) s = .next (t.newHead die pkg) ∧ t = { u with ports := t.ports } ∧ t.port p =
          { k with window := some e, used := 2 * m.len + 5000 * k.n, sending := some { m with data := bs } }) ∧
      (s.hub.windowTime e k.n < 2 * m.len + 5000 * k.n → Runs (.dialWindowOpen p e) s fun t =>
        t = { s with ports := t.ports, hub := { s.hub with slotAt := some e } } ∧ t.port p = { k with window := some e, used := 0 })) ∧
  (∀ p e pkg m off r s, let k := s.port p
    s.windowTurn p e = true → k.sending = none → s.hub.slotPkg e p = some pkg → s.lit p = true → k.resend = (m, off) :: r → m.pkg = pkg →
    Runs (.dialWindowOpen p e) s fun t => t = { s with ports := t.ports, hub := { s.hub with slotAt := some e } } ∧
      t.port p = (if 512 ≤ s.hub.windowTime e k.n then { k with window := some e, used := 512, sending := some m, resend := r }
        else { k with window := some e, used := 0 })) ∧
  (∀ p e s, s.windowTurn p e = false ∨ (s.port p).sending.isSome = true → exec (.dialWindowOpen p e) s = .next s) ∧
  (∀ p m s, let k := s.port p
    k.sending = some m → k.window = none → (∀ r ∈ k.resend, ¬(r.1.c = m.c ∧ r.1.n = m.n)) → Runs (.dialMessageEnd p) s fun t =>
      t = { s with ports := t.ports } ∧ t.port p = { k with sending := none, unacked := k.unacked ++ [m] }) ∧
  (∀ p (f : FlitNak) s, let k := s.port p
    let under := k.sending.toList ++ k.unacked ++ k.resend.map (·.1)
    Runs (.dialFlitNak p f) s fun t => t = { s with ports := t.ports } ∧ (t.port p).sending = k.sending ∧
      NMap.get (t.port p).farFails 0 f.wl = NMap.get k.farFails 0 f.wl + 1 ∧
      (∀ m, under.find? (fun m => m.c == f.c && m.n == f.n) = some m → (m, f.off) ∉ k.resend →
        (t.port p).resend = k.resend ++ [(m, f.off)] ∧ ∀ r ∈ (t.port p).unacked, ¬(r.c = m.c ∧ r.n = m.n)) ∧
      (under.find? (fun m => m.c == f.c && m.n == f.n) = none → (t.port p).resend = k.resend ∧ (t.port p).unacked = k.unacked)) ∧
  (∀ pkg c n s p m, p < 8 → (s.port p).unacked = [m] → (s.port p).resend = [] → m.c = c → m.n = n → m.pkg = pkg →
    (∀ q, q < 8 → q ≠ p → (s.port q).unacked = [] ∧ (s.port q).resend = []) →
    (Runs (.dialAck pkg c n 0) s fun t => (t.port p).unacked = [] ∧ (t.core c).dsOut = (s.core c).dsOut.erase n ∧
      (∀ x, x ≠ c → t.core x = s.core x) ∧ t.mem = s.mem) ∧
    (∀ code, code ≠ 0 → (s.core c).colour = m.colour → ∃ u : State, exec (.dialAck pkg c n code) s =
      .next (u.afterIssue c m.lvl code m.pc (BitVec.ofNat 64 n) 0) ∧ (u.core c).dsOut = (s.core c).dsOut.erase n ∧
      (u.port p).unacked = [] ∧ u.mem = s.mem))) ∧
  (
  (∀ p (f : Flit) s, f.crcOk = false → Runs (.dialFlitReceive p f) s fun t =>
    t = { s with ports := t.ports, hub := { s.hub with lane := s.hub.lane ++ [.flit f.src f.c f.n f.off f.wl false] } } ∧
    NMap.get (t.port p).fails 0 f.wl = NMap.get (s.port p).fails 0 f.wl + 1) ∧
  (∀ p (f : Flit) s u j, f.crcOk = true → s.hub.incoming = [] → s.job? f.colour = some j →
    let m : Incoming := ⟨s.ids, f.src, f.c, f.n, f.colour, f.len, [f.off], 0⟩
    let s' : State := { s with hub := { s.hub with
      incoming := [{ m with got := [] }], lane := s.hub.lane ++ [.flit f.src f.c f.n f.off f.wl true] }, ids := s.ids + 1 }
    s'.dialWrite j (f.dst + BitVec.ofNat 64 f.off) f.data = .ok u → u.hub = s'.hub → Runs (.dialFlitReceive p f) s fun t =>
      t.hub.incoming = [m] ∧ t.mem = u.mem ∧ t.hub.drops = s.hub.drops ∧
      (f.len ≤ 256 → f.off = 0 → f.len ≠ 0 → ∃ chan, t.agenda = u.agenda ++ [⟨chan, .dialMessageDelivered f.src s.ids⟩]) ∧
      (256 < f.len → f.off = 0 → t.agenda = u.agenda)) ∧
  (∀ p (f : Flit) s, f.crcOk = true → s.hub.incoming = [] → s.job? f.colour = none → f.len ≤ 256 → f.off = 0 →
    Runs (.dialFlitReceive p f) s fun t => t.hub = { s.hub with
        drops := Nat.min (s.hub.drops + 1) (2 ^ 32 - 1)
        lane := s.hub.lane ++ [.flit f.src f.c f.n f.off f.wl true, .fate f.src f.c f.n Code.dialBad] } ∧
      t.mem = s.mem ∧ t.agenda = s.agenda) ∧
  (∀ src n s m, s.hub.incoming.find? (fun m => m.src == src && m.id == n) = some m → m.bad = 0 →
    let count (t : State) : Nat := NMap.get (NMap.get t.hub.rcv [] m.colour) 0 src
    Runs (.dialMessageDelivered src n) s fun t => t = { s with hub := t.hub } ∧ (∀ q ∈ t.hub.incoming, q.id ≠ n) ∧
      ((s.job? m.colour).isSome = true → count t = (count s + 1) % 2 ^ 32 ∧ t.hub.drops = s.hub.drops ∧
        t.hub.lane = s.hub.lane ++ [.fate src m.c m.n 0]) ∧
      (s.job? m.colour = none → count t = count s ∧ t.hub.drops = Nat.min (s.hub.drops + 1) (2 ^ 32 - 1) ∧
        t.hub.lane = s.hub.lane ++ [.fate src m.c m.n Code.dialBad])) ∧
  (∀ s, (Runs .dialTimerDrift s fun t => t.hub.aligned = false ∧ (∀ p, t.lit p = false) ∧ t.cores = s.cores) ∧
    exec .dialTimerAligned s = .next { s with hub := { s.hub with aligned := true } }) ∧
  (∀ p s, (Runs (.lossOfReturnLight p) s fun t => t.port p = { s.port p with noLight := true } ∧ t.lit p = false ∧
      Logged (p / 2) Code.linkFail t ∧ t.cores = s.cores) ∧
    (Runs (.returnLightRestored p) s fun t => t.port p = { s.port p with noLight := false } ∧ t = { s with ports := t.ports })) ∧
  (∀ pkg s, Runs (.moduleInsertion pkg) s fun t => t = { s with hub := { s.hub with come := t.hub.come, gone := t.hub.gone } } ∧
    ∀ i, i < 192 → t.hub.come.getLsbD i = (s.hub.come.getLsbD i || i == pkg) ∧
      t.hub.gone.getLsbD i = (s.hub.gone.getLsbD i && i != pkg)) ∧
  (∀ pkg s, s.hub.rotating = true → Runs (.dialPresenceLoss pkg) s fun t => t.hub.lost = s.hub.lost ++ [pkg] ∧
    t = { s with hub := { s.hub with come := t.hub.come, gone := t.hub.gone, lost := t.hub.lost } }) ∧
  (∀ pkg s, pkg < 144 → (∀ d, NMap.get (s.die d).voq [] pkg = []) → s.hub.dsigs = [] →
    (∀ p, (s.port p).unacked = [] ∧ (s.port p).resend = [] ∧ (s.port p).sending = none) →
    let Left (t : State) : Prop := t.hub.dom.getLsbD pkg = false ∧
      (∀ i, i ≠ pkg → t.hub.dom.getLsbD i = s.hub.dom.getLsbD i) ∧ (∀ e p, e < 64 → p < 8 → t.hub.slotPkg e p ≠ some pkg) ∧
      (∀ e p q, e < 64 → p < 8 → q ≠ pkg → (t.hub.slotPkg e p = some q ↔ s.hub.slotPkg e p = some q)) ∧ t.cores = s.cores ∧ t.mem = s.mem
    (s.hub.rotating = false → Runs (.dialPresenceLoss pkg) s Left) ∧
    (s.hub.rotates = true → s.hub.lost = [pkg] → s.hub.pendCommit = false →
      (∀ p, p < 8 → ∀ w, NMap.get (s.port p).fails 0 w ≤ 16 ∧ NMap.get (s.port p).farFails 0 w ≤ 16) →
      (∀ d, d < 4 → ∀ p, p < 144 → NMap.get (s.die d).voq [] p = []) → Runs .dialRotationStart s fun t => Left t ∧ t.hub.lost = [])))

/-! ### The supervisor's instructions, the debugger -/

/-- R299: at user level every instruction of page 7 traps PRIVILEGE. R300, R302 to R305, R407, R410: TRREC stores the trap
registers of a level, TLBI and TLBIA drop translations, XBSET moves the code boundary, CFLUSH, CINV and CZERO act on a
granule. R413: TRREC and CZERO that would store elsewhere trap CTX_BAD inside a twin. R372, R375: with tracing on TRMARK leaves a
trace record in the ring of its cluster, or counts it in LOST when the ring is full. Which entry address and COST a record names
(log 88) is the model's. -/
def Obligations.SupervisorWork : Prop :=
  (
  ∀ h d a t disp s, s.lev.sup = false →
    ∀ i ∈ [Instr.trrec h d a disp, .tlbi h d a, .tlbia h a, .xbset h a, .cflush h a disp, .cinv h a disp, .czero h a disp, .dstop h a,
      .trmark h a, .evsel h d a, .evrd h d a, .rpcapCapture h d a t, .rpcapReplay h d a t, .rpcapEnd h d a t, .rpcapRelease h d a t,
      .rpstat h d a, .tpert h d a, .inj h d a disp, .pwrf h d a], Traps i s Code.privilege) ∧
  (
  ∀ (h : Head) (d a : XReg) (disp : Word) (s : State), s.lev.sup = true →
    let va := s.getX a + disp
    let w := s.getX a
    let x := s.getX d
    let g := va &&& ~~~(0xFF : Word)
    (∀ key : Nat → Nat, (∀ c, placeOf s.cur va ≠ .bad c) → s.twinStore va = false → va.toNat % 32 = 0 → s.mem.wf = true →
      s.replaying s.me.colour = false → Apart s 4 8 key → (∀ i, i < 4 → ∃ own cached walk,
        s.plan (va + BitVec.ofNat 64 (8 * i)) 8 true ⟨false, true, true⟩ = .go (key i) own cached walk) →
      let v := s.me.lv[(Fin.ofNat 4 x.toNat)]
      Runs (.trrec h d a disp) s fun t => Past h s t ∧ Registers [] [] [] s t ∧ SameCores s t ∧ t.me.stores = s.me.stores + 4 ∧
        WordsWritten [v.tpc, v.tcause, v.tval, v.text] key s t) ∧
    ((∀ c, placeOf s.cur va ≠ .bad c) → s.twinStore va = false → va.toNat % 32 ≠ 0 → Traps (.trrec h d a disp) s Code.align va) ∧
    (s.inTwin = true → (∀ off, placeOf s.cur va ≠ .own off ∧ placeOf s.cur va ≠ .lane off) →
      ((∀ c, placeOf s.cur va ≠ .bad c) → Traps (.trrec h d a disp) s Code.ctxBad) ∧ Traps (.czero h a disp) s Code.ctxBad) ∧
    (s.tlbiWaits = false → let named (c : Option Nat) : Prop := x.getLsbD 12 = true ∨ c = none ∨ c = some (x.toNat % 2 ^ 12)
      let all (c : Option Nat) : Prop := w.getLsbD 12 = true ∨ c = none ∨ c = some (w.toNat % 2 ^ 12)
      (Runs (.tlbi h d a) s fun t => Past h s t ∧ Registers [] [] [] s t ∧ SameBytes s t ∧ SameCores s t ∧
        ∀ cl e, e ∈ (t.cluster cl).tlb ↔ e ∈ (s.cluster cl).tlb ∧
          ¬(e.va = w.toNat / 2 ^ pageBits e.level * 2 ^ pageBits e.level ∧ named e.colour)) ∧
      (Runs (.tlbia h a) s fun t => Past h s t ∧ Registers [] [] [] s t ∧ SameBytes s t ∧ SameCores s t ∧
        ∀ cl e, e ∈ (t.cluster cl).tlb ↔ e ∈ (s.cluster cl).tlb ∧ ¬all e.colour)) ∧
    (s.tlbiWaits = true → exec (.tlbi h d a) s = .next (s.block .awake) ∧ exec (.tlbia h a) s = .next (s.block .awake)) ∧
    (w.toNat ≤ 1024 → Runs (.xbset h a) s fun t => Past h s t ∧ t.me.xb.toNat = w.toNat ∧ Registers [] [] [] s t ∧ Outside s t ∧
      ({ t.me.rest with xb := 0 } : Core) = { s.me.rest with xb := 0 }) ∧
    (1024 < w.toNat → Traps (.xbset h a) s Code.xbRange w) ∧
    (placeOf s.cur va = .trans → s.damage = [] →
      (∀ key own cached walk, s.plan g 256 false ⟨false, false, false⟩ = .go key own cached walk → Runs (.cflush h a disp) s fun t =>
        Past h s t ∧ Registers [] [] [] s t ∧ SameBytes s t ∧ SameCores s t ∧
        t.under = s.under.filter (fun e => !decide (e.1 / 256 = key / 256))) ∧
      (∀ key own cached walk, s.plan g 256 true ⟨false, false, false⟩ = .go key own cached walk →
        (s.atomicAt key = false → s.mem.wf = true → (s.under.map (·.1)).Nodup → Runs (.cinv h a disp) s fun t => Past h s t ∧
          Registers [] [] [] s t ∧ SameCores s t ∧ t.under = s.under.filter (fun e => !decide (e.1 / 256 = key / 256)) ∧
          (∀ e ∈ s.under, e.1 / 256 = key / 256 → t.mem.read e.1 = e.2) ∧
          (∀ p, (∀ e ∈ s.under, e.1 = p → e.1 / 256 ≠ key / 256) → t.mem.read p = s.mem.read p)) ∧
        (s.atomicAt key = true → Runs (.cinv h a disp) s fun t => t.pc = s.pc ∧ t.lev.wait.isSome = true ∧ Registers [] [] [] s t ∧
          SameBytes s t) ∧
        (s.inTwin = false → s.mem.wf = true → s.replaying s.me.colour = false → s.heldSlot key 256 = false → Runs (.czero h a disp) s fun t => Past h s t ∧
          Registers [] [] [] s t ∧ SameCores s t ∧ SameBut key 256 s t ∧ ∀ b, b < 256 → t.mem.read (key + b) = 0))) ∧
    (placeOf s.cur va ≠ .trans → Traps (.cflush h a disp) s Code.addrWin va ∧ Traps (.cinv h a disp) s Code.addrWin va ∧
      (s.twinStore va = false → Traps (.czero h a disp) s Code.addrWin va)) ∧
    (s.hub.trace.getLsbD 63 = false → Runs (.trmark h a) s fun t => Past h s t ∧ Frame [] [] [] s t) ∧
    (s.hub.trace.getLsbD 63 = true → s.cur < 512 →
      let tr := s.hub.trace
      let e := (tr.extractLsb' 58 5).toNat
      let lg := if 12 ≤ e ∧ e ≤ 30 then e else 12
      let cl := clusterOf s.cur
      let k := s.cluster cl
      let ring := (tr.extractLsb' 12 36).toNat * 4096 + cl * 2 ^ lg
      let key (i : Nat) : Nat := ring + 32 * (k.trWrite.toNat % 2 ^ (lg - 5)) + 8 * i
      let head : Word := (3#8) ++ BitVec.ofNat 9 s.cur ++ BitVec.ofNat 2 s.me.lvl.val ++ BitVec.ofNat 5 s.me.runCost ++ s.hub.time.extractLsb' 0 40
      let tag : Word := match s.me.act with | some r => BitVec.ofNat 64 r.wire | none => 0
      let full := (k.trWrite - k.trRead).toNat = 2 ^ (lg - 5)
      Runs (.trmark h a) s fun t => Past h s t ∧ Registers [] [] [] s t ∧ SameCores s t ∧
        (full → SameBytes s t ∧ t.clusters = s.clusters ∧ t.hub = { s.hub with trace := t.hub.trace } ∧
          t.hub.trace.extractLsb' 12 52 = tr.extractLsb' 12 52 ∧
          (t.hub.trace.extractLsb' 0 12).toNat = Nat.min 4095 ((tr.extractLsb' 0 12).toNat + 1)) ∧
        (¬full → s.mem.wf = true → t.hub = s.hub ∧ t.cluster cl = { k with trWrite := k.trWrite + 1 } ∧
          (∀ x, x ≠ cl → t.cluster x = s.cluster x) ∧
          WordsWritten [head, tag, (s.me.runEntry.setWidth 48).setWidth 64, w] key s t)))

/-- R305, R369, R371: DSTOP and a debugger's stop word ask running cores to stop or release stopped ones; a stopped core's
registers can be written, and it steps one instruction at a time. R306 to R309, R331: event counters, replay sessions, the
perturbation of a Tile Engine result, an injected error, and a forecast of an island. R362: nothing is obeyed after a failed
bring-up. Which items a debug access names (log 37), the layout of the debugger's stop word (log 77) and that EVRD of event 2 leaves
its own issue out of the count (log 81) are the model's. -/
def Obligations.DebugCountersAndReplay : Prop :=
  (
  let asked (k : Core) : Core := if k.status = .running ∧ (k.dbg = .run ∨ k.dbg = .passing) then { k with dbg := .stopping } else k
  let freed (k : Core) : Core :=
    { k with dbg := if k.brk.contains k.lv[k.lvl].pc.toNat then .passing else .run, broke := false }
  (∀ h a s, s.lev.sup = true → let w := s.getX a
    let c := w.toNat % 512
    (w.getLsbD 9 = false → s.inPartition c = true → c ≠ s.cur → Runs (.dstop h a) s fun t => Past h s t ∧ Registers [] [] [] s t ∧
      t = { s with cores := t.cores } ∧ (∀ x, x ≠ c → x ≠ s.cur → t.core x = s.core x) ∧
      t.core c = if w.getLsbD 10 then freed (s.core c) else asked (s.core c)) ∧
    (w.getLsbD 9 = false → s.inPartition c = false → Traps (.dstop h a) s Code.msgTarget) ∧
    (∀ j, w.getLsbD 9 = true → w.getLsbD 10 = false → s.job? s.me.colour = some j → Runs (.dstop h a) s fun t => Past h s t ∧
      Registers [] [] [] s t ∧ ∀ x, x ≠ s.cur → t.core x = if x ∈ j.allCores then asked (s.core x) else s.core x)) ∧
  (∀ v s, s.hub.fail = true → exec (.debugStop v) s = .next s) ∧
  (∀ v s, s.hub.fail = false → v.getLsbD 9 = false → let c := (v.extractLsb' 0 9).toNat
    Runs (.debugStop v) s fun t => t = { s with cores := t.cores } ∧ (∀ x, x ≠ c → t.core x = s.core x) ∧
      t.core c = if v.getLsbD 10 then freed (s.core c) else asked (s.core c)) ∧
  (∀ c (l : Fin 4) (r : XReg) (a : Fin 4) (i : Fin 256) (j : Fin 32768) v s, (s.core c).dbg = .stopped → c < 512 → s.hub.fail = false →
    let k := s.core c
    let Reads (x : DebugItem) (y : Answer) : Prop := exec (.debugAccess c l x none) s = .next { s with hub := { s.hub with answer := y } }
    (k.landing l r.toNat = true → Reads (.x r) .inFlight) ∧
    (k.landing l r.toNat = false → Reads (.x r) (.word (k.getX l r))) ∧
    Reads .pc (.word k.lv[l].pc) ∧ (s.damage = [] → Reads (.pad j) (.word (s.peek64 (padKey c (8 * j.val)))) ∧
      (k.accOpen a.val = true ∨ s.accBusy c a.val = true → Reads (.acc a i) .inFlight) ∧
      (k.accOpen a.val = false → s.accBusy c a.val = false → Reads (.acc a i) (.word ((k.accAt (256 * a.val + i.val)).setWidth 64)))) ∧
    (∀ n m, s.damage = [(n, m)] → detectable m = true → n = padKey c (8 * j.val) / 8 → s.mem.wf = true →
      Runs (.debugAccess c l (.pad j) none) s fun t => t.damage = [] ∧ t.hub.answer = .word (s.peek64 (8 * n) ^^^ m) ∧
        t.peek64 (8 * n) = s.peek64 (8 * n) ^^^ m ∧ t.cores = s.cores) ∧
    (∀ (m : Fin 2) (b : Fin 3), let mu := s.mu (2 * clusterOf c + m.val)
      ((∃ p ∈ mu.stream, p.writes b.val (8 * j.val) = true) → Reads (.res m b j) .inFlight) ∧
      ((∀ p ∈ mu.stream, p.writes b.val (8 * j.val) = false) →
        Reads (.res m b j) (.word (s.peek64 (muKey (2 * clusterOf c + m.val) b.val (8 * j.val)))))) ∧
    (Runs (.debugAccess c l (.x r) (some v)) s fun t => t = { s with cores := t.cores } ∧
      t.core c = k.setX l r v ∧ ∀ x, x ≠ c → t.core x = s.core x) ∧
    (Runs (.debugAccess c l .pc (some v)) s fun t => t = { s with cores := t.cores, jobs := t.jobs } ∧
      (t.core c).lv[l].pc = v &&& ~~~(1 : Word) ∧ (t.core c).lv[l].wait = none ∧ (∀ x, x ≠ c → t.core x = s.core x) ∧
      (k.lv[l].asleep = false → t.jobs = s.jobs) ∧ (k.lv[l].asleep = true → ∀ q, t.job? k.colour = some q → q.hung = false)) ∧
    (∀ (m : Fin 2) (b : Fin 3), exec (.debugAccess c l (.res m b j) (some v)) s = .next s) ∧
    (Runs (.debugAccess c l (.acc a i) (some v)) s fun t => t = { s with cores := t.cores } ∧
      (t.core c).accAt (256 * a.val + i.val) = v.setWidth 32 ∧ ∀ x, x ≠ c → t.core x = s.core x) ∧
    (s.mem.wf = true → Runs (.debugAccess c l (.pad j) (some v)) s fun t => t.peek64 (padKey c (8 * j.val)) = v ∧
      SameBut (padKey c (8 * j.val)) 8 s t ∧ t.cores = s.cores)) ∧
  (∀ c l x v s, (s.core c).dbg ≠ .stopped ∨ 512 ≤ c ∨ s.hub.fail = true → exec (.debugAccess c l x (some v)) s = .next s ∧
    exec (.debugAccess c l x none) s = .next { s with hub := { s.hub with answer := .unsupported none } }) ∧
  (∀ c s, s.hub.fail = true → exec (.singleStep c) s = .next s ∧ exec (.stepUntilDrained c) s = .next s) ∧
  (∀ c s, s.hub.fail = false → let k := s.core c
    let Dbg (i : Instr) (b : DebugState) : Prop := Runs i s fun t => t = { s with cores := t.cores } ∧ t.core c = { k with dbg := b } ∧
      ∀ x, x ≠ c → t.core x = s.core x
    (k.dbg = .stopped → Dbg (.singleStep c) (.stepping false) ∧ Dbg (.stepUntilDrained c) (.stepping true)) ∧
    (k.dbg = .draining → s.enginesDone c = true → Dbg (.stepUntilDrained c) .stopped) ∧
    (k.dbg = .draining → s.enginesDone c = false → exec (.stepUntilDrained c) s = .next s) ∧
    (k.dbg ≠ .stopped → exec (.singleStep c) s = .next s))) ∧
  (
  ∀ (h : Head) (d a t : XReg) (disp : Word) (s : State), s.lev.sup = true →
    let w := s.getX a
    let x := s.getX d
    let va := w + disp
    (∀ i : Fin 4, w.toNat % 4 = i.val → let e := s.me.evc[i]
      (x.toNat < 2 ^ 14 → x.extractLsb' 12 2 ≠ 3 → Runs (.evsel h d a) s fun u => Past h s u ∧ Registers [] [] [] s u ∧ Outside s u ∧
        u.me.evc = s.me.evc.set i ⟨x.setWidth 12, x.extractLsb' 12 2, 0⟩) ∧
      (¬(x.toNat < 2 ^ 14 ∧ x.extractLsb' 12 2 ≠ 3) → exec (.evsel h d a) s = .next s.illegal) ∧
      (Runs (.evrd h d a) s fun u => Past h s u ∧ Registers [d] [] [] s u ∧ SameBytes s u ∧ SameCores s u ∧
        (e.event.toNat ∉ [1, 2, 3, 7] → u.getX d = if d = 0 then 0 else e.count.setWidth 64) ∧
        (e.event.toNat = 2 → e.mode = 0 → u.getX d = if d = 0 then 0 else (e.count - 1).setWidth 64) ∧
        (w.getLsbD 2 = false → u.me.evc = s.me.evc) ∧
        (w.getLsbD 2 = true → e.event.toNat ≠ 2 → u.me.evc = s.me.evc.set i { e with count := 0 }))) ∧
    (let c := w.toNat / 2 ^ 16 % 2 ^ 12
    let word (op : Nat) : Prop := w.toNat = op + c * 2 ^ 16
    let kept := s.hub.replays.filter (fun r => r.colour != c)
    let Anew (u : State) : Prop := ∀ j, u.job? c = some j → (∀ k ∈ j.present, (u.core k).sig = 0) ∧ ∀ e ∈ j.savedCores, e.2.sig = 0
    let away := ∀ j, s.job? c = some j → j.out = true
    (∀ p, word 0 → s.session c = none → s.hub.freePart = some p → d ≠ 0 → t ≠ 0 → d ≠ t → Runs (.rpcapCapture h d a t) s fun u =>
      Past h s u ∧ u.getX d = BitVec.ofNat 64 p ∧ u.getX t = BitVec.ofNat 64 (bits s.hub.rplay 48 15 * 2 ^ 20) ∧
      Registers [d, t] [] [] s u ∧ SameBytes s u ∧ u.hub = { s.hub with
        replays := s.hub.replays ++ [⟨c, p, true, false, false, false, 0, [], 0, 0, 0⟩]
        released := s.hub.released.filter (fun r => r.colour != c) } ∧ Anew u) ∧
    (word 0 → (∃ r, s.session c = some r) ∨ s.hub.freePart = none → Traps (.rpcapCapture h d a t) s Code.ctxBad) ∧
    (∀ r, word 1 → s.session c = some r → away → r.run = false → r.blocks = [] → s.damage = [] → s.poison = [] → Runs (.rpcapReplay h d a t) s fun u =>
      Past h s u ∧ Registers [] [] [] s u ∧ SameBytes s u ∧ u.under = [] ∧ Anew u ∧ u.session c = some { r with run := true, acc := 0 }) ∧
    (∀ r : Replay, word 1 → s.session c = some r → away → r.run = false → s.mem.wf = true → s.damage = [] → s.poison = [] → (∀ (k b : Nat), r.blocks[k]? = some b →
        captureKey b + 32768 ≤ r.part ∨ r.part + 65536 + 32768 * r.blocks.length ≤ captureKey b) →
        r.blocks.Pairwise (fun x y => captureKey x + 32768 ≤ captureKey y ∨ captureKey y + 32768 ≤ captureKey x) →
      Runs (.rpcapReplay h d a t) s fun u => ∀ (k b i : Nat), r.blocks[k]? = some b → i < 32768 →
        u.mem.read (captureKey b + i) = s.mem.read (r.part + 65536 + 32768 * k + i)) ∧
    (∀ r, word 1 → s.session c = some r → r.run = true ∨ ¬away → Traps (.rpcapReplay h d a t) s Code.ctxBad) ∧
    (∀ r, word 2 → s.session c = some r → r.run = false → Traps (.rpcapEnd h d a t) s Code.ctxBad) ∧
    (∀ r j, word 2 → s.session c = some r → r.run = true → s.job? c = some j → Runs (.rpcapEnd h d a t) s fun u =>
      Past h s u ∧ Registers [] [] [] s u ∧ SameBytes s u ∧ ∃ r', u.session c = some r' ∧ r'.run = false ∧ r'.passes = r.passes + 1 ∧
        r'.sigN = r.acc ^^^ j.present.foldl (fun y k => y ^^^ (s.core k).sig) (j.savedCores.foldl (fun y e => y ^^^ e.2.sig) 0) ∧ (r.passes = 0 → r'.sig0 = r'.sigN) ∧
        (r.passes ≠ 0 → r'.sig0 = r.sig0 ∧ (r'.mismatch = true ↔ r.mismatch = true ∨ r'.sigN ≠ r.sig0))) ∧
    (∀ r, word 3 → s.session c = some r → Runs (.rpcapRelease h d a t) s fun u => Past h s u ∧ Registers [] [] [] s u ∧
      SameBytes s u ∧ u.hub = { s.hub with
        replays := kept, released := s.hub.released.filter (fun r => r.colour != c) ++ [{ r with run := false }] }) ∧
    (s.session c = none → (word 1 → Traps (.rpcapReplay h d a t) s Code.ctxBad) ∧ (word 2 → Traps (.rpcapEnd h d a t) s Code.ctxBad) ∧
      (word 3 → Traps (.rpcapRelease h d a t) s Code.ctxBad)) ∧
    (d ≠ 0 → Runs (.rpstat h d a) s fun u => Past h s u ∧ Frame [d] [] [] s u ∧ match s.session c with
      | none => u.getX d = ((s.hub.released.find? (fun r => r.colour == c)).map (fun r => r.read false (w.toNat % 4))).getD 0
      | some r => (w.toNat % 4 = 1 → u.getX d = r.sig0) ∧ (w.toNat % 4 = 2 → u.getX d = r.sigN) ∧ (w.toNat % 4 = 3 → u.getX d = 0) ∧
        (w.toNat % 4 = 0 → ((u.getX d).extractLsb' 16 16).toNat = r.blocks.length % 2 ^ 16 ∧
          ((u.getX d).extractLsb' 8 8).toNat = r.passes % 2 ^ 8 ∧ (u.getX d).extractLsb' 0 8 =
          (0#3) ++ BitVec.ofBool r.host ++ BitVec.ofBool r.ovf ++ BitVec.ofBool r.mismatch ++ BitVec.ofBool r.run ++ (1#1)))) ∧
    (Runs (.tpert h d a) s fun u => Past h s u ∧ Registers [] [] [] s u ∧ Outside s u ∧ u.me.tpert = (if w.getLsbD 12 then
      some ((w.extractLsb' 8 2).toNat * 256 + (w.extractLsb' 0 8).toNat, x.setWidth 32) else none) ∧
      ({ u.me.rest with tpert := none } : Core) = { s.me.rest with tpert := none }) ∧
    (∀ key own cached walk, s.injPlan va = .go key own cached walk → s.atomicAhead s.cur = false → s.mem.wf = true →
      Runs (.inj h d a disp) s fun u => Past h s u ∧ Registers [] [] [] s u ∧ SameCores s u ∧ SameBut key 8 s u ∧
        u.peek64 key = s.peek64 key ^^^ x ∧ NMap.get u.damage 0 (key / 8) = NMap.get s.damage 0 (key / 8) ^^^ x) ∧
    (∀ code v, s.injPlan va = .trap code v → Traps (.inj h d a disp) s code v) ∧
    (Runs (.pwrf h d a) s fun u => Past h s u ∧ Registers [] [] [] s u ∧ SameCores s u ∧ SameBytes s u ∧
      let f := NMap.get u.hub.fcast 0 (w.toNat % 32)
      f.extractLsb' 0 8 = x.extractLsb' 0 8 ∧ f.extractLsb' 8 8 = 1 ∧ f.extractLsb' 32 32 = s.hub.time.extractLsb' 0 32 ∧
      ∀ i, i ≠ w.toNat % 32 → NMap.get u.hub.fcast 0 i = NMap.get s.hub.fcast 0 i))

/-! ### The memory system by itself -/

/-- R72 to R74, R78, R407 to R409: a walk sets A and D and fills the TLB; the recovery engine corrects a single bad word and the
scrubber finds it; a repartition of the Basin takes effect and drops the scratch that became L2. A and D after an access
that R79 refuses (log 91) and the granules of an L2 stripe (log 92) are the model's. -/
def Obligations.WalksScrubsAndSplits : Prop :=
  (∀ (w : Walk) s l key p, s.damage = [] → s.mem.wf = true →
    let u := s.upDie (dieOfCluster w.cl) (fun d => { d with pool := s.poolFill w.root w.va d.pool })
    u.walk w.cl w.root w.va = .ok (l, key, p) →
    let d := p.getLsbD 5 || (w.wr && p.getLsbD 3)
    Runs (.tlbWalk w) s fun t => t.peek64 key = p ||| 0x10 ||| (if d = true then 0x20 else 0) ∧ SameBut key 8 s t ∧
      t.cores = s.cores ∧ (t.cluster w.cl).tlb.getLast? = some (tlbEntryOf w.va (w.root.toNat % 4096) l p d) ∧
      ∀ cl, cl ≠ w.cl → t.cluster cl = s.cluster cl) ∧
  (∀ (w : Walk) s code, s.damage = [] →
    let u := s.upDie (dieOfCluster w.cl) (fun d => { d with pool := s.poolFill w.root w.va d.pool })
    u.walk w.cl w.root w.va = .error code → exec (.tlbWalk w) s = .next u) ∧
  (∀ stripe lvl c pc b (m : Word) s sl, s.damage = [(b, m)] → stripeOf b = stripe → detectable m = true → 8 * b + 8 ≤ accKey 0 0 →
    s.mem.wf = true →
    let fixed (t : State) : Prop := t.damage = [] ∧ t.peek64 (8 * b) = s.peek64 (8 * b) ^^^ m ∧
      SameBut (8 * b) 8 s t ∧ t = { s with mem := t.mem, damage := [] }
    Runs (.parityRecovery (.stripe stripe) lvl c pc) s fixed ∧ (stripe ∈ s.scrubStripes sl → Runs (.scrub sl) s fixed)) ∧
  (∀ stripe lvl c pc s sl, s.damage = [] → exec (.parityRecovery (.stripe stripe) lvl c pc) s = .next s ∧ exec (.scrub sl) s = .next s) ∧
  (∀ line lvl c pc s, let pa := 64 * line
    (populated pa = true → pa < 2 ^ 47 → s.dirtyLine line = false → Runs (.parityRecovery (.line line) lvl c pc) s fun t =>
      line ∈ t.poison ∧ t.mem = s.mem ∧ t.cores = s.cores ∧ Logged (dieOfSlice (homeSlice pa)) Code.parity t ∧
      NMap.get t.hub.ecc 0 (pa / 0xC00000000) = NMap.get s.hub.ecc 0 (pa / 0xC00000000) + 1) ∧
    (populated pa = false ∨ 2 ^ 47 ≤ pa ∨ s.dirtyLine line = true → exec (.parityRecovery (.line line) lvl c pc) s = .next s)) ∧
  (∀ die (v : Word) s, let d := s.die die
    let n := v.toNat % 16
    (d.oldScr = none → n ≠ d.scr → Runs (.basinSplitWrite die v) s fun t => t.die die = { d with scr := n, oldScr := some d.scr } ∧
      (∀ x, x ≠ die → t.die x = s.die x) ∧ t.mem = s.mem ∧ ∃ chan, t.agenda = s.agenda ++ [⟨chan, .basinSplitDone die⟩]) ∧
    (d.oldScr ≠ none ∨ n = d.scr → exec (.basinSplitWrite die v) s = .next s)) ∧
  (∀ die s, let d := s.die die
    (∀ old, d.oldScr = some old → d.scr < old → Runs (.basinSplitDone die) s fun t => t.die die = { d with oldScr := none } ∧
      ∀ sl off, off < 2 ^ 24 → ((∃ l, l < 64 ∧ sl = sliceOfDie die l) → (d.scr * 2 ^ 20 ≤ off → t.mem.read (scratchKey sl off) = 0) ∧
        (off < d.scr * 2 ^ 20 → t.mem.read (scratchKey sl off) = s.mem.read (scratchKey sl off)))) ∧
    (∀ old, d.oldScr = some old → old ≤ d.scr → s.mem.wf = true → d.scr ≤ 16 → s.damage = [] → s.poison = [] → Runs (.basinSplitDone die) s fun t =>
      t.die die = { d with oldScr := none } ∧ t.free = s.free + 64 * ((d.scr - old) * 2 ^ 20) ∧
      ∀ a, (∀ l, l < 64 → a < scratchKey (sliceOfDie die l) (old * 2 ^ 20) ∨ scratchKey (sliceOfDie die l) (d.scr * 2 ^ 20) ≤ a) →
        t.mem.read a = s.mem.read a) ∧
    (d.oldScr = none → exec (.basinSplitDone die) s = .next s))

/-! ### The hub -/

/-- R311, R336 to R338, R350, R367, R370, R375, R420: a register write reaches a register by the paths that may write it, and
reads back as the register keeps it; the host reads and writes memory while the link is up. R331, R362 to R368, R374, R375,
R421: bring-up goes step by step and stops at a failure, a report is written where it was asked for, and what is measured of
the part is noted; a thermal trip takes a die's power until it recovers. LOG2D outside its range (log 60), a trip without a job,
which logs nothing (log 68), the stride of samples (log 69), the corners of HUB.ATTR (log 70), what a cold reset keeps (logs 71, 109,
112), a report that waits for the identity key (log 107) and the trend of a health indicator (log 108) are the model's. -/
def Obligations.HubAndPlatform : Prop :=
  (
  (∀ off v p s, off % 8 ≠ 0 ∨ writePath off p = false → exec (.registerWrite off v p) s = .next s) ∧
  (∀ off, writePath off .oob = true ↔ 0x40100 ≤ off ∧ off < 0x40120) ∧
  (∀ off wr s, exec (.regUnsupportedAccess off wr) s = .next { s with hub := { s.hub with
    answer := .unsupported (if wr = true then none else some (BitVec.allOnes 64)) } }) ∧
  (∀ off v p s, s.hub.fail = true → p ≠ .oob → exec (.registerWrite off v p) s = .next s) ∧
  (∀ (v : Word) p s, p ≠ .oob → s.hub.fail = false →
    let Reads (off : Nat) (w : Word) : Prop := Runs (.registerWrite off v p) s fun t =>
      t.readReg off = w ∧ t.mem = s.mem ∧ t = { s with hub := t.hub }
    Reads 0x10000 (v &&& 0x0000FFFFFFFFFFF8) ∧ Reads 0x10008 v ∧ Reads 0x10010 v ∧ Reads 0x40500 (v &&& 0x3FFFE) ∧
    Reads 0x41018 (v &&& 0xFC00FFFFFFFFFFFF) ∧ Reads 0x42000 (v &&& 0x83FFFFFFFFFF0000) ∧
    (∀ e, e < 64 → Reads (0x31000 + 16 * e) v ∧ Reads (0x31008 + 16 * e) (v &&& 0x1FFFFFFFF)) ∧
    (∀ i, 1 ≤ i → i < 8 → Reads (0x20000 + 8 * i) (v &&& 0x800000FF))) ∧
  (∀ (v : Word) s, s.hub.fail = false → (Runs (.registerWrite 0x40700 v .nql) s fun t => t.readReg 0x40700 = v &&& 0xFFFFFFFFFFE00000) ∧
    (∀ i, i < 16 → Runs (.registerWrite (0x32000 + 8 * i) v .crown) s fun t => t.readReg (0x32000 + 8 * i) = v &&& 0x7FF07FF) ∧
    (∀ d, d < 4 → Runs (.registerWrite (0x43008 + 16 * d) v .nql) s fun t => (t.die d).tail = v.toNat % 2 ^ 32 ∧
      t = { s with dies := t.dies })) ∧
  (∀ (v : Word) oob p s, let n := Nat.max 300 (Nat.min 1800 (v.toNat % 2 ^ 16))
    (s.hub.fail = true → oob = false → exec (.pcapLimitWrite v oob) s = .next s) ∧
    (s.hub.fail = false ∨ oob = true → Runs (.pcapLimitWrite v oob) s fun t => t = { s with hub := { s.hub with limit := n, limitOob := oob } }) ∧
    (s.hub.fail = false ∨ p = .oob → Runs (.registerWrite 0x40100 v p) s fun t => t = { s with hub := { s.hub with limit := n, limitOob := p == .oob } })) ∧
  (∀ q (v : Word) s, q < 128 → s.hub.fail = false → let k := s.queue q
    let lg := v.toNat / 2 ^ 8 % 16
    Runs (.qCfgWrite q v) s fun t => t = { s with queues := t.queues } ∧ (∀ x, x ≠ q → t.queue x = s.queue x) ∧
      t.queue q = { k with
        prio := v.toNat / 2 ^ 16 % 64
        log2d := if k.en = true then k.log2d else if 4 ≤ lg ∧ lg ≤ 12 then lg else 4
        completed := if v.getLsbD 0 = true ∧ k.en = false then k.consumed else k.completed
        en := v.getLsbD 0 }) ∧
  (∀ q v s, 128 ≤ q ∨ s.hub.fail = true → exec (.qCfgWrite q v) s = .next s) ∧
  (∀ pa bs n crown s, bs ≠ [] →
    let lo := (s.hub.fwwin.extractLsb' 21 27).toNat * 2 ^ 21
    let window (m : Nat) (wr : Prop) : Prop := s.hub.fwwin.getLsbD 63 = true ∧ (wr → s.hub.fwwin.getLsbD 62 = true) ∧ lo ≤ pa ∧
      pa + m ≤ lo + (s.hub.fwwin.extractLsb' 48 14).toNat * 2 ^ 21
    let may (m : Nat) (wr : Prop) : Prop := populated pa = true ∧ populated (pa + m - 1) = true ∧ s.hub.fail = false ∧
      if crown = true then window m wr ∧ (pa < 2 ^ 47 ∨ s.hub.link = .up) else 2 ^ 47 ≤ pa ∨ s.hub.link = .up
    let whole := may bs.length True
    let Answers (a : Answer) : Prop := exec (.hostMemAccess ⟨pa, crown⟩ none n) s = .next { s with hub := { s.hub with answer := a } }
    (may n False → s.damage = [] → Answers (.data (s.mem.bytes pa n) (s.poisoned pa n))) ∧
    (¬may n False → Answers (.unsupported none)) ∧
    (whole → s.mem.wf = true → Runs (.hostMemAccess ⟨pa, crown⟩ (some bs) n) s fun t => SameBut pa bs.length s t ∧ t.cores = s.cores ∧
      (∀ i (h : i < bs.length), t.mem.read (pa + i) = bs[i]) ∧ ∀ e ∈ t.under, ¬(pa ≤ e.1 ∧ e.1 < pa + bs.length)) ∧
    (¬whole → exec (.hostMemAccess ⟨pa, crown⟩ (some bs) n) s = .next s)) ∧
  (∀ s, exec .nqlLinkDown s = .next { s with hub := { s.hub with link := if s.hub.link = .up then .down else s.hub.link } } ∧
    exec .nqlRetrain s = .next { s with hub := { s.hub with link := .up } } ∧
    (s.hub.link = .down → Runs .nqlFail s fun t => t.hub = { s.hub with link := .failed } ∧ Logged 0 Code.nqlFail t ∧ t.mem = s.mem ∧
      t.cores = s.cores ∧ ∃ chan, t.agenda = s.agenda ++ [⟨chan, .completionEventWrite (2 ^ 31) (s.die 0).next⟩]) ∧
    (s.hub.link ≠ .down → exec .nqlFail s = .next s))) ∧
  (
  (∀ (b : BootInput) s, s.hub.step < 7 → s.hub.fail = false → let s' := if b.raise = true then s.raiseRollback else s
    let refused := b.fail ≠ none ∨ (s.hub.step = 1 ∧ ∀ c ∈ b.copies, c.signed = false ∨ c.version < s'.hub.rollback)
    (refused → Runs (.coldReset b) s fun t => t = { s' with hub := { s'.hub with fail := true, code := b.fail.getD 0 % 256 } }) ∧
    (¬refused → Runs (.coldReset b) s fun t => t.hub.step = s.hub.step + 1 ∧ t.hub.fail = false ∧
      (s.hub.step ≠ 3 → t.mem = s.mem ∧ t.cores = s.cores) ∧
      (s.hub.step = 1 → t.hub.image = s'.imageOf b) ∧
      (s.hub.step = 3 → (∀ m, m < 64 → (t.mu m).pser = (s.mu m).pser + 1 ∧ (t.mu m).stuck = [] ∧ (t.mu m).probing = none ∧
          ((t.mu m).dfault = true ↔ (s.mu m).dlim.toNat < (t.mu m).drift.toNat)) ∧
        ((∀ m, m < 64 → (s.mu m).since = []) → t.mem = s.mem) ∧ ((∀ cl, cl < 32 → (s.cluster cl).job = none) → t.cores = s.cores)) ∧
      (s.hub.step = 6 → t.hub.dialEn = true ∧ t.pkg < 144 ∧ t.hub.idKey = s.hub.image.map (·.2.digest) ∧ ∀ i, i < 144 →
        t.hub.dom.getLsbD i = ((Config.dialDomain.getLsbD i && !s.hub.gone.getLsbD i) || s.hub.come.getLsbD i)))) ∧
  (∀ (s : State) n i, s.hub.image = some (n, i) → s.raiseRollback = { s with hub := { s.hub with
    rollback := if s.hub.rollback < i.version then i.version else s.hub.rollback } }) ∧
  (∀ (b : BootInput) (s : State) n i, s.imageOf b = some (n, i) → b.copies[n]? = some i ∧ i.signed = true ∧ s.hub.rollback ≤ i.version) ∧
  (∀ b s, 7 ≤ s.hub.step ∨ s.hub.fail = true → let s' := if b.raise = true ∧ s.hub.fail = false then s.raiseRollback else s
    Runs (.coldReset b) s fun t => t.hub = { State.reset.hub with rollback := s'.hub.rollback, gone := s.hub.gone, come := s.hub.come } ∧ t.cores = [] ∧ t.jobs = [] ∧
    ∀ a, t.mem.read a = if 2 ^ 47 ≤ a ∧ a < 2 ^ 48 then s.mem.read a else 0) ∧
  (∀ (v : Word) s, let pa := v &&& 0x0000FFFFFFFFF000
    (s.hub.fail = true → exec (.attestGo v) s = .next s) ∧
    (s.hub.fail = false → s.hub.attr.getLsbD 62 = true ∨ v.getLsbD 63 = false → Runs (.attestGo v) s fun t =>
      t.hub = { s.hub with attr := (s.hub.attr &&& (7 <<< 60)) ||| pa } ∧ t.agenda = s.agenda) ∧
    (s.hub.fail = false → s.hub.attr.getLsbD 62 = false → v.getLsbD 63 = true → 2 ^ 47 ≤ pa.toNat → v.extractLsb' 0 12 = 0 → Runs (.attestGo v) s fun t =>
      t.hub.attr = pa ||| 1 <<< 62 ∧ t.hub.attrReq = some (pa.toNat, s.hub.nonceBytes) ∧ ∃ chan, t.agenda = s.agenda ++ [⟨chan, .attestReportDone⟩]) ∧
    (s.hub.fail = false → s.hub.attr.getLsbD 62 = false → v.getLsbD 63 = true → pa.toNat < 2 ^ 47 ∨ v.extractLsb' 0 12 ≠ 0 → Runs (.attestGo v) s fun t =>
      t.hub.attr = pa ||| 1 <<< 60 ∧ t.agenda = s.agenda)) ∧
  (∀ s pa nonce, s.hub.attrReq = some (pa, nonce) → nonce.length = 32 → s.mem.wf = true →
    (∀ n i key, s.hub.image = some (n, i) → s.hub.idKey = some key → Runs .attestReportDone s fun t =>
      t.hub.attr = (s.hub.attr &&& 0x0FFFFFFFFFFFFFFF) ||| 1 <<< 61 ∧ t.hub.attrReq = none ∧ SameBut pa 4096 s t ∧
      (∀ j (h : j < nonce.length), t.mem.read (pa + j) = nonce[j]) ∧ t.peek (pa + 40) 64 = i.digest.toNat ∧
      t.peek (pa + 104) 4 = i.version.toNat ∧ t.peek (pa + 108) 4 = s.hub.rollback.toNat ∧
      ∀ j, (112 ≤ j ∧ j < 128) ∨ (1921 ≤ j ∧ j < 2048) ∨ (3328 ≤ j ∧ j < 4096) → t.mem.read (pa + j) = 0) ∧
    (s.hub.image = none ∨ s.hub.idKey = none → Runs .attestReportDone s fun t => t = { s with agenda := t.agenda, ids := t.ids } ∧
      ∃ chan, t.agenda = s.agenda ++ [⟨chan, .attestReportDone⟩])) ∧
  (∀ s, s.hub.attrReq = none → exec .attestReportDone s = .next s) ∧
  (∀ watts s, Runs (.pcapWindowEnd watts) s fun t => t.hub.actual = watts % 2 ^ 16 ∧ t = { s with hub := t.hub, free := s.free + 1 }) ∧
  (∀ s, exec .fastClamp s = .next { s with hub := { s.hub with clamped := true, clampW := true } } ∧
    exec .clampRelease s = .next { s with hub := { s.hub with clamped := false } }) ∧
  (∀ die s, (∀ j ∈ s.jobs, ∀ cl, dieOfCluster cl = die → (s.cluster cl).job ≠ some j.colour) → Runs (.thermalTrip die) s fun t =>
    t.powerOf die = .tripped ∧ t.hub.trip = true ∧ (∀ d, d ≠ die → t.powerOf d = s.powerOf d) ∧ t = { s with hub := t.hub }) ∧
  (∀ die s j cl, die < 4 → s.hub.link = .up → s.jobs = [j] → j.colour ≠ 0 → cl < 32 → dieOfCluster cl = die →
    (s.cluster cl).job = some j.colour → j.ending = none → Runs (.thermalTrip die) s fun t => t.powerOf die = .tripped ∧
      Logged die Code.thermal t ∧ ∃ q, t.job? j.colour = some q ∧ q.contain = true ∧ q.ending = some ⟨6, Code.thermal, 0⟩) ∧
  (∀ die s, (s.powerOf die = .full → exec (.thermalRecovery die) s = .next s) ∧
    (s.powerOf die = .tripped → Runs (.thermalRecovery die) s fun t => t.powerOf die = .full ∧
      ((∀ m, m < 64 → (s.mu m).since = []) → t.mem = s.mem) ∧ ((∀ cl, cl < 32 → (s.cluster cl).job = none) → t.cores = s.cores) ∧
      ∀ m, m < 64 → dieOfCluster (m / 2) = die → (t.mu m).pser = (s.mu m).pser + 1 ∧ (t.mu m).stuck = [] ∧
        ((t.mu m).dfault = true ↔ (s.mu m).dlim.toNat < (t.mu m).drift.toNat))) ∧
  (∀ s, Runs .healthUpdate s fun t => t = { s with hub := t.hub, free := s.free + 61 } ∧ ∀ i, i < 61 →
    let r := NMap.get t.hub.health 0 i
    let old := NMap.get s.hub.trend [] i
    NMap.get t.hub.trend [] i = ((r.extractLsb' 32 16).toNat :: old).take 1001 ∧
    (r.extractLsb' 0 32).toNat = eolOf (decide (44 ≤ i ∧ i < 53)) (Config.healthLimit i) (NMap.get t.hub.trend [] i) ∧
    r.extractLsb' 48 15 = 0 ∧ (r.getLsbD 63 = true ↔ (r.extractLsb' 0 32).toNat < 2000)) ∧
  (∀ (falls : Bool) (limit v w : Nat) (l : List Nat), let reached := if falls = true then v ≤ limit else limit ≤ v
    let gap : Int := (limit : Int) - v
    let moved : Int := (v : Int) - w
    eolOf falls limit [v] = 0xFFFFFFFF ∧ (reached → eolOf falls limit (v :: l ++ [w]) = 0) ∧
    (¬reached → (gap * moved ≤ 0 → eolOf falls limit (v :: l ++ [w]) = 0xFFFFFFFF) ∧ (0 < gap * moved →
      eolOf falls limit (v :: l ++ [w]) = Nat.min 0xFFFFFFFF (gap * (l.length + 1) / moved).toNat))) ∧
  (∀ s, Runs .fcastUpdate s fun t => t = { s with hub := t.hub, free := s.free + 1 } ∧ ∀ i, i < 32 →
    let r := NMap.get t.hub.fcast 0 i
    r.extractLsb' 32 32 = s.hub.time.extractLsb' 0 32 ∧ r.extractLsb' 8 24 = 0 ∧ (28 ≤ i → r.extractLsb' 0 8 = 255)) ∧
  (∀ s, (s.hub.grid.getLsbD 63 = false → exec .nocGridSample s = .next s) ∧
    (s.hub.grid.getLsbD 63 = true → s.mem.wf = true →
      let base := (s.hub.grid.extractLsb' 16 32).toNat * 65536 + s.hub.gridN % 16 * 32776
      Runs .nocGridSample s fun t => t.hub.gridN = (s.hub.gridN + 1) % 16 ∧ t.free = s.free + 4096 ∧ SameBut base 32776 s t ∧
        (populated base = true → populated (base + 32775) = true → t.peek64 (base + 32768) = s.hub.time))))

/-! ### Jobs -/

/-- R62 to R64, R319, R353, R401: a quiet cluster's notice starts a wave, or another after the one that runs; a wave that finds a
job quiet with nothing on its way ends it with the value that ROOT holds, or when every core has halted. R326: a wave of a job
that leaves its clusters reports nothing there. Which traffic (log 15) and tasks (log 89) keep a cluster from being quiet, and that a
wave reads the reports of all clusters in one step (log 28), is the model's. -/
def Obligations.QuietJobsEnd : Prop :=
  (∀ cl s j, s.jobAt cl = some j → s.job? j.colour = some j →
    (j.wave = false → Runs (.quietNotice cl) s fun t => (t.cluster cl).noticed = true ∧ (t.job? j.colour).map (·.wave) = some true ∧
      ∃ chan, t.agenda = s.agenda ++ [⟨chan, .completionWave j.colour⟩]) ∧
    (j.wave = true → Runs (.quietNotice cl) s fun t => (t.cluster cl).noticed = true ∧ (t.job? j.colour).map (·.again) = some true ∧
      t.agenda = s.agenda)) ∧
  (∀ cl s, s.jobAt cl = none → exec (.quietNotice cl) s = .next s) ∧
  (∀ colour s, (s.job? colour ≠ none → Runs (.completionWave colour) s fun t => t = { s with agenda := t.agenda, ids := t.ids } ∧
      ∃ chan, t.agenda = s.agenda ++ [⟨chan, .waveReport colour⟩]) ∧
    (s.job? colour = none → exec (.completionWave colour) s = .next s ∧ exec (.waveReport colour) s = .next s)) ∧
  (∀ colour s j, s.job? colour = some j → j.ending = none → j.out = false → j.preempting = false → j.contain = false →
    let quiet := ∀ cl ∈ j.clusters, s.quiet cl = true ∧ (s.cluster cl).quietDirty = false
    let total (f : Cluster → Nat) : Nat := (j.clusters.map (fun cl => f (s.cluster cl))).sum % 2 ^ 32
    let balanced := total (·.sent) = total (·.recv)
    let all := ∀ cl ∈ j.clusters, s.quiet cl = true
    let Ends (v : Word) (t : State) : Prop := ((t.job? colour).bind (·.ending)) = some ⟨0, 0, v⟩ ∧
      ∃ chan, t.agenda = s.agenda ++ [⟨chan, .jobEnd colour⟩]
    (∀ v, quiet → balanced → s.rootHeld j = some v → Runs (.waveReport colour) s (Ends v)) ∧
    (quiet → balanced → s.rootHeld j = none → s.allHalted j = true → Runs (.waveReport colour) s (Ends 0)) ∧
    (¬(quiet ∧ balanced) → all ∨ j.again = true → Runs (.waveReport colour) s fun t => ((t.job? colour).bind (·.ending)) = none ∧
      (∃ chan, t.agenda = s.agenda ++ [⟨chan, .completionWave colour⟩]) ∧
      ∀ cl ∈ j.clusters, ((t.cluster cl).quietDirty = true ↔ s.quiet cl = false)) ∧
    (¬(quiet ∧ balanced) → ¬all → j.again = false → Runs (.waveReport colour) s fun t => t.agenda = s.agenda ∧
      (t.job? colour).map (·.wave) = some false)) ∧
  (∀ colour s j, s.job? colour = some j → j.ending ≠ none ∨ j.out = true ∨ j.preempting = true ∨ j.contain = true →
    Runs (.waveReport colour) s fun t => t.agenda = s.agenda ∧ (t.job? colour).map (·.wave) = some false ∧
      ∀ cl ∈ j.clusters, (j.out = true → cl ∈ j.saved → t.cluster cl = s.cluster cl) ∧
        (¬(j.out = true ∧ cl ∈ j.saved) → (t.cluster cl).noticed = false))

/-- R311 to R318, R320, R339, R391: an entry whose sequence is due is taken, checked and joins the table or is completed as
refused; the Dispatcher's choice is carried out; a started core holds what R318 gives it. A write of CONSUMED keeps the statuses of
the sequences below it. That all victims of a pre-emption are signalled in one step (log 65) and which statuses a new numbering
keeps (log 32) are the model's. -/
def Obligations.SubmissionsAndDispatch : Prop :=
  (∀ q s, s.canTake q = false → exec (.submissionTake q) s = .next s) ∧
  (∀ q s, s.canTake q = true → s.damage = [] → s.hub.table = [] → s.mem.wf = true →
    let k := s.queue q
    let w (i : Nat) : Word := s.peek64 (k.slotPa i)
    let pa := (w 1).toNat
    let seq := k.consumed.toNat
    let l : Launch := ⟨q, seq, false, 0, pa, 0, [], (List.range 32).map (fun i => s.peek64 (pa + 8 * i))⟩
    (entryBad w = true → Runs (.submissionTake q) s fun t => (t.queue q).consumed = k.consumed + 1 ∧
      Published q seq 7 Code.launchBad s t ∧ SameBut (s.recordPa q seq) 32 s t ∧ t.hub.table = [] ∧ (s.hub.evmask.getLsbD q = true → ∃ chan, t.agenda = s.agenda ++ [⟨chan, .completionEventWrite q seq⟩])) ∧
    (entryBad w = false → (w 0).toNat % 256 = 1 → (w 0).toNat / 256 % 8 = 0 → s.lpbOk pa = true → l.check = .ok →
      Runs (.submissionTake q) s fun t => (t.queue q).consumed = k.consumed + 1 ∧ t.hub.table = [l] ∧ t.mem = s.mem ∧
        t.cores = s.cores)) ∧
  (∀ q (v : Word) s, q < 128 → s.hub.fail = false → let k := s.queue q
    Runs (.registerWrite (64 * q + 0x18) v .nql) s fun t => t = { s with queues := t.queues } ∧ (∀ x, x ≠ q → t.queue x = s.queue x) ∧
      (k.en = true → t.queue q = k) ∧ (k.en = false → t.queue q = { k with consumed := v.setWidth 32, stats := (t.queue q).stats } ∧
        ∀ e, e ∈ (t.queue q).stats ↔ e ∈ k.stats ∧ (BitVec.ofNat 32 e.1 - v.setWidth 32).msb = true)) ∧
  (∀ s, s.choice = none → exec .dispatchSelect s = .next s) ∧
  (∀ s l cx cy vs c j, s.choice = some (.preempt l cx cy vs) → c ∈ vs → s.job? c = some j → Runs .dispatchSelect s fun t =>
    t = { s with jobs := t.jobs } ∧ ∃ q, t.job? c = some q ∧ q.preempting = true ∧ q.heir = some (l, cx, cy) ∧
      q.saved = (rectOf cx cy l.w l.h).filter (fun cl => j.holds (cl * 16))) ∧
  (∀ s l cx cy, s.choice = some (.place l cx cy) →
    let j := s.newJob l cx cy
    let u : State := { s with free := s.free + 1, jobs := s.jobs ++ [j], hub := { s.hub with
      table := s.hub.table.erase l, lastQ := NMap.set s.hub.lastQ j.prio l.q, rcv := NMap.erase s.hub.rcv j.colour } }
    exec .dispatchSelect s = .next (match (u.grantPartition j).prepare j with
      | (t, none) => t
      | (t, some r) => t.refuseLaunch j r)) ∧
  (∀ (s : State) j (addr : Word) code, s.hub.link = .up → s.hub.table = [] → s.jobs = [j] → s.mem.wf = true →
    let t := s.refuseLaunch j (6, code, addr)
    t.jobs = [] ∧ Logged 0 code t ∧ (∀ cl ∈ j.clusters, (t.cluster cl).job = none) ∧ Published j.launch.q j.launch.seq 6 code s t) ∧
  (∀ (s : State) (j : Job) gs dtab code rank c, c < 512 → code.length ≤ 2 ^ 18 → s.hub.bbase.getLsbD 63 = false → s.mem.wf = true →
    let keep := (s.core c).retainV = true ∧ (s.core c).retainCol.toNat = j.colour
    let l := j.launch
    let t := s.startCore j gs dtab code rank c
    let k := t.core c
    k.status = .running ∧ k.lv[(0 : Fin 4)].pc = BitVec.ofNat 64 l.entry ∧ k.getX 0 4 = BitVec.ofNat 64 rank ∧
      k.getX 0 5 = BitVec.ofNat 64 l.cores ∧ k.getX 0 6 = BitVec.ofNat 64 l.pa ∧ k.getX 0 7 = l.word 25 ∧
      (∀ lv : Fin 4, k.getX lv 2 = 0xFF00000000000000 + BitVec.ofNat 64 l.stack - BitVec.ofNat 64 (4096 * l.stksz * lv.val)) ∧
      k.root = j.root ∧ k.dtab = dtab ∧ k.xb = BitVec.ofNat 11 l.xb ∧ k.grp = grpWord gs c ∧ k.retainV = false ∧ k.retainCol = 0 ∧
      k.dtabBase = l.word 6 &&& 0x0000FFFFFFFFFFF8 ∧
      (∀ i (h : i < code.length), t.mem.read (padKey c i) = code[i]) ∧
      (∀ i, code.length ≤ i → i < 2 ^ 18 → ¬keep ∨ i < 256 * l.clen → t.mem.read (padKey c i) = 0) ∧
      (∀ i, code.length ≤ i → i < 2 ^ 18 → keep → 256 * l.clen ≤ i → t.mem.read (padKey c i) = s.mem.read (padKey c i)) ∧
      ∀ x, x ≠ c → t.core x = s.core x) ∧
  (∀ q seq s, s.mem.wf = true →
    let word := if q < 2 ^ 31 then q % 128 * 2 ^ 32 + seq % 2 ^ 32 else 2 ^ 63 + q % 4 * 2 ^ 32 + seq % 2 ^ 32
    (2 ^ 47 ≤ s.hub.evaddr.toNat → Runs (.completionEventWrite q seq) s fun t => t.peek64 s.hub.evaddr.toNat = BitVec.ofNat 64 word ∧
      SameBut s.hub.evaddr.toNat 8 s t ∧ t.cores = s.cores) ∧
    (s.hub.evaddr.toNat < 2 ^ 47 → exec (.completionEventWrite q seq) s = .next s)) ∧
  (∀ (v : Word) s, let q := (v.extractLsb' 32 7).toNat
    let seq := (v.extractLsb' 0 32).toNat
    (∀ l, s.hub.table = [l] → l.q = q → l.seq = seq → s.mem.wf = true → Runs (.dispKill v) s fun t =>
      t.hub.table = [] ∧ t.jobs = s.jobs ∧ Published q seq 8 0 s t) ∧
    (∀ j, s.hub.table = [] → s.jobs = [j] → j.launch.q = q → j.launch.seq = seq → j.ending = none → Runs (.dispKill v) s fun t =>
      ∃ u, t.jobs = [u] ∧ u.ending = some ⟨8, 0, 0⟩ ∧ u.contain = true ∧ ∃ chan, t.agenda = s.agenda ++ [⟨chan, .jobEnd j.colour⟩]) ∧
    (s.hub.table = [] → (∀ j ∈ s.jobs, ¬(j.launch.q = q ∧ j.launch.seq = seq)) → exec (.dispKill v) s = .next s))

/-- R65, R319, R326, R329, R388, R389, R397, R420: a job that has come to rest is switched out and its clusters are free, one that
has missed a Tick ends with FAULT instead, one that resumes has its cores as they were, one that has ended leaves the partition; a
contained rectangle resets together, also while the host link is down. When a job counts as drained and that its heir is dispatched
at once (log 66), and what fills the save area (logs 52, 105), are the model's. -/
def Obligations.JobsLeaveTheirPartition : Prop :=
  (∀ colour s j, s.job? colour = some j → j.colour = colour →
    let open_ := j.preempting = true ∧ j.out = false ∧ j.ending = none ∧ j.contain = false ∧ s.rectBusy j = false
    let missed := j.missed = true ∧ s.activationsDone j = true
    (¬open_ ∨ (s.drainedJob j = false ∧ ¬missed) → exec (.preemption colour) s = .next s) ∧
    (open_ → missed → Runs (.preemption colour) s fun t => (∃ q, t.job? colour = some q ∧ q.ending = some ⟨6, Code.tickMiss, 0⟩ ∧
      q.out = false) ∧ (∃ chan, t.agenda = s.agenda ++ [⟨chan, .jobEnd colour⟩]) ∧ t.mem = s.mem ∧
      ∀ c ∈ j.allCores, (t.core c).status ≠ .running) ∧
    (open_ → ¬missed → s.drainedJob j = true → s.damage = [] → j.heir = none →
      let u := ((s.freeze colour true).emptyRuleCaches j.clusters).fillSaveArea j
      Runs (.preemption colour) s fun t =>
      (∃ q, t.job? colour = some q ∧ q.out = true ∧ q.preempting = false ∧ q.saved = j.saved ∧
        q.savedCores = (j.allCores.filter (fun c => j.saved.contains (clusterOf c))).map (fun c => (c, s.core c))) ∧
      (∀ cl ∈ j.clusters, (t.cluster cl).rules = [] ∧ (t.cluster cl).noticed = false) ∧ t.heldWrites = s.heldWrites ∧
      (∀ cl ∈ j.saved, (t.cluster cl).job = none) ∧ (∀ c, clusterOf c ∉ j.saved → t.core c = s.core c) ∧
      ∀ key, (∀ cl ∈ j.saved, clusterKey cl key = false) → t.mem.read key = u.mem.read key) ∧
    (open_ → ¬missed → s.drainedJob j = true → ∀ l cx cy, j.heir = some (l, cx, cy) →
      let u := s.switchOut j
      u.hub.table = [l] → u.ready l = true → 7 ≤ u.hub.step → u.hub.link = .up → (∀ cl ∈ rectOf cx cy l.w l.h, u.clusterFree cl = true) →
      exec (.preemption colour) s = .next (u.dispatch l cx cy))) ∧
  (∀ colour s, s.job? colour = none → exec (.preemption colour) s = .next s ∧ exec (.resumption colour) s = .next s ∧
    exec (.jobEnd colour) s = .next s) ∧
  (∀ colour s j, s.job? colour = some j → s.choice = some (.resume colour) → j.colour = colour → (j.savedCores.map (·.1)).Nodup →
    Runs (.resumption colour) s fun t => (∀ e ∈ j.savedCores, t.core e.1 = e.2) ∧
      (∀ c, c ∉ j.savedCores.map (·.1) → t.core c = s.core c) ∧
      (∃ q, t.job? colour = some q ∧ q.out = false ∧ q.savedMem = [] ∧ q.saved = []) ∧ t.agenda = s.agenda ++ j.savedFlights) ∧
  (∀ colour s j e, s.job? colour = some j → j.colour = colour → j.ending = some e → s.enabled (.jobEnd colour) = true →
    s.hub.table = [] → s.mem.wf = true → Runs (.jobEnd colour) s fun t => t.job? colour = none ∧
      (∀ cl ∈ j.clusters, (s.cluster cl).job = some colour → (t.cluster cl).job = none) ∧
      Published j.launch.q j.launch.seq e.status e.detail s t) ∧
  (∀ colour s j, s.job? colour = some j → j.ending = none → exec (.jobEnd colour) s = .next s) ∧
  (∀ n (v : Word) s, let old := NMap.get s.hub.rect 0 n
    let w := v &&& 0x80000000000003FF
    let twisted := (v.extractLsb' 5 3).toNat < (v.extractLsb' 0 3).toNat ∨ (v.extractLsb' 8 2).toNat < (v.extractLsb' 3 2).toNat
    (old.getLsbD 62 = true → exec (.contRectDefine n v) s = .next s) ∧
    (old.getLsbD 62 = false → s.hub.fail = false → Runs (.contRectDefine n v) s fun t => t = { s with hub := t.hub } ∧
      (twisted → NMap.get t.hub.rect 0 n = v &&& 0x3FF) ∧
      (¬twisted → (∀ e ∈ s.hub.rect, e.1 ≠ n → rectsMeet w e.2 = false) → NMap.get t.hub.rect 0 n = w)) ∧
    (old.getLsbD 63 = false ∨ old.getLsbD 62 = true → exec (.contRectGo n) s = .next s) ∧
    (s.hub.fail = true → exec (.contRectDefine n v) s = .next s ∧ exec (.contRectGo n) s = .next s) ∧
    (old.getLsbD 63 = true → old.getLsbD 62 = false → s.hub.fail = false → Runs (.contRectGo n) s fun t =>
      NMap.get t.hub.rect 0 n = old ||| 1 <<< 62 ∧ (∃ chan, t.agenda = s.agenda ++ [⟨chan, .containment n⟩]) ∧
      ∀ c, inRect old (clusterOf c) = true → t.contained c = true)) ∧
  (∀ n s, let v := NMap.get s.hub.rect 0 n
    (v.getLsbD 62 = false → exec (.containment n) s = .next s) ∧
    (v.getLsbD 62 = true → s.jobs = [] → (∀ cl, cl < 32 → (s.cluster cl).job = none) → s.damage = [] → s.poison = [] →
      Runs (.containment n) s fun t =>
      NMap.get t.hub.rect 0 n = v &&& ~~~((1 : Word) <<< 62) ∧
      (∀ c, c < 512 → (inRect v (clusterOf c) = true → t.core c = Core.initial c ∧ ∀ i, i < 2 ^ 18 → t.mem.read (padKey c i) = 0) ∧
        (inRect v (clusterOf c) = false → t.core c = s.core c ∧ ∀ i, i < 2 ^ 18 → t.mem.read (padKey c i) = s.mem.read (padKey c i)))) ∧
    (∀ j e cl, v.getLsbD 62 = true → s.jobs = [j] → j.ending = some e → s.hub.link ≠ .up → cl < 32 → inRect v cl = true →
      (s.cluster cl).job = some j.colour → s.damage = [] → s.poison = [] → Runs (.containment n) s fun t =>
      (NMap.get t.hub.rect 0 n).getLsbD 62 = false ∧ (∃ q, t.jobs = [q] ∧ q.colour = j.colour ∧ q.ending = some e ∧ q.contain = false) ∧
      ∀ x ∈ j.clusters, (s.cluster x).job = some j.colour → (t.cluster x).job = none))

/-! ### Completion -/

/-- R2, R20, R50, R72, R78, R306, R308, R309, R362, R369 to R371, R381, R397, R405, R414: every instruction and every event, all of
the constructors of `Instr`, answers a next state from every state. Of the events that no instruction stands for, and of the
supervisor's tools, what the effect of its own is: a break bit stops its core, a missed tick fences it, a pending fault is
taken, Ponds ask, answer and hand over, twins that agree end, walks, repartitions, the hub and the debugger do their work. -/
def Obligations.EveryFormCompletes : Prop :=
  (∀ (i : Instr) (s : State), ∃ t, exec i s = .next t) ∧
  (∀ c (s : State), Runs (.breakpoint c) s fun t => t.core c = { s.core c with dbg := .stopped, broke := true } ∧
    ∀ x, x ≠ c → t.core x = s.core x) ∧
  (∀ c (s : State), Runs (.tickMiss c) s fun t => (t.core c).status ≠ .running ∧ (t.core c).lv = (s.core c).lv) ∧
  (∀ c f r (s : State), (s.core c).pend = f :: r → (s.core c).lv[(s.core c).lvl].active = false →
    exec (.asyncFaultTake c) s = .next ((s.setCore c { s.core c with pend := r }).takeTrap c f.code
      (s.core c).lv[(s.core c).lvl].pc f.tval f.text)) ∧
  (∀ cl (s : State), Runs (.fpExcWindowClose cl) s fun t => (t.cluster cl).fp = [] ∧ (t.cluster cl).fpOpen = false) ∧
  (∀ cl s j, s.jobAt cl = some j → Runs (.pondRequestRound cl) s fun t => (t.cluster cl).failed = (j.victims cl).isEmpty ∧
    (t.cluster cl).round = !(j.victims cl).isEmpty ∧ t.cores = s.cores ∧ t.mem = s.mem) ∧
  (∀ cl thief rest s, s.jobAt cl = none → Runs (.pondWorkRequest cl thief rest) s fun t =>
    t = { s with agenda := t.agenda, ids := t.ids } ∧ ∃ chan, t.agenda = s.agenda ++ [⟨chan, .pondHandover thief cl [] rest⟩]) ∧
  (∀ cl thief rest s j, s.jobAt cl = some j → (s.cluster cl).stalled = [] → (s.cluster cl).highm + 2 ≤ (s.cluster cl).pond.length →
    let k := s.cluster cl
    let n := (k.pond.length - k.highm) / 2
    Runs (.pondWorkRequest cl thief rest) s fun t => (t.cluster cl).pond = k.pond.drop n ∧
      ∃ f ∈ t.agenda, f.ev = .pondHandover thief cl (k.pond.take n) []) ∧
  (∀ cl victim s, Runs (.pondHandover cl victim [] []) s fun t => (t.cluster cl).round = false ∧ (t.cluster cl).failed = true) ∧
  (∀ cl other s, (s.cluster cl).failed = true → (s.cluster cl).pond.length < (s.cluster cl).lowm → (s.cluster cl).steal = true →
    (s.cluster cl).det = false → Runs (.pondHighmAnnounce cl other) s fun t => (t.cluster cl).round = true ∧
      ∃ f ∈ t.agenda, f.ev = .pondRequestRound cl) ∧
  (∀ cl s j r, s.jobAt cl = some j → (s.cluster cl).twins.find? (fun t => t.done.length == t.cores.length) = some r →
    r.cores.length = 2 → r.streams = [[], []] → r.slots = [] → Runs (.twinCompare cl) s fun t => t.cores = s.cores ∧ t.mem = s.mem ∧
      t.agenda = s.agenda ∧ (t.cluster cl).acts = ((s.cluster cl).acts + 1) % 2 ^ 48 ∧
      (t.cluster cl).twins = (s.cluster cl).twins.filter (·.id != r.id)) ∧
  (∀ (w : Walk) s code, s.damage = [] →
    let u := s.upDie (dieOfCluster w.cl) (fun d => { d with pool := s.poolFill w.root w.va d.pool })
    u.walk w.cl w.root w.va = .error code → exec (.tlbWalk w) s = .next u) ∧
  (∀ die old s, (s.die die).oldScr = some old → Runs (.basinSplitDone die) s fun t => (t.die die).oldScr = none ∧
    (t.die die).scr = (s.die die).scr) ∧
  (∀ die (v : Word) s, (s.die die).oldScr = none → v.toNat % 16 ≠ (s.die die).scr → Runs (.basinSplitWrite die v) s fun t =>
    (t.die die).scr = v.toNat % 16 ∧ ∃ f ∈ t.agenda, f.ev = .basinSplitDone die) ∧
  (∀ s, s.hub.link = .up → Runs .nqlLinkDown s fun t => t.hub.link = .down ∧ t.mem = s.mem ∧ t.cores = s.cores) ∧
  (∀ s, s.hub.link = .down → Runs .nqlFail s fun t => t.hub.link = .failed ∧ t.mem = s.mem ∧ t.cores = s.cores) ∧
  (∀ s, s.hub.link = .down → Runs .nqlRetrain s fun t => t.hub.link = .up ∧ t.mem = s.mem ∧ t.cores = s.cores) ∧
  (∀ s, Runs .fastClamp s (fun t => t.hub.clamped = true ∧ t.hub.clampW = true ∧ t.cores = s.cores) ∧
    Runs .clampRelease s (fun t => t.hub.clamped = false ∧ t.cores = s.cores)) ∧
  (∀ die s, s.jobs = [] → Runs (.thermalTrip die) s fun t => t.powerOf die = .tripped ∧ t.hub.trip = true ∧ t.mem = s.mem) ∧
  (∀ die s, s.powerOf die = .tripped → Runs (.thermalRecovery die) s fun t => t.powerOf die = .full ∧
    ((∀ m, m < 64 → (s.mu m).since = []) → t.mem = s.mem)) ∧
  (∀ watts s, Runs (.pcapWindowEnd watts) s fun t => t.hub.actual = watts % 2 ^ 16 ∧ t.mem = s.mem) ∧
  (∀ c s, s.hub.fail = false → (s.core c).dbg = .stopped →
    Runs (.singleStep c) s (fun t => t.core c = { s.core c with dbg := .stepping false }) ∧
    Runs (.stepUntilDrained c) s (fun t => t.core c = { s.core c with dbg := .stepping true })) ∧
  (∀ h d a s, s.lev.sup = true → Runs (.evrd h d a) s (Past h s) ∧ Runs (.rpstat h d a) s (Past h s) ∧ Runs (.tpert h d a) s (Past h s) ∧
    Runs (.pwrf h d a) s (Past h s) ∧ ((s.getX d).toNat < 2 ^ 12 → Runs (.evsel h d a) s (Past h s)))

/-! ### The machine as a whole -/

/-- R7, R49, R65, R72, R86, R94, R169, R307, R311, R338, R362, R367, R368, R372: what a cold reset leaves. That the registers of
cores read 0 and that empty memory reads 0 is the model's choice (log 3, log 6). -/
def Obligations.ResetState : Prop :=
  (∀ c, (State.reset.core c).status = .off ∧ (State.reset.core c).retainV = false ∧ (State.reset.core c).retainCol = 0 ∧ (State.reset.core c).tq = [] ∧
    (State.reset.core c).pend = [] ∧ (State.reset.core c).root = 0 ∧ (∀ lv r, (State.reset.core c).getX lv r = 0)) ∧
  (∀ cl, (State.reset.cluster cl).steal = true ∧ (State.reset.cluster cl).highm = 512 ∧ (State.reset.cluster cl).lowm = 32 ∧
    (State.reset.cluster cl).pond = [] ∧ (State.reset.cluster cl).job = none) ∧
  (∀ m, (State.reset.mu m).dlim = 16 ∧ (State.reset.mu m).next = 1 ∧ (State.reset.mu m).swpend = false ∧ (State.reset.mu m).enob = 0) ∧
  (∀ cl, (State.reset.mu (2 * cl)).wgt = 0x11111111 ∧ (State.reset.mu (2 * cl + 1)).wgt = 0x1111111100000000) ∧
  (∀ d, (State.reset.die d).scr = 4 ∧ (State.reset.die d).next = 0 ∧ (State.reset.die d).lost = 0) ∧
  (∀ sl e, (NMap.get (State.reset.slice sl).tk TkEntry.initial e).st = .free ∧ (State.reset.slice sl).orphans = 0) ∧
  (∀ q, (State.reset.queue q).en = false ∧ (State.reset.queue q).consumed = 1 ∧ (State.reset.queue q).completed = 1 ∧
    (State.reset.queue q).prio = 63 ∧ (State.reset.queue q).log2d = 4) ∧
  (∀ i, i < 61 → State.reset.readReg (0x40200 + 8 * i) = 0xFFFFFFFF) ∧
  State.reset.readReg 0x40100 = 1800 ∧ State.reset.readReg 0x40108 = 100 ∧ State.reset.readReg 0x41018 = 0x3000000000000000 ∧
  State.reset.readReg 0x40900 = 0x0001000000000000 ∧ State.reset.hub.time = 0 ∧ State.reset.hub.step = 1 ∧
  State.reset.jobs = [] ∧ ∀ a, State.reset.mem.read a = 0

/-- R54, R56, R80, R180, R181, R183, R184, R274, R370: a core that moves with nothing before it executes the instruction that the
words at its program counter hold, or is held before it, or traps where they are none; one that only waits for a full queue has
not issued. An event that is next comes about; before the module is up only those that the outside world and bring-up give do. The
choice of the next move and the events themselves (log 1), the bring-up that the model starts by itself (log 4) and the stop of a
failed one (log 85) are the model's. -/
def Obligations.StepRunsDecoded : Prop :=
  (∀ s c u i, Fetches s c u → Holds u i → u.held? (u.select i) = none →
    ((Instr.pops (u.select i) && u.taskDue c u.pairAtHand) = false → ∀ t, exec (u.select i) u.issued = .next t →
      let full := t.lev.wait.any (fun w => w.reason == .awake && !w.fence)
      (full = false → step s = .next (State.afterCore c (u.afterWait t))) ∧
      (full = true → step s = onNext (exec (u.select i) u.unheld) (fun t => State.afterCore c (u.afterWait t)))) ∧
    ((Instr.pops (u.select i) && u.taskDue c u.pairAtHand) = true →
      step s = onNext (exec (.taskStart c) u) (fun t => State.afterCore c (u.afterWait t)))) ∧
  (∀ s c u i r, Fetches s c u → Holds u i → u.held? (u.select i) = some r → step s = .next (u.holdBack r)) ∧
  (∀ s c u e, Fetches s c u → u.pc.toNat < u.me.codeEnd → u.damage = [] → decodeWords (u.fetchWords c) = .error e →
    (markedWords (u.fetchWords c) = false ∨ u.lev.out = [] → step s = .next u.issued.illegal.touch) ∧
    (markedWords (u.fetchWords c) = true → ∀ r, u.markHold = some r → step s = .next (u.holdBack r))) ∧
  (∀ s c u, Fetches s c u → u.me.codeEnd ≤ u.pc.toNat → step s = .next (u.overlay c u.pc u.lev.prev).touch) ∧
  (∀ s k (f : Flight), 7 ≤ s.hub.step → s.pick = .event k → s.agenda[k]? = some f →
    step s = onNext (exec f.ev { s.begin with agenda := s.agenda.eraseIdx k }) (State.afterEvent f.ev)) ∧
  (∀ s e, 7 ≤ s.hub.step → s.pick = .own e → step s = onNext (exec e s.begin) (State.afterEvent e)) ∧
  (∀ s i r (f : Flight), s.hub.step < 7 → s.heads = i :: r → s.agenda[i]? = some f →
    step s = onNext (exec f.ev { s.begin with agenda := s.agenda.eraseIdx i }) (State.afterEvent f.ev)) ∧
  (∀ s, s.hub.step < 7 → s.heads = [] →
    let e : Instr := .coldReset ⟨[⟨true, 1, 0⟩], false, none⟩
    (s.hub.fail = false → step s = onNext (exec e s.begin) (State.afterEvent e)) ∧
    (s.hub.fail = true → step s = .fault .bringUpStopped))

/-- R173 to R181, R189, R190: words written out from the encoding tables decode to the instructions that they stand for. -/
def Obligations.TableWordsDecode : Prop :=
  DecodesTo [0b0000100011010000] (.add ⟨false, []⟩ 3 4 none) ∧
  DecodesTo [0b0111110111010000, 0b1000100000011000] (.add ⟨true, [.rgx]⟩ 48 22 none) ∧
  DecodesTo [0b0111111100110000, 0b0000100001001000] (.add ⟨false, [.trx]⟩ 1 2 (some 3)) ∧
  DecodesTo [0b0111110011111111, 0b0010000001000000] (.addi ⟨false, [.imx]⟩ 1 0xFFFFFFFFFFFFFFC0) ∧
  DecodesTo [0b0011100001001010] (.ldW ⟨false, []⟩ 1 2 0 ⟨0, 0⟩) ∧
  DecodesTo [0b0100111111111111] (.br ⟨false, []⟩ 0xFFFFFFFFFFFFFFFF) ∧
  DecodesTo [0b0111010000000101] (.trap ⟨false, []⟩ 5) ∧
  DecodesTo [0b0111111000000001, 0b0001100001001000] (.hash ⟨false, [.pgx]⟩ 1 2 none) ∧
  DecodesTo [0b0111111000000010, 0b0000000011010000] (.vadd ⟨false, [.pgx]⟩ 3 4 0) ∧
  DecodesTo [0b0111111000000011, 0b0000000100101011] (.tmmaF32 ⟨false, [.pgx]⟩ 1 1 2 true true none) ∧
  DecodesTo [0b0111111000000100, 0b0000010001001010] (.phrd ⟨false, [.pgx]⟩ 1 2) ∧
  DecodesTo [0b0111111000000101, 0b0000100001001011] (.nld ⟨false, [.pgx]⟩ 1 2 3) ∧
  DecodesTo [0b0111111000000110, 0b0001100001010000] (.cpset ⟨false, [.pgx]⟩ 1 4) ∧
  DecodesTo [0b0111111000000111, 0b0000000000000100] (.rft ⟨false, [.pgx]⟩) ∧
  (∀ w : W16, w.getLsbD 15 = true → w.extractLsb' 10 5 = 31 → decodeWords [w] = .error .markedLead) ∧
  decodeWords [0b0111111000000000] = .error .pageZero ∧ decodeWords [0b0111110100000001] = .error .rgxLowBits ∧
  decodeWords [0b0111111100000000, 0b0111111100000000] = .error .duplicateLead ∧
  decodeWords [0b0111110000000000] = .error .truncated ∧ decodeWords [0b0111100000000000] = .error .badInstruction

/-- R173 to R181, R189, R190: for every well-formed instruction whose operands fit its lead words, the words that encode it,
whatever follows, decode to it and to its length. -/
def Obligations.DecodeEncode : Prop :=
  ∀ (i : Instr) (rest : List W16), i.wf = true → i.fits = true →
    decodeWords (encode i ++ rest) = .ok (i.asRead, i.head.len) ∧ 2 * (encode i).length = i.head.len

/-- Memory has its canonical form at reset: keys strictly rising, and no byte listed that reads as an unlisted one. -/
def Obligations.MemoryCanonicalAtReset : Prop :=
 State.reset.mem.wf = true

/-- Every step from any state keeps memory in canonical form: what has equal bytes is equal. -/
def Obligations.MemoryCanonicalKept : Prop :=
 Kept (fun s => s.mem.wf = true)
end

