-- ==== Sys2Proof/Laws/State.lean ====
section
/-! SUPPORT. What each update of the state leaves and what it writes, one lemma for each field and update. -/

namespace Sys2Proof.Machine

/-! ### Maps -/

@[simp] theorem NMap.get_set {α : Type} (m : NMap α) (z v : α) (k j : Nat) :
    NMap.get (NMap.set m k v) z j = if k = j then v else NMap.get m z j := by
  unfold NMap.set
  rw [NMap.get]
  split
  · rfl
  · next hne =>
    induction m with
    | nil => rfl
    | cons e r ih =>
      obtain ⟨i, w⟩ := e
      simp only [List.filter_cons]
      split
      · simp only [NMap.get, ih]
      · next he =>
        have : i = k := by simpa using he
        subst this
        rw [ih]
        simp [NMap.get, hne]

@[simp] theorem NMap.find?_set {α : Type} (m : NMap α) (v : α) (k j : Nat) :
    NMap.find? (NMap.set m k v) j = if k = j then some v else NMap.find? m j := by
  unfold NMap.set
  rw [NMap.find?]
  split
  · rfl
  · next hne =>
    induction m with
    | nil => rfl
    | cons e r ih =>
      obtain ⟨i, w⟩ := e
      simp only [List.filter_cons]
      split
      · simp only [NMap.find?, ih]
      · next he =>
        have : i = k := by simpa using he
        subst this
        rw [ih]
        simp [NMap.find?, hne]

@[simp] theorem NMap.get_nil {α : Type} (z : α) (k : Nat) : NMap.get ([] : NMap α) z k = z := rfl
@[simp] theorem NMap.find?_nil {α : Type} (k : Nat) : NMap.find? ([] : NMap α) k = none := rfl

/-! ### Units -/

@[simp] theorem State.core_setCore (s : State) (c j : Nat) (k : Core) :
    (s.setCore c k).core j = if c = j then k else s.core j := by simp [State.core, State.setCore]
@[simp] theorem State.core_upCore (s : State) (c j : Nat) (f : Core → Core) :
    (s.upCore c f).core j = if c = j then f (s.core c) else s.core j := by simp [State.upCore]
@[simp] theorem State.cluster_setCluster (s : State) (cl j : Nat) (k : Cluster) :
    (s.setCluster cl k).cluster j = if cl = j then k else s.cluster j := by simp [State.cluster, State.setCluster]
@[simp] theorem State.cluster_upCluster (s : State) (cl j : Nat) (f : Cluster → Cluster) :
    (s.upCluster cl f).cluster j = if cl = j then f (s.cluster cl) else s.cluster j := by simp [State.upCluster]
@[simp] theorem State.mu_setMu (s : State) (m j : Nat) (k : Mu) :
    (s.setMu m k).mu j = if m = j then k else s.mu j := by simp [State.mu, State.setMu]
@[simp] theorem State.mu_upMu (s : State) (m j : Nat) (f : Mu → Mu) :
    (s.upMu m f).mu j = if m = j then f (s.mu m) else s.mu j := by simp [State.upMu]
@[simp] theorem State.die_setDie (s : State) (d j : Nat) (k : Die) :
    (s.setDie d k).die j = if d = j then k else s.die j := by simp [State.die, State.setDie]
@[simp] theorem State.die_upDie (s : State) (d j : Nat) (f : Die → Die) :
    (s.upDie d f).die j = if d = j then f (s.die d) else s.die j := by simp [State.upDie]
@[simp] theorem State.slice_setSlice (s : State) (sl j : Nat) (k : Slice) :
    (s.setSlice sl k).slice j = if sl = j then k else s.slice j := by simp [State.slice, State.setSlice]
@[simp] theorem State.slice_upSlice (s : State) (sl j : Nat) (f : Slice → Slice) :
    (s.upSlice sl f).slice j = if sl = j then f (s.slice sl) else s.slice j := by simp [State.upSlice]
@[simp] theorem State.port_setPort (s : State) (p j : Nat) (k : Port) :
    (s.setPort p k).port j = if p = j then k else s.port j := by simp [State.port, State.setPort]
@[simp] theorem State.port_upPort (s : State) (p j : Nat) (f : Port → Port) :
    (s.upPort p f).port j = if p = j then f (s.port p) else s.port j := by simp [State.upPort]
@[simp] theorem State.queue_setQueue (s : State) (q j : Nat) (k : Queue) :
    (s.setQueue q k).queue j = if q = j then k else s.queue j := by simp [State.queue, State.setQueue]
@[simp] theorem State.queue_upQueue (s : State) (q j : Nat) (f : Queue → Queue) :
    (s.upQueue q f).queue j = if q = j then f (s.queue q) else s.queue j := by simp [State.upQueue]

/-! ### Fields that an update does not name -/

@[simp] theorem State.setCore_clusters (s : State) (c : Nat) (k : Core) : (s.setCore c k).clusters = s.clusters := rfl
@[simp] theorem State.setCore_mus (s : State) (c : Nat) (k : Core) : (s.setCore c k).mus = s.mus := rfl
@[simp] theorem State.setCore_dies (s : State) (c : Nat) (k : Core) : (s.setCore c k).dies = s.dies := rfl
@[simp] theorem State.setCore_slices (s : State) (c : Nat) (k : Core) : (s.setCore c k).slices = s.slices := rfl
@[simp] theorem State.setCore_ports (s : State) (c : Nat) (k : Core) : (s.setCore c k).ports = s.ports := rfl
@[simp] theorem State.setCore_queues (s : State) (c : Nat) (k : Core) : (s.setCore c k).queues = s.queues := rfl
@[simp] theorem State.setCore_jobs (s : State) (c : Nat) (k : Core) : (s.setCore c k).jobs = s.jobs := rfl
@[simp] theorem State.setCore_hub (s : State) (c : Nat) (k : Core) : (s.setCore c k).hub = s.hub := rfl
@[simp] theorem State.setCore_mem (s : State) (c : Nat) (k : Core) : (s.setCore c k).mem = s.mem := rfl
@[simp] theorem State.setCore_under (s : State) (c : Nat) (k : Core) : (s.setCore c k).under = s.under := rfl
@[simp] theorem State.setCore_dirtyBy (s : State) (c : Nat) (k : Core) : (s.setCore c k).dirtyBy = s.dirtyBy := rfl
@[simp] theorem State.setCore_poison (s : State) (c : Nat) (k : Core) : (s.setCore c k).poison = s.poison := rfl
@[simp] theorem State.setCore_damage (s : State) (c : Nat) (k : Core) : (s.setCore c k).damage = s.damage := rfl
@[simp] theorem State.setCore_heldWrites (s : State) (c : Nat) (k : Core) : (s.setCore c k).heldWrites = s.heldWrites := rfl
@[simp] theorem State.setCore_agenda (s : State) (c : Nat) (k : Core) : (s.setCore c k).agenda = s.agenda := rfl
@[simp] theorem State.setCore_turn (s : State) (c : Nat) (k : Core) : (s.setCore c k).turn = s.turn := rfl
@[simp] theorem State.setCore_seq (s : State) (c : Nat) (k : Core) : (s.setCore c k).seq = s.seq := rfl
@[simp] theorem State.setCore_stamp (s : State) (c : Nat) (k : Core) : (s.setCore c k).stamp = s.stamp := rfl
@[simp] theorem State.setCore_free (s : State) (c : Nat) (k : Core) : (s.setCore c k).free = s.free := rfl
@[simp] theorem State.setCore_cur (s : State) (c : Nat) (k : Core) : (s.setCore c k).cur = s.cur := rfl
@[simp] theorem State.setCore_ids (s : State) (c : Nat) (k : Core) : (s.setCore c k).ids = s.ids := rfl
@[simp] theorem State.setCore_pkg (s : State) (c : Nat) (k : Core) : (s.setCore c k).pkg = s.pkg := rfl
@[simp] theorem State.upCore_clusters (s : State) (c : Nat) (f : Core → Core) : (s.upCore c f).clusters = s.clusters := rfl
@[simp] theorem State.upCore_mus (s : State) (c : Nat) (f : Core → Core) : (s.upCore c f).mus = s.mus := rfl
@[simp] theorem State.upCore_dies (s : State) (c : Nat) (f : Core → Core) : (s.upCore c f).dies = s.dies := rfl
@[simp] theorem State.upCore_slices (s : State) (c : Nat) (f : Core → Core) : (s.upCore c f).slices = s.slices := rfl
@[simp] theorem State.upCore_ports (s : State) (c : Nat) (f : Core → Core) : (s.upCore c f).ports = s.ports := rfl
@[simp] theorem State.upCore_queues (s : State) (c : Nat) (f : Core → Core) : (s.upCore c f).queues = s.queues := rfl
@[simp] theorem State.upCore_jobs (s : State) (c : Nat) (f : Core → Core) : (s.upCore c f).jobs = s.jobs := rfl
@[simp] theorem State.upCore_hub (s : State) (c : Nat) (f : Core → Core) : (s.upCore c f).hub = s.hub := rfl
@[simp] theorem State.upCore_mem (s : State) (c : Nat) (f : Core → Core) : (s.upCore c f).mem = s.mem := rfl
@[simp] theorem State.upCore_under (s : State) (c : Nat) (f : Core → Core) : (s.upCore c f).under = s.under := rfl
@[simp] theorem State.upCore_dirtyBy (s : State) (c : Nat) (f : Core → Core) : (s.upCore c f).dirtyBy = s.dirtyBy := rfl
@[simp] theorem State.upCore_poison (s : State) (c : Nat) (f : Core → Core) : (s.upCore c f).poison = s.poison := rfl
@[simp] theorem State.upCore_damage (s : State) (c : Nat) (f : Core → Core) : (s.upCore c f).damage = s.damage := rfl
@[simp] theorem State.upCore_heldWrites (s : State) (c : Nat) (f : Core → Core) : (s.upCore c f).heldWrites = s.heldWrites := rfl
@[simp] theorem State.upCore_agenda (s : State) (c : Nat) (f : Core → Core) : (s.upCore c f).agenda = s.agenda := rfl
@[simp] theorem State.upCore_turn (s : State) (c : Nat) (f : Core → Core) : (s.upCore c f).turn = s.turn := rfl
@[simp] theorem State.upCore_seq (s : State) (c : Nat) (f : Core → Core) : (s.upCore c f).seq = s.seq := rfl
@[simp] theorem State.upCore_stamp (s : State) (c : Nat) (f : Core → Core) : (s.upCore c f).stamp = s.stamp := rfl
@[simp] theorem State.upCore_free (s : State) (c : Nat) (f : Core → Core) : (s.upCore c f).free = s.free := rfl
@[simp] theorem State.upCore_cur (s : State) (c : Nat) (f : Core → Core) : (s.upCore c f).cur = s.cur := rfl
@[simp] theorem State.upCore_ids (s : State) (c : Nat) (f : Core → Core) : (s.upCore c f).ids = s.ids := rfl
@[simp] theorem State.upCore_pkg (s : State) (c : Nat) (f : Core → Core) : (s.upCore c f).pkg = s.pkg := rfl
@[simp] theorem State.setCluster_cores (s : State) (cl : Nat) (k : Cluster) : (s.setCluster cl k).cores = s.cores := rfl
@[simp] theorem State.setCluster_mus (s : State) (cl : Nat) (k : Cluster) : (s.setCluster cl k).mus = s.mus := rfl
@[simp] theorem State.setCluster_dies (s : State) (cl : Nat) (k : Cluster) : (s.setCluster cl k).dies = s.dies := rfl
@[simp] theorem State.setCluster_slices (s : State) (cl : Nat) (k : Cluster) : (s.setCluster cl k).slices = s.slices := rfl
@[simp] theorem State.setCluster_ports (s : State) (cl : Nat) (k : Cluster) : (s.setCluster cl k).ports = s.ports := rfl
@[simp] theorem State.setCluster_queues (s : State) (cl : Nat) (k : Cluster) : (s.setCluster cl k).queues = s.queues := rfl
@[simp] theorem State.setCluster_jobs (s : State) (cl : Nat) (k : Cluster) : (s.setCluster cl k).jobs = s.jobs := rfl
@[simp] theorem State.setCluster_hub (s : State) (cl : Nat) (k : Cluster) : (s.setCluster cl k).hub = s.hub := rfl
@[simp] theorem State.setCluster_mem (s : State) (cl : Nat) (k : Cluster) : (s.setCluster cl k).mem = s.mem := rfl
@[simp] theorem State.setCluster_under (s : State) (cl : Nat) (k : Cluster) : (s.setCluster cl k).under = s.under := rfl
@[simp] theorem State.setCluster_dirtyBy (s : State) (cl : Nat) (k : Cluster) : (s.setCluster cl k).dirtyBy = s.dirtyBy := rfl
@[simp] theorem State.setCluster_poison (s : State) (cl : Nat) (k : Cluster) : (s.setCluster cl k).poison = s.poison := rfl
@[simp] theorem State.setCluster_damage (s : State) (cl : Nat) (k : Cluster) : (s.setCluster cl k).damage = s.damage := rfl
@[simp] theorem State.setCluster_heldWrites (s : State) (cl : Nat) (k : Cluster) : (s.setCluster cl k).heldWrites = s.heldWrites := rfl
@[simp] theorem State.setCluster_agenda (s : State) (cl : Nat) (k : Cluster) : (s.setCluster cl k).agenda = s.agenda := rfl
@[simp] theorem State.setCluster_turn (s : State) (cl : Nat) (k : Cluster) : (s.setCluster cl k).turn = s.turn := rfl
@[simp] theorem State.setCluster_seq (s : State) (cl : Nat) (k : Cluster) : (s.setCluster cl k).seq = s.seq := rfl
@[simp] theorem State.setCluster_stamp (s : State) (cl : Nat) (k : Cluster) : (s.setCluster cl k).stamp = s.stamp := rfl
@[simp] theorem State.setCluster_free (s : State) (cl : Nat) (k : Cluster) : (s.setCluster cl k).free = s.free := rfl
@[simp] theorem State.setCluster_cur (s : State) (cl : Nat) (k : Cluster) : (s.setCluster cl k).cur = s.cur := rfl
@[simp] theorem State.setCluster_ids (s : State) (cl : Nat) (k : Cluster) : (s.setCluster cl k).ids = s.ids := rfl
@[simp] theorem State.setCluster_pkg (s : State) (cl : Nat) (k : Cluster) : (s.setCluster cl k).pkg = s.pkg := rfl
@[simp] theorem State.upCluster_cores (s : State) (cl : Nat) (f : Cluster → Cluster) : (s.upCluster cl f).cores = s.cores := rfl
@[simp] theorem State.upCluster_mus (s : State) (cl : Nat) (f : Cluster → Cluster) : (s.upCluster cl f).mus = s.mus := rfl
@[simp] theorem State.upCluster_dies (s : State) (cl : Nat) (f : Cluster → Cluster) : (s.upCluster cl f).dies = s.dies := rfl
@[simp] theorem State.upCluster_slices (s : State) (cl : Nat) (f : Cluster → Cluster) : (s.upCluster cl f).slices = s.slices := rfl
@[simp] theorem State.upCluster_ports (s : State) (cl : Nat) (f : Cluster → Cluster) : (s.upCluster cl f).ports = s.ports := rfl
@[simp] theorem State.upCluster_queues (s : State) (cl : Nat) (f : Cluster → Cluster) : (s.upCluster cl f).queues = s.queues := rfl
@[simp] theorem State.upCluster_jobs (s : State) (cl : Nat) (f : Cluster → Cluster) : (s.upCluster cl f).jobs = s.jobs := rfl
@[simp] theorem State.upCluster_hub (s : State) (cl : Nat) (f : Cluster → Cluster) : (s.upCluster cl f).hub = s.hub := rfl
@[simp] theorem State.upCluster_mem (s : State) (cl : Nat) (f : Cluster → Cluster) : (s.upCluster cl f).mem = s.mem := rfl
@[simp] theorem State.upCluster_under (s : State) (cl : Nat) (f : Cluster → Cluster) : (s.upCluster cl f).under = s.under := rfl
@[simp] theorem State.upCluster_dirtyBy (s : State) (cl : Nat) (f : Cluster → Cluster) : (s.upCluster cl f).dirtyBy = s.dirtyBy := rfl
@[simp] theorem State.upCluster_poison (s : State) (cl : Nat) (f : Cluster → Cluster) : (s.upCluster cl f).poison = s.poison := rfl
@[simp] theorem State.upCluster_damage (s : State) (cl : Nat) (f : Cluster → Cluster) : (s.upCluster cl f).damage = s.damage := rfl
@[simp] theorem State.upCluster_heldWrites (s : State) (cl : Nat) (f : Cluster → Cluster) : (s.upCluster cl f).heldWrites = s.heldWrites := rfl
@[simp] theorem State.upCluster_agenda (s : State) (cl : Nat) (f : Cluster → Cluster) : (s.upCluster cl f).agenda = s.agenda := rfl
@[simp] theorem State.upCluster_turn (s : State) (cl : Nat) (f : Cluster → Cluster) : (s.upCluster cl f).turn = s.turn := rfl
@[simp] theorem State.upCluster_seq (s : State) (cl : Nat) (f : Cluster → Cluster) : (s.upCluster cl f).seq = s.seq := rfl
@[simp] theorem State.upCluster_stamp (s : State) (cl : Nat) (f : Cluster → Cluster) : (s.upCluster cl f).stamp = s.stamp := rfl
@[simp] theorem State.upCluster_free (s : State) (cl : Nat) (f : Cluster → Cluster) : (s.upCluster cl f).free = s.free := rfl
@[simp] theorem State.upCluster_cur (s : State) (cl : Nat) (f : Cluster → Cluster) : (s.upCluster cl f).cur = s.cur := rfl
@[simp] theorem State.upCluster_ids (s : State) (cl : Nat) (f : Cluster → Cluster) : (s.upCluster cl f).ids = s.ids := rfl
@[simp] theorem State.upCluster_pkg (s : State) (cl : Nat) (f : Cluster → Cluster) : (s.upCluster cl f).pkg = s.pkg := rfl
@[simp] theorem State.setMu_cores (s : State) (m : Nat) (k : Mu) : (s.setMu m k).cores = s.cores := rfl
@[simp] theorem State.setMu_clusters (s : State) (m : Nat) (k : Mu) : (s.setMu m k).clusters = s.clusters := rfl
@[simp] theorem State.setMu_dies (s : State) (m : Nat) (k : Mu) : (s.setMu m k).dies = s.dies := rfl
@[simp] theorem State.setMu_slices (s : State) (m : Nat) (k : Mu) : (s.setMu m k).slices = s.slices := rfl
@[simp] theorem State.setMu_ports (s : State) (m : Nat) (k : Mu) : (s.setMu m k).ports = s.ports := rfl
@[simp] theorem State.setMu_queues (s : State) (m : Nat) (k : Mu) : (s.setMu m k).queues = s.queues := rfl
@[simp] theorem State.setMu_jobs (s : State) (m : Nat) (k : Mu) : (s.setMu m k).jobs = s.jobs := rfl
@[simp] theorem State.setMu_hub (s : State) (m : Nat) (k : Mu) : (s.setMu m k).hub = s.hub := rfl
@[simp] theorem State.setMu_mem (s : State) (m : Nat) (k : Mu) : (s.setMu m k).mem = s.mem := rfl
@[simp] theorem State.setMu_under (s : State) (m : Nat) (k : Mu) : (s.setMu m k).under = s.under := rfl
@[simp] theorem State.setMu_dirtyBy (s : State) (m : Nat) (k : Mu) : (s.setMu m k).dirtyBy = s.dirtyBy := rfl
@[simp] theorem State.setMu_poison (s : State) (m : Nat) (k : Mu) : (s.setMu m k).poison = s.poison := rfl
@[simp] theorem State.setMu_damage (s : State) (m : Nat) (k : Mu) : (s.setMu m k).damage = s.damage := rfl
@[simp] theorem State.setMu_heldWrites (s : State) (m : Nat) (k : Mu) : (s.setMu m k).heldWrites = s.heldWrites := rfl
@[simp] theorem State.setMu_agenda (s : State) (m : Nat) (k : Mu) : (s.setMu m k).agenda = s.agenda := rfl
@[simp] theorem State.setMu_turn (s : State) (m : Nat) (k : Mu) : (s.setMu m k).turn = s.turn := rfl
@[simp] theorem State.setMu_seq (s : State) (m : Nat) (k : Mu) : (s.setMu m k).seq = s.seq := rfl
@[simp] theorem State.setMu_stamp (s : State) (m : Nat) (k : Mu) : (s.setMu m k).stamp = s.stamp := rfl
@[simp] theorem State.setMu_free (s : State) (m : Nat) (k : Mu) : (s.setMu m k).free = s.free := rfl
@[simp] theorem State.setMu_cur (s : State) (m : Nat) (k : Mu) : (s.setMu m k).cur = s.cur := rfl
@[simp] theorem State.setMu_ids (s : State) (m : Nat) (k : Mu) : (s.setMu m k).ids = s.ids := rfl
@[simp] theorem State.setMu_pkg (s : State) (m : Nat) (k : Mu) : (s.setMu m k).pkg = s.pkg := rfl
@[simp] theorem State.upMu_cores (s : State) (m : Nat) (f : Mu → Mu) : (s.upMu m f).cores = s.cores := rfl
@[simp] theorem State.upMu_clusters (s : State) (m : Nat) (f : Mu → Mu) : (s.upMu m f).clusters = s.clusters := rfl
@[simp] theorem State.upMu_dies (s : State) (m : Nat) (f : Mu → Mu) : (s.upMu m f).dies = s.dies := rfl
@[simp] theorem State.upMu_slices (s : State) (m : Nat) (f : Mu → Mu) : (s.upMu m f).slices = s.slices := rfl
@[simp] theorem State.upMu_ports (s : State) (m : Nat) (f : Mu → Mu) : (s.upMu m f).ports = s.ports := rfl
@[simp] theorem State.upMu_queues (s : State) (m : Nat) (f : Mu → Mu) : (s.upMu m f).queues = s.queues := rfl
@[simp] theorem State.upMu_jobs (s : State) (m : Nat) (f : Mu → Mu) : (s.upMu m f).jobs = s.jobs := rfl
@[simp] theorem State.upMu_hub (s : State) (m : Nat) (f : Mu → Mu) : (s.upMu m f).hub = s.hub := rfl
@[simp] theorem State.upMu_mem (s : State) (m : Nat) (f : Mu → Mu) : (s.upMu m f).mem = s.mem := rfl
@[simp] theorem State.upMu_under (s : State) (m : Nat) (f : Mu → Mu) : (s.upMu m f).under = s.under := rfl
@[simp] theorem State.upMu_dirtyBy (s : State) (m : Nat) (f : Mu → Mu) : (s.upMu m f).dirtyBy = s.dirtyBy := rfl
@[simp] theorem State.upMu_poison (s : State) (m : Nat) (f : Mu → Mu) : (s.upMu m f).poison = s.poison := rfl
@[simp] theorem State.upMu_damage (s : State) (m : Nat) (f : Mu → Mu) : (s.upMu m f).damage = s.damage := rfl
@[simp] theorem State.upMu_heldWrites (s : State) (m : Nat) (f : Mu → Mu) : (s.upMu m f).heldWrites = s.heldWrites := rfl
@[simp] theorem State.upMu_agenda (s : State) (m : Nat) (f : Mu → Mu) : (s.upMu m f).agenda = s.agenda := rfl
@[simp] theorem State.upMu_turn (s : State) (m : Nat) (f : Mu → Mu) : (s.upMu m f).turn = s.turn := rfl
@[simp] theorem State.upMu_seq (s : State) (m : Nat) (f : Mu → Mu) : (s.upMu m f).seq = s.seq := rfl
@[simp] theorem State.upMu_stamp (s : State) (m : Nat) (f : Mu → Mu) : (s.upMu m f).stamp = s.stamp := rfl
@[simp] theorem State.upMu_free (s : State) (m : Nat) (f : Mu → Mu) : (s.upMu m f).free = s.free := rfl
@[simp] theorem State.upMu_cur (s : State) (m : Nat) (f : Mu → Mu) : (s.upMu m f).cur = s.cur := rfl
@[simp] theorem State.upMu_ids (s : State) (m : Nat) (f : Mu → Mu) : (s.upMu m f).ids = s.ids := rfl
@[simp] theorem State.upMu_pkg (s : State) (m : Nat) (f : Mu → Mu) : (s.upMu m f).pkg = s.pkg := rfl
@[simp] theorem State.setDie_cores (s : State) (d : Nat) (k : Die) : (s.setDie d k).cores = s.cores := rfl
@[simp] theorem State.setDie_clusters (s : State) (d : Nat) (k : Die) : (s.setDie d k).clusters = s.clusters := rfl
@[simp] theorem State.setDie_mus (s : State) (d : Nat) (k : Die) : (s.setDie d k).mus = s.mus := rfl
@[simp] theorem State.setDie_slices (s : State) (d : Nat) (k : Die) : (s.setDie d k).slices = s.slices := rfl
@[simp] theorem State.setDie_ports (s : State) (d : Nat) (k : Die) : (s.setDie d k).ports = s.ports := rfl
@[simp] theorem State.setDie_queues (s : State) (d : Nat) (k : Die) : (s.setDie d k).queues = s.queues := rfl
@[simp] theorem State.setDie_jobs (s : State) (d : Nat) (k : Die) : (s.setDie d k).jobs = s.jobs := rfl
@[simp] theorem State.setDie_hub (s : State) (d : Nat) (k : Die) : (s.setDie d k).hub = s.hub := rfl
@[simp] theorem State.setDie_mem (s : State) (d : Nat) (k : Die) : (s.setDie d k).mem = s.mem := rfl
@[simp] theorem State.setDie_under (s : State) (d : Nat) (k : Die) : (s.setDie d k).under = s.under := rfl
@[simp] theorem State.setDie_dirtyBy (s : State) (d : Nat) (k : Die) : (s.setDie d k).dirtyBy = s.dirtyBy := rfl
@[simp] theorem State.setDie_poison (s : State) (d : Nat) (k : Die) : (s.setDie d k).poison = s.poison := rfl
@[simp] theorem State.setDie_damage (s : State) (d : Nat) (k : Die) : (s.setDie d k).damage = s.damage := rfl
@[simp] theorem State.setDie_heldWrites (s : State) (d : Nat) (k : Die) : (s.setDie d k).heldWrites = s.heldWrites := rfl
@[simp] theorem State.setDie_agenda (s : State) (d : Nat) (k : Die) : (s.setDie d k).agenda = s.agenda := rfl
@[simp] theorem State.setDie_turn (s : State) (d : Nat) (k : Die) : (s.setDie d k).turn = s.turn := rfl
@[simp] theorem State.setDie_seq (s : State) (d : Nat) (k : Die) : (s.setDie d k).seq = s.seq := rfl
@[simp] theorem State.setDie_stamp (s : State) (d : Nat) (k : Die) : (s.setDie d k).stamp = s.stamp := rfl
@[simp] theorem State.setDie_free (s : State) (d : Nat) (k : Die) : (s.setDie d k).free = s.free := rfl
@[simp] theorem State.setDie_cur (s : State) (d : Nat) (k : Die) : (s.setDie d k).cur = s.cur := rfl
@[simp] theorem State.setDie_ids (s : State) (d : Nat) (k : Die) : (s.setDie d k).ids = s.ids := rfl
@[simp] theorem State.setDie_pkg (s : State) (d : Nat) (k : Die) : (s.setDie d k).pkg = s.pkg := rfl
@[simp] theorem State.upDie_cores (s : State) (d : Nat) (f : Die → Die) : (s.upDie d f).cores = s.cores := rfl
@[simp] theorem State.upDie_clusters (s : State) (d : Nat) (f : Die → Die) : (s.upDie d f).clusters = s.clusters := rfl
@[simp] theorem State.upDie_mus (s : State) (d : Nat) (f : Die → Die) : (s.upDie d f).mus = s.mus := rfl
@[simp] theorem State.upDie_slices (s : State) (d : Nat) (f : Die → Die) : (s.upDie d f).slices = s.slices := rfl
@[simp] theorem State.upDie_ports (s : State) (d : Nat) (f : Die → Die) : (s.upDie d f).ports = s.ports := rfl
@[simp] theorem State.upDie_queues (s : State) (d : Nat) (f : Die → Die) : (s.upDie d f).queues = s.queues := rfl
@[simp] theorem State.upDie_jobs (s : State) (d : Nat) (f : Die → Die) : (s.upDie d f).jobs = s.jobs := rfl
@[simp] theorem State.upDie_hub (s : State) (d : Nat) (f : Die → Die) : (s.upDie d f).hub = s.hub := rfl
@[simp] theorem State.upDie_mem (s : State) (d : Nat) (f : Die → Die) : (s.upDie d f).mem = s.mem := rfl
@[simp] theorem State.upDie_under (s : State) (d : Nat) (f : Die → Die) : (s.upDie d f).under = s.under := rfl
@[simp] theorem State.upDie_dirtyBy (s : State) (d : Nat) (f : Die → Die) : (s.upDie d f).dirtyBy = s.dirtyBy := rfl
@[simp] theorem State.upDie_poison (s : State) (d : Nat) (f : Die → Die) : (s.upDie d f).poison = s.poison := rfl
@[simp] theorem State.upDie_damage (s : State) (d : Nat) (f : Die → Die) : (s.upDie d f).damage = s.damage := rfl
@[simp] theorem State.upDie_heldWrites (s : State) (d : Nat) (f : Die → Die) : (s.upDie d f).heldWrites = s.heldWrites := rfl
@[simp] theorem State.upDie_agenda (s : State) (d : Nat) (f : Die → Die) : (s.upDie d f).agenda = s.agenda := rfl
@[simp] theorem State.upDie_turn (s : State) (d : Nat) (f : Die → Die) : (s.upDie d f).turn = s.turn := rfl
@[simp] theorem State.upDie_seq (s : State) (d : Nat) (f : Die → Die) : (s.upDie d f).seq = s.seq := rfl
@[simp] theorem State.upDie_stamp (s : State) (d : Nat) (f : Die → Die) : (s.upDie d f).stamp = s.stamp := rfl
@[simp] theorem State.upDie_free (s : State) (d : Nat) (f : Die → Die) : (s.upDie d f).free = s.free := rfl
@[simp] theorem State.upDie_cur (s : State) (d : Nat) (f : Die → Die) : (s.upDie d f).cur = s.cur := rfl
@[simp] theorem State.upDie_ids (s : State) (d : Nat) (f : Die → Die) : (s.upDie d f).ids = s.ids := rfl
@[simp] theorem State.upDie_pkg (s : State) (d : Nat) (f : Die → Die) : (s.upDie d f).pkg = s.pkg := rfl
@[simp] theorem State.setSlice_cores (s : State) (sl : Nat) (k : Slice) : (s.setSlice sl k).cores = s.cores := rfl
@[simp] theorem State.setSlice_clusters (s : State) (sl : Nat) (k : Slice) : (s.setSlice sl k).clusters = s.clusters := rfl
@[simp] theorem State.setSlice_mus (s : State) (sl : Nat) (k : Slice) : (s.setSlice sl k).mus = s.mus := rfl
@[simp] theorem State.setSlice_dies (s : State) (sl : Nat) (k : Slice) : (s.setSlice sl k).dies = s.dies := rfl
@[simp] theorem State.setSlice_ports (s : State) (sl : Nat) (k : Slice) : (s.setSlice sl k).ports = s.ports := rfl
@[simp] theorem State.setSlice_queues (s : State) (sl : Nat) (k : Slice) : (s.setSlice sl k).queues = s.queues := rfl
@[simp] theorem State.setSlice_jobs (s : State) (sl : Nat) (k : Slice) : (s.setSlice sl k).jobs = s.jobs := rfl
@[simp] theorem State.setSlice_hub (s : State) (sl : Nat) (k : Slice) : (s.setSlice sl k).hub = s.hub := rfl
@[simp] theorem State.setSlice_mem (s : State) (sl : Nat) (k : Slice) : (s.setSlice sl k).mem = s.mem := rfl
@[simp] theorem State.setSlice_under (s : State) (sl : Nat) (k : Slice) : (s.setSlice sl k).under = s.under := rfl
@[simp] theorem State.setSlice_dirtyBy (s : State) (sl : Nat) (k : Slice) : (s.setSlice sl k).dirtyBy = s.dirtyBy := rfl
@[simp] theorem State.setSlice_poison (s : State) (sl : Nat) (k : Slice) : (s.setSlice sl k).poison = s.poison := rfl
@[simp] theorem State.setSlice_damage (s : State) (sl : Nat) (k : Slice) : (s.setSlice sl k).damage = s.damage := rfl
@[simp] theorem State.setSlice_heldWrites (s : State) (sl : Nat) (k : Slice) : (s.setSlice sl k).heldWrites = s.heldWrites := rfl
@[simp] theorem State.setSlice_agenda (s : State) (sl : Nat) (k : Slice) : (s.setSlice sl k).agenda = s.agenda := rfl
@[simp] theorem State.setSlice_turn (s : State) (sl : Nat) (k : Slice) : (s.setSlice sl k).turn = s.turn := rfl
@[simp] theorem State.setSlice_seq (s : State) (sl : Nat) (k : Slice) : (s.setSlice sl k).seq = s.seq := rfl
@[simp] theorem State.setSlice_stamp (s : State) (sl : Nat) (k : Slice) : (s.setSlice sl k).stamp = s.stamp := rfl
@[simp] theorem State.setSlice_free (s : State) (sl : Nat) (k : Slice) : (s.setSlice sl k).free = s.free := rfl
@[simp] theorem State.setSlice_cur (s : State) (sl : Nat) (k : Slice) : (s.setSlice sl k).cur = s.cur := rfl
@[simp] theorem State.setSlice_ids (s : State) (sl : Nat) (k : Slice) : (s.setSlice sl k).ids = s.ids := rfl
@[simp] theorem State.setSlice_pkg (s : State) (sl : Nat) (k : Slice) : (s.setSlice sl k).pkg = s.pkg := rfl
@[simp] theorem State.upSlice_cores (s : State) (sl : Nat) (f : Slice → Slice) : (s.upSlice sl f).cores = s.cores := rfl
@[simp] theorem State.upSlice_clusters (s : State) (sl : Nat) (f : Slice → Slice) : (s.upSlice sl f).clusters = s.clusters := rfl
@[simp] theorem State.upSlice_mus (s : State) (sl : Nat) (f : Slice → Slice) : (s.upSlice sl f).mus = s.mus := rfl
@[simp] theorem State.upSlice_dies (s : State) (sl : Nat) (f : Slice → Slice) : (s.upSlice sl f).dies = s.dies := rfl
@[simp] theorem State.upSlice_ports (s : State) (sl : Nat) (f : Slice → Slice) : (s.upSlice sl f).ports = s.ports := rfl
@[simp] theorem State.upSlice_queues (s : State) (sl : Nat) (f : Slice → Slice) : (s.upSlice sl f).queues = s.queues := rfl
@[simp] theorem State.upSlice_jobs (s : State) (sl : Nat) (f : Slice → Slice) : (s.upSlice sl f).jobs = s.jobs := rfl
@[simp] theorem State.upSlice_hub (s : State) (sl : Nat) (f : Slice → Slice) : (s.upSlice sl f).hub = s.hub := rfl
@[simp] theorem State.upSlice_mem (s : State) (sl : Nat) (f : Slice → Slice) : (s.upSlice sl f).mem = s.mem := rfl
@[simp] theorem State.upSlice_under (s : State) (sl : Nat) (f : Slice → Slice) : (s.upSlice sl f).under = s.under := rfl
@[simp] theorem State.upSlice_dirtyBy (s : State) (sl : Nat) (f : Slice → Slice) : (s.upSlice sl f).dirtyBy = s.dirtyBy := rfl
@[simp] theorem State.upSlice_poison (s : State) (sl : Nat) (f : Slice → Slice) : (s.upSlice sl f).poison = s.poison := rfl
@[simp] theorem State.upSlice_damage (s : State) (sl : Nat) (f : Slice → Slice) : (s.upSlice sl f).damage = s.damage := rfl
@[simp] theorem State.upSlice_heldWrites (s : State) (sl : Nat) (f : Slice → Slice) : (s.upSlice sl f).heldWrites = s.heldWrites := rfl
@[simp] theorem State.upSlice_agenda (s : State) (sl : Nat) (f : Slice → Slice) : (s.upSlice sl f).agenda = s.agenda := rfl
@[simp] theorem State.upSlice_turn (s : State) (sl : Nat) (f : Slice → Slice) : (s.upSlice sl f).turn = s.turn := rfl
@[simp] theorem State.upSlice_seq (s : State) (sl : Nat) (f : Slice → Slice) : (s.upSlice sl f).seq = s.seq := rfl
@[simp] theorem State.upSlice_stamp (s : State) (sl : Nat) (f : Slice → Slice) : (s.upSlice sl f).stamp = s.stamp := rfl
@[simp] theorem State.upSlice_free (s : State) (sl : Nat) (f : Slice → Slice) : (s.upSlice sl f).free = s.free := rfl
@[simp] theorem State.upSlice_cur (s : State) (sl : Nat) (f : Slice → Slice) : (s.upSlice sl f).cur = s.cur := rfl
@[simp] theorem State.upSlice_ids (s : State) (sl : Nat) (f : Slice → Slice) : (s.upSlice sl f).ids = s.ids := rfl
@[simp] theorem State.upSlice_pkg (s : State) (sl : Nat) (f : Slice → Slice) : (s.upSlice sl f).pkg = s.pkg := rfl
@[simp] theorem State.setPort_cores (s : State) (p : Nat) (k : Port) : (s.setPort p k).cores = s.cores := rfl
@[simp] theorem State.setPort_clusters (s : State) (p : Nat) (k : Port) : (s.setPort p k).clusters = s.clusters := rfl
@[simp] theorem State.setPort_mus (s : State) (p : Nat) (k : Port) : (s.setPort p k).mus = s.mus := rfl
@[simp] theorem State.setPort_dies (s : State) (p : Nat) (k : Port) : (s.setPort p k).dies = s.dies := rfl
@[simp] theorem State.setPort_slices (s : State) (p : Nat) (k : Port) : (s.setPort p k).slices = s.slices := rfl
@[simp] theorem State.setPort_queues (s : State) (p : Nat) (k : Port) : (s.setPort p k).queues = s.queues := rfl
@[simp] theorem State.setPort_jobs (s : State) (p : Nat) (k : Port) : (s.setPort p k).jobs = s.jobs := rfl
@[simp] theorem State.setPort_hub (s : State) (p : Nat) (k : Port) : (s.setPort p k).hub = s.hub := rfl
@[simp] theorem State.setPort_mem (s : State) (p : Nat) (k : Port) : (s.setPort p k).mem = s.mem := rfl
@[simp] theorem State.setPort_under (s : State) (p : Nat) (k : Port) : (s.setPort p k).under = s.under := rfl
@[simp] theorem State.setPort_dirtyBy (s : State) (p : Nat) (k : Port) : (s.setPort p k).dirtyBy = s.dirtyBy := rfl
@[simp] theorem State.setPort_poison (s : State) (p : Nat) (k : Port) : (s.setPort p k).poison = s.poison := rfl
@[simp] theorem State.setPort_damage (s : State) (p : Nat) (k : Port) : (s.setPort p k).damage = s.damage := rfl
@[simp] theorem State.setPort_heldWrites (s : State) (p : Nat) (k : Port) : (s.setPort p k).heldWrites = s.heldWrites := rfl
@[simp] theorem State.setPort_agenda (s : State) (p : Nat) (k : Port) : (s.setPort p k).agenda = s.agenda := rfl
@[simp] theorem State.setPort_turn (s : State) (p : Nat) (k : Port) : (s.setPort p k).turn = s.turn := rfl
@[simp] theorem State.setPort_seq (s : State) (p : Nat) (k : Port) : (s.setPort p k).seq = s.seq := rfl
@[simp] theorem State.setPort_stamp (s : State) (p : Nat) (k : Port) : (s.setPort p k).stamp = s.stamp := rfl
@[simp] theorem State.setPort_free (s : State) (p : Nat) (k : Port) : (s.setPort p k).free = s.free := rfl
@[simp] theorem State.setPort_cur (s : State) (p : Nat) (k : Port) : (s.setPort p k).cur = s.cur := rfl
@[simp] theorem State.setPort_ids (s : State) (p : Nat) (k : Port) : (s.setPort p k).ids = s.ids := rfl
@[simp] theorem State.setPort_pkg (s : State) (p : Nat) (k : Port) : (s.setPort p k).pkg = s.pkg := rfl
@[simp] theorem State.upPort_cores (s : State) (p : Nat) (f : Port → Port) : (s.upPort p f).cores = s.cores := rfl
@[simp] theorem State.upPort_clusters (s : State) (p : Nat) (f : Port → Port) : (s.upPort p f).clusters = s.clusters := rfl
@[simp] theorem State.upPort_mus (s : State) (p : Nat) (f : Port → Port) : (s.upPort p f).mus = s.mus := rfl
@[simp] theorem State.upPort_dies (s : State) (p : Nat) (f : Port → Port) : (s.upPort p f).dies = s.dies := rfl
@[simp] theorem State.upPort_slices (s : State) (p : Nat) (f : Port → Port) : (s.upPort p f).slices = s.slices := rfl
@[simp] theorem State.upPort_queues (s : State) (p : Nat) (f : Port → Port) : (s.upPort p f).queues = s.queues := rfl
@[simp] theorem State.upPort_jobs (s : State) (p : Nat) (f : Port → Port) : (s.upPort p f).jobs = s.jobs := rfl
@[simp] theorem State.upPort_hub (s : State) (p : Nat) (f : Port → Port) : (s.upPort p f).hub = s.hub := rfl
@[simp] theorem State.upPort_mem (s : State) (p : Nat) (f : Port → Port) : (s.upPort p f).mem = s.mem := rfl
@[simp] theorem State.upPort_under (s : State) (p : Nat) (f : Port → Port) : (s.upPort p f).under = s.under := rfl
@[simp] theorem State.upPort_dirtyBy (s : State) (p : Nat) (f : Port → Port) : (s.upPort p f).dirtyBy = s.dirtyBy := rfl
@[simp] theorem State.upPort_poison (s : State) (p : Nat) (f : Port → Port) : (s.upPort p f).poison = s.poison := rfl
@[simp] theorem State.upPort_damage (s : State) (p : Nat) (f : Port → Port) : (s.upPort p f).damage = s.damage := rfl
@[simp] theorem State.upPort_heldWrites (s : State) (p : Nat) (f : Port → Port) : (s.upPort p f).heldWrites = s.heldWrites := rfl
@[simp] theorem State.upPort_agenda (s : State) (p : Nat) (f : Port → Port) : (s.upPort p f).agenda = s.agenda := rfl
@[simp] theorem State.upPort_turn (s : State) (p : Nat) (f : Port → Port) : (s.upPort p f).turn = s.turn := rfl
@[simp] theorem State.upPort_seq (s : State) (p : Nat) (f : Port → Port) : (s.upPort p f).seq = s.seq := rfl
@[simp] theorem State.upPort_stamp (s : State) (p : Nat) (f : Port → Port) : (s.upPort p f).stamp = s.stamp := rfl
@[simp] theorem State.upPort_free (s : State) (p : Nat) (f : Port → Port) : (s.upPort p f).free = s.free := rfl
@[simp] theorem State.upPort_cur (s : State) (p : Nat) (f : Port → Port) : (s.upPort p f).cur = s.cur := rfl
@[simp] theorem State.upPort_ids (s : State) (p : Nat) (f : Port → Port) : (s.upPort p f).ids = s.ids := rfl
@[simp] theorem State.upPort_pkg (s : State) (p : Nat) (f : Port → Port) : (s.upPort p f).pkg = s.pkg := rfl
@[simp] theorem State.setQueue_cores (s : State) (q : Nat) (k : Queue) : (s.setQueue q k).cores = s.cores := rfl
@[simp] theorem State.setQueue_clusters (s : State) (q : Nat) (k : Queue) : (s.setQueue q k).clusters = s.clusters := rfl
@[simp] theorem State.setQueue_mus (s : State) (q : Nat) (k : Queue) : (s.setQueue q k).mus = s.mus := rfl
@[simp] theorem State.setQueue_dies (s : State) (q : Nat) (k : Queue) : (s.setQueue q k).dies = s.dies := rfl
@[simp] theorem State.setQueue_slices (s : State) (q : Nat) (k : Queue) : (s.setQueue q k).slices = s.slices := rfl
@[simp] theorem State.setQueue_ports (s : State) (q : Nat) (k : Queue) : (s.setQueue q k).ports = s.ports := rfl
@[simp] theorem State.setQueue_jobs (s : State) (q : Nat) (k : Queue) : (s.setQueue q k).jobs = s.jobs := rfl
@[simp] theorem State.setQueue_hub (s : State) (q : Nat) (k : Queue) : (s.setQueue q k).hub = s.hub := rfl
@[simp] theorem State.setQueue_mem (s : State) (q : Nat) (k : Queue) : (s.setQueue q k).mem = s.mem := rfl
@[simp] theorem State.setQueue_under (s : State) (q : Nat) (k : Queue) : (s.setQueue q k).under = s.under := rfl
@[simp] theorem State.setQueue_dirtyBy (s : State) (q : Nat) (k : Queue) : (s.setQueue q k).dirtyBy = s.dirtyBy := rfl
@[simp] theorem State.setQueue_poison (s : State) (q : Nat) (k : Queue) : (s.setQueue q k).poison = s.poison := rfl
@[simp] theorem State.setQueue_damage (s : State) (q : Nat) (k : Queue) : (s.setQueue q k).damage = s.damage := rfl
@[simp] theorem State.setQueue_heldWrites (s : State) (q : Nat) (k : Queue) : (s.setQueue q k).heldWrites = s.heldWrites := rfl
@[simp] theorem State.setQueue_agenda (s : State) (q : Nat) (k : Queue) : (s.setQueue q k).agenda = s.agenda := rfl
@[simp] theorem State.setQueue_turn (s : State) (q : Nat) (k : Queue) : (s.setQueue q k).turn = s.turn := rfl
@[simp] theorem State.setQueue_seq (s : State) (q : Nat) (k : Queue) : (s.setQueue q k).seq = s.seq := rfl
@[simp] theorem State.setQueue_stamp (s : State) (q : Nat) (k : Queue) : (s.setQueue q k).stamp = s.stamp := rfl
@[simp] theorem State.setQueue_free (s : State) (q : Nat) (k : Queue) : (s.setQueue q k).free = s.free := rfl
@[simp] theorem State.setQueue_cur (s : State) (q : Nat) (k : Queue) : (s.setQueue q k).cur = s.cur := rfl
@[simp] theorem State.setQueue_ids (s : State) (q : Nat) (k : Queue) : (s.setQueue q k).ids = s.ids := rfl
@[simp] theorem State.setQueue_pkg (s : State) (q : Nat) (k : Queue) : (s.setQueue q k).pkg = s.pkg := rfl
@[simp] theorem State.upQueue_cores (s : State) (q : Nat) (f : Queue → Queue) : (s.upQueue q f).cores = s.cores := rfl
@[simp] theorem State.upQueue_clusters (s : State) (q : Nat) (f : Queue → Queue) : (s.upQueue q f).clusters = s.clusters := rfl
@[simp] theorem State.upQueue_mus (s : State) (q : Nat) (f : Queue → Queue) : (s.upQueue q f).mus = s.mus := rfl
@[simp] theorem State.upQueue_dies (s : State) (q : Nat) (f : Queue → Queue) : (s.upQueue q f).dies = s.dies := rfl
@[simp] theorem State.upQueue_slices (s : State) (q : Nat) (f : Queue → Queue) : (s.upQueue q f).slices = s.slices := rfl
@[simp] theorem State.upQueue_ports (s : State) (q : Nat) (f : Queue → Queue) : (s.upQueue q f).ports = s.ports := rfl
@[simp] theorem State.upQueue_jobs (s : State) (q : Nat) (f : Queue → Queue) : (s.upQueue q f).jobs = s.jobs := rfl
@[simp] theorem State.upQueue_hub (s : State) (q : Nat) (f : Queue → Queue) : (s.upQueue q f).hub = s.hub := rfl
@[simp] theorem State.upQueue_mem (s : State) (q : Nat) (f : Queue → Queue) : (s.upQueue q f).mem = s.mem := rfl
@[simp] theorem State.upQueue_under (s : State) (q : Nat) (f : Queue → Queue) : (s.upQueue q f).under = s.under := rfl
@[simp] theorem State.upQueue_dirtyBy (s : State) (q : Nat) (f : Queue → Queue) : (s.upQueue q f).dirtyBy = s.dirtyBy := rfl
@[simp] theorem State.upQueue_poison (s : State) (q : Nat) (f : Queue → Queue) : (s.upQueue q f).poison = s.poison := rfl
@[simp] theorem State.upQueue_damage (s : State) (q : Nat) (f : Queue → Queue) : (s.upQueue q f).damage = s.damage := rfl
@[simp] theorem State.upQueue_heldWrites (s : State) (q : Nat) (f : Queue → Queue) : (s.upQueue q f).heldWrites = s.heldWrites := rfl
@[simp] theorem State.upQueue_agenda (s : State) (q : Nat) (f : Queue → Queue) : (s.upQueue q f).agenda = s.agenda := rfl
@[simp] theorem State.upQueue_turn (s : State) (q : Nat) (f : Queue → Queue) : (s.upQueue q f).turn = s.turn := rfl
@[simp] theorem State.upQueue_seq (s : State) (q : Nat) (f : Queue → Queue) : (s.upQueue q f).seq = s.seq := rfl
@[simp] theorem State.upQueue_stamp (s : State) (q : Nat) (f : Queue → Queue) : (s.upQueue q f).stamp = s.stamp := rfl
@[simp] theorem State.upQueue_free (s : State) (q : Nat) (f : Queue → Queue) : (s.upQueue q f).free = s.free := rfl
@[simp] theorem State.upQueue_cur (s : State) (q : Nat) (f : Queue → Queue) : (s.upQueue q f).cur = s.cur := rfl
@[simp] theorem State.upQueue_ids (s : State) (q : Nat) (f : Queue → Queue) : (s.upQueue q f).ids = s.ids := rfl
@[simp] theorem State.upQueue_pkg (s : State) (q : Nat) (f : Queue → Queue) : (s.upQueue q f).pkg = s.pkg := rfl
@[simp] theorem State.setHub_cores (s : State) (k : Hub) : (s.setHub k).cores = s.cores := rfl
@[simp] theorem State.setHub_clusters (s : State) (k : Hub) : (s.setHub k).clusters = s.clusters := rfl
@[simp] theorem State.setHub_mus (s : State) (k : Hub) : (s.setHub k).mus = s.mus := rfl
@[simp] theorem State.setHub_dies (s : State) (k : Hub) : (s.setHub k).dies = s.dies := rfl
@[simp] theorem State.setHub_slices (s : State) (k : Hub) : (s.setHub k).slices = s.slices := rfl
@[simp] theorem State.setHub_ports (s : State) (k : Hub) : (s.setHub k).ports = s.ports := rfl
@[simp] theorem State.setHub_queues (s : State) (k : Hub) : (s.setHub k).queues = s.queues := rfl
@[simp] theorem State.setHub_jobs (s : State) (k : Hub) : (s.setHub k).jobs = s.jobs := rfl
@[simp] theorem State.setHub_mem (s : State) (k : Hub) : (s.setHub k).mem = s.mem := rfl
@[simp] theorem State.setHub_under (s : State) (k : Hub) : (s.setHub k).under = s.under := rfl
@[simp] theorem State.setHub_dirtyBy (s : State) (k : Hub) : (s.setHub k).dirtyBy = s.dirtyBy := rfl
@[simp] theorem State.setHub_poison (s : State) (k : Hub) : (s.setHub k).poison = s.poison := rfl
@[simp] theorem State.setHub_damage (s : State) (k : Hub) : (s.setHub k).damage = s.damage := rfl
@[simp] theorem State.setHub_heldWrites (s : State) (k : Hub) : (s.setHub k).heldWrites = s.heldWrites := rfl
@[simp] theorem State.setHub_agenda (s : State) (k : Hub) : (s.setHub k).agenda = s.agenda := rfl
@[simp] theorem State.setHub_turn (s : State) (k : Hub) : (s.setHub k).turn = s.turn := rfl
@[simp] theorem State.setHub_seq (s : State) (k : Hub) : (s.setHub k).seq = s.seq := rfl
@[simp] theorem State.setHub_stamp (s : State) (k : Hub) : (s.setHub k).stamp = s.stamp := rfl
@[simp] theorem State.setHub_free (s : State) (k : Hub) : (s.setHub k).free = s.free := rfl
@[simp] theorem State.setHub_cur (s : State) (k : Hub) : (s.setHub k).cur = s.cur := rfl
@[simp] theorem State.setHub_ids (s : State) (k : Hub) : (s.setHub k).ids = s.ids := rfl
@[simp] theorem State.setHub_pkg (s : State) (k : Hub) : (s.setHub k).pkg = s.pkg := rfl
@[simp] theorem State.upHub_cores (s : State) (f : Hub → Hub) : (s.upHub f).cores = s.cores := rfl
@[simp] theorem State.upHub_clusters (s : State) (f : Hub → Hub) : (s.upHub f).clusters = s.clusters := rfl
@[simp] theorem State.upHub_mus (s : State) (f : Hub → Hub) : (s.upHub f).mus = s.mus := rfl
@[simp] theorem State.upHub_dies (s : State) (f : Hub → Hub) : (s.upHub f).dies = s.dies := rfl
@[simp] theorem State.upHub_slices (s : State) (f : Hub → Hub) : (s.upHub f).slices = s.slices := rfl
@[simp] theorem State.upHub_ports (s : State) (f : Hub → Hub) : (s.upHub f).ports = s.ports := rfl
@[simp] theorem State.upHub_queues (s : State) (f : Hub → Hub) : (s.upHub f).queues = s.queues := rfl
@[simp] theorem State.upHub_jobs (s : State) (f : Hub → Hub) : (s.upHub f).jobs = s.jobs := rfl
@[simp] theorem State.upHub_mem (s : State) (f : Hub → Hub) : (s.upHub f).mem = s.mem := rfl
@[simp] theorem State.upHub_under (s : State) (f : Hub → Hub) : (s.upHub f).under = s.under := rfl
@[simp] theorem State.upHub_dirtyBy (s : State) (f : Hub → Hub) : (s.upHub f).dirtyBy = s.dirtyBy := rfl
@[simp] theorem State.upHub_poison (s : State) (f : Hub → Hub) : (s.upHub f).poison = s.poison := rfl
@[simp] theorem State.upHub_damage (s : State) (f : Hub → Hub) : (s.upHub f).damage = s.damage := rfl
@[simp] theorem State.upHub_heldWrites (s : State) (f : Hub → Hub) : (s.upHub f).heldWrites = s.heldWrites := rfl
@[simp] theorem State.upHub_agenda (s : State) (f : Hub → Hub) : (s.upHub f).agenda = s.agenda := rfl
@[simp] theorem State.upHub_turn (s : State) (f : Hub → Hub) : (s.upHub f).turn = s.turn := rfl
@[simp] theorem State.upHub_seq (s : State) (f : Hub → Hub) : (s.upHub f).seq = s.seq := rfl
@[simp] theorem State.upHub_stamp (s : State) (f : Hub → Hub) : (s.upHub f).stamp = s.stamp := rfl
@[simp] theorem State.upHub_free (s : State) (f : Hub → Hub) : (s.upHub f).free = s.free := rfl
@[simp] theorem State.upHub_cur (s : State) (f : Hub → Hub) : (s.upHub f).cur = s.cur := rfl
@[simp] theorem State.upHub_ids (s : State) (f : Hub → Hub) : (s.upHub f).ids = s.ids := rfl
@[simp] theorem State.upHub_pkg (s : State) (f : Hub → Hub) : (s.upHub f).pkg = s.pkg := rfl
@[simp] theorem State.upMe_clusters (s : State) (f : Core → Core) : (s.upMe f).clusters = s.clusters := rfl
@[simp] theorem State.upMe_mus (s : State) (f : Core → Core) : (s.upMe f).mus = s.mus := rfl
@[simp] theorem State.upMe_dies (s : State) (f : Core → Core) : (s.upMe f).dies = s.dies := rfl
@[simp] theorem State.upMe_slices (s : State) (f : Core → Core) : (s.upMe f).slices = s.slices := rfl
@[simp] theorem State.upMe_ports (s : State) (f : Core → Core) : (s.upMe f).ports = s.ports := rfl
@[simp] theorem State.upMe_queues (s : State) (f : Core → Core) : (s.upMe f).queues = s.queues := rfl
@[simp] theorem State.upMe_jobs (s : State) (f : Core → Core) : (s.upMe f).jobs = s.jobs := rfl
@[simp] theorem State.upMe_hub (s : State) (f : Core → Core) : (s.upMe f).hub = s.hub := rfl
@[simp] theorem State.upMe_mem (s : State) (f : Core → Core) : (s.upMe f).mem = s.mem := rfl
@[simp] theorem State.upMe_under (s : State) (f : Core → Core) : (s.upMe f).under = s.under := rfl
@[simp] theorem State.upMe_dirtyBy (s : State) (f : Core → Core) : (s.upMe f).dirtyBy = s.dirtyBy := rfl
@[simp] theorem State.upMe_poison (s : State) (f : Core → Core) : (s.upMe f).poison = s.poison := rfl
@[simp] theorem State.upMe_damage (s : State) (f : Core → Core) : (s.upMe f).damage = s.damage := rfl
@[simp] theorem State.upMe_heldWrites (s : State) (f : Core → Core) : (s.upMe f).heldWrites = s.heldWrites := rfl
@[simp] theorem State.upMe_agenda (s : State) (f : Core → Core) : (s.upMe f).agenda = s.agenda := rfl
@[simp] theorem State.upMe_turn (s : State) (f : Core → Core) : (s.upMe f).turn = s.turn := rfl
@[simp] theorem State.upMe_seq (s : State) (f : Core → Core) : (s.upMe f).seq = s.seq := rfl
@[simp] theorem State.upMe_stamp (s : State) (f : Core → Core) : (s.upMe f).stamp = s.stamp := rfl
@[simp] theorem State.upMe_free (s : State) (f : Core → Core) : (s.upMe f).free = s.free := rfl
@[simp] theorem State.upMe_cur (s : State) (f : Core → Core) : (s.upMe f).cur = s.cur := rfl
@[simp] theorem State.upMe_ids (s : State) (f : Core → Core) : (s.upMe f).ids = s.ids := rfl
@[simp] theorem State.upMe_pkg (s : State) (f : Core → Core) : (s.upMe f).pkg = s.pkg := rfl
@[simp] theorem State.upLev_clusters (s : State) (f : Level → Level) : (s.upLev f).clusters = s.clusters := rfl
@[simp] theorem State.upLev_mus (s : State) (f : Level → Level) : (s.upLev f).mus = s.mus := rfl
@[simp] theorem State.upLev_dies (s : State) (f : Level → Level) : (s.upLev f).dies = s.dies := rfl
@[simp] theorem State.upLev_slices (s : State) (f : Level → Level) : (s.upLev f).slices = s.slices := rfl
@[simp] theorem State.upLev_ports (s : State) (f : Level → Level) : (s.upLev f).ports = s.ports := rfl
@[simp] theorem State.upLev_queues (s : State) (f : Level → Level) : (s.upLev f).queues = s.queues := rfl
@[simp] theorem State.upLev_jobs (s : State) (f : Level → Level) : (s.upLev f).jobs = s.jobs := rfl
@[simp] theorem State.upLev_hub (s : State) (f : Level → Level) : (s.upLev f).hub = s.hub := rfl
@[simp] theorem State.upLev_mem (s : State) (f : Level → Level) : (s.upLev f).mem = s.mem := rfl
@[simp] theorem State.upLev_under (s : State) (f : Level → Level) : (s.upLev f).under = s.under := rfl
@[simp] theorem State.upLev_dirtyBy (s : State) (f : Level → Level) : (s.upLev f).dirtyBy = s.dirtyBy := rfl
@[simp] theorem State.upLev_poison (s : State) (f : Level → Level) : (s.upLev f).poison = s.poison := rfl
@[simp] theorem State.upLev_damage (s : State) (f : Level → Level) : (s.upLev f).damage = s.damage := rfl
@[simp] theorem State.upLev_heldWrites (s : State) (f : Level → Level) : (s.upLev f).heldWrites = s.heldWrites := rfl
@[simp] theorem State.upLev_agenda (s : State) (f : Level → Level) : (s.upLev f).agenda = s.agenda := rfl
@[simp] theorem State.upLev_turn (s : State) (f : Level → Level) : (s.upLev f).turn = s.turn := rfl
@[simp] theorem State.upLev_seq (s : State) (f : Level → Level) : (s.upLev f).seq = s.seq := rfl
@[simp] theorem State.upLev_stamp (s : State) (f : Level → Level) : (s.upLev f).stamp = s.stamp := rfl
@[simp] theorem State.upLev_free (s : State) (f : Level → Level) : (s.upLev f).free = s.free := rfl
@[simp] theorem State.upLev_cur (s : State) (f : Level → Level) : (s.upLev f).cur = s.cur := rfl
@[simp] theorem State.upLev_ids (s : State) (f : Level → Level) : (s.upLev f).ids = s.ids := rfl
@[simp] theorem State.upLev_pkg (s : State) (f : Level → Level) : (s.upLev f).pkg = s.pkg := rfl
@[simp] theorem State.setX_clusters (s : State) (r : XReg) (w : Word) : (s.setX r w).clusters = s.clusters := rfl
@[simp] theorem State.setX_mus (s : State) (r : XReg) (w : Word) : (s.setX r w).mus = s.mus := rfl
@[simp] theorem State.setX_dies (s : State) (r : XReg) (w : Word) : (s.setX r w).dies = s.dies := rfl
@[simp] theorem State.setX_slices (s : State) (r : XReg) (w : Word) : (s.setX r w).slices = s.slices := rfl
@[simp] theorem State.setX_ports (s : State) (r : XReg) (w : Word) : (s.setX r w).ports = s.ports := rfl
@[simp] theorem State.setX_queues (s : State) (r : XReg) (w : Word) : (s.setX r w).queues = s.queues := rfl
@[simp] theorem State.setX_jobs (s : State) (r : XReg) (w : Word) : (s.setX r w).jobs = s.jobs := rfl
@[simp] theorem State.setX_hub (s : State) (r : XReg) (w : Word) : (s.setX r w).hub = s.hub := rfl
@[simp] theorem State.setX_mem (s : State) (r : XReg) (w : Word) : (s.setX r w).mem = s.mem := rfl
@[simp] theorem State.setX_under (s : State) (r : XReg) (w : Word) : (s.setX r w).under = s.under := rfl
@[simp] theorem State.setX_dirtyBy (s : State) (r : XReg) (w : Word) : (s.setX r w).dirtyBy = s.dirtyBy := rfl
@[simp] theorem State.setX_poison (s : State) (r : XReg) (w : Word) : (s.setX r w).poison = s.poison := rfl
@[simp] theorem State.setX_damage (s : State) (r : XReg) (w : Word) : (s.setX r w).damage = s.damage := rfl
@[simp] theorem State.setX_heldWrites (s : State) (r : XReg) (w : Word) : (s.setX r w).heldWrites = s.heldWrites := rfl
@[simp] theorem State.setX_agenda (s : State) (r : XReg) (w : Word) : (s.setX r w).agenda = s.agenda := rfl
@[simp] theorem State.setX_turn (s : State) (r : XReg) (w : Word) : (s.setX r w).turn = s.turn := rfl
@[simp] theorem State.setX_seq (s : State) (r : XReg) (w : Word) : (s.setX r w).seq = s.seq := rfl
@[simp] theorem State.setX_stamp (s : State) (r : XReg) (w : Word) : (s.setX r w).stamp = s.stamp := rfl
@[simp] theorem State.setX_free (s : State) (r : XReg) (w : Word) : (s.setX r w).free = s.free := rfl
@[simp] theorem State.setX_cur (s : State) (r : XReg) (w : Word) : (s.setX r w).cur = s.cur := rfl
@[simp] theorem State.setX_ids (s : State) (r : XReg) (w : Word) : (s.setX r w).ids = s.ids := rfl
@[simp] theorem State.setX_pkg (s : State) (r : XReg) (w : Word) : (s.setX r w).pkg = s.pkg := rfl
@[simp] theorem State.setV_clusters (s : State) (r : VReg) (w : Lanes) : (s.setV r w).clusters = s.clusters := rfl
@[simp] theorem State.setV_mus (s : State) (r : VReg) (w : Lanes) : (s.setV r w).mus = s.mus := rfl
@[simp] theorem State.setV_dies (s : State) (r : VReg) (w : Lanes) : (s.setV r w).dies = s.dies := rfl
@[simp] theorem State.setV_slices (s : State) (r : VReg) (w : Lanes) : (s.setV r w).slices = s.slices := rfl
@[simp] theorem State.setV_ports (s : State) (r : VReg) (w : Lanes) : (s.setV r w).ports = s.ports := rfl
@[simp] theorem State.setV_queues (s : State) (r : VReg) (w : Lanes) : (s.setV r w).queues = s.queues := rfl
@[simp] theorem State.setV_jobs (s : State) (r : VReg) (w : Lanes) : (s.setV r w).jobs = s.jobs := rfl
@[simp] theorem State.setV_hub (s : State) (r : VReg) (w : Lanes) : (s.setV r w).hub = s.hub := rfl
@[simp] theorem State.setV_mem (s : State) (r : VReg) (w : Lanes) : (s.setV r w).mem = s.mem := rfl
@[simp] theorem State.setV_under (s : State) (r : VReg) (w : Lanes) : (s.setV r w).under = s.under := rfl
@[simp] theorem State.setV_dirtyBy (s : State) (r : VReg) (w : Lanes) : (s.setV r w).dirtyBy = s.dirtyBy := rfl
@[simp] theorem State.setV_poison (s : State) (r : VReg) (w : Lanes) : (s.setV r w).poison = s.poison := rfl
@[simp] theorem State.setV_damage (s : State) (r : VReg) (w : Lanes) : (s.setV r w).damage = s.damage := rfl
@[simp] theorem State.setV_heldWrites (s : State) (r : VReg) (w : Lanes) : (s.setV r w).heldWrites = s.heldWrites := rfl
@[simp] theorem State.setV_agenda (s : State) (r : VReg) (w : Lanes) : (s.setV r w).agenda = s.agenda := rfl
@[simp] theorem State.setV_turn (s : State) (r : VReg) (w : Lanes) : (s.setV r w).turn = s.turn := rfl
@[simp] theorem State.setV_seq (s : State) (r : VReg) (w : Lanes) : (s.setV r w).seq = s.seq := rfl
@[simp] theorem State.setV_stamp (s : State) (r : VReg) (w : Lanes) : (s.setV r w).stamp = s.stamp := rfl
@[simp] theorem State.setV_free (s : State) (r : VReg) (w : Lanes) : (s.setV r w).free = s.free := rfl
@[simp] theorem State.setV_cur (s : State) (r : VReg) (w : Lanes) : (s.setV r w).cur = s.cur := rfl
@[simp] theorem State.setV_ids (s : State) (r : VReg) (w : Lanes) : (s.setV r w).ids = s.ids := rfl
@[simp] theorem State.setV_pkg (s : State) (r : VReg) (w : Lanes) : (s.setV r w).pkg = s.pkg := rfl
@[simp] theorem State.setK_clusters (s : State) (r : KReg) (w : BitVec 8) : (s.setK r w).clusters = s.clusters := rfl
@[simp] theorem State.setK_mus (s : State) (r : KReg) (w : BitVec 8) : (s.setK r w).mus = s.mus := rfl
@[simp] theorem State.setK_dies (s : State) (r : KReg) (w : BitVec 8) : (s.setK r w).dies = s.dies := rfl
@[simp] theorem State.setK_slices (s : State) (r : KReg) (w : BitVec 8) : (s.setK r w).slices = s.slices := rfl
@[simp] theorem State.setK_ports (s : State) (r : KReg) (w : BitVec 8) : (s.setK r w).ports = s.ports := rfl
@[simp] theorem State.setK_queues (s : State) (r : KReg) (w : BitVec 8) : (s.setK r w).queues = s.queues := rfl
@[simp] theorem State.setK_jobs (s : State) (r : KReg) (w : BitVec 8) : (s.setK r w).jobs = s.jobs := rfl
@[simp] theorem State.setK_hub (s : State) (r : KReg) (w : BitVec 8) : (s.setK r w).hub = s.hub := rfl
@[simp] theorem State.setK_mem (s : State) (r : KReg) (w : BitVec 8) : (s.setK r w).mem = s.mem := rfl
@[simp] theorem State.setK_under (s : State) (r : KReg) (w : BitVec 8) : (s.setK r w).under = s.under := rfl
@[simp] theorem State.setK_dirtyBy (s : State) (r : KReg) (w : BitVec 8) : (s.setK r w).dirtyBy = s.dirtyBy := rfl
@[simp] theorem State.setK_poison (s : State) (r : KReg) (w : BitVec 8) : (s.setK r w).poison = s.poison := rfl
@[simp] theorem State.setK_damage (s : State) (r : KReg) (w : BitVec 8) : (s.setK r w).damage = s.damage := rfl
@[simp] theorem State.setK_heldWrites (s : State) (r : KReg) (w : BitVec 8) : (s.setK r w).heldWrites = s.heldWrites := rfl
@[simp] theorem State.setK_agenda (s : State) (r : KReg) (w : BitVec 8) : (s.setK r w).agenda = s.agenda := rfl
@[simp] theorem State.setK_turn (s : State) (r : KReg) (w : BitVec 8) : (s.setK r w).turn = s.turn := rfl
@[simp] theorem State.setK_seq (s : State) (r : KReg) (w : BitVec 8) : (s.setK r w).seq = s.seq := rfl
@[simp] theorem State.setK_stamp (s : State) (r : KReg) (w : BitVec 8) : (s.setK r w).stamp = s.stamp := rfl
@[simp] theorem State.setK_free (s : State) (r : KReg) (w : BitVec 8) : (s.setK r w).free = s.free := rfl
@[simp] theorem State.setK_cur (s : State) (r : KReg) (w : BitVec 8) : (s.setK r w).cur = s.cur := rfl
@[simp] theorem State.setK_ids (s : State) (r : KReg) (w : BitVec 8) : (s.setK r w).ids = s.ids := rfl
@[simp] theorem State.setK_pkg (s : State) (r : KReg) (w : BitVec 8) : (s.setK r w).pkg = s.pkg := rfl
@[simp] theorem State.advance_clusters (s : State) (h : Head) : (s.advance h).clusters = s.clusters := rfl
@[simp] theorem State.advance_mus (s : State) (h : Head) : (s.advance h).mus = s.mus := rfl
@[simp] theorem State.advance_dies (s : State) (h : Head) : (s.advance h).dies = s.dies := rfl
@[simp] theorem State.advance_slices (s : State) (h : Head) : (s.advance h).slices = s.slices := rfl
@[simp] theorem State.advance_ports (s : State) (h : Head) : (s.advance h).ports = s.ports := rfl
@[simp] theorem State.advance_queues (s : State) (h : Head) : (s.advance h).queues = s.queues := rfl
@[simp] theorem State.advance_jobs (s : State) (h : Head) : (s.advance h).jobs = s.jobs := rfl
@[simp] theorem State.advance_hub (s : State) (h : Head) : (s.advance h).hub = s.hub := rfl
@[simp] theorem State.advance_mem (s : State) (h : Head) : (s.advance h).mem = s.mem := rfl
@[simp] theorem State.advance_under (s : State) (h : Head) : (s.advance h).under = s.under := rfl
@[simp] theorem State.advance_dirtyBy (s : State) (h : Head) : (s.advance h).dirtyBy = s.dirtyBy := rfl
@[simp] theorem State.advance_poison (s : State) (h : Head) : (s.advance h).poison = s.poison := rfl
@[simp] theorem State.advance_damage (s : State) (h : Head) : (s.advance h).damage = s.damage := rfl
@[simp] theorem State.advance_heldWrites (s : State) (h : Head) : (s.advance h).heldWrites = s.heldWrites := rfl
@[simp] theorem State.advance_agenda (s : State) (h : Head) : (s.advance h).agenda = s.agenda := rfl
@[simp] theorem State.advance_turn (s : State) (h : Head) : (s.advance h).turn = s.turn := rfl
@[simp] theorem State.advance_seq (s : State) (h : Head) : (s.advance h).seq = s.seq := rfl
@[simp] theorem State.advance_stamp (s : State) (h : Head) : (s.advance h).stamp = s.stamp := rfl
@[simp] theorem State.advance_free (s : State) (h : Head) : (s.advance h).free = s.free := rfl
@[simp] theorem State.advance_cur (s : State) (h : Head) : (s.advance h).cur = s.cur := rfl
@[simp] theorem State.advance_ids (s : State) (h : Head) : (s.advance h).ids = s.ids := rfl
@[simp] theorem State.advance_pkg (s : State) (h : Head) : (s.advance h).pkg = s.pkg := rfl
@[simp] theorem State.block_clusters (s : State) (r : WaitReason) (a : Word) : (s.block r a).clusters = s.clusters := rfl
@[simp] theorem State.block_mus (s : State) (r : WaitReason) (a : Word) : (s.block r a).mus = s.mus := rfl
@[simp] theorem State.block_dies (s : State) (r : WaitReason) (a : Word) : (s.block r a).dies = s.dies := rfl
@[simp] theorem State.block_slices (s : State) (r : WaitReason) (a : Word) : (s.block r a).slices = s.slices := rfl
@[simp] theorem State.block_ports (s : State) (r : WaitReason) (a : Word) : (s.block r a).ports = s.ports := rfl
@[simp] theorem State.block_queues (s : State) (r : WaitReason) (a : Word) : (s.block r a).queues = s.queues := rfl
@[simp] theorem State.block_jobs (s : State) (r : WaitReason) (a : Word) : (s.block r a).jobs = s.jobs := rfl
@[simp] theorem State.block_hub (s : State) (r : WaitReason) (a : Word) : (s.block r a).hub = s.hub := rfl
@[simp] theorem State.block_mem (s : State) (r : WaitReason) (a : Word) : (s.block r a).mem = s.mem := rfl
@[simp] theorem State.block_under (s : State) (r : WaitReason) (a : Word) : (s.block r a).under = s.under := rfl
@[simp] theorem State.block_dirtyBy (s : State) (r : WaitReason) (a : Word) : (s.block r a).dirtyBy = s.dirtyBy := rfl
@[simp] theorem State.block_poison (s : State) (r : WaitReason) (a : Word) : (s.block r a).poison = s.poison := rfl
@[simp] theorem State.block_damage (s : State) (r : WaitReason) (a : Word) : (s.block r a).damage = s.damage := rfl
@[simp] theorem State.block_heldWrites (s : State) (r : WaitReason) (a : Word) : (s.block r a).heldWrites = s.heldWrites := rfl
@[simp] theorem State.block_agenda (s : State) (r : WaitReason) (a : Word) : (s.block r a).agenda = s.agenda := rfl
@[simp] theorem State.block_turn (s : State) (r : WaitReason) (a : Word) : (s.block r a).turn = s.turn := rfl
@[simp] theorem State.block_seq (s : State) (r : WaitReason) (a : Word) : (s.block r a).seq = s.seq := rfl
@[simp] theorem State.block_stamp (s : State) (r : WaitReason) (a : Word) : (s.block r a).stamp = s.stamp := rfl
@[simp] theorem State.block_free (s : State) (r : WaitReason) (a : Word) : (s.block r a).free = s.free := rfl
@[simp] theorem State.block_cur (s : State) (r : WaitReason) (a : Word) : (s.block r a).cur = s.cur := rfl
@[simp] theorem State.block_ids (s : State) (r : WaitReason) (a : Word) : (s.block r a).ids = s.ids := rfl
@[simp] theorem State.block_pkg (s : State) (r : WaitReason) (a : Word) : (s.block r a).pkg = s.pkg := rfl
@[simp] theorem State.push_cores (s : State) (n : Nat) (e : Instr) : (s.push n e).cores = s.cores := rfl
@[simp] theorem State.push_clusters (s : State) (n : Nat) (e : Instr) : (s.push n e).clusters = s.clusters := rfl
@[simp] theorem State.push_mus (s : State) (n : Nat) (e : Instr) : (s.push n e).mus = s.mus := rfl
@[simp] theorem State.push_dies (s : State) (n : Nat) (e : Instr) : (s.push n e).dies = s.dies := rfl
@[simp] theorem State.push_slices (s : State) (n : Nat) (e : Instr) : (s.push n e).slices = s.slices := rfl
@[simp] theorem State.push_ports (s : State) (n : Nat) (e : Instr) : (s.push n e).ports = s.ports := rfl
@[simp] theorem State.push_queues (s : State) (n : Nat) (e : Instr) : (s.push n e).queues = s.queues := rfl
@[simp] theorem State.push_jobs (s : State) (n : Nat) (e : Instr) : (s.push n e).jobs = s.jobs := rfl
@[simp] theorem State.push_hub (s : State) (n : Nat) (e : Instr) : (s.push n e).hub = s.hub := rfl
@[simp] theorem State.push_mem (s : State) (n : Nat) (e : Instr) : (s.push n e).mem = s.mem := rfl
@[simp] theorem State.push_under (s : State) (n : Nat) (e : Instr) : (s.push n e).under = s.under := rfl
@[simp] theorem State.push_dirtyBy (s : State) (n : Nat) (e : Instr) : (s.push n e).dirtyBy = s.dirtyBy := rfl
@[simp] theorem State.push_poison (s : State) (n : Nat) (e : Instr) : (s.push n e).poison = s.poison := rfl
@[simp] theorem State.push_damage (s : State) (n : Nat) (e : Instr) : (s.push n e).damage = s.damage := rfl
@[simp] theorem State.push_heldWrites (s : State) (n : Nat) (e : Instr) : (s.push n e).heldWrites = s.heldWrites := rfl
@[simp] theorem State.push_turn (s : State) (n : Nat) (e : Instr) : (s.push n e).turn = s.turn := rfl
@[simp] theorem State.push_seq (s : State) (n : Nat) (e : Instr) : (s.push n e).seq = s.seq := rfl
@[simp] theorem State.push_stamp (s : State) (n : Nat) (e : Instr) : (s.push n e).stamp = s.stamp := rfl
@[simp] theorem State.push_free (s : State) (n : Nat) (e : Instr) : (s.push n e).free = s.free := rfl
@[simp] theorem State.push_cur (s : State) (n : Nat) (e : Instr) : (s.push n e).cur = s.cur := rfl
@[simp] theorem State.push_ids (s : State) (n : Nat) (e : Instr) : (s.push n e).ids = s.ids := rfl
@[simp] theorem State.push_pkg (s : State) (n : Nat) (e : Instr) : (s.push n e).pkg = s.pkg := rfl
@[simp] theorem State.fresh_cores (s : State) : (s.fresh).cores = s.cores := rfl
@[simp] theorem State.fresh_clusters (s : State) : (s.fresh).clusters = s.clusters := rfl
@[simp] theorem State.fresh_mus (s : State) : (s.fresh).mus = s.mus := rfl
@[simp] theorem State.fresh_dies (s : State) : (s.fresh).dies = s.dies := rfl
@[simp] theorem State.fresh_slices (s : State) : (s.fresh).slices = s.slices := rfl
@[simp] theorem State.fresh_ports (s : State) : (s.fresh).ports = s.ports := rfl
@[simp] theorem State.fresh_queues (s : State) : (s.fresh).queues = s.queues := rfl
@[simp] theorem State.fresh_jobs (s : State) : (s.fresh).jobs = s.jobs := rfl
@[simp] theorem State.fresh_hub (s : State) : (s.fresh).hub = s.hub := rfl
@[simp] theorem State.fresh_mem (s : State) : (s.fresh).mem = s.mem := rfl
@[simp] theorem State.fresh_under (s : State) : (s.fresh).under = s.under := rfl
@[simp] theorem State.fresh_dirtyBy (s : State) : (s.fresh).dirtyBy = s.dirtyBy := rfl
@[simp] theorem State.fresh_poison (s : State) : (s.fresh).poison = s.poison := rfl
@[simp] theorem State.fresh_damage (s : State) : (s.fresh).damage = s.damage := rfl
@[simp] theorem State.fresh_heldWrites (s : State) : (s.fresh).heldWrites = s.heldWrites := rfl
@[simp] theorem State.fresh_agenda (s : State) : (s.fresh).agenda = s.agenda := rfl
@[simp] theorem State.fresh_turn (s : State) : (s.fresh).turn = s.turn := rfl
@[simp] theorem State.fresh_seq (s : State) : (s.fresh).seq = s.seq := rfl
@[simp] theorem State.fresh_stamp (s : State) : (s.fresh).stamp = s.stamp := rfl
@[simp] theorem State.fresh_free (s : State) : (s.fresh).free = s.free := rfl
@[simp] theorem State.fresh_cur (s : State) : (s.fresh).cur = s.cur := rfl
@[simp] theorem State.fresh_pkg (s : State) : (s.fresh).pkg = s.pkg := rfl
@[simp] theorem State.pushFree_cores (s : State) (e : Instr) : (s.pushFree e).cores = s.cores := rfl
@[simp] theorem State.pushFree_clusters (s : State) (e : Instr) : (s.pushFree e).clusters = s.clusters := rfl
@[simp] theorem State.pushFree_mus (s : State) (e : Instr) : (s.pushFree e).mus = s.mus := rfl
@[simp] theorem State.pushFree_dies (s : State) (e : Instr) : (s.pushFree e).dies = s.dies := rfl
@[simp] theorem State.pushFree_slices (s : State) (e : Instr) : (s.pushFree e).slices = s.slices := rfl
@[simp] theorem State.pushFree_ports (s : State) (e : Instr) : (s.pushFree e).ports = s.ports := rfl
@[simp] theorem State.pushFree_queues (s : State) (e : Instr) : (s.pushFree e).queues = s.queues := rfl
@[simp] theorem State.pushFree_jobs (s : State) (e : Instr) : (s.pushFree e).jobs = s.jobs := rfl
@[simp] theorem State.pushFree_hub (s : State) (e : Instr) : (s.pushFree e).hub = s.hub := rfl
@[simp] theorem State.pushFree_mem (s : State) (e : Instr) : (s.pushFree e).mem = s.mem := rfl
@[simp] theorem State.pushFree_under (s : State) (e : Instr) : (s.pushFree e).under = s.under := rfl
@[simp] theorem State.pushFree_dirtyBy (s : State) (e : Instr) : (s.pushFree e).dirtyBy = s.dirtyBy := rfl
@[simp] theorem State.pushFree_poison (s : State) (e : Instr) : (s.pushFree e).poison = s.poison := rfl
@[simp] theorem State.pushFree_damage (s : State) (e : Instr) : (s.pushFree e).damage = s.damage := rfl
@[simp] theorem State.pushFree_heldWrites (s : State) (e : Instr) : (s.pushFree e).heldWrites = s.heldWrites := rfl
@[simp] theorem State.pushFree_turn (s : State) (e : Instr) : (s.pushFree e).turn = s.turn := rfl
@[simp] theorem State.pushFree_seq (s : State) (e : Instr) : (s.pushFree e).seq = s.seq := rfl
@[simp] theorem State.pushFree_stamp (s : State) (e : Instr) : (s.pushFree e).stamp = s.stamp := rfl
@[simp] theorem State.pushFree_free (s : State) (e : Instr) : (s.pushFree e).free = s.free := rfl
@[simp] theorem State.pushFree_cur (s : State) (e : Instr) : (s.pushFree e).cur = s.cur := rfl
@[simp] theorem State.pushFree_pkg (s : State) (e : Instr) : (s.pushFree e).pkg = s.pkg := rfl
@[simp] theorem State.take_cores (s : State) : (s.take).cores = s.cores := rfl
@[simp] theorem State.take_clusters (s : State) : (s.take).clusters = s.clusters := rfl
@[simp] theorem State.take_mus (s : State) : (s.take).mus = s.mus := rfl
@[simp] theorem State.take_dies (s : State) : (s.take).dies = s.dies := rfl
@[simp] theorem State.take_slices (s : State) : (s.take).slices = s.slices := rfl
@[simp] theorem State.take_ports (s : State) : (s.take).ports = s.ports := rfl
@[simp] theorem State.take_queues (s : State) : (s.take).queues = s.queues := rfl
@[simp] theorem State.take_jobs (s : State) : (s.take).jobs = s.jobs := rfl
@[simp] theorem State.take_hub (s : State) : (s.take).hub = s.hub := rfl
@[simp] theorem State.take_mem (s : State) : (s.take).mem = s.mem := rfl
@[simp] theorem State.take_under (s : State) : (s.take).under = s.under := rfl
@[simp] theorem State.take_dirtyBy (s : State) : (s.take).dirtyBy = s.dirtyBy := rfl
@[simp] theorem State.take_poison (s : State) : (s.take).poison = s.poison := rfl
@[simp] theorem State.take_damage (s : State) : (s.take).damage = s.damage := rfl
@[simp] theorem State.take_heldWrites (s : State) : (s.take).heldWrites = s.heldWrites := rfl
@[simp] theorem State.take_agenda (s : State) : (s.take).agenda = s.agenda := rfl
@[simp] theorem State.take_turn (s : State) : (s.take).turn = s.turn := rfl
@[simp] theorem State.take_seq (s : State) : (s.take).seq = s.seq := rfl
@[simp] theorem State.take_stamp (s : State) : (s.take).stamp = s.stamp := rfl
@[simp] theorem State.take_cur (s : State) : (s.take).cur = s.cur := rfl
@[simp] theorem State.take_ids (s : State) : (s.take).ids = s.ids := rfl
@[simp] theorem State.take_pkg (s : State) : (s.take).pkg = s.pkg := rfl
@[simp] theorem State.touch_cores (s : State) : (s.touch).cores = s.cores := rfl
@[simp] theorem State.touch_clusters (s : State) : (s.touch).clusters = s.clusters := rfl
@[simp] theorem State.touch_mus (s : State) : (s.touch).mus = s.mus := rfl
@[simp] theorem State.touch_dies (s : State) : (s.touch).dies = s.dies := rfl
@[simp] theorem State.touch_slices (s : State) : (s.touch).slices = s.slices := rfl
@[simp] theorem State.touch_ports (s : State) : (s.touch).ports = s.ports := rfl
@[simp] theorem State.touch_queues (s : State) : (s.touch).queues = s.queues := rfl
@[simp] theorem State.touch_jobs (s : State) : (s.touch).jobs = s.jobs := rfl
@[simp] theorem State.touch_hub (s : State) : (s.touch).hub = s.hub := rfl
@[simp] theorem State.touch_mem (s : State) : (s.touch).mem = s.mem := rfl
@[simp] theorem State.touch_under (s : State) : (s.touch).under = s.under := rfl
@[simp] theorem State.touch_dirtyBy (s : State) : (s.touch).dirtyBy = s.dirtyBy := rfl
@[simp] theorem State.touch_poison (s : State) : (s.touch).poison = s.poison := rfl
@[simp] theorem State.touch_damage (s : State) : (s.touch).damage = s.damage := rfl
@[simp] theorem State.touch_heldWrites (s : State) : (s.touch).heldWrites = s.heldWrites := rfl
@[simp] theorem State.touch_agenda (s : State) : (s.touch).agenda = s.agenda := rfl
@[simp] theorem State.touch_turn (s : State) : (s.touch).turn = s.turn := rfl
@[simp] theorem State.touch_seq (s : State) : (s.touch).seq = s.seq := rfl
@[simp] theorem State.touch_free (s : State) : (s.touch).free = s.free := rfl
@[simp] theorem State.touch_cur (s : State) : (s.touch).cur = s.cur := rfl
@[simp] theorem State.touch_ids (s : State) : (s.touch).ids = s.ids := rfl
@[simp] theorem State.touch_pkg (s : State) : (s.touch).pkg = s.pkg := rfl
@[simp] theorem State.upJob_cores (s : State) (n : Nat) (f : Job → Job) : (s.upJob n f).cores = s.cores := rfl
@[simp] theorem State.upJob_clusters (s : State) (n : Nat) (f : Job → Job) : (s.upJob n f).clusters = s.clusters := rfl
@[simp] theorem State.upJob_mus (s : State) (n : Nat) (f : Job → Job) : (s.upJob n f).mus = s.mus := rfl
@[simp] theorem State.upJob_dies (s : State) (n : Nat) (f : Job → Job) : (s.upJob n f).dies = s.dies := rfl
@[simp] theorem State.upJob_slices (s : State) (n : Nat) (f : Job → Job) : (s.upJob n f).slices = s.slices := rfl
@[simp] theorem State.upJob_ports (s : State) (n : Nat) (f : Job → Job) : (s.upJob n f).ports = s.ports := rfl
@[simp] theorem State.upJob_queues (s : State) (n : Nat) (f : Job → Job) : (s.upJob n f).queues = s.queues := rfl
@[simp] theorem State.upJob_hub (s : State) (n : Nat) (f : Job → Job) : (s.upJob n f).hub = s.hub := rfl
@[simp] theorem State.upJob_mem (s : State) (n : Nat) (f : Job → Job) : (s.upJob n f).mem = s.mem := rfl
@[simp] theorem State.upJob_under (s : State) (n : Nat) (f : Job → Job) : (s.upJob n f).under = s.under := rfl
@[simp] theorem State.upJob_dirtyBy (s : State) (n : Nat) (f : Job → Job) : (s.upJob n f).dirtyBy = s.dirtyBy := rfl
@[simp] theorem State.upJob_poison (s : State) (n : Nat) (f : Job → Job) : (s.upJob n f).poison = s.poison := rfl
@[simp] theorem State.upJob_damage (s : State) (n : Nat) (f : Job → Job) : (s.upJob n f).damage = s.damage := rfl
@[simp] theorem State.upJob_heldWrites (s : State) (n : Nat) (f : Job → Job) : (s.upJob n f).heldWrites = s.heldWrites := rfl
@[simp] theorem State.upJob_agenda (s : State) (n : Nat) (f : Job → Job) : (s.upJob n f).agenda = s.agenda := rfl
@[simp] theorem State.upJob_turn (s : State) (n : Nat) (f : Job → Job) : (s.upJob n f).turn = s.turn := rfl
@[simp] theorem State.upJob_seq (s : State) (n : Nat) (f : Job → Job) : (s.upJob n f).seq = s.seq := rfl
@[simp] theorem State.upJob_stamp (s : State) (n : Nat) (f : Job → Job) : (s.upJob n f).stamp = s.stamp := rfl
@[simp] theorem State.upJob_free (s : State) (n : Nat) (f : Job → Job) : (s.upJob n f).free = s.free := rfl
@[simp] theorem State.upJob_cur (s : State) (n : Nat) (f : Job → Job) : (s.upJob n f).cur = s.cur := rfl
@[simp] theorem State.upJob_ids (s : State) (n : Nat) (f : Job → Job) : (s.upJob n f).ids = s.ids := rfl
@[simp] theorem State.upJob_pkg (s : State) (n : Nat) (f : Job → Job) : (s.upJob n f).pkg = s.pkg := rfl

/-! ### Fields that an update names -/

@[simp] theorem State.setHub_hub (s : State) (k : Hub) : (s.setHub k).hub = k := rfl
@[simp] theorem State.upHub_hub (s : State) (f : Hub → Hub) : (s.upHub f).hub = f s.hub := rfl
@[simp] theorem State.push_agenda (s : State) (n : Nat) (e : Instr) : (s.push n e).agenda = s.agenda ++ [⟨n, e⟩] := rfl
@[simp] theorem State.pushFree_agenda (s : State) (e : Instr) : (s.pushFree e).agenda = s.agenda ++ [⟨2 ^ 40 + s.ids, e⟩] := rfl
@[simp] theorem State.fresh_ids (s : State) : s.fresh.ids = s.ids + 1 := rfl
@[simp] theorem State.pushFree_ids (s : State) (e : Instr) : (s.pushFree e).ids = s.ids + 1 := rfl
@[simp] theorem State.take_free (s : State) : s.take.free = s.free + 1 := rfl
@[simp] theorem State.touch_stamp (s : State) : s.touch.stamp = s.stamp + 1 := rfl

/-! ### Units behind updates of other units -/

@[simp] theorem State.core_setCluster (s : State) (cl : Nat) (k : Cluster) (j : Nat) : (s.setCluster cl k).core j = s.core j := rfl
@[simp] theorem State.core_upCluster (s : State) (cl : Nat) (f : Cluster → Cluster) (j : Nat) : (s.upCluster cl f).core j = s.core j := rfl
@[simp] theorem State.core_setMu (s : State) (m : Nat) (k : Mu) (j : Nat) : (s.setMu m k).core j = s.core j := rfl
@[simp] theorem State.core_upMu (s : State) (m : Nat) (f : Mu → Mu) (j : Nat) : (s.upMu m f).core j = s.core j := rfl
@[simp] theorem State.core_setDie (s : State) (d : Nat) (k : Die) (j : Nat) : (s.setDie d k).core j = s.core j := rfl
@[simp] theorem State.core_upDie (s : State) (d : Nat) (f : Die → Die) (j : Nat) : (s.upDie d f).core j = s.core j := rfl
@[simp] theorem State.core_setSlice (s : State) (sl : Nat) (k : Slice) (j : Nat) : (s.setSlice sl k).core j = s.core j := rfl
@[simp] theorem State.core_upSlice (s : State) (sl : Nat) (f : Slice → Slice) (j : Nat) : (s.upSlice sl f).core j = s.core j := rfl
@[simp] theorem State.core_setPort (s : State) (p : Nat) (k : Port) (j : Nat) : (s.setPort p k).core j = s.core j := rfl
@[simp] theorem State.core_upPort (s : State) (p : Nat) (f : Port → Port) (j : Nat) : (s.upPort p f).core j = s.core j := rfl
@[simp] theorem State.core_setQueue (s : State) (q : Nat) (k : Queue) (j : Nat) : (s.setQueue q k).core j = s.core j := rfl
@[simp] theorem State.core_upQueue (s : State) (q : Nat) (f : Queue → Queue) (j : Nat) : (s.upQueue q f).core j = s.core j := rfl
@[simp] theorem State.core_setHub (s : State) (k : Hub) (j : Nat) : (s.setHub k).core j = s.core j := rfl
@[simp] theorem State.core_upHub (s : State) (f : Hub → Hub) (j : Nat) : (s.upHub f).core j = s.core j := rfl
@[simp] theorem State.core_push (s : State) (n : Nat) (e : Instr) (j : Nat) : (s.push n e).core j = s.core j := rfl
@[simp] theorem State.core_fresh (s : State) (j : Nat) : (s.fresh).core j = s.core j := rfl
@[simp] theorem State.core_pushFree (s : State) (e : Instr) (j : Nat) : (s.pushFree e).core j = s.core j := rfl
@[simp] theorem State.core_take (s : State) (j : Nat) : (s.take).core j = s.core j := rfl
@[simp] theorem State.core_touch (s : State) (j : Nat) : (s.touch).core j = s.core j := rfl
@[simp] theorem State.core_upJob (s : State) (n : Nat) (f : Job → Job) (j : Nat) : (s.upJob n f).core j = s.core j := rfl
@[simp] theorem State.cluster_setCore (s : State) (c : Nat) (k : Core) (j : Nat) : (s.setCore c k).cluster j = s.cluster j := rfl
@[simp] theorem State.cluster_upCore (s : State) (c : Nat) (f : Core → Core) (j : Nat) : (s.upCore c f).cluster j = s.cluster j := rfl
@[simp] theorem State.cluster_setMu (s : State) (m : Nat) (k : Mu) (j : Nat) : (s.setMu m k).cluster j = s.cluster j := rfl
@[simp] theorem State.cluster_upMu (s : State) (m : Nat) (f : Mu → Mu) (j : Nat) : (s.upMu m f).cluster j = s.cluster j := rfl
@[simp] theorem State.cluster_setDie (s : State) (d : Nat) (k : Die) (j : Nat) : (s.setDie d k).cluster j = s.cluster j := rfl
@[simp] theorem State.cluster_upDie (s : State) (d : Nat) (f : Die → Die) (j : Nat) : (s.upDie d f).cluster j = s.cluster j := rfl
@[simp] theorem State.cluster_setSlice (s : State) (sl : Nat) (k : Slice) (j : Nat) : (s.setSlice sl k).cluster j = s.cluster j := rfl
@[simp] theorem State.cluster_upSlice (s : State) (sl : Nat) (f : Slice → Slice) (j : Nat) : (s.upSlice sl f).cluster j = s.cluster j := rfl
@[simp] theorem State.cluster_setPort (s : State) (p : Nat) (k : Port) (j : Nat) : (s.setPort p k).cluster j = s.cluster j := rfl
@[simp] theorem State.cluster_upPort (s : State) (p : Nat) (f : Port → Port) (j : Nat) : (s.upPort p f).cluster j = s.cluster j := rfl
@[simp] theorem State.cluster_setQueue (s : State) (q : Nat) (k : Queue) (j : Nat) : (s.setQueue q k).cluster j = s.cluster j := rfl
@[simp] theorem State.cluster_upQueue (s : State) (q : Nat) (f : Queue → Queue) (j : Nat) : (s.upQueue q f).cluster j = s.cluster j := rfl
@[simp] theorem State.cluster_setHub (s : State) (k : Hub) (j : Nat) : (s.setHub k).cluster j = s.cluster j := rfl
@[simp] theorem State.cluster_upHub (s : State) (f : Hub → Hub) (j : Nat) : (s.upHub f).cluster j = s.cluster j := rfl
@[simp] theorem State.cluster_upMe (s : State) (f : Core → Core) (j : Nat) : (s.upMe f).cluster j = s.cluster j := rfl
@[simp] theorem State.cluster_upLev (s : State) (f : Level → Level) (j : Nat) : (s.upLev f).cluster j = s.cluster j := rfl
@[simp] theorem State.cluster_setX (s : State) (r : XReg) (w : Word) (j : Nat) : (s.setX r w).cluster j = s.cluster j := rfl
@[simp] theorem State.cluster_setV (s : State) (r : VReg) (w : Lanes) (j : Nat) : (s.setV r w).cluster j = s.cluster j := rfl
@[simp] theorem State.cluster_setK (s : State) (r : KReg) (w : BitVec 8) (j : Nat) : (s.setK r w).cluster j = s.cluster j := rfl
@[simp] theorem State.cluster_advance (s : State) (h : Head) (j : Nat) : (s.advance h).cluster j = s.cluster j := rfl
@[simp] theorem State.cluster_block (s : State) (r : WaitReason) (a : Word) (j : Nat) : (s.block r a).cluster j = s.cluster j := rfl
@[simp] theorem State.cluster_push (s : State) (n : Nat) (e : Instr) (j : Nat) : (s.push n e).cluster j = s.cluster j := rfl
@[simp] theorem State.cluster_fresh (s : State) (j : Nat) : (s.fresh).cluster j = s.cluster j := rfl
@[simp] theorem State.cluster_pushFree (s : State) (e : Instr) (j : Nat) : (s.pushFree e).cluster j = s.cluster j := rfl
@[simp] theorem State.cluster_take (s : State) (j : Nat) : (s.take).cluster j = s.cluster j := rfl
@[simp] theorem State.cluster_touch (s : State) (j : Nat) : (s.touch).cluster j = s.cluster j := rfl
@[simp] theorem State.cluster_upJob (s : State) (n : Nat) (f : Job → Job) (j : Nat) : (s.upJob n f).cluster j = s.cluster j := rfl
@[simp] theorem State.mu_setCore (s : State) (c : Nat) (k : Core) (j : Nat) : (s.setCore c k).mu j = s.mu j := rfl
@[simp] theorem State.mu_upCore (s : State) (c : Nat) (f : Core → Core) (j : Nat) : (s.upCore c f).mu j = s.mu j := rfl
@[simp] theorem State.mu_setCluster (s : State) (cl : Nat) (k : Cluster) (j : Nat) : (s.setCluster cl k).mu j = s.mu j := rfl
@[simp] theorem State.mu_upCluster (s : State) (cl : Nat) (f : Cluster → Cluster) (j : Nat) : (s.upCluster cl f).mu j = s.mu j := rfl
@[simp] theorem State.mu_setDie (s : State) (d : Nat) (k : Die) (j : Nat) : (s.setDie d k).mu j = s.mu j := rfl
@[simp] theorem State.mu_upDie (s : State) (d : Nat) (f : Die → Die) (j : Nat) : (s.upDie d f).mu j = s.mu j := rfl
@[simp] theorem State.mu_setSlice (s : State) (sl : Nat) (k : Slice) (j : Nat) : (s.setSlice sl k).mu j = s.mu j := rfl
@[simp] theorem State.mu_upSlice (s : State) (sl : Nat) (f : Slice → Slice) (j : Nat) : (s.upSlice sl f).mu j = s.mu j := rfl
@[simp] theorem State.mu_setPort (s : State) (p : Nat) (k : Port) (j : Nat) : (s.setPort p k).mu j = s.mu j := rfl
@[simp] theorem State.mu_upPort (s : State) (p : Nat) (f : Port → Port) (j : Nat) : (s.upPort p f).mu j = s.mu j := rfl
@[simp] theorem State.mu_setQueue (s : State) (q : Nat) (k : Queue) (j : Nat) : (s.setQueue q k).mu j = s.mu j := rfl
@[simp] theorem State.mu_upQueue (s : State) (q : Nat) (f : Queue → Queue) (j : Nat) : (s.upQueue q f).mu j = s.mu j := rfl
@[simp] theorem State.mu_setHub (s : State) (k : Hub) (j : Nat) : (s.setHub k).mu j = s.mu j := rfl
@[simp] theorem State.mu_upHub (s : State) (f : Hub → Hub) (j : Nat) : (s.upHub f).mu j = s.mu j := rfl
@[simp] theorem State.mu_upMe (s : State) (f : Core → Core) (j : Nat) : (s.upMe f).mu j = s.mu j := rfl
@[simp] theorem State.mu_upLev (s : State) (f : Level → Level) (j : Nat) : (s.upLev f).mu j = s.mu j := rfl
@[simp] theorem State.mu_setX (s : State) (r : XReg) (w : Word) (j : Nat) : (s.setX r w).mu j = s.mu j := rfl
@[simp] theorem State.mu_setV (s : State) (r : VReg) (w : Lanes) (j : Nat) : (s.setV r w).mu j = s.mu j := rfl
@[simp] theorem State.mu_setK (s : State) (r : KReg) (w : BitVec 8) (j : Nat) : (s.setK r w).mu j = s.mu j := rfl
@[simp] theorem State.mu_advance (s : State) (h : Head) (j : Nat) : (s.advance h).mu j = s.mu j := rfl
@[simp] theorem State.mu_block (s : State) (r : WaitReason) (a : Word) (j : Nat) : (s.block r a).mu j = s.mu j := rfl
@[simp] theorem State.mu_push (s : State) (n : Nat) (e : Instr) (j : Nat) : (s.push n e).mu j = s.mu j := rfl
@[simp] theorem State.mu_fresh (s : State) (j : Nat) : (s.fresh).mu j = s.mu j := rfl
@[simp] theorem State.mu_pushFree (s : State) (e : Instr) (j : Nat) : (s.pushFree e).mu j = s.mu j := rfl
@[simp] theorem State.mu_take (s : State) (j : Nat) : (s.take).mu j = s.mu j := rfl
@[simp] theorem State.mu_touch (s : State) (j : Nat) : (s.touch).mu j = s.mu j := rfl
@[simp] theorem State.mu_upJob (s : State) (n : Nat) (f : Job → Job) (j : Nat) : (s.upJob n f).mu j = s.mu j := rfl
@[simp] theorem State.die_setCore (s : State) (c : Nat) (k : Core) (j : Nat) : (s.setCore c k).die j = s.die j := rfl
@[simp] theorem State.die_upCore (s : State) (c : Nat) (f : Core → Core) (j : Nat) : (s.upCore c f).die j = s.die j := rfl
@[simp] theorem State.die_setCluster (s : State) (cl : Nat) (k : Cluster) (j : Nat) : (s.setCluster cl k).die j = s.die j := rfl
@[simp] theorem State.die_upCluster (s : State) (cl : Nat) (f : Cluster → Cluster) (j : Nat) : (s.upCluster cl f).die j = s.die j := rfl
@[simp] theorem State.die_setMu (s : State) (m : Nat) (k : Mu) (j : Nat) : (s.setMu m k).die j = s.die j := rfl
@[simp] theorem State.die_upMu (s : State) (m : Nat) (f : Mu → Mu) (j : Nat) : (s.upMu m f).die j = s.die j := rfl
@[simp] theorem State.die_setSlice (s : State) (sl : Nat) (k : Slice) (j : Nat) : (s.setSlice sl k).die j = s.die j := rfl
@[simp] theorem State.die_upSlice (s : State) (sl : Nat) (f : Slice → Slice) (j : Nat) : (s.upSlice sl f).die j = s.die j := rfl
@[simp] theorem State.die_setPort (s : State) (p : Nat) (k : Port) (j : Nat) : (s.setPort p k).die j = s.die j := rfl
@[simp] theorem State.die_upPort (s : State) (p : Nat) (f : Port → Port) (j : Nat) : (s.upPort p f).die j = s.die j := rfl
@[simp] theorem State.die_setQueue (s : State) (q : Nat) (k : Queue) (j : Nat) : (s.setQueue q k).die j = s.die j := rfl
@[simp] theorem State.die_upQueue (s : State) (q : Nat) (f : Queue → Queue) (j : Nat) : (s.upQueue q f).die j = s.die j := rfl
@[simp] theorem State.die_setHub (s : State) (k : Hub) (j : Nat) : (s.setHub k).die j = s.die j := rfl
@[simp] theorem State.die_upHub (s : State) (f : Hub → Hub) (j : Nat) : (s.upHub f).die j = s.die j := rfl
@[simp] theorem State.die_upMe (s : State) (f : Core → Core) (j : Nat) : (s.upMe f).die j = s.die j := rfl
@[simp] theorem State.die_upLev (s : State) (f : Level → Level) (j : Nat) : (s.upLev f).die j = s.die j := rfl
@[simp] theorem State.die_setX (s : State) (r : XReg) (w : Word) (j : Nat) : (s.setX r w).die j = s.die j := rfl
@[simp] theorem State.die_setV (s : State) (r : VReg) (w : Lanes) (j : Nat) : (s.setV r w).die j = s.die j := rfl
@[simp] theorem State.die_setK (s : State) (r : KReg) (w : BitVec 8) (j : Nat) : (s.setK r w).die j = s.die j := rfl
@[simp] theorem State.die_advance (s : State) (h : Head) (j : Nat) : (s.advance h).die j = s.die j := rfl
@[simp] theorem State.die_block (s : State) (r : WaitReason) (a : Word) (j : Nat) : (s.block r a).die j = s.die j := rfl
@[simp] theorem State.die_push (s : State) (n : Nat) (e : Instr) (j : Nat) : (s.push n e).die j = s.die j := rfl
@[simp] theorem State.die_fresh (s : State) (j : Nat) : (s.fresh).die j = s.die j := rfl
@[simp] theorem State.die_pushFree (s : State) (e : Instr) (j : Nat) : (s.pushFree e).die j = s.die j := rfl
@[simp] theorem State.die_take (s : State) (j : Nat) : (s.take).die j = s.die j := rfl
@[simp] theorem State.die_touch (s : State) (j : Nat) : (s.touch).die j = s.die j := rfl
@[simp] theorem State.die_upJob (s : State) (n : Nat) (f : Job → Job) (j : Nat) : (s.upJob n f).die j = s.die j := rfl
@[simp] theorem State.slice_setCore (s : State) (c : Nat) (k : Core) (j : Nat) : (s.setCore c k).slice j = s.slice j := rfl
@[simp] theorem State.slice_upCore (s : State) (c : Nat) (f : Core → Core) (j : Nat) : (s.upCore c f).slice j = s.slice j := rfl
@[simp] theorem State.slice_setCluster (s : State) (cl : Nat) (k : Cluster) (j : Nat) : (s.setCluster cl k).slice j = s.slice j := rfl
@[simp] theorem State.slice_upCluster (s : State) (cl : Nat) (f : Cluster → Cluster) (j : Nat) : (s.upCluster cl f).slice j = s.slice j := rfl
@[simp] theorem State.slice_setMu (s : State) (m : Nat) (k : Mu) (j : Nat) : (s.setMu m k).slice j = s.slice j := rfl
@[simp] theorem State.slice_upMu (s : State) (m : Nat) (f : Mu → Mu) (j : Nat) : (s.upMu m f).slice j = s.slice j := rfl
@[simp] theorem State.slice_setDie (s : State) (d : Nat) (k : Die) (j : Nat) : (s.setDie d k).slice j = s.slice j := rfl
@[simp] theorem State.slice_upDie (s : State) (d : Nat) (f : Die → Die) (j : Nat) : (s.upDie d f).slice j = s.slice j := rfl
@[simp] theorem State.slice_setPort (s : State) (p : Nat) (k : Port) (j : Nat) : (s.setPort p k).slice j = s.slice j := rfl
@[simp] theorem State.slice_upPort (s : State) (p : Nat) (f : Port → Port) (j : Nat) : (s.upPort p f).slice j = s.slice j := rfl
@[simp] theorem State.slice_setQueue (s : State) (q : Nat) (k : Queue) (j : Nat) : (s.setQueue q k).slice j = s.slice j := rfl
@[simp] theorem State.slice_upQueue (s : State) (q : Nat) (f : Queue → Queue) (j : Nat) : (s.upQueue q f).slice j = s.slice j := rfl
@[simp] theorem State.slice_setHub (s : State) (k : Hub) (j : Nat) : (s.setHub k).slice j = s.slice j := rfl
@[simp] theorem State.slice_upHub (s : State) (f : Hub → Hub) (j : Nat) : (s.upHub f).slice j = s.slice j := rfl
@[simp] theorem State.slice_upMe (s : State) (f : Core → Core) (j : Nat) : (s.upMe f).slice j = s.slice j := rfl
@[simp] theorem State.slice_upLev (s : State) (f : Level → Level) (j : Nat) : (s.upLev f).slice j = s.slice j := rfl
@[simp] theorem State.slice_setX (s : State) (r : XReg) (w : Word) (j : Nat) : (s.setX r w).slice j = s.slice j := rfl
@[simp] theorem State.slice_setV (s : State) (r : VReg) (w : Lanes) (j : Nat) : (s.setV r w).slice j = s.slice j := rfl
@[simp] theorem State.slice_setK (s : State) (r : KReg) (w : BitVec 8) (j : Nat) : (s.setK r w).slice j = s.slice j := rfl
@[simp] theorem State.slice_advance (s : State) (h : Head) (j : Nat) : (s.advance h).slice j = s.slice j := rfl
@[simp] theorem State.slice_block (s : State) (r : WaitReason) (a : Word) (j : Nat) : (s.block r a).slice j = s.slice j := rfl
@[simp] theorem State.slice_push (s : State) (n : Nat) (e : Instr) (j : Nat) : (s.push n e).slice j = s.slice j := rfl
@[simp] theorem State.slice_fresh (s : State) (j : Nat) : (s.fresh).slice j = s.slice j := rfl
@[simp] theorem State.slice_pushFree (s : State) (e : Instr) (j : Nat) : (s.pushFree e).slice j = s.slice j := rfl
@[simp] theorem State.slice_take (s : State) (j : Nat) : (s.take).slice j = s.slice j := rfl
@[simp] theorem State.slice_touch (s : State) (j : Nat) : (s.touch).slice j = s.slice j := rfl
@[simp] theorem State.slice_upJob (s : State) (n : Nat) (f : Job → Job) (j : Nat) : (s.upJob n f).slice j = s.slice j := rfl
@[simp] theorem State.port_setCore (s : State) (c : Nat) (k : Core) (j : Nat) : (s.setCore c k).port j = s.port j := rfl
@[simp] theorem State.port_upCore (s : State) (c : Nat) (f : Core → Core) (j : Nat) : (s.upCore c f).port j = s.port j := rfl
@[simp] theorem State.port_setCluster (s : State) (cl : Nat) (k : Cluster) (j : Nat) : (s.setCluster cl k).port j = s.port j := rfl
@[simp] theorem State.port_upCluster (s : State) (cl : Nat) (f : Cluster → Cluster) (j : Nat) : (s.upCluster cl f).port j = s.port j := rfl
@[simp] theorem State.port_setMu (s : State) (m : Nat) (k : Mu) (j : Nat) : (s.setMu m k).port j = s.port j := rfl
@[simp] theorem State.port_upMu (s : State) (m : Nat) (f : Mu → Mu) (j : Nat) : (s.upMu m f).port j = s.port j := rfl
@[simp] theorem State.port_setDie (s : State) (d : Nat) (k : Die) (j : Nat) : (s.setDie d k).port j = s.port j := rfl
@[simp] theorem State.port_upDie (s : State) (d : Nat) (f : Die → Die) (j : Nat) : (s.upDie d f).port j = s.port j := rfl
@[simp] theorem State.port_setSlice (s : State) (sl : Nat) (k : Slice) (j : Nat) : (s.setSlice sl k).port j = s.port j := rfl
@[simp] theorem State.port_upSlice (s : State) (sl : Nat) (f : Slice → Slice) (j : Nat) : (s.upSlice sl f).port j = s.port j := rfl
@[simp] theorem State.port_setQueue (s : State) (q : Nat) (k : Queue) (j : Nat) : (s.setQueue q k).port j = s.port j := rfl
@[simp] theorem State.port_upQueue (s : State) (q : Nat) (f : Queue → Queue) (j : Nat) : (s.upQueue q f).port j = s.port j := rfl
@[simp] theorem State.port_setHub (s : State) (k : Hub) (j : Nat) : (s.setHub k).port j = s.port j := rfl
@[simp] theorem State.port_upHub (s : State) (f : Hub → Hub) (j : Nat) : (s.upHub f).port j = s.port j := rfl
@[simp] theorem State.port_upMe (s : State) (f : Core → Core) (j : Nat) : (s.upMe f).port j = s.port j := rfl
@[simp] theorem State.port_upLev (s : State) (f : Level → Level) (j : Nat) : (s.upLev f).port j = s.port j := rfl
@[simp] theorem State.port_setX (s : State) (r : XReg) (w : Word) (j : Nat) : (s.setX r w).port j = s.port j := rfl
@[simp] theorem State.port_setV (s : State) (r : VReg) (w : Lanes) (j : Nat) : (s.setV r w).port j = s.port j := rfl
@[simp] theorem State.port_setK (s : State) (r : KReg) (w : BitVec 8) (j : Nat) : (s.setK r w).port j = s.port j := rfl
@[simp] theorem State.port_advance (s : State) (h : Head) (j : Nat) : (s.advance h).port j = s.port j := rfl
@[simp] theorem State.port_block (s : State) (r : WaitReason) (a : Word) (j : Nat) : (s.block r a).port j = s.port j := rfl
@[simp] theorem State.port_push (s : State) (n : Nat) (e : Instr) (j : Nat) : (s.push n e).port j = s.port j := rfl
@[simp] theorem State.port_fresh (s : State) (j : Nat) : (s.fresh).port j = s.port j := rfl
@[simp] theorem State.port_pushFree (s : State) (e : Instr) (j : Nat) : (s.pushFree e).port j = s.port j := rfl
@[simp] theorem State.port_take (s : State) (j : Nat) : (s.take).port j = s.port j := rfl
@[simp] theorem State.port_touch (s : State) (j : Nat) : (s.touch).port j = s.port j := rfl
@[simp] theorem State.port_upJob (s : State) (n : Nat) (f : Job → Job) (j : Nat) : (s.upJob n f).port j = s.port j := rfl
@[simp] theorem State.queue_setCore (s : State) (c : Nat) (k : Core) (j : Nat) : (s.setCore c k).queue j = s.queue j := rfl
@[simp] theorem State.queue_upCore (s : State) (c : Nat) (f : Core → Core) (j : Nat) : (s.upCore c f).queue j = s.queue j := rfl
@[simp] theorem State.queue_setCluster (s : State) (cl : Nat) (k : Cluster) (j : Nat) : (s.setCluster cl k).queue j = s.queue j := rfl
@[simp] theorem State.queue_upCluster (s : State) (cl : Nat) (f : Cluster → Cluster) (j : Nat) : (s.upCluster cl f).queue j = s.queue j := rfl
@[simp] theorem State.queue_setMu (s : State) (m : Nat) (k : Mu) (j : Nat) : (s.setMu m k).queue j = s.queue j := rfl
@[simp] theorem State.queue_upMu (s : State) (m : Nat) (f : Mu → Mu) (j : Nat) : (s.upMu m f).queue j = s.queue j := rfl
@[simp] theorem State.queue_setDie (s : State) (d : Nat) (k : Die) (j : Nat) : (s.setDie d k).queue j = s.queue j := rfl
@[simp] theorem State.queue_upDie (s : State) (d : Nat) (f : Die → Die) (j : Nat) : (s.upDie d f).queue j = s.queue j := rfl
@[simp] theorem State.queue_setSlice (s : State) (sl : Nat) (k : Slice) (j : Nat) : (s.setSlice sl k).queue j = s.queue j := rfl
@[simp] theorem State.queue_upSlice (s : State) (sl : Nat) (f : Slice → Slice) (j : Nat) : (s.upSlice sl f).queue j = s.queue j := rfl
@[simp] theorem State.queue_setPort (s : State) (p : Nat) (k : Port) (j : Nat) : (s.setPort p k).queue j = s.queue j := rfl
@[simp] theorem State.queue_upPort (s : State) (p : Nat) (f : Port → Port) (j : Nat) : (s.upPort p f).queue j = s.queue j := rfl
@[simp] theorem State.queue_setHub (s : State) (k : Hub) (j : Nat) : (s.setHub k).queue j = s.queue j := rfl
@[simp] theorem State.queue_upHub (s : State) (f : Hub → Hub) (j : Nat) : (s.upHub f).queue j = s.queue j := rfl
@[simp] theorem State.queue_upMe (s : State) (f : Core → Core) (j : Nat) : (s.upMe f).queue j = s.queue j := rfl
@[simp] theorem State.queue_upLev (s : State) (f : Level → Level) (j : Nat) : (s.upLev f).queue j = s.queue j := rfl
@[simp] theorem State.queue_setX (s : State) (r : XReg) (w : Word) (j : Nat) : (s.setX r w).queue j = s.queue j := rfl
@[simp] theorem State.queue_setV (s : State) (r : VReg) (w : Lanes) (j : Nat) : (s.setV r w).queue j = s.queue j := rfl
@[simp] theorem State.queue_setK (s : State) (r : KReg) (w : BitVec 8) (j : Nat) : (s.setK r w).queue j = s.queue j := rfl
@[simp] theorem State.queue_advance (s : State) (h : Head) (j : Nat) : (s.advance h).queue j = s.queue j := rfl
@[simp] theorem State.queue_block (s : State) (r : WaitReason) (a : Word) (j : Nat) : (s.block r a).queue j = s.queue j := rfl
@[simp] theorem State.queue_push (s : State) (n : Nat) (e : Instr) (j : Nat) : (s.push n e).queue j = s.queue j := rfl
@[simp] theorem State.queue_fresh (s : State) (j : Nat) : (s.fresh).queue j = s.queue j := rfl
@[simp] theorem State.queue_pushFree (s : State) (e : Instr) (j : Nat) : (s.pushFree e).queue j = s.queue j := rfl
@[simp] theorem State.queue_take (s : State) (j : Nat) : (s.take).queue j = s.queue j := rfl
@[simp] theorem State.queue_touch (s : State) (j : Nat) : (s.touch).queue j = s.queue j := rfl
@[simp] theorem State.queue_upJob (s : State) (n : Nat) (f : Job → Job) (j : Nat) : (s.upJob n f).queue j = s.queue j := rfl

/-! ### The executing core -/

@[simp] theorem State.me_upMe (s : State) (f : Core → Core) : (s.upMe f).me = f s.me := by
  simp [State.me, State.upMe]
theorem State.core_upMe (s : State) (f : Core → Core) (c : Nat) :
    (s.upMe f).core c = if s.cur = c then f s.me else s.core c := by simp [State.upMe, State.me]
@[simp] theorem State.core_upMe_ne (s : State) (f : Core → Core) (c : Nat) (h : c ≠ s.cur) :
    (s.upMe f).core c = s.core c := by simp [State.core_upMe, Ne.symm h]
@[simp] theorem State.me_upLev (s : State) (f : Level → Level) : (s.upLev f).me = s.me.upLv s.me.lvl f := by
  simp [State.upLev]
@[simp] theorem State.me_setX (s : State) (r : XReg) (w : Word) : (s.setX r w).me = s.me.setX s.me.lvl r w := by
  simp [State.setX]
@[simp] theorem State.me_setV (s : State) (r : VReg) (w : Lanes) : (s.setV r w).me = s.me.setV s.me.lvl r w := by
  simp [State.setV]
@[simp] theorem State.me_setK (s : State) (r : KReg) (w : BitVec 8) : (s.setK r w).me = s.me.setK r w := by
  simp [State.setK]
@[simp] theorem State.me_push (s : State) (n : Nat) (e : Instr) : (s.push n e).me = s.me := rfl
@[simp] theorem State.me_fresh (s : State) : s.fresh.me = s.me := rfl
@[simp] theorem State.me_pushFree (s : State) (e : Instr) : (s.pushFree e).me = s.me := rfl
@[simp] theorem State.me_take (s : State) : s.take.me = s.me := rfl
@[simp] theorem State.me_touch (s : State) : s.touch.me = s.me := rfl
@[simp] theorem State.me_upCluster (s : State) (cl : Nat) (f : Cluster → Cluster) : (s.upCluster cl f).me = s.me := rfl
@[simp] theorem State.me_setCluster (s : State) (cl : Nat) (k : Cluster) : (s.setCluster cl k).me = s.me := rfl
@[simp] theorem State.me_upMu (s : State) (m : Nat) (f : Mu → Mu) : (s.upMu m f).me = s.me := rfl
@[simp] theorem State.me_upHub (s : State) (f : Hub → Hub) : (s.upHub f).me = s.me := rfl
@[simp] theorem State.me_upDie (s : State) (d : Nat) (f : Die → Die) : (s.upDie d f).me = s.me := rfl
@[simp] theorem State.me_upSlice (s : State) (sl : Nat) (f : Slice → Slice) : (s.upSlice sl f).me = s.me := rfl

/-! ### Levels and registers of a core -/

@[simp] theorem Core.upLv_lvl (k : Core) (l : Fin 4) (f : Level → Level) : (k.upLv l f).lvl = k.lvl := rfl
@[simp] theorem Core.upLv_status (k : Core) (l : Fin 4) (f : Level → Level) : (k.upLv l f).status = k.status := rfl
@[simp] theorem Core.upLv_under (k : Core) (l : Fin 4) (f : Level → Level) : (k.upLv l f).under = k.under := rfl
@[simp] theorem Core.upLv_xs (k : Core) (l : Fin 4) (f : Level → Level) : (k.upLv l f).xs = k.xs := rfl
@[simp] theorem Core.upLv_vs (k : Core) (l : Fin 4) (f : Level → Level) : (k.upLv l f).vs = k.vs := rfl
@[simp] theorem Core.upLv_k (k : Core) (l : Fin 4) (f : Level → Level) : (k.upLv l f).k = k.k := rfl
@[simp] theorem Core.upLv_acc (k : Core) (l : Fin 4) (f : Level → Level) : (k.upLv l f).acc = k.acc := rfl
@[simp] theorem Core.upLv_asat (k : Core) (l : Fin 4) (f : Level → Level) : (k.upLv l f).asat = k.asat := rfl
@[simp] theorem Core.upLv_xb (k : Core) (l : Fin 4) (f : Level → Level) : (k.upLv l f).xb = k.xb := rfl
@[simp] theorem Core.upLv_inovl (k : Core) (l : Fin 4) (f : Level → Level) : (k.upLv l f).inovl = k.inovl := rfl
@[simp] theorem Core.upLv_ovec (k : Core) (l : Fin 4) (f : Level → Level) : (k.upLv l f).ovec = k.ovec := rfl
@[simp] theorem Core.upLv_grp (k : Core) (l : Fin 4) (f : Level → Level) : (k.upLv l f).grp = k.grp := rfl
@[simp] theorem Core.upLv_tickLimit (k : Core) (l : Fin 4) (f : Level → Level) : (k.upLv l f).tickLimit = k.tickLimit := rfl
@[simp] theorem Core.upLv_tickCount (k : Core) (l : Fin 4) (f : Level → Level) : (k.upLv l f).tickCount = k.tickCount := rfl
@[simp] theorem Core.upLv_inact (k : Core) (l : Fin 4) (f : Level → Level) : (k.upLv l f).inact = k.inact := rfl
@[simp] theorem Core.upLv_intask (k : Core) (l : Fin 4) (f : Level → Level) : (k.upLv l f).intask = k.intask := rfl
@[simp] theorem Core.upLv_dtabBase (k : Core) (l : Fin 4) (f : Level → Level) : (k.upLv l f).dtabBase = k.dtabBase := rfl
@[simp] theorem Core.upLv_dtab (k : Core) (l : Fin 4) (f : Level → Level) : (k.upLv l f).dtab = k.dtab := rfl
@[simp] theorem Core.upLv_cmask (k : Core) (l : Fin 4) (f : Level → Level) : (k.upLv l f).cmask = k.cmask := rfl
@[simp] theorem Core.upLv_lease (k : Core) (l : Fin 4) (f : Level → Level) : (k.upLv l f).lease = k.lease := rfl
@[simp] theorem Core.upLv_root (k : Core) (l : Fin 4) (f : Level → Level) : (k.upLv l f).root = k.root := rfl
@[simp] theorem Core.upLv_retainV (k : Core) (l : Fin 4) (f : Level → Level) : (k.upLv l f).retainV = k.retainV := rfl
@[simp] theorem Core.upLv_retainCol (k : Core) (l : Fin 4) (f : Level → Level) : (k.upLv l f).retainCol = k.retainCol := rfl
@[simp] theorem Core.upLv_delegTkt (k : Core) (l : Fin 4) (f : Level → Level) : (k.upLv l f).delegTkt = k.delegTkt := rfl
@[simp] theorem Core.upLv_delegFp (k : Core) (l : Fin 4) (f : Level → Level) : (k.upLv l f).delegFp = k.delegFp := rfl
@[simp] theorem Core.upLv_uvec (k : Core) (l : Fin 4) (f : Level → Level) : (k.upLv l f).uvec = k.uvec := rfl
@[simp] theorem Core.upLv_svec (k : Core) (l : Fin 4) (f : Level → Level) : (k.upLv l f).svec = k.svec := rfl
@[simp] theorem Core.upLv_ntop (k : Core) (l : Fin 4) (f : Level → Level) : (k.upLv l f).ntop = k.ntop := rfl
@[simp] theorem Core.upLv_wtop (k : Core) (l : Fin 4) (f : Level → Level) : (k.upLv l f).wtop = k.wtop := rfl
@[simp] theorem Core.upLv_nfree (k : Core) (l : Fin 4) (f : Level → Level) : (k.upLv l f).nfree = k.nfree := rfl
@[simp] theorem Core.upLv_wfree (k : Core) (l : Fin 4) (f : Level → Level) : (k.upLv l f).wfree = k.wfree := rfl
@[simp] theorem Core.upLv_nstock (k : Core) (l : Fin 4) (f : Level → Level) : (k.upLv l f).nstock = k.nstock := rfl
@[simp] theorem Core.upLv_wstock (k : Core) (l : Fin 4) (f : Level → Level) : (k.upLv l f).wstock = k.wstock := rfl
@[simp] theorem Core.upLv_act (k : Core) (l : Fin 4) (f : Level → Level) : (k.upLv l f).act = k.act := rfl
@[simp] theorem Core.upLv_kept (k : Core) (l : Fin 4) (f : Level → Level) : (k.upLv l f).kept = k.kept := rfl
@[simp] theorem Core.upLv_bind (k : Core) (l : Fin 4) (f : Level → Level) : (k.upLv l f).bind = k.bind := rfl
@[simp] theorem Core.upLv_twin (k : Core) (l : Fin 4) (f : Level → Level) : (k.upLv l f).twin = k.twin := rfl
@[simp] theorem Core.upLv_offer (k : Core) (l : Fin 4) (f : Level → Level) : (k.upLv l f).offer = k.offer := rfl
@[simp] theorem Core.upLv_stores (k : Core) (l : Fin 4) (f : Level → Level) : (k.upLv l f).stores = k.stores := rfl
@[simp] theorem Core.upLv_grants (k : Core) (l : Fin 4) (f : Level → Level) : (k.upLv l f).grants = k.grants := rfl
@[simp] theorem Core.upLv_seq (k : Core) (l : Fin 4) (f : Level → Level) : (k.upLv l f).seq = k.seq := rfl
@[simp] theorem Core.upLv_hq (k : Core) (l : Fin 4) (f : Level → Level) : (k.upLv l f).hq = k.hq := rfl
@[simp] theorem Core.upLv_tq (k : Core) (l : Fin 4) (f : Level → Level) : (k.upLv l f).tq = k.tq := rfl
@[simp] theorem Core.upLv_win (k : Core) (l : Fin 4) (f : Level → Level) : (k.upLv l f).win = k.win := rfl
@[simp] theorem Core.upLv_hold (k : Core) (l : Fin 4) (f : Level → Level) : (k.upLv l f).hold = k.hold := rfl
@[simp] theorem Core.upLv_taskLast (k : Core) (l : Fin 4) (f : Level → Level) : (k.upLv l f).taskLast = k.taskLast := rfl
@[simp] theorem Core.upLv_taskRet (k : Core) (l : Fin 4) (f : Level → Level) : (k.upLv l f).taskRet = k.taskRet := rfl
@[simp] theorem Core.upLv_arrived (k : Core) (l : Fin 4) (f : Level → Level) : (k.upLv l f).arrived = k.arrived := rfl
@[simp] theorem Core.upLv_coll (k : Core) (l : Fin 4) (f : Level → Level) : (k.upLv l f).coll = k.coll := rfl
@[simp] theorem Core.upLv_ring (k : Core) (l : Fin 4) (f : Level → Level) : (k.upLv l f).ring = k.ring := rfl
@[simp] theorem Core.upLv_openB (k : Core) (l : Fin 4) (f : Level → Level) : (k.upLv l f).openB = k.openB := rfl
@[simp] theorem Core.upLv_batches (k : Core) (l : Fin 4) (f : Level → Level) : (k.upLv l f).batches = k.batches := rfl
@[simp] theorem Core.upLv_lastBatch (k : Core) (l : Fin 4) (f : Level → Level) : (k.upLv l f).lastBatch = k.lastBatch := rfl
@[simp] theorem Core.upLv_bstat (k : Core) (l : Fin 4) (f : Level → Level) : (k.upLv l f).bstat = k.bstat := rfl
@[simp] theorem Core.upLv_tpert (k : Core) (l : Fin 4) (f : Level → Level) : (k.upLv l f).tpert = k.tpert := rfl
@[simp] theorem Core.upLv_cp (k : Core) (l : Fin 4) (f : Level → Level) : (k.upLv l f).cp = k.cp := rfl
@[simp] theorem Core.upLv_cpIds (k : Core) (l : Fin 4) (f : Level → Level) : (k.upLv l f).cpIds = k.cpIds := rfl
@[simp] theorem Core.upLv_selMu (k : Core) (l : Fin 4) (f : Level → Level) : (k.upLv l f).selMu = k.selMu := rfl
@[simp] theorem Core.upLv_unfinished (k : Core) (l : Fin 4) (f : Level → Level) : (k.upLv l f).unfinished = k.unfinished := rfl
@[simp] theorem Core.upLv_muNext (k : Core) (l : Fin 4) (f : Level → Level) : (k.upLv l f).muNext = k.muNext := rfl
@[simp] theorem Core.upLv_lastHdr (k : Core) (l : Fin 4) (f : Level → Level) : (k.upLv l f).lastHdr = k.lastHdr := rfl
@[simp] theorem Core.upLv_lastSerial (k : Core) (l : Fin 4) (f : Level → Level) : (k.upLv l f).lastSerial = k.lastSerial := rfl
@[simp] theorem Core.upLv_recent (k : Core) (l : Fin 4) (f : Level → Level) : (k.upLv l f).recent = k.recent := rfl
@[simp] theorem Core.upLv_serials (k : Core) (l : Fin 4) (f : Level → Level) : (k.upLv l f).serials = k.serials := rfl
@[simp] theorem Core.upLv_deNum (k : Core) (l : Fin 4) (f : Level → Level) : (k.upLv l f).deNum = k.deNum := rfl
@[simp] theorem Core.upLv_deStat (k : Core) (l : Fin 4) (f : Level → Level) : (k.upLv l f).deStat = k.deStat := rfl
@[simp] theorem Core.upLv_dsNum (k : Core) (l : Fin 4) (f : Level → Level) : (k.upLv l f).dsNum = k.dsNum := rfl
@[simp] theorem Core.upLv_dsOut (k : Core) (l : Fin 4) (f : Level → Level) : (k.upLv l f).dsOut = k.dsOut := rfl
@[simp] theorem Core.upLv_evc (k : Core) (l : Fin 4) (f : Level → Level) : (k.upLv l f).evc = k.evc := rfl
@[simp] theorem Core.upLv_pend (k : Core) (l : Fin 4) (f : Level → Level) : (k.upLv l f).pend = k.pend := rfl
@[simp] theorem Core.upLv_brk (k : Core) (l : Fin 4) (f : Level → Level) : (k.upLv l f).brk = k.brk := rfl
@[simp] theorem Core.upLv_dbg (k : Core) (l : Fin 4) (f : Level → Level) : (k.upLv l f).dbg = k.dbg := rfl
@[simp] theorem Core.upLv_sig (k : Core) (l : Fin 4) (f : Level → Level) : (k.upLv l f).sig = k.sig := rfl
@[simp] theorem Core.upLv_self (k : Core) (l : Fin 4) (f : Level → Level) :
    (k.upLv l f).lv[l.val] = f k.lv[l.val] := by
  simp [Core.upLv]
theorem Core.upLv_lv (k : Core) (l j : Fin 4) (f : Level → Level) :
    (k.upLv l f).lv[j.val] = if l = j then f k.lv[l.val] else k.lv[j.val] := by
  simp [Core.upLv, Vector.getElem_set, Fin.ext_iff]
@[simp] theorem Core.upLv_upLv (k : Core) (l : Fin 4) (f g : Level → Level) :
    (k.upLv l f).upLv l g = k.upLv l (fun v => g (f v)) := by
  simp [Core.upLv]
@[simp] theorem Core.upLv_same (k : Core) (l : Fin 4) : k.upLv l (fun v => v) = k := by
  simp [Core.upLv]

@[simp] theorem Core.getX_zero (k : Core) (l : Fin 4) : k.getX l 0 = 0 := rfl
@[simp] theorem Core.setX_zero (k : Core) (l : Fin 4) (w : Word) : k.setX l 0 w = k := rfl
@[simp] theorem Core.setX_lvl (k : Core) (l : Fin 4) (r : XReg) (w : Word) : (k.setX l r w).lvl = k.lvl := by
  unfold Core.setX; split <;> [rfl; (split <;> rfl)]
@[simp] theorem Core.getK_zero (k : Core) : k.getK 0 = 0xFF := rfl
@[simp] theorem Core.setK_zero (k : Core) (w : BitVec 8) : k.setK 0 w = k := rfl
@[simp] theorem Core.setK_lvl (k : Core) (r : KReg) (w : BitVec 8) : (k.setK r w).lvl = k.lvl := by
  unfold Core.setK; split <;> rfl
@[simp] theorem Core.setV_lvl (k : Core) (l : Fin 4) (r : VReg) (w : Lanes) : (k.setV l r w).lvl = k.lvl := by
  unfold Core.setV; split <;> rfl

/-- Reading a general register after a write: x0 discards it, any other register holds it. -/
theorem Core.getX_setX (k : Core) (l : Fin 4) (r q : XReg) (w : Word) :
    (k.setX l r w).getX l q = if q = r ∧ r ≠ 0 then w else k.getX l q := by
  have hr := r.isLt
  have hq := q.isLt
  by_cases e : q = r
  · subst e
    by_cases q0 : q = 0
    · subst q0; rfl
    · rw [if_pos ⟨rfl, q0⟩]
      unfold Core.setX Core.getX
      rw [if_neg q0, if_neg q0]
      split
      · simp [*]
      · simp [show q.toNat - 32 < 32 by omega]
  · have ne : r.toNat ≠ q.toNat := fun h => e (BitVec.eq_of_toNat_eq h.symm)
    rw [if_neg (fun h => e h.1)]
    unfold Core.setX
    split
    · rfl
    · unfold Core.getX
      by_cases q0 : q = 0
      · rw [if_pos q0, if_pos q0]
      · rw [if_neg q0, if_neg q0]
        split
        · split
          · simp [ne]
          · rfl
        · split
          · rfl
          · simp [show r.toNat - 32 ≠ q.toNat - 32 by omega]

/-- Reading a vector register after a write. -/
theorem Core.getV_setV (k : Core) (l : Fin 4) (r q : VReg) (w : Lanes) :
    (k.setV l r w).getV l q = if q = r then w else k.getV l q := by
  have hr := r.isLt
  have hq := q.isLt
  by_cases e : q = r
  · subst e
    rw [if_pos rfl]
    unfold Core.setV Core.getV
    split
    · simp [*]
    · simp [show q.toNat - 16 < 16 by omega]
  · have ne : r.toNat ≠ q.toNat := fun h => e (BitVec.eq_of_toNat_eq h.symm)
    rw [if_neg e]
    unfold Core.setV Core.getV
    split
    · split
      · simp [ne]
      · rfl
    · split
      · rfl
      · simp [show r.toNat - 16 ≠ q.toNat - 16 by omega]

/-- Reading a mask register after a write: k0 discards it. -/
theorem Core.getK_setK (k : Core) (r q : KReg) (w : BitVec 8) :
    (k.setK r w).getK q = if q = r ∧ r ≠ 0 then w else k.getK q := by
  have hr := r.isLt
  by_cases e : q = r
  · subst e
    by_cases q0 : q = 0
    · subst q0; rfl
    · rw [if_pos ⟨rfl, q0⟩]
      unfold Core.setK Core.getK
      rw [if_neg q0, if_neg q0]
      simp [show q.toNat < 8 by omega]
  · have ne : r.toNat ≠ q.toNat := fun h => e (BitVec.eq_of_toNat_eq h.symm)
    rw [if_neg (fun h => e h.1)]
    unfold Core.setK
    split
    · rfl
    · unfold Core.getK
      split
      · rfl
      · simp [ne]

/-- x[q] of the running level after a write to x[r]. -/
theorem State.getX_setX (s : State) (r q : XReg) (w : Word) :
    (s.setX r w).getX q = if q = r ∧ r ≠ 0 then w else s.getX q := by
  simp [State.getX, Core.getX_setX]
/-- v[q] of the running level after a write to v[r]. -/
theorem State.getV_setV (s : State) (r q : VReg) (w : Lanes) :
    (s.setV r w).getV q = if q = r then w else s.getV q := by
  simp [State.getV, Core.getV_setV]
/-- k[q] after a write to k[r]. -/
theorem State.getK_setK (s : State) (r q : KReg) (w : BitVec 8) :
    (s.setK r w).getK q = if q = r ∧ r ≠ 0 then w else s.getK q := by
  simp [State.getK, Core.getK_setK]

end Sys2Proof.Machine
end

