-- ==== Sys2Proof/Laws/Frame.lean ====
section
/-! SUPPORT. What the ends of an instruction and a register write leave as they are. -/

namespace Sys2Proof.Machine

/-! ### The executing core after an update of the running level -/

theorem State.me_advance (s : State) (h : Head) :
    (s.advance h).me = s.me.upLv s.me.lvl (fun v => { v with prev := v.pc, pc := v.pc + BitVec.ofNat 64 h.len, wait := none }) := by
  simp [State.advance]
@[simp] theorem State.advance_lvl (s : State) (h : Head) : (s.advance h).me.lvl = s.me.lvl := by simp [State.me_advance]
@[simp] theorem State.setX_lvl (s : State) (r : XReg) (w : Word) : (s.setX r w).me.lvl = s.me.lvl := by simp
@[simp] theorem State.setV_lvl (s : State) (r : VReg) (w : Lanes) : (s.setV r w).me.lvl = s.me.lvl := by simp
@[simp] theorem State.setK_lvl (s : State) (r : KReg) (w : BitVec 8) : (s.setK r w).me.lvl = s.me.lvl := by simp

theorem State.lev_eq (s : State) : s.lev = s.me.lv[s.me.lvl.val] := rfl

/-- An update of the running level shows at the running level. -/
@[simp] theorem State.lev_upLev (s : State) (f : Level → Level) : (s.upLev f).lev = f s.lev := by
  simp [State.lev_eq]

@[simp] theorem State.lev_advance (s : State) (h : Head) :
    (s.advance h).lev = { s.lev with prev := s.lev.pc, pc := s.lev.pc + BitVec.ofNat 64 h.len, wait := none } := by
  simp [State.advance]
@[simp] theorem State.pc_advance (s : State) (h : Head) : (s.advance h).pc = s.pc + BitVec.ofNat 64 h.len := by
  simp [State.pc]

theorem Core.setX_lev (k : Core) (l : Fin 4) (r : XReg) (w : Word) :
    (k.setX l r w).lv[l.val] = { k.lv[l.val] with x := ((k.setX l r w).lv[l.val]).x } := by
  unfold Core.setX
  split
  · rfl
  · split <;> simp
theorem Core.setV_lev (k : Core) (l : Fin 4) (r : VReg) (w : Lanes) :
    (k.setV l r w).lv[l.val] = { k.lv[l.val] with v := ((k.setV l r w).lv[l.val]).v } := by
  unfold Core.setV
  split <;> simp
@[simp] theorem Core.setK_lv (k : Core) (r : KReg) (w : BitVec 8) : (k.setK r w).lv = k.lv := by
  unfold Core.setK; split <;> rfl

@[simp] theorem State.pc_setX (s : State) (r : XReg) (w : Word) : (s.setX r w).pc = s.pc := by
  simp only [State.pc, State.lev_eq, State.me_setX, Core.setX_lvl]
  rw [Core.setX_lev]
@[simp] theorem State.pc_setV (s : State) (r : VReg) (w : Lanes) : (s.setV r w).pc = s.pc := by
  simp only [State.pc, State.lev_eq, State.me_setV, Core.setV_lvl]
  rw [Core.setV_lev]
@[simp] theorem State.pc_setK (s : State) (r : KReg) (w : BitVec 8) : (s.setK r w).pc = s.pc := by
  simp only [State.pc, State.lev_eq, State.me_setK, Core.setK_lvl, Core.setK_lv]

/-! ### Registers behind an update that names none -/

theorem Core.getX_upLv (k : Core) (l m : Fin 4) (f : Level → Level) (hf : ∀ v, (f v).x = v.x) (r : XReg) :
    (k.upLv l f).getX m r = k.getX m r := by
  have : (k.upLv l f).lv[m.val].x = k.lv[m.val].x := by
    rw [Core.upLv_lv]; split
    · next e => subst e; exact hf _
    · rfl
  simp only [Core.getX, Fin.getElem_fin, this, Core.upLv_xs]
theorem Core.getV_upLv (k : Core) (l m : Fin 4) (f : Level → Level) (hf : ∀ v, (f v).v = v.v) (r : VReg) :
    (k.upLv l f).getV m r = k.getV m r := by
  have : (k.upLv l f).lv[m.val].v = k.lv[m.val].v := by
    rw [Core.upLv_lv]; split
    · next e => subst e; exact hf _
    · rfl
  simp only [Core.getV, Fin.getElem_fin, this, Core.upLv_vs]
@[simp] theorem Core.getK_upLv (k : Core) (l : Fin 4) (f : Level → Level) (r : KReg) : (k.upLv l f).getK r = k.getK r := by
  simp only [Core.getK, Core.upLv_k]

@[simp] theorem State.getX_advance (s : State) (h : Head) (r : XReg) : (s.advance h).getX r = s.getX r := by
  unfold State.getX
  rw [State.advance_lvl, State.me_advance]
  refine Core.getX_upLv _ _ _ _ ?_ r
  intro v; rfl
@[simp] theorem State.getV_advance (s : State) (h : Head) (r : VReg) : (s.advance h).getV r = s.getV r := by
  unfold State.getV
  rw [State.advance_lvl, State.me_advance]
  refine Core.getV_upLv _ _ _ _ ?_ r
  intro v; rfl
@[simp] theorem State.getK_advance (s : State) (h : Head) (r : KReg) : (s.advance h).getK r = s.getK r := by
  unfold State.getK
  rw [State.me_advance]
  exact Core.getK_upLv _ _ _ _

@[simp] theorem State.getV_setX (s : State) (r : XReg) (w : Word) (q : VReg) : (s.setX r w).getV q = s.getV q := by
  unfold State.getV
  rw [State.me_setX, Core.setX_lvl]
  unfold Core.setX
  split
  · rfl
  · split
    · refine Core.getV_upLv _ _ _ _ ?_ q
      intro v; rfl
    · rfl
@[simp] theorem State.getK_setX (s : State) (r : XReg) (w : Word) (q : KReg) : (s.setX r w).getK q = s.getK q := by
  unfold State.getK
  rw [State.me_setX]
  unfold Core.setX
  split
  · rfl
  · split <;> rfl
@[simp] theorem State.getX_setV (s : State) (r : VReg) (w : Lanes) (q : XReg) : (s.setV r w).getX q = s.getX q := by
  unfold State.getX
  rw [State.me_setV, Core.setV_lvl]
  unfold Core.setV
  split
  · rfl
  · refine Core.getX_upLv _ _ _ _ ?_ q
    intro v; rfl
@[simp] theorem State.getK_setV (s : State) (r : VReg) (w : Lanes) (q : KReg) : (s.setV r w).getK q = s.getK q := by
  unfold State.getK
  rw [State.me_setV]
  unfold Core.setV
  split <;> rfl
@[simp] theorem State.getX_setK (s : State) (r : KReg) (w : BitVec 8) (q : XReg) : (s.setK r w).getX q = s.getX q := by
  unfold State.getX
  rw [State.me_setK, Core.setK_lvl]
  unfold Core.setK
  split <;> rfl
@[simp] theorem State.getV_setK (s : State) (r : KReg) (w : BitVec 8) (q : VReg) : (s.setK r w).getV q = s.getV q := by
  unfold State.getV
  rw [State.me_setK, Core.setK_lvl]
  unfold Core.setK
  split <;> rfl

/-! ### What `rest` does not see -/

theorem Core.hide_upLv (k : Core) (f g : Level → Level) (hf : ∀ v, f (g v) = f v) : (k.upLv k.lvl g).hide f = k.hide f := by
  unfold Core.hide
  rw [Core.upLv_lvl, Core.upLv_upLv, show (fun v => f (g v)) = f from funext hf]
theorem Core.rest_upLv (k : Core) (g : Level → Level) (hg : ∀ v, (g v).blank = v.blank) : (k.upLv k.lvl g).rest = k.rest :=
  Core.hide_upLv k _ g hg
theorem Core.restNoFlags_upLv (k : Core) (g : Level → Level) (hg : ∀ v, ({ (g v).blank with flags := 0 } : Level) = { v.blank with flags := 0 }) :
    (k.upLv k.lvl g).restNoFlags = k.restNoFlags := Core.hide_upLv k _ g hg
theorem Core.restNoSig_upLv (k : Core) (g : Level → Level) (hg : ∀ v, (g v).blank = v.blank) :
    (k.upLv k.lvl g).restNoSig = k.restNoSig := by
  unfold Core.restNoSig
  rw [Core.rest_upLv k g hg]
theorem Core.restLate_upLv (k : Core) (g : Level → Level) (hg : ∀ v, ({ (g v).blank with out := [] } : Level) = { v.blank with out := [] }) :
    (k.upLv k.lvl g).restLate = k.restLate := by
  unfold Core.restLate
  rw [Core.hide_upLv k _ g hg]
theorem Core.restStore_upLv (k : Core) (g : Level → Level) (hg : ∀ v, ({ (g v).blank with out := [] } : Level) = { v.blank with out := [] }) :
    (k.upLv k.lvl g).restStore = k.restStore := by
  unfold Core.restStore
  rw [Core.restLate_upLv k g hg]

@[simp] theorem Core.rest_setX (k : Core) (r : XReg) (w : Word) : (k.setX k.lvl r w).rest = k.rest := by
  unfold Core.setX
  split
  · rfl
  · split
    · exact Core.rest_upLv k _ (by intro v; rfl)
    · rfl
@[simp] theorem Core.rest_setV (k : Core) (r : VReg) (w : Lanes) : (k.setV k.lvl r w).rest = k.rest := by
  unfold Core.setV
  split
  · rfl
  · exact Core.rest_upLv k _ (by intro v; rfl)
@[simp] theorem Core.rest_setK (k : Core) (r : KReg) (w : BitVec 8) : (k.setK r w).rest = k.rest := by
  unfold Core.setK
  split <;> rfl

/-! ### Frames of the register writes -/

theorem Outside.refl (s : State) : Outside s s := ⟨rfl, fun _ _ => rfl, fun _ => rfl⟩

/-- An update of the executing core leaves everything outside it. -/
theorem Outside.upMe (s : State) (f : Core → Core) : Outside s (s.upMe f) :=
  ⟨rfl, fun c h => State.core_upMe_ne s f c h, fun _ => rfl⟩

theorem Outside.trans {s t u : State} (h : Outside s t) (g : Outside t u) : Outside s u := by
  have hc : t.cur = s.cur := by rw [h.units]
  refine ⟨?_, fun c hc' => (g.cores c (by rw [hc]; exact hc')).trans (h.cores c hc'), fun a => (g.bytes a).trans (h.bytes a)⟩
  rw [g.units, h.units]

theorem Frame.trans {xs : List XReg} {vs : List VReg} {ks : List KReg} {s t u : State} (h : Frame xs vs ks s t)
    (g : Frame xs vs ks t u) : Frame xs vs ks s u :=
  ⟨h.outside.trans g.outside,
    ⟨fun r hr => (g.registers.general r hr).trans (h.registers.general r hr),
      fun r hr => (g.registers.vector r hr).trans (h.registers.vector r hr),
      fun r hr => (g.registers.mask r hr).trans (h.registers.mask r hr)⟩,
    g.rest.trans h.rest⟩

theorem Frame.advance (xs : List XReg) (vs : List VReg) (ks : List KReg) (s : State) (h : Head) :
    Frame xs vs ks s (s.advance h) :=
  ⟨by unfold State.advance State.upLev; exact Outside.upMe s _, ⟨fun r _ => by simp, fun r _ => by simp, fun r _ => by simp⟩, by
    rw [State.me_advance]; exact Core.rest_upLv s.me _ (by intro v; rfl)⟩

theorem Frame.setX {xs : List XReg} (vs : List VReg) (ks : List KReg) (s : State) {d : XReg} (w : Word) (hd : d ∈ xs) :
    Frame xs vs ks s (s.setX d w) :=
  ⟨by unfold State.setX; exact Outside.upMe s _, ⟨fun r hr => by
      rw [State.getX_setX, if_neg]; rintro ⟨rfl, -⟩; exact hr hd, fun r _ => by simp, fun r _ => by simp⟩, by simp⟩

theorem Frame.setV (xs : List XReg) {vs : List VReg} (ks : List KReg) (s : State) {d : VReg} (w : Lanes) (hd : d ∈ vs) :
    Frame xs vs ks s (s.setV d w) :=
  ⟨by unfold State.setV; exact Outside.upMe s _, ⟨fun r _ => by simp, fun r hr => by
      rw [State.getV_setV, if_neg]; rintro rfl; exact hr hd, fun r _ => by simp⟩, by simp⟩

theorem Frame.setK (xs : List XReg) (vs : List VReg) {ks : List KReg} (s : State) {d : KReg} (w : BitVec 8) (hd : d ∈ ks) :
    Frame xs vs ks s (s.setK d w) :=
  ⟨by unfold State.setK; exact Outside.upMe s _, ⟨fun r _ => by simp, fun r _ => by simp, fun r hr => by
      rw [State.getK_setK, if_neg]; rintro ⟨rfl, -⟩; exact hr hd⟩, by simp⟩

/-- A register write followed by the end of the instruction is what `Computes` asks for. -/
theorem Computes.of {i : Instr} {h : Head} {d : XReg} {f : State → Word}
    (e : ∀ s, exec i s = .next ((s.setX d (f s)).advance h)) : Computes i h d f := by
  intro s
  refine ⟨_, e s, ?_, ?_, (Frame.setX _ _ s _ (List.mem_singleton.2 rfl)).trans (Frame.advance _ _ _ _ h)⟩
  · simp only [State.getX_advance, State.getX_setX]
    by_cases hd : d = 0
    · subst hd; simp [State.getX, Core.getX]
    · rw [if_pos ⟨trivial, hd⟩, if_neg hd]
  · simp [Past]

end Sys2Proof.Machine
end

