-- ==== Sys2Proof/Laws/Ends.lean ====
section
/-! SUPPORT. How instructions end: results on their way, walks that an access starts, stores that wait for their
acknowledgement. One lemma says what each shared operation does. -/

namespace Sys2Proof.Machine

/-! ### The executing core behind the shared operations -/

theorem State.core_upLev_ne (s : State) (f : Level → Level) (c : Nat) (h : c ≠ s.cur) : (s.upLev f).core c = s.core c :=
  State.core_upMe_ne s _ c h
theorem State.core_advance_ne (s : State) (h : Head) (c : Nat) (hc : c ≠ s.cur) : (s.advance h).core c = s.core c :=
  State.core_upLev_ne s _ c hc
@[simp] theorem State.cur_count (s : State) (c ev n : Nat) : (s.count c ev n).cur = s.cur := rfl

theorem State.me_count (s : State) (ev n : Nat) : (s.count s.cur ev n).me = { s.me with evc := (s.count s.cur ev n).me.evc } := by
  unfold State.count
  rw [show (s.upCore s.cur _) = s.upMe _ from rfl, State.me_upMe]

@[simp] theorem State.me_count_lvl (s : State) (ev n : Nat) : (s.count s.cur ev n).me.lvl = s.me.lvl := by
  rw [State.me_count]
@[simp] theorem State.me_count_lv (s : State) (ev n : Nat) : (s.count s.cur ev n).me.lv = s.me.lv := by
  rw [State.me_count]

/-- What an update of the executing core leaves, as a state: everything but its cores. -/
theorem State.upMe_units (s : State) (f : Core → Core) : s.upMe f = { s with cores := (s.upMe f).cores } := rfl

/-- A walk that an access starts is on its way, and counted where the TLB misses; nothing else changes (R78). -/
theorem State.startWalk_cases (s : State) (walk : Bool) (va : Word) (wr : Bool) :
    (walk = false ∧ s.startWalk walk va wr = s) ∨
    (walk = true ∧ ∃ n, s.startWalk walk va wr = (s.pushFree (.tlbWalk ⟨s.cl, s.me.root, va, wr⟩)).count s.cur 6 n) := by
  cases walk
  · exact .inl ⟨rfl, rfl⟩
  · exact .inr ⟨rfl, _, rfl⟩

/-- What holds behind the start of a walk, or of none. -/
structure Walked (s t : State) : Prop where
  cur : t.cur = s.cur
  agenda : ∃ pre, (∀ f ∈ pre, ∃ w, f.ev = .tlbWalk w) ∧ t.agenda = s.agenda ++ pre
  me : ∃ e, t.me = { s.me with evc := e }
  units : t = { s with cores := t.cores, agenda := t.agenda, ids := t.ids }
  cores : SameCores s t

theorem Walked.refl (s : State) : Walked s s :=
  ⟨rfl, ⟨[], by simp, by simp⟩, ⟨_, rfl⟩, rfl, fun _ _ => rfl⟩

theorem State.startWalk_spec (s : State) (walk : Bool) (va : Word) (wr : Bool) : Walked s (s.startWalk walk va wr) := by
  obtain ⟨-, e⟩ | ⟨-, n, e⟩ := s.startWalk_cases walk va wr
  · rw [e]; exact Walked.refl s
  · rw [e]
    refine ⟨rfl, ⟨[⟨2 ^ 40 + s.ids, .tlbWalk ⟨s.cl, s.me.root, va, wr⟩⟩], by simp, rfl⟩, ?_, rfl, ?_⟩
    · exact ⟨_, (s.pushFree (.tlbWalk ⟨s.cl, s.me.root, va, wr⟩)).me_count 6 n⟩
    · intro c hc
      unfold State.count
      rw [State.core_upCore, if_neg (Ne.symm hc)]
      rfl

theorem Walked.lvl {s t : State} (h : Walked s t) : t.me.lvl = s.me.lvl := by obtain ⟨e, h⟩ := h.me; rw [h]
theorem Walked.lev {s t : State} (h : Walked s t) : t.lev = s.lev := by
  obtain ⟨e, h⟩ := h.me
  exact (congrArg (fun k : Core => k.lv[k.lvl]) h).trans rfl
theorem Walked.pc {s t : State} (h : Walked s t) : t.pc = s.pc := by unfold State.pc; rw [h.lev]
theorem Walked.mem {s t : State} (h : Walked s t) : t.mem = s.mem := by rw [h.units]
theorem Walked.getX {s t : State} (h : Walked s t) (r : XReg) : t.getX r = s.getX r := by
  obtain ⟨e, h⟩ := h.me; unfold State.getX; rw [h]; rfl
theorem Walked.getV {s t : State} (h : Walked s t) (r : VReg) : t.getV r = s.getV r := by
  obtain ⟨e, h⟩ := h.me; unfold State.getV; rw [h]; rfl
theorem Walked.getK {s t : State} (h : Walked s t) (r : KReg) : t.getK r = s.getK r := by
  obtain ⟨e, h⟩ := h.me; unfold State.getK; rw [h]; rfl
theorem Walked.restLate {s t : State} (h : Walked s t) : t.me.restLate = s.me.restLate := by
  obtain ⟨e, h⟩ := h.me; rw [h]; rfl
theorem Walked.roomFor {s t : State} (h : Walked s t) (n : Nat) : t.roomFor n = s.roomFor n := by
  unfold State.roomFor; rw [h.lev]

/-! ### Registers behind the end of an instruction -/

theorem Registers.refl (xs : List XReg) (vs : List VReg) (ks : List KReg) (s : State) : Registers xs vs ks s s :=
  ⟨fun _ _ => rfl, fun _ _ => rfl, fun _ _ => rfl⟩
theorem Registers.trans {xs : List XReg} {vs : List VReg} {ks : List KReg} {s t u : State} (h : Registers xs vs ks s t)
    (g : Registers xs vs ks t u) : Registers xs vs ks s u :=
  ⟨fun r hr => (g.general r hr).trans (h.general r hr), fun r hr => (g.vector r hr).trans (h.vector r hr),
    fun r hr => (g.mask r hr).trans (h.mask r hr)⟩
theorem Registers.advance (xs : List XReg) (vs : List VReg) (ks : List KReg) (s : State) (h : Head) :
    Registers xs vs ks s (s.advance h) := (Frame.advance xs vs ks s h).registers
theorem Walked.registers {s t : State} (h : Walked s t) : Registers [] [] [] s t :=
  ⟨fun r _ => h.getX r, fun r _ => h.getV r, fun r _ => h.getK r⟩

/-! ### Results on their way (R183, R184) -/

theorem State.owe_me (s : State) (slot : Nat) (r : Bool) :
    (s.owe slot r).me = s.me.upLv s.me.lvl (fun v => { v with out := v.out ++ [⟨s.ids, slot, r⟩] }) := by
  unfold State.owe
  rw [State.me_fresh, State.me_upLev]

/-- Sending an outstanding result: what is then on its way, and that the executing core only owes one more. -/
theorem State.send_eq (s : State) (slot : Nat) (l : Landing) :
    s.send slot l = (s.owe slot).push (landChan s.cur s.me.lvl.val slot) (.resultLand s.cur s.me.lvl.val s.ids s.pc l) := by
  have h1 : (s.owe slot).me.lvl = s.me.lvl := by rw [State.owe_me, Core.upLv_lvl]
  have h2 : (s.owe slot).pc = s.pc := by
    unfold State.owe State.pc
    rw [show (State.fresh (s.upLev _)).lev = (s.upLev _).lev from rfl, State.lev_upLev]
  unfold State.send
  simp only [if_true]
  rw [h1, h2]
  rfl

theorem Late.of_walked {h : Head} {s t : State} (w : Walked s t) : Late h none s (t.advance h) where
  past := by unfold Past; rw [State.pc_advance, w.pc]
  owed := by
    obtain ⟨pre, hp, e⟩ := w.agenda
    refine ⟨0, pre, hp, ?_, ?_⟩
    · simp [e]
    · simp [w.lev]
  registers := w.registers.trans (Registers.advance _ _ _ _ h)
  units := by
    rw [show t.advance h = { t with cores := (t.advance h).cores } from rfl, w.units]
  cores := fun c hc => by
    have : c ≠ t.cur := by rw [w.cur]; exact hc
    rw [State.core_advance_ne _ _ _ this]
    exact w.cores c hc
  bytes := fun a => by
    show t.mem.read a = _
    rw [w.mem]
  rest := by
    rw [State.me_advance, Core.restLate_upLv _ _ (by intro v; rfl), w.restLate]

theorem Late.of_send {h : Head} {s t : State} (w : Walked s t) (slot : Nat) (l : Landing) :
    Late h (some (slot, l)) s ((t.send slot l).advance h) := by
  rw [State.send_eq]
  have me : ((t.owe slot).push (landChan t.cur t.me.lvl.val slot) (.resultLand t.cur t.me.lvl.val t.ids t.pc l)).me =
      t.me.upLv t.me.lvl (fun v => { v with out := v.out ++ [⟨t.ids, slot, false⟩] }) := by
    rw [State.me_push, State.owe_me]
  have lev : ((t.owe slot).push (landChan t.cur t.me.lvl.val slot) (.resultLand t.cur t.me.lvl.val t.ids t.pc l)).lev =
      { t.lev with out := t.lev.out ++ [⟨t.ids, slot, false⟩] } := by
    unfold State.owe
    rw [show (State.push (State.fresh (t.upLev _)) _ _).lev = (t.upLev _).lev from rfl, State.lev_upLev]
  refine ⟨?_, ?_, ?_, ?_, ?_, ?_, ?_⟩
  · show ((t.owe slot).push _ _ |>.advance h).pc = _
    rw [State.pc_advance]
    exact Eq.trans (b := t.lev.pc + BitVec.ofNat 64 h.len) ((congrArg (fun v : Level => v.pc + BitVec.ofNat 64 h.len) lev).trans rfl)
      (congrArg (fun v : Level => v.pc + BitVec.ofNat 64 h.len) w.lev)
  · obtain ⟨pre, hp, e⟩ := w.agenda
    refine ⟨t.ids, pre, hp, ?_, ?_⟩
    · rw [State.advance_agenda, State.push_agenda, w.pc, w.lvl, w.cur]
      show t.agenda ++ _ = _
      rw [e]
    · rw [State.lev_advance, lev, w.lev]
  · refine w.registers.trans (Registers.trans (t := (t.owe slot).push _ _) ?_ (Registers.advance _ _ _ _ h))
    refine ⟨fun r _ => ?_, fun r _ => ?_, fun r _ => ?_⟩
    · unfold State.getX; rw [me, Core.upLv_lvl]; refine Core.getX_upLv _ _ _ _ ?_ r; intro v; rfl
    · unfold State.getV; rw [me, Core.upLv_lvl]; refine Core.getV_upLv _ _ _ _ ?_ r; intro v; rfl
    · unfold State.getK; rw [me]; exact Core.getK_upLv _ _ _ _
  · rw [show ∀ u : State, u.advance h = { u with cores := (u.advance h).cores } from fun _ => rfl]
    unfold State.owe
    rw [show ∀ f, t.upLev f = { t with cores := (t.upLev f).cores } from fun _ => rfl, w.units]
    rfl
  · intro c hc
    have : c ≠ t.cur := by rw [w.cur]; exact hc
    rw [State.core_advance_ne _ _ _ (by exact this)]
    show (t.upLev _).core c = _
    rw [State.core_upLev_ne _ _ _ this]
    exact w.cores c hc
  · intro a
    show t.mem.read a = _
    rw [w.mem]
  · rw [State.me_advance, Core.restLate_upLv _ _ (by intro v; rfl), me, Core.restLate_upLv _ _ (by intro v; rfl), w.restLate]

/-- A result for x[d] after the walks of an access, and the end of the instruction. -/
theorem LateX.of_walked {h : Head} {s t : State} (k : Walked s t) (d : XReg) (w : Word) :
    LateX h d w s ((t.sendX d w).advance h) := by
  unfold LateX State.sendX
  split
  · exact Late.of_walked k
  · exact Late.of_send k _ _

/-- What finishing an instruction with a variable-latency result does: the result is on its way, or it waits for room
(R184). -/
theorem State.finishX_spec (s : State) (h : Head) (d : XReg) (w : Word) :
    (RoomX s d → LateX h d w s (s.finishX h d w)) ∧ (¬ RoomX s d → s.finishX h d w = s.block .awake) := by
  have key : RoomX s d → s.finishX h d w = (s.sendX d w).advance h := by
    intro r
    unfold State.finishX
    by_cases hd : d = 0
    · rw [if_pos hd]; unfold State.sendX; rw [if_pos hd]
    · rw [if_neg hd, if_pos (r.resolve_left hd)]
  constructor
  · intro r
    rw [key r]
    exact LateX.of_walked (Walked.refl s) d w
  · intro r
    unfold State.finishX
    rw [if_neg (fun e => r (.inl e)), if_neg (fun e => r (.inr e))]

end Sys2Proof.Machine
end

