-- ==== Sys2Proof/Laws/Memory.lean ====
section
/-! SUPPORT. Reading memory after a write, and the canonical form that every memory operation keeps. -/

namespace Sys2Proof.Machine

/-- From a higher bound the form holds from a lower one. -/
theorem Memory.wfFrom_mono {m : Memory} {lo hi : Nat} (h : lo ≤ hi) (w : Memory.wfFrom hi m = true) :
    Memory.wfFrom lo m = true := by
  cases m with
  | nil => rfl
  | cons e r =>
    obtain ⟨j, b⟩ := e
    simp only [Memory.wfFrom, Bool.and_eq_true, decide_eq_true_eq] at *
    exact ⟨⟨by omega, w.1.2⟩, w.2⟩

/-- A list whose keys start above a key does not list it. -/
theorem Memory.read_of_lt {m : Memory} {lo k : Nat} (w : Memory.wfFrom lo m = true) (h : k < lo) : m.read k = 0 := by
  induction m generalizing lo with
  | nil => rfl
  | cons e r ih =>
    obtain ⟨j, b⟩ := e
    simp only [Memory.wfFrom, Bool.and_eq_true, decide_eq_true_eq] at w
    rw [Memory.read, if_neg (by omega)]
    exact ih w.2 (by omega)

/-- A write keeps the form from a bound that the key meets. -/
theorem Memory.wfFrom_write {m : Memory} {lo : Nat} (k : Nat) (b : Byte) (w : Memory.wfFrom lo m = true) (h : lo ≤ k) :
    Memory.wfFrom lo (m.write k b) = true := by
  induction m generalizing lo with
  | nil =>
    unfold Memory.write
    split
    · rfl
    · simpa [Memory.wfFrom, h] using ‹¬b = 0›
  | cons e r ih =>
    obtain ⟨j, c⟩ := e
    have w' := w
    simp only [Memory.wfFrom, Bool.and_eq_true, decide_eq_true_eq, bne_iff_ne, ne_eq] at w
    unfold Memory.write
    split
    · split
      · exact w'
      · next hb =>
        simp only [Memory.wfFrom, Bool.and_eq_true, decide_eq_true_eq, bne_iff_ne, ne_eq]
        exact ⟨⟨h, hb⟩, ⟨by omega, w.1.2⟩, w.2⟩
    · split
      · split
        · exact Memory.wfFrom_mono (by omega) w.2
        · next hb =>
          simp only [Memory.wfFrom, Bool.and_eq_true, decide_eq_true_eq, bne_iff_ne, ne_eq]
          exact ⟨⟨w.1.1, hb⟩, w.2⟩
      · simp only [Memory.wfFrom, Bool.and_eq_true, decide_eq_true_eq, bne_iff_ne, ne_eq]
        exact ⟨w.1, ih w.2 (by omega)⟩

/-- A write keeps the canonical form. -/
theorem Memory.wf_write {m : Memory} (k : Nat) (b : Byte) (w : m.wf = true) : (m.write k b).wf = true :=
  Memory.wfFrom_write k b w (Nat.zero_le k)

/-- Writing bytes keeps the canonical form. -/
theorem Memory.wf_writeBytes {m : Memory} (k : Nat) (bs : List Byte) (w : m.wf = true) : (m.writeBytes k bs).wf = true := by
  induction bs generalizing m k with
  | nil => exact w
  | cons b bs ih => exact ih (k + 1) (Memory.wf_write k b w)

/-- Dropping cells keeps the form. -/
theorem Memory.wfFrom_filter {m : Memory} {lo : Nat} (p : Host.Cell → Bool) (w : Memory.wfFrom lo m = true) :
    Memory.wfFrom lo (m.filter p) = true := by
  induction m generalizing lo with
  | nil => rfl
  | cons e r ih =>
    obtain ⟨j, b⟩ := e
    simp only [Memory.wfFrom, Bool.and_eq_true, decide_eq_true_eq] at w
    rw [List.filter_cons]
    split
    · simp only [Memory.wfFrom, Bool.and_eq_true, decide_eq_true_eq]
      exact ⟨w.1, ih w.2⟩
    · exact ih (Memory.wfFrom_mono (by omega) w.2)

/-- Dropping cells keeps the canonical form. -/
theorem Memory.wf_filter {m : Memory} (p : Host.Cell → Bool) (w : m.wf = true) : Memory.wf (m.filter p) = true :=
  Memory.wfFrom_filter p w

/-- What a key reads after a write, in a list whose keys rise from a bound. -/
theorem Memory.read_write_from {m : Memory} {lo : Nat} (k : Nat) (b : Byte) (j : Nat) (w : Memory.wfFrom lo m = true) :
    (m.write k b).read j = if j = k then b else m.read j := by
  induction m generalizing lo with
  | nil =>
    unfold Memory.write
    split
    · next h => subst h; simp [Memory.read]
    · simp only [Memory.read, eq_comm]
  | cons e r ih =>
    obtain ⟨i, c⟩ := e
    have w' := w
    simp only [Memory.wfFrom, Bool.and_eq_true, decide_eq_true_eq, bne_iff_ne, ne_eq] at w
    unfold Memory.write
    split
    · next hlt =>
      split
      · next hb =>
        split
        · next e =>
          subst e; subst hb
          rw [Memory.read, if_neg (by omega)]
          exact Memory.read_of_lt w.2 (by omega)
        · rfl
      · rw [Memory.read]
        simp only [eq_comm]
    · split
      · next he =>
        subst he
        split
        · next hb =>
          subst hb
          split
          · next e => subst e; exact Memory.read_of_lt w.2 (by omega)
          · next e => rw [Memory.read, if_neg (Ne.symm e)]
        · simp only [Memory.read]
          split
          · next e => simp [e]
          · next e => simp [Ne.symm e]
      · simp only [Memory.read]
        split
        · next e => rw [if_neg (by omega)]
        · exact ih w.2

/-- A key reads the byte written last, and every other key reads as before. -/
theorem Memory.read_write {m : Memory} (k : Nat) (b : Byte) (j : Nat) (w : m.wf = true) :
    (m.write k b).read j = if j = k then b else m.read j := Memory.read_write_from k b j w

/-- A byte outside the bytes written reads as before. -/
theorem Memory.read_writeBytes_out {m : Memory} (k : Nat) (bs : List Byte) (j : Nat) (w : m.wf = true)
    (h : j < k ∨ k + bs.length ≤ j) : (m.writeBytes k bs).read j = m.read j := by
  induction bs generalizing m k with
  | nil => rfl
  | cons b bs ih =>
    simp only [List.length_cons] at h
    rw [Memory.writeBytes, ih (k + 1) (Memory.wf_write k b w) (by omega), Memory.read_write k b j w, if_neg (by omega)]

/-- A byte among the bytes written reads as written. -/
theorem Memory.read_writeBytes_in {m : Memory} (k : Nat) (bs : List Byte) (i : Nat) (w : m.wf = true) (h : i < bs.length) :
    (m.writeBytes k bs).read (k + i) = bs[i] := by
  induction bs generalizing m k i with
  | nil => simp at h
  | cons b bs ih =>
    cases i with
    | zero =>
      rw [Memory.writeBytes, Memory.read_writeBytes_out (k + 1) bs _ (Memory.wf_write k b w) (by omega),
        Memory.read_write k b _ w]
      simp
    | succ i =>
      have := ih (k + 1) i (Memory.wf_write k b w) (by simpa using h)
      rw [Memory.writeBytes]
      rw [show k + (i + 1) = k + 1 + i by omega, this]
      rfl

/-- Reading the bytes just written gives them back. -/
theorem Memory.bytes_writeBytes {m : Memory} (k : Nat) (bs : List Byte) (w : m.wf = true) :
    (m.writeBytes k bs).bytes k bs.length = bs := by
  have aux : ∀ (m : Memory) (k n : Nat), m.bytes k n = (List.range n).map (fun i => m.read (k + i)) := by
    intro m k n
    induction n generalizing k with
    | zero => rfl
    | succ n ih =>
      rw [Memory.bytes, ih (k + 1), List.range_succ_eq_map]
      simp [Nat.add_comm, Nat.add_left_comm]
  rw [aux]
  apply List.ext_getElem
  · simp
  · intro i h1 h2
    simp only [List.getElem_map, List.getElem_range]
    exact Memory.read_writeBytes_in k bs i w h2

@[simp] theorem leBytes_length (n v : Nat) : (leBytes n v).length = n := by
  induction n generalizing v with
  | zero => rfl
  | succ n ih => simp [leBytes, ih]

/-- Little-endian bytes give their number back (R2). -/
theorem leVal_leBytes (n v : Nat) : leVal (leBytes n v) = v % 256 ^ n := by
  induction n generalizing v with
  | zero => simp [leBytes, leVal, Nat.mod_one]
  | succ n ih =>
    rw [leBytes, leVal, ih, BitVec.toNat_ofNat, pow_succ' 256 n, Nat.mod_mul]

/-- Placing bytes at once writes them and keeps the canonical form. -/
theorem State.poke_mem (s : State) (key : Nat) (bs : List Byte) (cached : Bool) :
    (s.poke key bs cached).mem = s.mem.writeBytes key bs := rfl

/-- A store either writes its bytes at its key or leaves memory as it is. -/
theorem State.store_mem (s : State) (c key : Nat) (bs : List Byte) (cached ack : Bool) :
    (s.store c key bs cached ack).mem = s.mem.writeBytes key bs ∨ (s.store c key bs cached ack).mem = s.mem := by
  unfold State.store
  split
  · exact .inr rfl
  · exact .inl rfl

end Sys2Proof.Machine
end

