-- ==== Sys2Proof/Laws/PerInstr.lean ====
section
/-! SUPPORT. One lemma per constructor: the parts of a well-formed instruction that fits its lead words decode to it. -/

set_option linter.unusedSimpArgs false
set_option linter.unusedVariables false

namespace Sys2Proof.Laws

/-- Words of an instruction's parts and the rows of the decoder agree: the parts of a well-formed instruction whose operands
fit its lead words decode to it. -/
def PartsRoundTrip.Statement (i : Instr) : Prop :=
  i.wf = true → i.fits = true → ∃ p, i.parts = some p ∧ decodeParts p = some i.asRead

/-! ### What the rows need -/

/-- How a row of the decoder gives the statement. -/
theorem PartsRoundTrip.of {i j : Instr} {p : Parts} {c : Bool} {o : Option Instr} (hp : i.parts = some p)
    (hd : decodeParts p = if c = true then some j else o) (h : i.wf = true → (p.fits && i.immOk) = true → c = true ∧ j = i.asRead) :
    PartsRoundTrip.Statement i := by
  intro hw hf
  have e : (p.fits && i.immOk) = true := by
    have : i.fits = (p.fits && i.immOk) := by unfold Instr.fits; rw [hp]
    rw [← this]; exact hf
  obtain ⟨hc, hj⟩ := h hw e
  exact ⟨p, hp, by rw [hd, if_pos hc, hj]⟩

theorem imxVal_snoc (bs : List Byte) (b : Byte) : imxVal (bs ++ [b]) = imxVal bs * 256 + b.toNat := by
  simp [imxVal]

theorem imxVal_immBytes (n v : Nat) : imxVal (immBytes n v) = v % 256 ^ n := by
  induction n generalizing v with
  | zero => simp [immBytes, imxVal, Nat.mod_one]
  | succ n ih =>
    rw [immBytes, imxVal_snoc, ih, BitVec.toNat_ofNat, show (256 : Nat) ^ (n + 1) = 256 * 256 ^ n from by rw [Nat.pow_succ, Nat.mul_comm],
      Nat.mod_mul]
    omega

theorem immBytes_length (n v : Nat) : (immBytes n v).length = n := by
  induction n generalizing v with
  | zero => rfl
  | succ n ih => simp [immBytes, ih]

theorem sextNat_mod (w v : Nat) : sextNat w (v % 2 ^ w) = sextNat w v := by
  simp [sextNat]

/-- A displacement that fits comes back (R176). -/
theorem sextNat_disp {n : Nat} {v : Word} (h : dispFits n v = true) :
    sextNat (8 * (immBytes n v.toNat).length) (imxVal (immBytes n v.toNat)) = v := by
  rw [immBytes_length, imxVal_immBytes, show (256 : Nat) ^ n = 2 ^ (8 * n) from by rw [Nat.pow_mul], sextNat_mod]
  simpa [dispFits] using h

theorem i6_lo (v : Nat) : v / 4 % 16 % 2 ^ 6 % 16 * 4 + v % 2 ^ 2 = v % 64 := by omega
theorem i10_lo (v : Nat) : v / 64 % 16 % 2 ^ 6 % 16 * 64 + (v / 4 % 16 % 2 ^ 6 % 16 * 4 + v % 2 ^ 2) = v % 1024 := by omega

/-- A signed immediate of 6 bits that fits comes back (R174, R176). -/
theorem sextNat_ri {n : Nat} {v : Word} (h : immFits 6 n v = true) (r : Nat)
    (hr : r = v.toNat % 64) :
    sextNat (8 * (immBytes n (v.toNat / 64)).length + 6) (imxVal (immBytes n (v.toNat / 64)) * 64 + r) = v := by
  rw [immBytes_length, imxVal_immBytes, hr, show v.toNat / 64 % 256 ^ n * 64 + v.toNat % 64 = v.toNat % 2 ^ (8 * n + 6) from by
    rw [show (2 : Nat) ^ (8 * n + 6) = 64 * 256 ^ n from by rw [Nat.pow_add, Nat.pow_mul]; exact Nat.mul_comm _ _, Nat.mod_mul]; omega, sextNat_mod]
  simpa [immFits] using h

/-- A signed immediate of 10 bits that fits comes back (R174, R176). -/
theorem sextNat_i10 {n : Nat} {v : Word} (h : immFits 10 n v = true) (r : Nat)
    (hr : r = v.toNat % 1024) :
    sextNat (8 * (immBytes n (v.toNat / 1024)).length + 10) (imxVal (immBytes n (v.toNat / 1024)) * 1024 + r) = v := by
  rw [immBytes_length, imxVal_immBytes, hr, show v.toNat / 1024 % 256 ^ n * 1024 + v.toNat % 1024 = v.toNat % 2 ^ (8 * n + 10) from by
    rw [show (2 : Nat) ^ (8 * n + 10) = 1024 * 256 ^ n from by rw [Nat.pow_add, Nat.pow_mul]; exact Nat.mul_comm _ _, Nat.mod_mul]; omega, sextNat_mod]
  simpa [immFits] using h

/-- A system register number that fits comes back (R174, R176). -/
theorem sysNumber {n v : Nat} (h : v < 64 * 256 ^ n) : imxVal (immBytes n (v / 64)) * 64 + v % 64 = v := by
  rw [imxVal_immBytes, Nat.mod_eq_of_lt (Nat.div_lt_of_lt_mul h)]; omega

/-- An optional third source comes back: it stands exactly with a TRX (R179). -/
theorem tOpt_back {h : Head} {t : Option XReg} (e : (h.trx == t.isSome) = true) :
    (if h.shape.contains .trx then some (t.getD 0) else none) = t := by
  cases t <;> simp_all [Head.trx]

theorem vOk_set (r : BitVec 5) : vOk (r.setWidth 6) = true := by revert r; decide
theorem kOk_set (r : BitVec 3) : kOk (r.setWidth 6) = true := by revert r; decide
theorem accOk_set (r : BitVec 2) : accOk (r.setWidth 6) = true := by revert r; decide
theorem v_back (r : BitVec 5) : (r.setWidth 6).setWidth 5 = r := by revert r; decide
theorem k_back (r : BitVec 3) : (r.setWidth 6).setWidth 3 = r := by revert r; decide
theorem acc_back (r : BitVec 2) : (r.setWidth 6).setWidth 2 = r := by revert r; decide
theorem nib_back (r : BitVec 4) : (r.setWidth 6).setWidth 4 = r := by revert r; decide
theorem nib_lt (r : BitVec 4) : (r.setWidth 6).toNat < 16 := by revert r; decide
theorem ext3_back (r : BitVec 3) : (r.setWidth 5).setWidth 3 = r := by revert r; decide
theorem ext3_toNat (r : BitVec 3) : (r.setWidth 5).toNat = r.toNat := by revert r; decide
theorem ext4_back (r : BitVec 4) : (r.setWidth 5).setWidth 4 = r := by revert r; decide
theorem ext4_toNat (r : BitVec 4) : (r.setWidth 5).toNat = r.toNat := by revert r; decide
theorem i6_back (n : BitVec 6) :
    BitVec.ofNat 6 ((BitVec.ofNat 6 (n.toNat / 4 % 16)).toNat % 16 * 4 + (BitVec.ofNat 2 n.toNat).toNat) = n := by revert n; decide
theorem rc_mod (m : BitVec 2) (rc : BitVec 3) : (m ++ rc).toNat % 8 = rc.toNat := by revert m rc; decide
theorem rc_back (m : BitVec 2) (rc : BitVec 3) : (m ++ rc).setWidth 3 = rc := by revert m rc; decide
theorem mode_back (m : BitVec 2) (rc : BitVec 3) : (m ++ rc).extractLsb' 3 2 = m := by revert m rc; decide
theorem fmt_back (b : Bool) (f : BitVec 4) : (BitVec.ofBool b ++ f).setWidth 4 = f := by revert b f; decide
theorem dir_back (b : Bool) (f : BitVec 4) : (BitVec.ofBool b ++ f).getLsbD 4 = b := by revert b f; decide
theorem pair_mod (p : BitVec 3) (w : BitVec 2) : (p ++ w).toNat % 4 = w.toNat := by revert p w; decide
theorem pair_div (p : BitVec 3) (w : BitVec 2) : (p ++ w).toNat / 4 = p.toNat := by revert p w; decide
theorem pair_lo (p : BitVec 3) (w : BitVec 2) : (p ++ w).setWidth 2 = w := by revert p w; decide
theorem pair_hi (p : BitVec 3) (w : BitVec 2) : (p ++ w).extractLsb' 2 3 = p := by revert p w; decide
theorem lane_lt (z : Bool) (n : BitVec 3) : ((BitVec.ofBool z ++ n).setWidth 5).toNat < 16 := by revert z n; decide
theorem lane_back (z : Bool) (n : BitVec 3) : ((BitVec.ofBool z ++ n).setWidth 5).setWidth 3 = n := by revert z n; decide
theorem lane_top (z : Bool) (n : BitVec 3) : ((BitVec.ofBool z ++ n).setWidth 5).getLsbD 3 = z := by revert z n; decide
theorem lane_lt2 (z : Bool) (n : BitVec 3) : (BitVec.ofBool z ++ n).toNat < 16 := by revert z n; decide
theorem lane_back2 (z : Bool) (n : BitVec 3) : (BitVec.ofBool z ++ n).setWidth 3 = n := by revert z n; decide
theorem lane_top2 (z : Bool) (n : BitVec 3) : (BitVec.ofBool z ++ n)[3] = z := by revert z n; decide
theorem dir_back2 (b : Bool) (f : BitVec 4) : (BitVec.ofBool b ++ f)[4] = b := by revert b f; decide
theorem three_iff (w : BitVec 2) : w.toNat = 3 ↔ w = 3#2 := by revert w; decide
theorem flag_lt (b : Bool) : ((BitVec.ofBool b).setWidth 5).toNat ≤ 1 := by revert b; decide
theorem flag_back (b : Bool) : ((BitVec.ofBool b).setWidth 5).getLsbD 0 = b := by revert b; decide
theorem flags_lt (u w : Bool) : ((BitVec.ofBool u ++ BitVec.ofBool w).setWidth 5).toNat < 4 := by revert u w; decide
theorem flags_lo (u w : Bool) : (BitVec.ofBool u ++ BitVec.ofBool w)[0] = w := by revert u w; decide
theorem flags_hi (u w : Bool) : (BitVec.ofBool u ++ BitVec.ofBool w)[1] = u := by revert u w; decide
theorem acc_tile (c : BitVec 2) (r : BitVec 3) : ((c ++ r.extractLsb' 1 2).setWidth 6).extractLsb' 2 2 = c := by revert c r; decide
theorem ra_tile (c : BitVec 2) (r b : BitVec 3) : ((c ++ r.extractLsb' 1 2).setWidth 6).extractLsb' 0 2 ++
    ((r.extractLsb' 0 1 ++ b).setWidth 6).extractLsb' 3 1 = r := by revert c r b; decide
theorem rb_tile (r b : BitVec 3) : ((r.extractLsb' 0 1 ++ b).setWidth 6).setWidth 3 = b := by revert r b; decide
theorem z_tile (k z : Bool) : (BitVec.ofBool k ++ BitVec.ofBool z).getLsbD 0 = z := by revert k z; decide
theorem k_tile (k z : Bool) : (BitVec.ofBool k ++ BitVec.ofBool z).getLsbD 1 = k := by revert k z; decide
theorem d_tile (c : BitVec 2) (r : BitVec 3) : ((c ++ r.extractLsb' 1 2).setWidth 6).toNat < 16 := by revert c r; decide
theorem a_tile (r b : BitVec 3) : ((r.extractLsb' 0 1 ++ b).setWidth 6).toNat < 16 := by revert r b; decide
theorem quant_bits (b : Bool) : (((BitVec.ofBool b ++ (1 : BitVec 1)).setWidth 5).extractLsb' 2 3 == 0 &&
    ((BitVec.ofBool b ++ (1 : BitVec 1)).setWidth 5).getLsbD 0) = true := by revert b; decide
theorem quant_back (b : Bool) : (BitVec.ofBool b ++ 1#1)[1] = b := by revert b; decide
theorem shadow_lt {i : BitVec 3} (h : (i != 7) = true) : (i.setWidth 6).toNat < 7 := by revert i h; decide
theorem scope_lt {i : BitVec 3} (h : (i != 7) = true) : (i.setWidth 6).toNat < 7 := shadow_lt h
theorem two_lt (i : BitVec 2) : (i.setWidth 6).toNat < 4 := by revert i; decide

/-- A field insertion's position and length come back (R208). -/
theorem field_back {n : Nat} {lo wm : BitVec 6} (h : wm.toNat * 64 + lo.toNat < 256 ^ n) :
    imxVal (immBytes n (wm.toNat * 64 + lo.toNat)) = wm.toNat * 64 + lo.toNat := by
  rw [imxVal_immBytes, Nat.mod_eq_of_lt h]
theorem field_lo (lo wm : BitVec 6) : BitVec.ofNat 6 (wm.toNat * 64 + lo.toNat) = lo := by
  apply BitVec.eq_of_toNat_eq; rw [BitVec.toNat_ofNat]; have := lo.isLt; omega
theorem field_wm (lo wm : BitVec 6) : BitVec.ofNat 6 ((wm.toNat * 64 + lo.toNat) / 64) = wm := by
  apply BitVec.eq_of_toNat_eq; rw [BitVec.toNat_ofNat]; have := lo.isLt; have := wm.isLt; omega

/-- As `tOpt_back`, for a mask. -/
theorem tOpt_backK {h : Head} {t : Option KReg} (e : (h.trx == t.isSome) = true) :
    ((if h.shape.contains .trx then some ((t.getD 0).setWidth 6) else none : Option XReg).map (·.setWidth 3)) = t := by
  cases t <;> simp_all [Head.trx, k_back]

/-! ### The rows -/

theorem row_ill (p : Parts) (hp : p.page = 0) (ho : p.op = 0) (hf : p.f = 0) : decodeParts p =
    if p.plain && p.t == 0 then some (.ill p.head p.d p.a) else none := by
  obtain ⟨s, shape, page, ext, op, d, a, t, f, ord, sc, imx⟩ := p
  subst hp ho hf
  rfl

theorem row_nop (p : Parts) (hp : p.page = 0) (ho : p.op = 0) (hf : p.f = 1) : decodeParts p =
    if p.plain && p.t == 0 && p.d == 0 && p.a == 0 then some (.nop p.head) else none := by
  obtain ⟨s, shape, page, ext, op, d, a, t, f, ord, sc, imx⟩ := p
  subst hp ho hf
  rfl

theorem row_tick (p : Parts) (hp : p.page = 0) (ho : p.op = 0) (hf : p.f = 2) : decodeParts p =
    if p.plain && p.t == 0 && p.d == 0 && p.a == 0 then some (.tick p.head) else none := by
  obtain ⟨s, shape, page, ext, op, d, a, t, f, ord, sc, imx⟩ := p
  subst hp ho hf
  rfl

theorem row_halt (p : Parts) (hp : p.page = 0) (ho : p.op = 0) (hf : p.f = 3) : decodeParts p =
    if p.plain && p.t == 0 && p.d == 0 && p.a == 0 then some (.halt p.head) else none := by
  obtain ⟨s, shape, page, ext, op, d, a, t, f, ord, sc, imx⟩ := p
  subst hp ho hf
  rfl

theorem row_mov (p : Parts) (hp : p.page = 0) (ho : p.op = 1) (hf : p.f = 0) : decodeParts p =
    if p.plain && p.t == 0 then some (.mov p.head p.d p.a) else none := by
  obtain ⟨s, shape, page, ext, op, d, a, t, f, ord, sc, imx⟩ := p
  subst hp ho hf
  rfl

theorem row_not (p : Parts) (hp : p.page = 0) (ho : p.op = 1) (hf : p.f = 1) : decodeParts p =
    if p.plain && p.t == 0 then some (.not p.head p.d p.a) else none := by
  obtain ⟨s, shape, page, ext, op, d, a, t, f, ord, sc, imx⟩ := p
  subst hp ho hf
  rfl

theorem row_neg (p : Parts) (hp : p.page = 0) (ho : p.op = 1) (hf : p.f = 2) : decodeParts p =
    if p.plain && p.t == 0 then some (.neg p.head p.d p.a) else none := by
  obtain ⟨s, shape, page, ext, op, d, a, t, f, ord, sc, imx⟩ := p
  subst hp ho hf
  rfl

theorem row_clz (p : Parts) (hp : p.page = 0) (ho : p.op = 1) (hf : p.f = 3) : decodeParts p =
    if p.plain && p.t == 0 then some (.clz p.head p.d p.a) else none := by
  obtain ⟨s, shape, page, ext, op, d, a, t, f, ord, sc, imx⟩ := p
  subst hp ho hf
  rfl

theorem row_add (p : Parts) (hp : p.page = 0) (ho : p.op = 2) (hf : p.f = 0) : decodeParts p =
    if p.plain then some (.add p.head p.d p.a p.tOpt) else none := by
  obtain ⟨s, shape, page, ext, op, d, a, t, f, ord, sc, imx⟩ := p
  subst hp ho hf
  rfl

theorem row_sub (p : Parts) (hp : p.page = 0) (ho : p.op = 2) (hf : p.f = 1) : decodeParts p =
    if p.plain then some (.sub p.head p.d p.a p.tOpt) else none := by
  obtain ⟨s, shape, page, ext, op, d, a, t, f, ord, sc, imx⟩ := p
  subst hp ho hf
  rfl

theorem row_and (p : Parts) (hp : p.page = 0) (ho : p.op = 2) (hf : p.f = 2) : decodeParts p =
    if p.plain then some (.and p.head p.d p.a p.tOpt) else none := by
  obtain ⟨s, shape, page, ext, op, d, a, t, f, ord, sc, imx⟩ := p
  subst hp ho hf
  rfl

theorem row_or (p : Parts) (hp : p.page = 0) (ho : p.op = 2) (hf : p.f = 3) : decodeParts p =
    if p.plain then some (.or p.head p.d p.a p.tOpt) else none := by
  obtain ⟨s, shape, page, ext, op, d, a, t, f, ord, sc, imx⟩ := p
  subst hp ho hf
  rfl

theorem row_xor (p : Parts) (hp : p.page = 0) (ho : p.op = 3) (hf : p.f = 0) : decodeParts p =
    if p.plain then some (.xor p.head p.d p.a p.tOpt) else none := by
  obtain ⟨s, shape, page, ext, op, d, a, t, f, ord, sc, imx⟩ := p
  subst hp ho hf
  rfl

theorem row_shl (p : Parts) (hp : p.page = 0) (ho : p.op = 3) (hf : p.f = 1) : decodeParts p =
    if p.plain then some (.shl p.head p.d p.a p.tOpt) else none := by
  obtain ⟨s, shape, page, ext, op, d, a, t, f, ord, sc, imx⟩ := p
  subst hp ho hf
  rfl

theorem row_shr (p : Parts) (hp : p.page = 0) (ho : p.op = 3) (hf : p.f = 2) : decodeParts p =
    if p.plain then some (.shr p.head p.d p.a p.tOpt) else none := by
  obtain ⟨s, shape, page, ext, op, d, a, t, f, ord, sc, imx⟩ := p
  subst hp ho hf
  rfl

theorem row_sar (p : Parts) (hp : p.page = 0) (ho : p.op = 3) (hf : p.f = 3) : decodeParts p =
    if p.plain then some (.sar p.head p.d p.a p.tOpt) else none := by
  obtain ⟨s, shape, page, ext, op, d, a, t, f, ord, sc, imx⟩ := p
  subst hp ho hf
  rfl

theorem row_min (p : Parts) (hp : p.page = 0) (ho : p.op = 4) (hf : p.f = 0) : decodeParts p =
    if p.plain then some (.min p.head p.d p.a p.tOpt) else none := by
  obtain ⟨s, shape, page, ext, op, d, a, t, f, ord, sc, imx⟩ := p
  subst hp ho hf
  rfl

theorem row_max (p : Parts) (hp : p.page = 0) (ho : p.op = 4) (hf : p.f = 1) : decodeParts p =
    if p.plain then some (.max p.head p.d p.a p.tOpt) else none := by
  obtain ⟨s, shape, page, ext, op, d, a, t, f, ord, sc, imx⟩ := p
  subst hp ho hf
  rfl

theorem row_minu (p : Parts) (hp : p.page = 0) (ho : p.op = 4) (hf : p.f = 2) : decodeParts p =
    if p.plain then some (.minu p.head p.d p.a p.tOpt) else none := by
  obtain ⟨s, shape, page, ext, op, d, a, t, f, ord, sc, imx⟩ := p
  subst hp ho hf
  rfl

theorem row_maxu (p : Parts) (hp : p.page = 0) (ho : p.op = 4) (hf : p.f = 3) : decodeParts p =
    if p.plain then some (.maxu p.head p.d p.a p.tOpt) else none := by
  obtain ⟨s, shape, page, ext, op, d, a, t, f, ord, sc, imx⟩ := p
  subst hp ho hf
  rfl

theorem row_seq (p : Parts) (hp : p.page = 0) (ho : p.op = 5) (hf : p.f = 0) : decodeParts p =
    if p.plain then some (.seq p.head p.d p.a p.tOpt) else none := by
  obtain ⟨s, shape, page, ext, op, d, a, t, f, ord, sc, imx⟩ := p
  subst hp ho hf
  rfl

theorem row_sne (p : Parts) (hp : p.page = 0) (ho : p.op = 5) (hf : p.f = 1) : decodeParts p =
    if p.plain then some (.sne p.head p.d p.a p.tOpt) else none := by
  obtain ⟨s, shape, page, ext, op, d, a, t, f, ord, sc, imx⟩ := p
  subst hp ho hf
  rfl

theorem row_slt (p : Parts) (hp : p.page = 0) (ho : p.op = 5) (hf : p.f = 2) : decodeParts p =
    if p.plain then some (.slt p.head p.d p.a p.tOpt) else none := by
  obtain ⟨s, shape, page, ext, op, d, a, t, f, ord, sc, imx⟩ := p
  subst hp ho hf
  rfl

theorem row_sltu (p : Parts) (hp : p.page = 0) (ho : p.op = 5) (hf : p.f = 3) : decodeParts p =
    if p.plain then some (.sltu p.head p.d p.a p.tOpt) else none := by
  obtain ⟨s, shape, page, ext, op, d, a, t, f, ord, sc, imx⟩ := p
  subst hp ho hf
  rfl

theorem row_mul (p : Parts) (hp : p.page = 0) (ho : p.op = 6) (hf : p.f = 0) : decodeParts p =
    if p.plain then some (.mul p.head p.d p.a p.tOpt) else none := by
  obtain ⟨s, shape, page, ext, op, d, a, t, f, ord, sc, imx⟩ := p
  subst hp ho hf
  rfl

theorem row_mulh (p : Parts) (hp : p.page = 0) (ho : p.op = 6) (hf : p.f = 1) : decodeParts p =
    if p.plain then some (.mulh p.head p.d p.a p.tOpt) else none := by
  obtain ⟨s, shape, page, ext, op, d, a, t, f, ord, sc, imx⟩ := p
  subst hp ho hf
  rfl

theorem row_mulhu (p : Parts) (hp : p.page = 0) (ho : p.op = 6) (hf : p.f = 2) : decodeParts p =
    if p.plain then some (.mulhu p.head p.d p.a p.tOpt) else none := by
  obtain ⟨s, shape, page, ext, op, d, a, t, f, ord, sc, imx⟩ := p
  subst hp ho hf
  rfl

theorem row_popc (p : Parts) (hp : p.page = 0) (ho : p.op = 6) (hf : p.f = 3) : decodeParts p =
    if p.plain && p.t == 0 then some (.popc p.head p.d p.a) else none := by
  obtain ⟨s, shape, page, ext, op, d, a, t, f, ord, sc, imx⟩ := p
  subst hp ho hf
  rfl

theorem row_div (p : Parts) (hp : p.page = 0) (ho : p.op = 7) (hf : p.f = 0) : decodeParts p =
    if p.plain then some (.div p.head p.d p.a p.tOpt) else none := by
  obtain ⟨s, shape, page, ext, op, d, a, t, f, ord, sc, imx⟩ := p
  subst hp ho hf
  rfl

theorem row_divu (p : Parts) (hp : p.page = 0) (ho : p.op = 7) (hf : p.f = 1) : decodeParts p =
    if p.plain then some (.divu p.head p.d p.a p.tOpt) else none := by
  obtain ⟨s, shape, page, ext, op, d, a, t, f, ord, sc, imx⟩ := p
  subst hp ho hf
  rfl

theorem row_rem (p : Parts) (hp : p.page = 0) (ho : p.op = 7) (hf : p.f = 2) : decodeParts p =
    if p.plain then some (.rem p.head p.d p.a p.tOpt) else none := by
  obtain ⟨s, shape, page, ext, op, d, a, t, f, ord, sc, imx⟩ := p
  subst hp ho hf
  rfl

theorem row_remu (p : Parts) (hp : p.page = 0) (ho : p.op = 7) (hf : p.f = 3) : decodeParts p =
    if p.plain then some (.remu p.head p.d p.a p.tOpt) else none := by
  obtain ⟨s, shape, page, ext, op, d, a, t, f, ord, sc, imx⟩ := p
  subst hp ho hf
  rfl

theorem row_addi (p : Parts) (hp : p.page = 0) (ho : p.op = 8) : decodeParts p =
    if p.plainI && p.t == 0 && p.a.toNat < 16 then some (.addi p.head p.d (sextNat (8 * p.imx.length + 6) (imxVal p.imx * 64 + p.i6))) else none := by
  obtain ⟨s, shape, page, ext, op, d, a, t, f, ord, sc, imx⟩ := p
  subst hp ho
  rfl

theorem row_li (p : Parts) (hp : p.page = 0) (ho : p.op = 9) : decodeParts p =
    if p.plainI && p.t == 0 && p.a.toNat < 16 then some (.li p.head p.d (sextNat (8 * p.imx.length + 6) (imxVal p.imx * 64 + p.i6))) else none := by
  obtain ⟨s, shape, page, ext, op, d, a, t, f, ord, sc, imx⟩ := p
  subst hp ho
  rfl

theorem row_andi (p : Parts) (hp : p.page = 0) (ho : p.op = 10) : decodeParts p =
    if p.plainI && p.t == 0 && p.a.toNat < 16 then some (.andi p.head p.d (sextNat (8 * p.imx.length + 6) (imxVal p.imx * 64 + p.i6))) else none := by
  obtain ⟨s, shape, page, ext, op, d, a, t, f, ord, sc, imx⟩ := p
  subst hp ho
  rfl

theorem row_shli (p : Parts) (hp : p.page = 0) (ho : p.op = 11) : decodeParts p =
    if p.plain && p.t == 0 && p.a.toNat < 16 then some (.shli p.head p.d (BitVec.ofNat 6 p.i6)) else none := by
  obtain ⟨s, shape, page, ext, op, d, a, t, f, ord, sc, imx⟩ := p
  subst hp ho
  rfl

theorem row_shri (p : Parts) (hp : p.page = 0) (ho : p.op = 12) : decodeParts p =
    if p.plain && p.t == 0 && p.a.toNat < 16 then some (.shri p.head p.d (BitVec.ofNat 6 p.i6)) else none := by
  obtain ⟨s, shape, page, ext, op, d, a, t, f, ord, sc, imx⟩ := p
  subst hp ho
  rfl

theorem row_sari (p : Parts) (hp : p.page = 0) (ho : p.op = 13) : decodeParts p =
    if p.plain && p.t == 0 && p.a.toNat < 16 then some (.sari p.head p.d (BitVec.ofNat 6 p.i6)) else none := by
  obtain ⟨s, shape, page, ext, op, d, a, t, f, ord, sc, imx⟩ := p
  subst hp ho
  rfl

theorem row_ldB (p : Parts) (hp : p.page = 0) (ho : p.op = 14) (hf : p.f = 0) : decodeParts p =
    if p.ext == 0 && p.t == 0 && (⟨p.ord, p.sc⟩ : Order).okAccess then some (.ldB p.head p.d p.a p.disp ⟨p.ord, p.sc⟩) else none := by
  obtain ⟨s, shape, page, ext, op, d, a, t, f, ord, sc, imx⟩ := p
  subst hp ho hf
  rfl

theorem row_ldH (p : Parts) (hp : p.page = 0) (ho : p.op = 14) (hf : p.f = 1) : decodeParts p =
    if p.ext == 0 && p.t == 0 && (⟨p.ord, p.sc⟩ : Order).okAccess then some (.ldH p.head p.d p.a p.disp ⟨p.ord, p.sc⟩) else none := by
  obtain ⟨s, shape, page, ext, op, d, a, t, f, ord, sc, imx⟩ := p
  subst hp ho hf
  rfl

theorem row_ldW (p : Parts) (hp : p.page = 0) (ho : p.op = 14) (hf : p.f = 2) : decodeParts p =
    if p.ext == 0 && p.t == 0 && (⟨p.ord, p.sc⟩ : Order).okAccess then some (.ldW p.head p.d p.a p.disp ⟨p.ord, p.sc⟩) else none := by
  obtain ⟨s, shape, page, ext, op, d, a, t, f, ord, sc, imx⟩ := p
  subst hp ho hf
  rfl

theorem row_ldD (p : Parts) (hp : p.page = 0) (ho : p.op = 14) (hf : p.f = 3) : decodeParts p =
    if p.ext == 0 && p.t == 0 && (⟨p.ord, p.sc⟩ : Order).okAccess then some (.ldD p.head p.d p.a p.disp ⟨p.ord, p.sc⟩) else none := by
  obtain ⟨s, shape, page, ext, op, d, a, t, f, ord, sc, imx⟩ := p
  subst hp ho hf
  rfl

theorem row_ldzB (p : Parts) (hp : p.page = 0) (ho : p.op = 15) (hf : p.f = 0) : decodeParts p =
    if p.ext == 0 && p.t == 0 && (⟨p.ord, p.sc⟩ : Order).okAccess then some (.ldzB p.head p.d p.a p.disp ⟨p.ord, p.sc⟩) else none := by
  obtain ⟨s, shape, page, ext, op, d, a, t, f, ord, sc, imx⟩ := p
  subst hp ho hf
  rfl

theorem row_ldzH (p : Parts) (hp : p.page = 0) (ho : p.op = 15) (hf : p.f = 1) : decodeParts p =
    if p.ext == 0 && p.t == 0 && (⟨p.ord, p.sc⟩ : Order).okAccess then some (.ldzH p.head p.d p.a p.disp ⟨p.ord, p.sc⟩) else none := by
  obtain ⟨s, shape, page, ext, op, d, a, t, f, ord, sc, imx⟩ := p
  subst hp ho hf
  rfl

theorem row_ldzW (p : Parts) (hp : p.page = 0) (ho : p.op = 15) (hf : p.f = 2) : decodeParts p =
    if p.ext == 0 && p.t == 0 && (⟨p.ord, p.sc⟩ : Order).okAccess then some (.ldzW p.head p.d p.a p.disp ⟨p.ord, p.sc⟩) else none := by
  obtain ⟨s, shape, page, ext, op, d, a, t, f, ord, sc, imx⟩ := p
  subst hp ho hf
  rfl

theorem row_stB (p : Parts) (hp : p.page = 0) (ho : p.op = 16) (hf : p.f = 0) : decodeParts p =
    if p.ext == 0 && p.t == 0 && (⟨p.ord, p.sc⟩ : Order).okAccess then some (.stB p.head p.d p.a p.disp ⟨p.ord, p.sc⟩) else none := by
  obtain ⟨s, shape, page, ext, op, d, a, t, f, ord, sc, imx⟩ := p
  subst hp ho hf
  rfl

theorem row_stH (p : Parts) (hp : p.page = 0) (ho : p.op = 16) (hf : p.f = 1) : decodeParts p =
    if p.ext == 0 && p.t == 0 && (⟨p.ord, p.sc⟩ : Order).okAccess then some (.stH p.head p.d p.a p.disp ⟨p.ord, p.sc⟩) else none := by
  obtain ⟨s, shape, page, ext, op, d, a, t, f, ord, sc, imx⟩ := p
  subst hp ho hf
  rfl

theorem row_stW (p : Parts) (hp : p.page = 0) (ho : p.op = 16) (hf : p.f = 2) : decodeParts p =
    if p.ext == 0 && p.t == 0 && (⟨p.ord, p.sc⟩ : Order).okAccess then some (.stW p.head p.d p.a p.disp ⟨p.ord, p.sc⟩) else none := by
  obtain ⟨s, shape, page, ext, op, d, a, t, f, ord, sc, imx⟩ := p
  subst hp ho hf
  rfl

theorem row_stD (p : Parts) (hp : p.page = 0) (ho : p.op = 16) (hf : p.f = 3) : decodeParts p =
    if p.ext == 0 && p.t == 0 && (⟨p.ord, p.sc⟩ : Order).okAccess then some (.stD p.head p.d p.a p.disp ⟨p.ord, p.sc⟩) else none := by
  obtain ⟨s, shape, page, ext, op, d, a, t, f, ord, sc, imx⟩ := p
  subst hp ho hf
  rfl

theorem row_tld8 (p : Parts) (hp : p.page = 0) (ho : p.op = 17) (hf : p.f = 0) : decodeParts p =
    if p.ext == 0 && p.ord != 3 && (⟨p.ord, p.sc⟩ : Order).okAccess then some (.tld8 p.head p.d p.a p.disp p.t ⟨p.ord, p.sc⟩) else none := by
  obtain ⟨s, shape, page, ext, op, d, a, t, f, ord, sc, imx⟩ := p
  subst hp ho hf
  rfl

theorem row_tld32 (p : Parts) (hp : p.page = 0) (ho : p.op = 17) (hf : p.f = 1) : decodeParts p =
    if p.ext == 0 && p.ord != 3 && (⟨p.ord, p.sc⟩ : Order).okAccess then some (.tld32 p.head p.d p.a p.disp p.t ⟨p.ord, p.sc⟩) else none := by
  obtain ⟨s, shape, page, ext, op, d, a, t, f, ord, sc, imx⟩ := p
  subst hp ho hf
  rfl

theorem row_tld64 (p : Parts) (hp : p.page = 0) (ho : p.op = 17) (hf : p.f = 2) : decodeParts p =
    if p.ext == 0 && p.ord != 3 && (⟨p.ord, p.sc⟩ : Order).okAccess then some (.tld64 p.head p.d p.a p.disp p.t ⟨p.ord, p.sc⟩) else none := by
  obtain ⟨s, shape, page, ext, op, d, a, t, f, ord, sc, imx⟩ := p
  subst hp ho hf
  rfl

theorem row_tld256 (p : Parts) (hp : p.page = 0) (ho : p.op = 17) (hf : p.f = 3) : decodeParts p =
    if p.ext == 0 && p.ord != 3 && (⟨p.ord, p.sc⟩ : Order).okAccess then some (.tld256 p.head p.d p.a p.disp p.t ⟨p.ord, p.sc⟩) else none := by
  obtain ⟨s, shape, page, ext, op, d, a, t, f, ord, sc, imx⟩ := p
  subst hp ho hf
  rfl

theorem row_rdm (p : Parts) (hp : p.page = 0) (ho : p.op = 18) (hf : p.f = 0) : decodeParts p =
    if p.plain && p.t == 0 then some (.rdm p.head p.d p.a) else none := by
  obtain ⟨s, shape, page, ext, op, d, a, t, f, ord, sc, imx⟩ := p
  subst hp ho hf
  rfl

theorem row_rdmV (p : Parts) (hp : p.page = 0) (ho : p.op = 18) (hf : p.f = 1) : decodeParts p =
    if p.plain && p.t == 0 && vOk p.d then some (.rdmV p.head (p.d.setWidth 5) p.a) else none := by
  obtain ⟨s, shape, page, ext, op, d, a, t, f, ord, sc, imx⟩ := p
  subst hp ho hf
  rfl

theorem row_rdmS (p : Parts) (hp : p.page = 0) (ho : p.op = 18) (hf : p.f = 2) : decodeParts p =
    if p.plainI && p.t == 0 then some (.rdmS p.head p.d p.a p.disp) else none := by
  obtain ⟨s, shape, page, ext, op, d, a, t, f, ord, sc, imx⟩ := p
  subst hp ho hf
  rfl

theorem row_tkq (p : Parts) (hp : p.page = 0) (ho : p.op = 18) (hf : p.f = 3) : decodeParts p =
    if p.plain && p.t == 0 then some (.tkq p.head p.d p.a) else none := by
  obtain ⟨s, shape, page, ext, op, d, a, t, f, ord, sc, imx⟩ := p
  subst hp ho hf
  rfl

theorem row_br (p : Parts) (hp : p.page = 0) (ho : p.op = 19) : decodeParts p =
    if p.plainI && p.t == 0 && p.d.toNat < 16 && p.a.toNat < 16 then some (.br p.head (sextNat (8 * p.imx.length + 10) (imxVal p.imx * 1024 + p.i10))) else none := by
  obtain ⟨s, shape, page, ext, op, d, a, t, f, ord, sc, imx⟩ := p
  subst hp ho
  rfl

theorem row_call (p : Parts) (hp : p.page = 0) (ho : p.op = 20) : decodeParts p =
    if p.plainI && p.t == 0 && p.d.toNat < 16 && p.a.toNat < 16 then some (.call p.head (sextNat (8 * p.imx.length + 10) (imxVal p.imx * 1024 + p.i10))) else none := by
  obtain ⟨s, shape, page, ext, op, d, a, t, f, ord, sc, imx⟩ := p
  subst hp ho
  rfl

theorem row_bz (p : Parts) (hp : p.page = 0) (ho : p.op = 21) : decodeParts p =
    if p.plainI && p.t == 0 && p.a.toNat < 16 then some (.bz p.head p.d (sextNat (8 * p.imx.length + 6) (imxVal p.imx * 64 + p.i6))) else none := by
  obtain ⟨s, shape, page, ext, op, d, a, t, f, ord, sc, imx⟩ := p
  subst hp ho
  rfl

theorem row_bnz (p : Parts) (hp : p.page = 0) (ho : p.op = 22) : decodeParts p =
    if p.plainI && p.t == 0 && p.a.toNat < 16 then some (.bnz p.head p.d (sextNat (8 * p.imx.length + 6) (imxVal p.imx * 64 + p.i6))) else none := by
  obtain ⟨s, shape, page, ext, op, d, a, t, f, ord, sc, imx⟩ := p
  subst hp ho
  rfl

theorem row_loop (p : Parts) (hp : p.page = 0) (ho : p.op = 23) : decodeParts p =
    if p.plainI && p.t == 0 && p.a.toNat < 16 then some (.loop p.head p.d (sextNat (8 * p.imx.length + 6) (imxVal p.imx * 64 + p.i6))) else none := by
  obtain ⟨s, shape, page, ext, op, d, a, t, f, ord, sc, imx⟩ := p
  subst hp ho
  rfl

theorem row_jr (p : Parts) (hp : p.page = 0) (ho : p.op = 24) (hf : p.f = 0) : decodeParts p =
    if p.plain && p.t == 0 && p.d == 0 then some (.jr p.head p.a) else none := by
  obtain ⟨s, shape, page, ext, op, d, a, t, f, ord, sc, imx⟩ := p
  subst hp ho hf
  rfl

theorem row_callr (p : Parts) (hp : p.page = 0) (ho : p.op = 24) (hf : p.f = 1) : decodeParts p =
    if p.plain && p.t == 0 && p.d == 0 then some (.callr p.head p.a) else none := by
  obtain ⟨s, shape, page, ext, op, d, a, t, f, ord, sc, imx⟩ := p
  subst hp ho hf
  rfl

theorem row_ret (p : Parts) (hp : p.page = 0) (ho : p.op = 24) (hf : p.f = 2) : decodeParts p =
    if p.plain && p.t == 0 && p.d == 0 && p.a == 0 then some (.ret p.head) else none := by
  obtain ⟨s, shape, page, ext, op, d, a, t, f, ord, sc, imx⟩ := p
  subst hp ho hf
  rfl

theorem row_jtab (p : Parts) (hp : p.page = 0) (ho : p.op = 24) (hf : p.f = 3) : decodeParts p =
    if p.plainI && p.t == 0 then some (.jtab p.head p.d p.a (BitVec.ofNat 64 (imxVal p.imx))) else none := by
  obtain ⟨s, shape, page, ext, op, d, a, t, f, ord, sc, imx⟩ := p
  subst hp ho hf
  rfl

theorem row_mfs (p : Parts) (hp : p.page = 0) (ho : p.op = 25) : decodeParts p =
    if p.plainI && p.t == 0 && p.a.toNat < 16 && decide (imxVal p.imx * 64 + p.i6 < 1024) then some (.mfs p.head p.d (BitVec.ofNat 10 (imxVal p.imx * 64 + p.i6))) else none := by
  obtain ⟨s, shape, page, ext, op, d, a, t, f, ord, sc, imx⟩ := p
  subst hp ho
  rfl

theorem row_mts (p : Parts) (hp : p.page = 0) (ho : p.op = 26) : decodeParts p =
    if p.plainI && p.t == 0 && p.a.toNat < 16 && decide (imxVal p.imx * 64 + p.i6 < 1024) then some (.mts p.head p.d (BitVec.ofNat 10 (imxVal p.imx * 64 + p.i6))) else none := by
  obtain ⟨s, shape, page, ext, op, d, a, t, f, ord, sc, imx⟩ := p
  subst hp ho
  rfl

theorem row_fence (p : Parts) (hp : p.page = 0) (ho : p.op = 27) (hf : p.f = 0) : decodeParts p =
    if p.plain && p.t == 0 && p.shape == [] && p.d.toNat < 7 && p.a.toNat < 4 then some (.fence p.head (p.d.setWidth 3) (p.a.setWidth 2)) else none := by
  obtain ⟨s, shape, page, ext, op, d, a, t, f, ord, sc, imx⟩ := p
  subst hp ho hf
  rfl

theorem row_bar (p : Parts) (hp : p.page = 0) (ho : p.op = 28) (hf : p.f = 0) : decodeParts p =
    if p.plain && p.t == 0 && p.d == 0 then some (.bar p.head p.a) else none := by
  obtain ⟨s, shape, page, ext, op, d, a, t, f, ord, sc, imx⟩ := p
  subst hp ho hf
  rfl

theorem row_bara (p : Parts) (hp : p.page = 0) (ho : p.op = 28) (hf : p.f = 1) : decodeParts p =
    if p.plain && p.t == 0 then some (.bara p.head p.d p.a) else none := by
  obtain ⟨s, shape, page, ext, op, d, a, t, f, ord, sc, imx⟩ := p
  subst hp ho hf
  rfl

theorem row_barw (p : Parts) (hp : p.page = 0) (ho : p.op = 28) (hf : p.f = 2) : decodeParts p =
    if p.plain && p.t == 0 then some (.barw p.head p.d p.a) else none := by
  obtain ⟨s, shape, page, ext, op, d, a, t, f, ord, sc, imx⟩ := p
  subst hp ho hf
  rfl

theorem row_barq (p : Parts) (hp : p.page = 0) (ho : p.op = 28) (hf : p.f = 3) : decodeParts p =
    if p.plain && p.t == 0 then some (.barq p.head p.d p.a) else none := by
  obtain ⟨s, shape, page, ext, op, d, a, t, f, ord, sc, imx⟩ := p
  subst hp ho hf
  rfl

theorem row_trap (p : Parts) (hp : p.page = 0) (ho : p.op = 29) : decodeParts p =
    if p.plain && p.t == 0 && p.d.toNat < 16 && p.a.toNat < 16 then some (.trap p.head (BitVec.ofNat 10 p.i10)) else none := by
  obtain ⟨s, shape, page, ext, op, d, a, t, f, ord, sc, imx⟩ := p
  subst hp ho
  rfl

theorem row_rol (p : Parts) (hp : p.page = 1) (ho : p.op = 0) (hf : p.f = 0) : decodeParts p =
    if p.plain then some (.rol p.head p.d p.a p.tOpt) else none := by
  obtain ⟨s, shape, page, ext, op, d, a, t, f, ord, sc, imx⟩ := p
  subst hp ho hf
  rfl

theorem row_ror (p : Parts) (hp : p.page = 1) (ho : p.op = 0) (hf : p.f = 1) : decodeParts p =
    if p.plain then some (.ror p.head p.d p.a p.tOpt) else none := by
  obtain ⟨s, shape, page, ext, op, d, a, t, f, ord, sc, imx⟩ := p
  subst hp ho hf
  rfl

theorem row_bswap (p : Parts) (hp : p.page = 1) (ho : p.op = 0) (hf : p.f = 2) : decodeParts p =
    if p.plain && p.t == 0 then some (.bswap p.head p.d p.a) else none := by
  obtain ⟨s, shape, page, ext, op, d, a, t, f, ord, sc, imx⟩ := p
  subst hp ho hf
  rfl

theorem row_ctz (p : Parts) (hp : p.page = 1) (ho : p.op = 0) (hf : p.f = 3) : decodeParts p =
    if p.plain && p.t == 0 then some (.ctz p.head p.d p.a) else none := by
  obtain ⟨s, shape, page, ext, op, d, a, t, f, ord, sc, imx⟩ := p
  subst hp ho hf
  rfl

theorem row_ext (p : Parts) (hp : p.page = 1) (ho : p.op = 1) (hf : p.f = 0) : decodeParts p =
    if p.plainI && p.t == 0 && decide (imxVal p.imx < 4096) && decide (imxVal p.imx % 64 + imxVal p.imx / 64 < 64) then some (.ext p.head p.d p.a (BitVec.ofNat 6 (imxVal p.imx)) (BitVec.ofNat 6 (imxVal p.imx / 64))) else none := by
  obtain ⟨s, shape, page, ext, op, d, a, t, f, ord, sc, imx⟩ := p
  subst hp ho hf
  rfl

theorem row_extz (p : Parts) (hp : p.page = 1) (ho : p.op = 1) (hf : p.f = 1) : decodeParts p =
    if p.plainI && p.t == 0 && decide (imxVal p.imx < 4096) && decide (imxVal p.imx % 64 + imxVal p.imx / 64 < 64) then some (.extz p.head p.d p.a (BitVec.ofNat 6 (imxVal p.imx)) (BitVec.ofNat 6 (imxVal p.imx / 64))) else none := by
  obtain ⟨s, shape, page, ext, op, d, a, t, f, ord, sc, imx⟩ := p
  subst hp ho hf
  rfl

theorem row_dep (p : Parts) (hp : p.page = 1) (ho : p.op = 1) (hf : p.f = 2) : decodeParts p =
    if p.plainI && p.t == 0 && decide (imxVal p.imx < 4096) && decide (imxVal p.imx % 64 + imxVal p.imx / 64 < 64) then some (.dep p.head p.d p.a (BitVec.ofNat 6 (imxVal p.imx)) (BitVec.ofNat 6 (imxVal p.imx / 64))) else none := by
  obtain ⟨s, shape, page, ext, op, d, a, t, f, ord, sc, imx⟩ := p
  subst hp ho hf
  rfl

theorem row_depz (p : Parts) (hp : p.page = 1) (ho : p.op = 1) (hf : p.f = 3) : decodeParts p =
    if p.plainI && p.t == 0 && decide (imxVal p.imx < 4096) && decide (imxVal p.imx % 64 + imxVal p.imx / 64 < 64) then some (.depz p.head p.d p.a (BitVec.ofNat 6 (imxVal p.imx)) (BitVec.ofNat 6 (imxVal p.imx / 64))) else none := by
  obtain ⟨s, shape, page, ext, op, d, a, t, f, ord, sc, imx⟩ := p
  subst hp ho hf
  rfl

theorem row_lea (p : Parts) (hp : p.page = 1) (ho : p.op = 2) : decodeParts p =
    if p.plainI then some (.lea p.head p.d p.a p.tOpt p.f p.disp) else none := by
  obtain ⟨s, shape, page, ext, op, d, a, t, f, ord, sc, imx⟩ := p
  subst hp ho
  rfl

theorem row_madd (p : Parts) (hp : p.page = 1) (ho : p.op = 3) (hf : p.f = 0) : decodeParts p =
    if p.plain then some (.madd p.head p.d p.a p.t) else none := by
  obtain ⟨s, shape, page, ext, op, d, a, t, f, ord, sc, imx⟩ := p
  subst hp ho hf
  rfl

theorem row_msub (p : Parts) (hp : p.page = 1) (ho : p.op = 3) (hf : p.f = 1) : decodeParts p =
    if p.plain then some (.msub p.head p.d p.a p.t) else none := by
  obtain ⟨s, shape, page, ext, op, d, a, t, f, ord, sc, imx⟩ := p
  subst hp ho hf
  rfl

theorem row_cselz (p : Parts) (hp : p.page = 1) (ho : p.op = 4) (hf : p.f = 0) : decodeParts p =
    if p.plain then some (.cselz p.head p.d p.a p.t) else none := by
  obtain ⟨s, shape, page, ext, op, d, a, t, f, ord, sc, imx⟩ := p
  subst hp ho hf
  rfl

theorem row_cselnz (p : Parts) (hp : p.page = 1) (ho : p.op = 4) (hf : p.f = 1) : decodeParts p =
    if p.plain then some (.cselnz p.head p.d p.a p.t) else none := by
  obtain ⟨s, shape, page, ext, op, d, a, t, f, ord, sc, imx⟩ := p
  subst hp ho hf
  rfl

theorem row_sextB (p : Parts) (hp : p.page = 1) (ho : p.op = 5) (hf : p.f = 0) : decodeParts p =
    if p.plain && p.t == 0 then some (.sextB p.head p.d p.a) else none := by
  obtain ⟨s, shape, page, ext, op, d, a, t, f, ord, sc, imx⟩ := p
  subst hp ho hf
  rfl

theorem row_sextH (p : Parts) (hp : p.page = 1) (ho : p.op = 5) (hf : p.f = 1) : decodeParts p =
    if p.plain && p.t == 0 then some (.sextH p.head p.d p.a) else none := by
  obtain ⟨s, shape, page, ext, op, d, a, t, f, ord, sc, imx⟩ := p
  subst hp ho hf
  rfl

theorem row_sextW (p : Parts) (hp : p.page = 1) (ho : p.op = 5) (hf : p.f = 2) : decodeParts p =
    if p.plain && p.t == 0 then some (.sextW p.head p.d p.a) else none := by
  obtain ⟨s, shape, page, ext, op, d, a, t, f, ord, sc, imx⟩ := p
  subst hp ho hf
  rfl

theorem row_zextW (p : Parts) (hp : p.page = 1) (ho : p.op = 5) (hf : p.f = 3) : decodeParts p =
    if p.plain && p.t == 0 then some (.zextW p.head p.d p.a) else none := by
  obtain ⟨s, shape, page, ext, op, d, a, t, f, ord, sc, imx⟩ := p
  subst hp ho hf
  rfl

theorem row_hash (p : Parts) (hp : p.page = 1) (ho : p.op = 6) (hf : p.f = 0) : decodeParts p =
    if p.plain then some (.hash p.head p.d p.a p.tOpt) else none := by
  obtain ⟨s, shape, page, ext, op, d, a, t, f, ord, sc, imx⟩ := p
  subst hp ho hf
  rfl

theorem row_crc (p : Parts) (hp : p.page = 1) (ho : p.op = 6) (hf : p.f = 1) : decodeParts p =
    if p.plain then some (.crc p.head p.d p.a p.tOpt) else none := by
  obtain ⟨s, shape, page, ext, op, d, a, t, f, ord, sc, imx⟩ := p
  subst hp ho hf
  rfl

theorem row_geo (p : Parts) (hp : p.page = 1) (ho : p.op = 7) : decodeParts p =
    if p.plain && p.t == 0 && p.a.toNat < 16 then some (.geo p.head p.d (BitVec.ofNat 6 p.i6)) else none := by
  obtain ⟨s, shape, page, ext, op, d, a, t, f, ord, sc, imx⟩ := p
  subst hp ho
  rfl

theorem row_adds (p : Parts) (hp : p.page = 1) (ho : p.op = 8) (hf : p.f = 0) : decodeParts p =
    if p.plain then some (.adds p.head p.d p.a p.tOpt) else none := by
  obtain ⟨s, shape, page, ext, op, d, a, t, f, ord, sc, imx⟩ := p
  subst hp ho hf
  rfl

theorem row_subs (p : Parts) (hp : p.page = 1) (ho : p.op = 8) (hf : p.f = 1) : decodeParts p =
    if p.plain then some (.subs p.head p.d p.a p.tOpt) else none := by
  obtain ⟨s, shape, page, ext, op, d, a, t, f, ord, sc, imx⟩ := p
  subst hp ho hf
  rfl

theorem row_addus (p : Parts) (hp : p.page = 1) (ho : p.op = 8) (hf : p.f = 2) : decodeParts p =
    if p.plain then some (.addus p.head p.d p.a p.tOpt) else none := by
  obtain ⟨s, shape, page, ext, op, d, a, t, f, ord, sc, imx⟩ := p
  subst hp ho hf
  rfl

theorem row_subus (p : Parts) (hp : p.page = 1) (ho : p.op = 8) (hf : p.f = 3) : decodeParts p =
    if p.plain then some (.subus p.head p.d p.a p.tOpt) else none := by
  obtain ⟨s, shape, page, ext, op, d, a, t, f, ord, sc, imx⟩ := p
  subst hp ho hf
  rfl

theorem row_vadd (p : Parts) (hp : p.page = 2) (ho : p.op = 0) (hf : p.f = 0) : decodeParts p =
    if p.plain && vOk p.d && vOk p.a && kOk p.t then some (.vadd p.head (p.d.setWidth 5) (p.a.setWidth 5) (p.t.setWidth 3)) else none := by
  obtain ⟨s, shape, page, ext, op, d, a, t, f, ord, sc, imx⟩ := p
  subst hp ho hf
  rfl

theorem row_vsub (p : Parts) (hp : p.page = 2) (ho : p.op = 0) (hf : p.f = 1) : decodeParts p =
    if p.plain && vOk p.d && vOk p.a && kOk p.t then some (.vsub p.head (p.d.setWidth 5) (p.a.setWidth 5) (p.t.setWidth 3)) else none := by
  obtain ⟨s, shape, page, ext, op, d, a, t, f, ord, sc, imx⟩ := p
  subst hp ho hf
  rfl

theorem row_vmul (p : Parts) (hp : p.page = 2) (ho : p.op = 0) (hf : p.f = 2) : decodeParts p =
    if p.plain && vOk p.d && vOk p.a && kOk p.t then some (.vmul p.head (p.d.setWidth 5) (p.a.setWidth 5) (p.t.setWidth 3)) else none := by
  obtain ⟨s, shape, page, ext, op, d, a, t, f, ord, sc, imx⟩ := p
  subst hp ho hf
  rfl

theorem row_vmulh (p : Parts) (hp : p.page = 2) (ho : p.op = 0) (hf : p.f = 3) : decodeParts p =
    if p.plain && vOk p.d && vOk p.a && kOk p.t then some (.vmulh p.head (p.d.setWidth 5) (p.a.setWidth 5) (p.t.setWidth 3)) else none := by
  obtain ⟨s, shape, page, ext, op, d, a, t, f, ord, sc, imx⟩ := p
  subst hp ho hf
  rfl

theorem row_vand (p : Parts) (hp : p.page = 2) (ho : p.op = 1) (hf : p.f = 0) : decodeParts p =
    if p.plain && vOk p.d && vOk p.a && kOk p.t then some (.vand p.head (p.d.setWidth 5) (p.a.setWidth 5) (p.t.setWidth 3)) else none := by
  obtain ⟨s, shape, page, ext, op, d, a, t, f, ord, sc, imx⟩ := p
  subst hp ho hf
  rfl

theorem row_vor (p : Parts) (hp : p.page = 2) (ho : p.op = 1) (hf : p.f = 1) : decodeParts p =
    if p.plain && vOk p.d && vOk p.a && kOk p.t then some (.vor p.head (p.d.setWidth 5) (p.a.setWidth 5) (p.t.setWidth 3)) else none := by
  obtain ⟨s, shape, page, ext, op, d, a, t, f, ord, sc, imx⟩ := p
  subst hp ho hf
  rfl

theorem row_vxor (p : Parts) (hp : p.page = 2) (ho : p.op = 1) (hf : p.f = 2) : decodeParts p =
    if p.plain && vOk p.d && vOk p.a && kOk p.t then some (.vxor p.head (p.d.setWidth 5) (p.a.setWidth 5) (p.t.setWidth 3)) else none := by
  obtain ⟨s, shape, page, ext, op, d, a, t, f, ord, sc, imx⟩ := p
  subst hp ho hf
  rfl

theorem row_vandn (p : Parts) (hp : p.page = 2) (ho : p.op = 1) (hf : p.f = 3) : decodeParts p =
    if p.plain && vOk p.d && vOk p.a && kOk p.t then some (.vandn p.head (p.d.setWidth 5) (p.a.setWidth 5) (p.t.setWidth 3)) else none := by
  obtain ⟨s, shape, page, ext, op, d, a, t, f, ord, sc, imx⟩ := p
  subst hp ho hf
  rfl

theorem row_vshl (p : Parts) (hp : p.page = 2) (ho : p.op = 2) (hf : p.f = 0) : decodeParts p =
    if p.plain && vOk p.d && vOk p.a && kOk p.t then some (.vshl p.head (p.d.setWidth 5) (p.a.setWidth 5) (p.t.setWidth 3)) else none := by
  obtain ⟨s, shape, page, ext, op, d, a, t, f, ord, sc, imx⟩ := p
  subst hp ho hf
  rfl

theorem row_vshr (p : Parts) (hp : p.page = 2) (ho : p.op = 2) (hf : p.f = 1) : decodeParts p =
    if p.plain && vOk p.d && vOk p.a && kOk p.t then some (.vshr p.head (p.d.setWidth 5) (p.a.setWidth 5) (p.t.setWidth 3)) else none := by
  obtain ⟨s, shape, page, ext, op, d, a, t, f, ord, sc, imx⟩ := p
  subst hp ho hf
  rfl

theorem row_vsar (p : Parts) (hp : p.page = 2) (ho : p.op = 2) (hf : p.f = 2) : decodeParts p =
    if p.plain && vOk p.d && vOk p.a && kOk p.t then some (.vsar p.head (p.d.setWidth 5) (p.a.setWidth 5) (p.t.setWidth 3)) else none := by
  obtain ⟨s, shape, page, ext, op, d, a, t, f, ord, sc, imx⟩ := p
  subst hp ho hf
  rfl

theorem row_vrol (p : Parts) (hp : p.page = 2) (ho : p.op = 2) (hf : p.f = 3) : decodeParts p =
    if p.plain && vOk p.d && vOk p.a && kOk p.t then some (.vrol p.head (p.d.setWidth 5) (p.a.setWidth 5) (p.t.setWidth 3)) else none := by
  obtain ⟨s, shape, page, ext, op, d, a, t, f, ord, sc, imx⟩ := p
  subst hp ho hf
  rfl

theorem row_vmin (p : Parts) (hp : p.page = 2) (ho : p.op = 3) (hf : p.f = 0) : decodeParts p =
    if p.plain && vOk p.d && vOk p.a && kOk p.t then some (.vmin p.head (p.d.setWidth 5) (p.a.setWidth 5) (p.t.setWidth 3)) else none := by
  obtain ⟨s, shape, page, ext, op, d, a, t, f, ord, sc, imx⟩ := p
  subst hp ho hf
  rfl

theorem row_vmax (p : Parts) (hp : p.page = 2) (ho : p.op = 3) (hf : p.f = 1) : decodeParts p =
    if p.plain && vOk p.d && vOk p.a && kOk p.t then some (.vmax p.head (p.d.setWidth 5) (p.a.setWidth 5) (p.t.setWidth 3)) else none := by
  obtain ⟨s, shape, page, ext, op, d, a, t, f, ord, sc, imx⟩ := p
  subst hp ho hf
  rfl

theorem row_vminu (p : Parts) (hp : p.page = 2) (ho : p.op = 3) (hf : p.f = 2) : decodeParts p =
    if p.plain && vOk p.d && vOk p.a && kOk p.t then some (.vminu p.head (p.d.setWidth 5) (p.a.setWidth 5) (p.t.setWidth 3)) else none := by
  obtain ⟨s, shape, page, ext, op, d, a, t, f, ord, sc, imx⟩ := p
  subst hp ho hf
  rfl

theorem row_vmaxu (p : Parts) (hp : p.page = 2) (ho : p.op = 3) (hf : p.f = 3) : decodeParts p =
    if p.plain && vOk p.d && vOk p.a && kOk p.t then some (.vmaxu p.head (p.d.setWidth 5) (p.a.setWidth 5) (p.t.setWidth 3)) else none := by
  obtain ⟨s, shape, page, ext, op, d, a, t, f, ord, sc, imx⟩ := p
  subst hp ho hf
  rfl

theorem row_vfadd (p : Parts) (hp : p.page = 2) (ho : p.op = 4) (hf : p.f = 0) : decodeParts p =
    if p.plainT && p.ext.toNat < 5 && vOk p.d && vOk p.a && kOk p.t then some (.vfadd p.head (p.d.setWidth 5) (p.a.setWidth 5) (p.t.setWidth 3) (p.ext.setWidth 3)) else none := by
  obtain ⟨s, shape, page, ext, op, d, a, t, f, ord, sc, imx⟩ := p
  subst hp ho hf
  rfl

theorem row_vfsub (p : Parts) (hp : p.page = 2) (ho : p.op = 4) (hf : p.f = 1) : decodeParts p =
    if p.plainT && p.ext.toNat < 5 && vOk p.d && vOk p.a && kOk p.t then some (.vfsub p.head (p.d.setWidth 5) (p.a.setWidth 5) (p.t.setWidth 3) (p.ext.setWidth 3)) else none := by
  obtain ⟨s, shape, page, ext, op, d, a, t, f, ord, sc, imx⟩ := p
  subst hp ho hf
  rfl

theorem row_vfmul (p : Parts) (hp : p.page = 2) (ho : p.op = 4) (hf : p.f = 2) : decodeParts p =
    if p.plainT && p.ext.toNat < 5 && vOk p.d && vOk p.a && kOk p.t then some (.vfmul p.head (p.d.setWidth 5) (p.a.setWidth 5) (p.t.setWidth 3) (p.ext.setWidth 3)) else none := by
  obtain ⟨s, shape, page, ext, op, d, a, t, f, ord, sc, imx⟩ := p
  subst hp ho hf
  rfl

theorem row_vfma (p : Parts) (hp : p.page = 2) (ho : p.op = 4) (hf : p.f = 3) : decodeParts p =
    if p.plainT && p.ext.toNat % 8 < 5 && vOk p.d && vOk p.a && vOk p.t then some (.vfma p.head (p.d.setWidth 5) (p.a.setWidth 5) (p.t.setWidth 5) (p.ext.setWidth 3) (p.ext.extractLsb' 3 2)) else none := by
  obtain ⟨s, shape, page, ext, op, d, a, t, f, ord, sc, imx⟩ := p
  subst hp ho hf
  rfl

theorem row_vfmin (p : Parts) (hp : p.page = 2) (ho : p.op = 5) (hf : p.f = 0) : decodeParts p =
    if p.plain && vOk p.d && vOk p.a && kOk p.t then some (.vfmin p.head (p.d.setWidth 5) (p.a.setWidth 5) (p.t.setWidth 3)) else none := by
  obtain ⟨s, shape, page, ext, op, d, a, t, f, ord, sc, imx⟩ := p
  subst hp ho hf
  rfl

theorem row_vfmax (p : Parts) (hp : p.page = 2) (ho : p.op = 5) (hf : p.f = 1) : decodeParts p =
    if p.plain && vOk p.d && vOk p.a && kOk p.t then some (.vfmax p.head (p.d.setWidth 5) (p.a.setWidth 5) (p.t.setWidth 3)) else none := by
  obtain ⟨s, shape, page, ext, op, d, a, t, f, ord, sc, imx⟩ := p
  subst hp ho hf
  rfl

theorem row_vfabs (p : Parts) (hp : p.page = 2) (ho : p.op = 5) (hf : p.f = 2) : decodeParts p =
    if p.plain && vOk p.d && vOk p.a && kOk p.t then some (.vfabs p.head (p.d.setWidth 5) (p.a.setWidth 5) (p.t.setWidth 3)) else none := by
  obtain ⟨s, shape, page, ext, op, d, a, t, f, ord, sc, imx⟩ := p
  subst hp ho hf
  rfl

theorem row_vfneg (p : Parts) (hp : p.page = 2) (ho : p.op = 5) (hf : p.f = 3) : decodeParts p =
    if p.plain && vOk p.d && vOk p.a && kOk p.t then some (.vfneg p.head (p.d.setWidth 5) (p.a.setWidth 5) (p.t.setWidth 3)) else none := by
  obtain ⟨s, shape, page, ext, op, d, a, t, f, ord, sc, imx⟩ := p
  subst hp ho hf
  rfl

theorem row_vfdiv (p : Parts) (hp : p.page = 2) (ho : p.op = 6) (hf : p.f = 0) : decodeParts p =
    if p.plainT && p.ext.toNat < 5 && vOk p.d && vOk p.a && kOk p.t then some (.vfdiv p.head (p.d.setWidth 5) (p.a.setWidth 5) (p.t.setWidth 3) (p.ext.setWidth 3)) else none := by
  obtain ⟨s, shape, page, ext, op, d, a, t, f, ord, sc, imx⟩ := p
  subst hp ho hf
  rfl

theorem row_vfsqrt (p : Parts) (hp : p.page = 2) (ho : p.op = 6) (hf : p.f = 1) : decodeParts p =
    if p.plainT && p.ext.toNat < 5 && vOk p.d && vOk p.a && kOk p.t then some (.vfsqrt p.head (p.d.setWidth 5) (p.a.setWidth 5) (p.t.setWidth 3) (p.ext.setWidth 3)) else none := by
  obtain ⟨s, shape, page, ext, op, d, a, t, f, ord, sc, imx⟩ := p
  subst hp ho hf
  rfl

theorem row_vfrcp (p : Parts) (hp : p.page = 2) (ho : p.op = 6) (hf : p.f = 2) : decodeParts p =
    if p.plainT && p.ext.toNat < 5 && vOk p.d && vOk p.a && kOk p.t then some (.vfrcp p.head (p.d.setWidth 5) (p.a.setWidth 5) (p.t.setWidth 3) (p.ext.setWidth 3)) else none := by
  obtain ⟨s, shape, page, ext, op, d, a, t, f, ord, sc, imx⟩ := p
  subst hp ho hf
  rfl

theorem row_vfrsq (p : Parts) (hp : p.page = 2) (ho : p.op = 6) (hf : p.f = 3) : decodeParts p =
    if p.plainT && p.ext.toNat < 5 && vOk p.d && vOk p.a && kOk p.t then some (.vfrsq p.head (p.d.setWidth 5) (p.a.setWidth 5) (p.t.setWidth 3) (p.ext.setWidth 3)) else none := by
  obtain ⟨s, shape, page, ext, op, d, a, t, f, ord, sc, imx⟩ := p
  subst hp ho hf
  rfl

theorem row_vcmpEq (p : Parts) (hp : p.page = 2) (ho : p.op = 7) (hf : p.f = 0) : decodeParts p =
    if p.plainT && kOk p.d && vOk p.a && kOk p.t then some (.vcmpEq p.head (p.d.setWidth 3) (p.a.setWidth 5) p.ext (p.t.setWidth 3)) else none := by
  obtain ⟨s, shape, page, ext, op, d, a, t, f, ord, sc, imx⟩ := p
  subst hp ho hf
  rfl

theorem row_vcmpLt (p : Parts) (hp : p.page = 2) (ho : p.op = 7) (hf : p.f = 1) : decodeParts p =
    if p.plainT && kOk p.d && vOk p.a && kOk p.t then some (.vcmpLt p.head (p.d.setWidth 3) (p.a.setWidth 5) p.ext (p.t.setWidth 3)) else none := by
  obtain ⟨s, shape, page, ext, op, d, a, t, f, ord, sc, imx⟩ := p
  subst hp ho hf
  rfl

theorem row_vcmpLtu (p : Parts) (hp : p.page = 2) (ho : p.op = 7) (hf : p.f = 2) : decodeParts p =
    if p.plainT && kOk p.d && vOk p.a && kOk p.t then some (.vcmpLtu p.head (p.d.setWidth 3) (p.a.setWidth 5) p.ext (p.t.setWidth 3)) else none := by
  obtain ⟨s, shape, page, ext, op, d, a, t, f, ord, sc, imx⟩ := p
  subst hp ho hf
  rfl

theorem row_vcmpNe (p : Parts) (hp : p.page = 2) (ho : p.op = 7) (hf : p.f = 3) : decodeParts p =
    if p.plainT && kOk p.d && vOk p.a && kOk p.t then some (.vcmpNe p.head (p.d.setWidth 3) (p.a.setWidth 5) p.ext (p.t.setWidth 3)) else none := by
  obtain ⟨s, shape, page, ext, op, d, a, t, f, ord, sc, imx⟩ := p
  subst hp ho hf
  rfl

theorem row_vfcmpEq (p : Parts) (hp : p.page = 2) (ho : p.op = 8) (hf : p.f = 0) : decodeParts p =
    if p.plainT && kOk p.d && vOk p.a && kOk p.t then some (.vfcmpEq p.head (p.d.setWidth 3) (p.a.setWidth 5) p.ext (p.t.setWidth 3)) else none := by
  obtain ⟨s, shape, page, ext, op, d, a, t, f, ord, sc, imx⟩ := p
  subst hp ho hf
  rfl

theorem row_vfcmpLt (p : Parts) (hp : p.page = 2) (ho : p.op = 8) (hf : p.f = 1) : decodeParts p =
    if p.plainT && kOk p.d && vOk p.a && kOk p.t then some (.vfcmpLt p.head (p.d.setWidth 3) (p.a.setWidth 5) p.ext (p.t.setWidth 3)) else none := by
  obtain ⟨s, shape, page, ext, op, d, a, t, f, ord, sc, imx⟩ := p
  subst hp ho hf
  rfl

theorem row_vfcmpLe (p : Parts) (hp : p.page = 2) (ho : p.op = 8) (hf : p.f = 2) : decodeParts p =
    if p.plainT && kOk p.d && vOk p.a && kOk p.t then some (.vfcmpLe p.head (p.d.setWidth 3) (p.a.setWidth 5) p.ext (p.t.setWidth 3)) else none := by
  obtain ⟨s, shape, page, ext, op, d, a, t, f, ord, sc, imx⟩ := p
  subst hp ho hf
  rfl

theorem row_vfcmpUn (p : Parts) (hp : p.page = 2) (ho : p.op = 8) (hf : p.f = 3) : decodeParts p =
    if p.plainT && kOk p.d && vOk p.a && kOk p.t then some (.vfcmpUn p.head (p.d.setWidth 3) (p.a.setWidth 5) p.ext (p.t.setWidth 3)) else none := by
  obtain ⟨s, shape, page, ext, op, d, a, t, f, ord, sc, imx⟩ := p
  subst hp ho hf
  rfl

theorem row_vld (p : Parts) (hp : p.page = 2) (ho : p.op = 9) (hf : p.f = 0) : decodeParts p =
    if p.ext == 0 && vOk p.d && kOk p.t && (⟨p.ord, p.sc⟩ : Order).okAccess then some (.vld p.head (p.d.setWidth 5) p.a (p.t.setWidth 3) p.disp ⟨p.ord, p.sc⟩) else none := by
  obtain ⟨s, shape, page, ext, op, d, a, t, f, ord, sc, imx⟩ := p
  subst hp ho hf
  rfl

theorem row_vst (p : Parts) (hp : p.page = 2) (ho : p.op = 9) (hf : p.f = 1) : decodeParts p =
    if p.ext == 0 && vOk p.d && kOk p.t && (⟨p.ord, p.sc⟩ : Order).okAccess then some (.vst p.head (p.d.setWidth 5) p.a (p.t.setWidth 3) p.disp ⟨p.ord, p.sc⟩) else none := by
  obtain ⟨s, shape, page, ext, op, d, a, t, f, ord, sc, imx⟩ := p
  subst hp ho hf
  rfl

theorem row_vldg (p : Parts) (hp : p.page = 2) (ho : p.op = 9) (hf : p.f = 2) : decodeParts p =
    if vOk p.d && kOk p.t && (⟨p.ord, p.sc⟩ : Order).okAccess then some (.vldg p.head (p.d.setWidth 5) p.a p.ext (p.t.setWidth 3) p.disp ⟨p.ord, p.sc⟩) else none := by
  obtain ⟨s, shape, page, ext, op, d, a, t, f, ord, sc, imx⟩ := p
  subst hp ho hf
  rfl

theorem row_vsts (p : Parts) (hp : p.page = 2) (ho : p.op = 9) (hf : p.f = 3) : decodeParts p =
    if vOk p.d && kOk p.t && (⟨p.ord, p.sc⟩ : Order).okAccess then some (.vsts p.head (p.d.setWidth 5) p.a p.ext (p.t.setWidth 3) p.disp ⟨p.ord, p.sc⟩) else none := by
  obtain ⟨s, shape, page, ext, op, d, a, t, f, ord, sc, imx⟩ := p
  subst hp ho hf
  rfl

theorem row_vldl (p : Parts) (hp : p.page = 2) (ho : p.op = 10) (hf : p.f = 0) : decodeParts p =
    if p.ext == 0 && vOk p.d && vOk p.a && kOk p.t && (⟨p.ord, p.sc⟩ : Order).okAccess then some (.vldl p.head (p.d.setWidth 5) (p.a.setWidth 5) (p.t.setWidth 3) p.disp ⟨p.ord, p.sc⟩) else none := by
  obtain ⟨s, shape, page, ext, op, d, a, t, f, ord, sc, imx⟩ := p
  subst hp ho hf
  rfl

theorem row_vstl (p : Parts) (hp : p.page = 2) (ho : p.op = 10) (hf : p.f = 1) : decodeParts p =
    if p.ext == 0 && vOk p.d && vOk p.a && kOk p.t && (⟨p.ord, p.sc⟩ : Order).okAccess then some (.vstl p.head (p.d.setWidth 5) (p.a.setWidth 5) (p.t.setWidth 3) p.disp ⟨p.ord, p.sc⟩) else none := by
  obtain ⟨s, shape, page, ext, op, d, a, t, f, ord, sc, imx⟩ := p
  subst hp ho hf
  rfl

theorem row_vbcst (p : Parts) (hp : p.page = 2) (ho : p.op = 10) (hf : p.f = 2) : decodeParts p =
    if p.plain && vOk p.d && kOk p.t then some (.vbcst p.head (p.d.setWidth 5) p.a (p.t.setWidth 3)) else none := by
  obtain ⟨s, shape, page, ext, op, d, a, t, f, ord, sc, imx⟩ := p
  subst hp ho hf
  rfl

theorem row_vext (p : Parts) (hp : p.page = 2) (ho : p.op = 10) (hf : p.f = 3) : decodeParts p =
    if p.plainT && p.t == 0 && p.ext.toNat < 16 && vOk p.a then some (.vext p.head p.d (p.a.setWidth 5) (p.ext.setWidth 3) (p.ext.getLsbD 3)) else none := by
  obtain ⟨s, shape, page, ext, op, d, a, t, f, ord, sc, imx⟩ := p
  subst hp ho hf
  rfl

theorem row_vsel (p : Parts) (hp : p.page = 2) (ho : p.op = 11) (hf : p.f = 0) : decodeParts p =
    if p.plainT && vOk p.d && vOk p.a && kOk p.t then some (.vsel p.head (p.d.setWidth 5) (p.a.setWidth 5) p.ext (p.t.setWidth 3)) else none := by
  obtain ⟨s, shape, page, ext, op, d, a, t, f, ord, sc, imx⟩ := p
  subst hp ho hf
  rfl

theorem row_vperm (p : Parts) (hp : p.page = 2) (ho : p.op = 11) (hf : p.f = 1) : decodeParts p =
    if p.plain && vOk p.d && vOk p.a && kOk p.t then some (.vperm p.head (p.d.setWidth 5) (p.a.setWidth 5) (p.t.setWidth 3)) else none := by
  obtain ⟨s, shape, page, ext, op, d, a, t, f, ord, sc, imx⟩ := p
  subst hp ho hf
  rfl

theorem row_vlrot (p : Parts) (hp : p.page = 2) (ho : p.op = 11) (hf : p.f = 2) : decodeParts p =
    if p.plainT && p.ext.toNat < 8 && vOk p.d && vOk p.a && kOk p.t then some (.vlrot p.head (p.d.setWidth 5) (p.a.setWidth 5) (p.ext.setWidth 3) (p.t.setWidth 3)) else none := by
  obtain ⟨s, shape, page, ext, op, d, a, t, f, ord, sc, imx⟩ := p
  subst hp ho hf
  rfl

theorem row_vmov (p : Parts) (hp : p.page = 2) (ho : p.op = 11) (hf : p.f = 3) : decodeParts p =
    if p.plain && vOk p.d && vOk p.a && kOk p.t then some (.vmov p.head (p.d.setWidth 5) (p.a.setWidth 5) (p.t.setWidth 3)) else none := by
  obtain ⟨s, shape, page, ext, op, d, a, t, f, ord, sc, imx⟩ := p
  subst hp ho hf
  rfl

theorem row_vradd (p : Parts) (hp : p.page = 2) (ho : p.op = 12) (hf : p.f = 0) : decodeParts p =
    if p.plain && vOk p.a && kOk p.t then some (.vradd p.head p.d (p.a.setWidth 5) (p.t.setWidth 3)) else none := by
  obtain ⟨s, shape, page, ext, op, d, a, t, f, ord, sc, imx⟩ := p
  subst hp ho hf
  rfl

theorem row_vrfadd (p : Parts) (hp : p.page = 2) (ho : p.op = 12) (hf : p.f = 1) : decodeParts p =
    if p.plainT && p.ext.toNat < 5 && vOk p.a && kOk p.t then some (.vrfadd p.head p.d (p.a.setWidth 5) (p.t.setWidth 3) (p.ext.setWidth 3)) else none := by
  obtain ⟨s, shape, page, ext, op, d, a, t, f, ord, sc, imx⟩ := p
  subst hp ho hf
  rfl

theorem row_vrmax (p : Parts) (hp : p.page = 2) (ho : p.op = 12) (hf : p.f = 2) : decodeParts p =
    if p.plain && vOk p.a && kOk p.t then some (.vrmax p.head p.d (p.a.setWidth 5) (p.t.setWidth 3)) else none := by
  obtain ⟨s, shape, page, ext, op, d, a, t, f, ord, sc, imx⟩ := p
  subst hp ho hf
  rfl

theorem row_vrmin (p : Parts) (hp : p.page = 2) (ho : p.op = 12) (hf : p.f = 3) : decodeParts p =
    if p.plain && vOk p.a && kOk p.t then some (.vrmin p.head p.d (p.a.setWidth 5) (p.t.setWidth 3)) else none := by
  obtain ⟨s, shape, page, ext, op, d, a, t, f, ord, sc, imx⟩ := p
  subst hp ho hf
  rfl

theorem row_kand (p : Parts) (hp : p.page = 2) (ho : p.op = 13) (hf : p.f = 0) : decodeParts p =
    if p.plain && kOk p.d && kOk p.a && kOk p.t then some (.kand p.head (p.d.setWidth 3) (p.a.setWidth 3) (p.tOpt.map (·.setWidth 3))) else none := by
  obtain ⟨s, shape, page, ext, op, d, a, t, f, ord, sc, imx⟩ := p
  subst hp ho hf
  rfl

theorem row_kor (p : Parts) (hp : p.page = 2) (ho : p.op = 13) (hf : p.f = 1) : decodeParts p =
    if p.plain && kOk p.d && kOk p.a && kOk p.t then some (.kor p.head (p.d.setWidth 3) (p.a.setWidth 3) (p.tOpt.map (·.setWidth 3))) else none := by
  obtain ⟨s, shape, page, ext, op, d, a, t, f, ord, sc, imx⟩ := p
  subst hp ho hf
  rfl

theorem row_kxor (p : Parts) (hp : p.page = 2) (ho : p.op = 13) (hf : p.f = 2) : decodeParts p =
    if p.plain && kOk p.d && kOk p.a && kOk p.t then some (.kxor p.head (p.d.setWidth 3) (p.a.setWidth 3) (p.tOpt.map (·.setWidth 3))) else none := by
  obtain ⟨s, shape, page, ext, op, d, a, t, f, ord, sc, imx⟩ := p
  subst hp ho hf
  rfl

theorem row_knot (p : Parts) (hp : p.page = 2) (ho : p.op = 13) (hf : p.f = 3) : decodeParts p =
    if p.plain && p.t == 0 && kOk p.d && kOk p.a then some (.knot p.head (p.d.setWidth 3) (p.a.setWidth 3)) else none := by
  obtain ⟨s, shape, page, ext, op, d, a, t, f, ord, sc, imx⟩ := p
  subst hp ho hf
  rfl

theorem row_kany (p : Parts) (hp : p.page = 2) (ho : p.op = 14) (hf : p.f = 0) : decodeParts p =
    if p.plain && p.t == 0 && kOk p.a then some (.kany p.head p.d (p.a.setWidth 3)) else none := by
  obtain ⟨s, shape, page, ext, op, d, a, t, f, ord, sc, imx⟩ := p
  subst hp ho hf
  rfl

theorem row_kall (p : Parts) (hp : p.page = 2) (ho : p.op = 14) (hf : p.f = 1) : decodeParts p =
    if p.plain && p.t == 0 && kOk p.a then some (.kall p.head p.d (p.a.setWidth 3)) else none := by
  obtain ⟨s, shape, page, ext, op, d, a, t, f, ord, sc, imx⟩ := p
  subst hp ho hf
  rfl

theorem row_kcnt (p : Parts) (hp : p.page = 2) (ho : p.op = 14) (hf : p.f = 2) : decodeParts p =
    if p.plain && p.t == 0 && kOk p.a then some (.kcnt p.head p.d (p.a.setWidth 3)) else none := by
  obtain ⟨s, shape, page, ext, op, d, a, t, f, ord, sc, imx⟩ := p
  subst hp ho hf
  rfl

theorem row_kfirst (p : Parts) (hp : p.page = 2) (ho : p.op = 14) (hf : p.f = 3) : decodeParts p =
    if p.plain && p.t == 0 && kOk p.a then some (.kfirst p.head p.d (p.a.setWidth 3)) else none := by
  obtain ⟨s, shape, page, ext, op, d, a, t, f, ord, sc, imx⟩ := p
  subst hp ho hf
  rfl

theorem row_kmov (p : Parts) (hp : p.page = 2) (ho : p.op = 15) (hf : p.f = 0) : decodeParts p =
    if p.plain && p.t == 0 && kOk p.d then some (.kmov p.head (p.d.setWidth 3) p.a) else none := by
  obtain ⟨s, shape, page, ext, op, d, a, t, f, ord, sc, imx⟩ := p
  subst hp ho hf
  rfl

theorem row_kmovx (p : Parts) (hp : p.page = 2) (ho : p.op = 15) (hf : p.f = 1) : decodeParts p =
    if p.plain && p.t == 0 && kOk p.a then some (.kmovx p.head p.d (p.a.setWidth 3)) else none := by
  obtain ⟨s, shape, page, ext, op, d, a, t, f, ord, sc, imx⟩ := p
  subst hp ho hf
  rfl

theorem row_vcvt (p : Parts) (hp : p.page = 2) (ho : p.op = 15) (hf : p.f = 2) : decodeParts p =
    if p.plainT && vOk p.d && vOk p.a && kOk p.t && cvtOk (p.d.setWidth 5) (p.a.setWidth 5) (p.t.setWidth 3) (p.ext.setWidth 4) (p.ext.getLsbD 4) then some (.vcvt p.head (p.d.setWidth 5) (p.a.setWidth 5) (p.t.setWidth 3) (p.ext.setWidth 4) (p.ext.getLsbD 4)) else none := by
  obtain ⟨s, shape, page, ext, op, d, a, t, f, ord, sc, imx⟩ := p
  subst hp ho hf
  rfl

theorem row_vcvts (p : Parts) (hp : p.page = 2) (ho : p.op = 15) (hf : p.f = 3) : decodeParts p =
    if p.plainT && p.ext.toNat < 16 && vOk p.d && vOk p.a && kOk p.t && p.ext.toNat < 13 then some (.vcvts p.head (p.d.setWidth 5) (p.a.setWidth 5) (p.t.setWidth 3) (p.ext.setWidth 4)) else none := by
  obtain ⟨s, shape, page, ext, op, d, a, t, f, ord, sc, imx⟩ := p
  subst hp ho hf
  rfl

theorem row_vqnt (p : Parts) (hp : p.page = 2) (ho : p.op = 16) (hf : p.f = 0) : decodeParts p =
    if p.plainT && p.ext.toNat < 16 && vOk p.d && vOk p.a && kOk p.t && qntOk (p.d.setWidth 5) (p.a.setWidth 5) (p.t.setWidth 3) (p.ext.setWidth 4) then some (.vqnt p.head (p.d.setWidth 5) (p.a.setWidth 5) (p.t.setWidth 3) (p.ext.setWidth 4)) else none := by
  obtain ⟨s, shape, page, ext, op, d, a, t, f, ord, sc, imx⟩ := p
  subst hp ho hf
  rfl

theorem row_vdqnt (p : Parts) (hp : p.page = 2) (ho : p.op = 16) (hf : p.f = 1) : decodeParts p =
    if p.plainT && p.ext.toNat < 16 && vOk p.d && vOk p.a && kOk p.t && affine (p.ext.setWidth 4) && even (p.d.setWidth 5) then some (.vdqnt p.head (p.d.setWidth 5) (p.a.setWidth 5) (p.t.setWidth 3) (p.ext.setWidth 4)) else none := by
  obtain ⟨s, shape, page, ext, op, d, a, t, f, ord, sc, imx⟩ := p
  subst hp ho hf
  rfl

theorem row_vresc (p : Parts) (hp : p.page = 2) (ho : p.op = 16) (hf : p.f = 2) : decodeParts p =
    if p.ord == 0 && p.sc == 0 && p.ext.toNat < 2 && vOk p.d && kOk p.t then some (.vresc p.head (p.d.setWidth 5) p.a (p.t.setWidth 3) p.disp (p.ext.getLsbD 0)) else none := by
  obtain ⟨s, shape, page, ext, op, d, a, t, f, ord, sc, imx⟩ := p
  subst hp ho hf
  rfl

theorem row_vscal (p : Parts) (hp : p.page = 2) (ho : p.op = 16) (hf : p.f = 3) : decodeParts p =
    if p.plainT && p.ext.toNat < 16 && vOk p.d && vOk p.a && kOk p.t && affine (p.ext.setWidth 4) && even (p.d.setWidth 5) && even (p.a.setWidth 5) then some (.vscal p.head (p.d.setWidth 5) (p.a.setWidth 5) (p.t.setWidth 3) (p.ext.setWidth 4)) else none := by
  obtain ⟨s, shape, page, ext, op, d, a, t, f, ord, sc, imx⟩ := p
  subst hp ho hf
  rfl

theorem row_vpack (p : Parts) (hp : p.page = 2) (ho : p.op = 17) (hf : p.f = 0) : decodeParts p =
    if p.plainT && p.t == 0 && vOk p.d && vOk p.a && p.ext.toNat % 4 != 3 && decide (p.ext.toNat / 4 < 2 ^ (p.ext.toNat % 4 + 1)) then some (.vpack p.head (p.d.setWidth 5) (p.a.setWidth 5) (p.ext.setWidth 2) (p.ext.extractLsb' 2 3)) else none := by
  obtain ⟨s, shape, page, ext, op, d, a, t, f, ord, sc, imx⟩ := p
  subst hp ho hf
  rfl

theorem row_vunpk (p : Parts) (hp : p.page = 2) (ho : p.op = 17) (hf : p.f = 1) : decodeParts p =
    if p.plainT && p.t == 0 && vOk p.d && vOk p.a && p.ext.toNat % 4 != 3 && decide (p.ext.toNat / 4 < 2 ^ (p.ext.toNat % 4 + 1)) then some (.vunpk p.head (p.d.setWidth 5) (p.a.setWidth 5) (p.ext.setWidth 2) (p.ext.extractLsb' 2 3)) else none := by
  obtain ⟨s, shape, page, ext, op, d, a, t, f, ord, sc, imx⟩ := p
  subst hp ho hf
  rfl

theorem row_tmmaF32 (p : Parts) (hp : p.page = 3) (ho : p.op = 0) : decodeParts p =
    if p.plain && p.d.toNat < 16 && p.a.toNat < 16 then some (.tmmaF32 p.head (p.d.extractLsb' 2 2) (p.d.extractLsb' 0 2 ++ p.a.extractLsb' 3 1) (p.a.setWidth 3) (p.f.getLsbD 0) (p.f.getLsbD 1) p.tOpt) else none := by
  obtain ⟨s, shape, page, ext, op, d, a, t, f, ord, sc, imx⟩ := p
  subst hp ho
  rfl

theorem row_tmmaBf (p : Parts) (hp : p.page = 3) (ho : p.op = 1) : decodeParts p =
    if p.plain && p.d.toNat < 16 && p.a.toNat < 16 then some (.tmmaBf p.head (p.d.extractLsb' 2 2) (p.d.extractLsb' 0 2 ++ p.a.extractLsb' 3 1) (p.a.setWidth 3) (p.f.getLsbD 0) (p.f.getLsbD 1) p.tOpt) else none := by
  obtain ⟨s, shape, page, ext, op, d, a, t, f, ord, sc, imx⟩ := p
  subst hp ho
  rfl

theorem row_tmmaH (p : Parts) (hp : p.page = 3) (ho : p.op = 2) : decodeParts p =
    if p.plain && p.d.toNat < 16 && p.a.toNat < 16 then some (.tmmaH p.head (p.d.extractLsb' 2 2) (p.d.extractLsb' 0 2 ++ p.a.extractLsb' 3 1) (p.a.setWidth 3) (p.f.getLsbD 0) (p.f.getLsbD 1) p.tOpt) else none := by
  obtain ⟨s, shape, page, ext, op, d, a, t, f, ord, sc, imx⟩ := p
  subst hp ho
  rfl

theorem row_tmmaHb (p : Parts) (hp : p.page = 3) (ho : p.op = 3) : decodeParts p =
    if p.plainT && p.ext.toNat < 2 && p.d.toNat < 16 && p.a.toNat < 16 then some (.tmmaHb p.head (p.d.extractLsb' 2 2) (p.d.extractLsb' 0 2 ++ p.a.extractLsb' 3 1) (p.a.setWidth 3) (p.f.getLsbD 0) (p.f.getLsbD 1) p.tOpt (p.ext.getLsbD 0)) else none := by
  obtain ⟨s, shape, page, ext, op, d, a, t, f, ord, sc, imx⟩ := p
  subst hp ho
  rfl

theorem row_tmmaE4 (p : Parts) (hp : p.page = 3) (ho : p.op = 4) : decodeParts p =
    if p.plain && p.d.toNat < 16 && p.a.toNat < 16 then some (.tmmaE4 p.head (p.d.extractLsb' 2 2) (p.d.extractLsb' 0 2 ++ p.a.extractLsb' 3 1) (p.a.setWidth 3) (p.f.getLsbD 0) (p.f.getLsbD 1) p.tOpt) else none := by
  obtain ⟨s, shape, page, ext, op, d, a, t, f, ord, sc, imx⟩ := p
  subst hp ho
  rfl

theorem row_tmmaE5 (p : Parts) (hp : p.page = 3) (ho : p.op = 5) : decodeParts p =
    if p.plain && p.d.toNat < 16 && p.a.toNat < 16 then some (.tmmaE5 p.head (p.d.extractLsb' 2 2) (p.d.extractLsb' 0 2 ++ p.a.extractLsb' 3 1) (p.a.setWidth 3) (p.f.getLsbD 0) (p.f.getLsbD 1) p.tOpt) else none := by
  obtain ⟨s, shape, page, ext, op, d, a, t, f, ord, sc, imx⟩ := p
  subst hp ho
  rfl

theorem row_tmmaE45 (p : Parts) (hp : p.page = 3) (ho : p.op = 6) : decodeParts p =
    if p.plainT && p.ext.toNat < 2 && p.d.toNat < 16 && p.a.toNat < 16 then some (.tmmaE45 p.head (p.d.extractLsb' 2 2) (p.d.extractLsb' 0 2 ++ p.a.extractLsb' 3 1) (p.a.setWidth 3) (p.f.getLsbD 0) (p.f.getLsbD 1) p.tOpt (p.ext.getLsbD 0)) else none := by
  obtain ⟨s, shape, page, ext, op, d, a, t, f, ord, sc, imx⟩ := p
  subst hp ho
  rfl

theorem row_tmmaE3 (p : Parts) (hp : p.page = 3) (ho : p.op = 7) : decodeParts p =
    if p.plain && p.d.toNat < 16 && p.a.toNat < 16 then some (.tmmaE3 p.head (p.d.extractLsb' 2 2) (p.d.extractLsb' 0 2 ++ p.a.extractLsb' 3 1) (p.a.setWidth 3) (p.f.getLsbD 0) (p.f.getLsbD 1) p.tOpt) else none := by
  obtain ⟨s, shape, page, ext, op, d, a, t, f, ord, sc, imx⟩ := p
  subst hp ho
  rfl

theorem row_tmmaE2 (p : Parts) (hp : p.page = 3) (ho : p.op = 8) : decodeParts p =
    if p.plain && p.d.toNat < 16 && p.a.toNat < 16 then some (.tmmaE2 p.head (p.d.extractLsb' 2 2) (p.d.extractLsb' 0 2 ++ p.a.extractLsb' 3 1) (p.a.setWidth 3) (p.f.getLsbD 0) (p.f.getLsbD 1) p.tOpt) else none := by
  obtain ⟨s, shape, page, ext, op, d, a, t, f, ord, sc, imx⟩ := p
  subst hp ho
  rfl

theorem row_tmmaE1 (p : Parts) (hp : p.page = 3) (ho : p.op = 9) : decodeParts p =
    if p.plain && p.d.toNat < 16 && p.a.toNat < 16 then some (.tmmaE1 p.head (p.d.extractLsb' 2 2) (p.d.extractLsb' 0 2 ++ p.a.extractLsb' 3 1) (p.a.setWidth 3) (p.f.getLsbD 0) (p.f.getLsbD 1) p.tOpt) else none := by
  obtain ⟨s, shape, page, ext, op, d, a, t, f, ord, sc, imx⟩ := p
  subst hp ho
  rfl

theorem row_tmmaI8 (p : Parts) (hp : p.page = 3) (ho : p.op = 10) : decodeParts p =
    if p.plainT && p.ext.toNat < 2 && p.d.toNat < 16 && p.a.toNat < 16 then some (.tmmaI8 p.head (p.d.extractLsb' 2 2) (p.d.extractLsb' 0 2 ++ p.a.extractLsb' 3 1) (p.a.setWidth 3) (p.f.getLsbD 0) (p.f.getLsbD 1) p.tOpt (p.ext.getLsbD 0)) else none := by
  obtain ⟨s, shape, page, ext, op, d, a, t, f, ord, sc, imx⟩ := p
  subst hp ho
  rfl

theorem row_tmmaIz8 (p : Parts) (hp : p.page = 3) (ho : p.op = 11) : decodeParts p =
    if p.plain && p.d.toNat < 16 && p.a.toNat < 16 then some (.tmmaIz8 p.head (p.d.extractLsb' 2 2) (p.d.extractLsb' 0 2 ++ p.a.extractLsb' 3 1) (p.a.setWidth 3) (p.f.getLsbD 0) (p.f.getLsbD 1) p.tOpt) else none := by
  obtain ⟨s, shape, page, ext, op, d, a, t, f, ord, sc, imx⟩ := p
  subst hp ho
  rfl

theorem row_tmmaI4 (p : Parts) (hp : p.page = 3) (ho : p.op = 12) : decodeParts p =
    if p.plain && p.d.toNat < 16 && p.a.toNat < 16 then some (.tmmaI4 p.head (p.d.extractLsb' 2 2) (p.d.extractLsb' 0 2 ++ p.a.extractLsb' 3 1) (p.a.setWidth 3) (p.f.getLsbD 0) (p.f.getLsbD 1) p.tOpt) else none := by
  obtain ⟨s, shape, page, ext, op, d, a, t, f, ord, sc, imx⟩ := p
  subst hp ho
  rfl

theorem row_tmmaIz4 (p : Parts) (hp : p.page = 3) (ho : p.op = 13) : decodeParts p =
    if p.plain && p.d.toNat < 16 && p.a.toNat < 16 then some (.tmmaIz4 p.head (p.d.extractLsb' 2 2) (p.d.extractLsb' 0 2 ++ p.a.extractLsb' 3 1) (p.a.setWidth 3) (p.f.getLsbD 0) (p.f.getLsbD 1) p.tOpt) else none := by
  obtain ⟨s, shape, page, ext, op, d, a, t, f, ord, sc, imx⟩ := p
  subst hp ho
  rfl

theorem row_tcommit (p : Parts) (hp : p.page = 3) (ho : p.op = 14) (hf : p.f = 0) : decodeParts p =
    if p.plain && p.t == 0 && p.a.toNat < 16 then some (.tcommit p.head p.d (p.a.setWidth 4)) else none := by
  obtain ⟨s, shape, page, ext, op, d, a, t, f, ord, sc, imx⟩ := p
  subst hp ho hf
  rfl

theorem row_twaitb (p : Parts) (hp : p.page = 3) (ho : p.op = 14) (hf : p.f = 1) : decodeParts p =
    if p.plain && p.t == 0 then some (.twaitb p.head p.d p.a) else none := by
  obtain ⟨s, shape, page, ext, op, d, a, t, f, ord, sc, imx⟩ := p
  subst hp ho hf
  rfl

theorem row_tbatq (p : Parts) (hp : p.page = 3) (ho : p.op = 14) (hf : p.f = 2) : decodeParts p =
    if p.plain && p.t == 0 then some (.tbatq p.head p.d p.a) else none := by
  obtain ⟨s, shape, page, ext, op, d, a, t, f, ord, sc, imx⟩ := p
  subst hp ho hf
  rfl

theorem row_tlda (p : Parts) (hp : p.page = 3) (ho : p.op = 15) (hf : p.f = 0) : decodeParts p =
    if p.plainI && accOk p.d then some (.tlda p.head (p.d.setWidth 2) p.a p.tOpt p.disp) else none := by
  obtain ⟨s, shape, page, ext, op, d, a, t, f, ord, sc, imx⟩ := p
  subst hp ho hf
  rfl

theorem row_tsta (p : Parts) (hp : p.page = 3) (ho : p.op = 15) (hf : p.f = 1) : decodeParts p =
    if p.plainI && accOk p.d then some (.tsta p.head (p.d.setWidth 2) p.a p.tOpt p.disp) else if p.ord == 0 && p.sc == 0 && accOk p.d && p.shape.contains .trx && p.ext.extractLsb' 2 3 == 0 && p.ext.getLsbD 0 then some (.tstaQ p.head (p.d.setWidth 2) p.a p.t p.disp (p.ext.getLsbD 1)) else none := by
  obtain ⟨s, shape, page, ext, op, d, a, t, f, ord, sc, imx⟩ := p
  subst hp ho hf
  rfl

theorem row_tzero (p : Parts) (hp : p.page = 3) (ho : p.op = 15) (hf : p.f = 2) : decodeParts p =
    if p.plain && p.t == 0 && accOk p.d && p.a.toNat < 16 then some (.tzero p.head (p.d.setWidth 2) (p.a.setWidth 4)) else none := by
  obtain ⟨s, shape, page, ext, op, d, a, t, f, ord, sc, imx⟩ := p
  subst hp ho hf
  rfl

theorem row_taccq (p : Parts) (hp : p.page = 3) (ho : p.op = 15) (hf : p.f = 3) : decodeParts p =
    if p.plain && p.t == 0 && p.a.toNat < 16 then some (.taccq p.head p.d (p.a.setWidth 4)) else none := by
  obtain ⟨s, shape, page, ext, op, d, a, t, f, ord, sc, imx⟩ := p
  subst hp ho hf
  rfl

theorem row_rcfg (p : Parts) (hp : p.page = 3) (ho : p.op = 16) (hf : p.f = 0) : decodeParts p =
    if p.plain && p.t == 0 && kOk p.d then some (.rcfg p.head (p.d.setWidth 3) p.a) else none := by
  obtain ⟨s, shape, page, ext, op, d, a, t, f, ord, sc, imx⟩ := p
  subst hp ho hf
  rfl

theorem row_rpush (p : Parts) (hp : p.page = 3) (ho : p.op = 16) (hf : p.f = 1) : decodeParts p =
    if p.plain && p.t == 0 && kOk p.d && p.a.toNat < 16 then some (.rpush p.head (p.d.setWidth 3) (p.a.setWidth 4)) else none := by
  obtain ⟨s, shape, page, ext, op, d, a, t, f, ord, sc, imx⟩ := p
  subst hp ho hf
  rfl

theorem row_rpos (p : Parts) (hp : p.page = 3) (ho : p.op = 16) (hf : p.f = 2) : decodeParts p =
    if p.plain && p.t == 0 && kOk p.a then some (.rpos p.head p.d (p.a.setWidth 3)) else none := by
  obtain ⟨s, shape, page, ext, op, d, a, t, f, ord, sc, imx⟩ := p
  subst hp ho hf
  rfl

theorem row_rrst (p : Parts) (hp : p.page = 3) (ho : p.op = 16) (hf : p.f = 3) : decodeParts p =
    if p.plain && p.t == 0 && kOk p.d && p.a.toNat < 16 then some (.rrst p.head (p.d.setWidth 3) (p.a.setWidth 4)) else none := by
  obtain ⟨s, shape, page, ext, op, d, a, t, f, ord, sc, imx⟩ := p
  subst hp ho hf
  rfl

theorem row_tgeo (p : Parts) (hp : p.page = 3) (ho : p.op = 17) : decodeParts p =
    if p.plain && p.t == 0 && p.a.toNat < 16 then some (.tgeo p.head p.d (BitVec.ofNat 6 p.i6)) else none := by
  obtain ⟨s, shape, page, ext, op, d, a, t, f, ord, sc, imx⟩ := p
  subst hp ho
  rfl

theorem row_psel (p : Parts) (hp : p.page = 4) (ho : p.op = 0) (hf : p.f = 0) : decodeParts p =
    if p.plain && p.t == 0 && p.d == 0 then some (.psel p.head p.a) else none := by
  obtain ⟨s, shape, page, ext, op, d, a, t, f, ord, sc, imx⟩ := p
  subst hp ho hf
  rfl

theorem row_pstat (p : Parts) (hp : p.page = 4) (ho : p.op = 0) (hf : p.f = 1) : decodeParts p =
    if p.plain && p.t == 0 then some (.pstat p.head p.d p.a) else none := by
  obtain ⟨s, shape, page, ext, op, d, a, t, f, ord, sc, imx⟩ := p
  subst hp ho hf
  rfl

theorem row_pgain (p : Parts) (hp : p.page = 4) (ho : p.op = 0) (hf : p.f = 2) : decodeParts p =
    if p.plain && p.t == 0 then some (.pgain p.head p.d p.a) else none := by
  obtain ⟨s, shape, page, ext, op, d, a, t, f, ord, sc, imx⟩ := p
  subst hp ho hf
  rfl

theorem row_pserial (p : Parts) (hp : p.page = 4) (ho : p.op = 0) (hf : p.f = 3) : decodeParts p =
    if p.plain && p.t == 0 && p.a == 0 then some (.pserial p.head p.d) else none := by
  obtain ⟨s, shape, page, ext, op, d, a, t, f, ord, sc, imx⟩ := p
  subst hp ho hf
  rfl

theorem row_phld (p : Parts) (hp : p.page = 4) (ho : p.op = 1) (hf : p.f = 0) : decodeParts p =
    if p.plain && p.t == 0 && p.d == 0 then some (.phld p.head p.a) else none := by
  obtain ⟨s, shape, page, ext, op, d, a, t, f, ord, sc, imx⟩ := p
  subst hp ho hf
  rfl

theorem row_phsw (p : Parts) (hp : p.page = 4) (ho : p.op = 1) (hf : p.f = 1) : decodeParts p =
    if p.plain && p.t == 0 && p.d == 0 && p.a == 0 then some (.phsw p.head) else none := by
  obtain ⟨s, shape, page, ext, op, d, a, t, f, ord, sc, imx⟩ := p
  subst hp ho hf
  rfl

theorem row_phrd (p : Parts) (hp : p.page = 4) (ho : p.op = 1) (hf : p.f = 2) : decodeParts p =
    if p.plain && p.t == 0 then some (.phrd p.head p.d p.a) else none := by
  obtain ⟨s, shape, page, ext, op, d, a, t, f, ord, sc, imx⟩ := p
  subst hp ho hf
  rfl

theorem row_phwr (p : Parts) (hp : p.page = 4) (ho : p.op = 1) (hf : p.f = 3) : decodeParts p =
    if p.plain && p.t == 0 then some (.phwr p.head p.d p.a) else none := by
  obtain ⟨s, shape, page, ext, op, d, a, t, f, ord, sc, imx⟩ := p
  subst hp ho hf
  rfl

theorem row_pdec (p : Parts) (hp : p.page = 4) (ho : p.op = 2) (hf : p.f = 0) : decodeParts p =
    if p.plain && p.t == 0 then some (.pdec p.head p.d p.a) else none := by
  obtain ⟨s, shape, page, ext, op, d, a, t, f, ord, sc, imx⟩ := p
  subst hp ho hf
  rfl

theorem row_pdecq (p : Parts) (hp : p.page = 4) (ho : p.op = 2) (hf : p.f = 1) : decodeParts p =
    if p.plain && p.t == 0 then some (.pdecq p.head p.d p.a) else none := by
  obtain ⟨s, shape, page, ext, op, d, a, t, f, ord, sc, imx⟩ := p
  subst hp ho hf
  rfl

theorem row_ppass (p : Parts) (hp : p.page = 4) (ho : p.op = 3) (hf : p.f = 0) : decodeParts p =
    if p.plain && p.t == 0 && p.d == 0 then some (.ppass p.head p.a) else none := by
  obtain ⟨s, shape, page, ext, op, d, a, t, f, ord, sc, imx⟩ := p
  subst hp ho hf
  rfl

theorem row_ppassa (p : Parts) (hp : p.page = 4) (ho : p.op = 3) (hf : p.f = 1) : decodeParts p =
    if p.plain && p.t == 0 && p.d == 0 then some (.ppassa p.head p.a) else none := by
  obtain ⟨s, shape, page, ext, op, d, a, t, f, ord, sc, imx⟩ := p
  subst hp ho hf
  rfl

theorem row_pflush (p : Parts) (hp : p.page = 4) (ho : p.op = 3) (hf : p.f = 2) : decodeParts p =
    if p.plain && p.t == 0 && p.a == 0 then some (.pflush p.head p.d) else none := by
  obtain ⟨s, shape, page, ext, op, d, a, t, f, ord, sc, imx⟩ := p
  subst hp ho hf
  rfl

theorem row_pwait (p : Parts) (hp : p.page = 4) (ho : p.op = 3) (hf : p.f = 3) : decodeParts p =
    if p.plain && p.t == 0 then some (.pwait p.head p.d p.a) else none := by
  obtain ⟨s, shape, page, ext, op, d, a, t, f, ord, sc, imx⟩ := p
  subst hp ho hf
  rfl

theorem row_pprobe (p : Parts) (hp : p.page = 4) (ho : p.op = 4) (hf : p.f = 0) : decodeParts p =
    if p.plain && p.t == 0 && p.d == 0 && p.a == 0 then some (.pprobe p.head) else none := by
  obtain ⟨s, shape, page, ext, op, d, a, t, f, ord, sc, imx⟩ := p
  subst hp ho hf
  rfl

theorem row_ptrim (p : Parts) (hp : p.page = 4) (ho : p.op = 4) (hf : p.f = 1) : decodeParts p =
    if p.plain && p.t == 0 then some (.ptrim p.head p.d p.a) else none := by
  obtain ⟨s, shape, page, ext, op, d, a, t, f, ord, sc, imx⟩ := p
  subst hp ho hf
  rfl

theorem row_ploop (p : Parts) (hp : p.page = 4) (ho : p.op = 4) (hf : p.f = 2) : decodeParts p =
    if p.plain && p.t == 0 then some (.ploop p.head p.d p.a) else none := by
  obtain ⟨s, shape, page, ext, op, d, a, t, f, ord, sc, imx⟩ := p
  subst hp ho hf
  rfl

theorem row_pcal (p : Parts) (hp : p.page = 4) (ho : p.op = 4) (hf : p.f = 3) : decodeParts p =
    if p.plain && p.t == 0 && p.d == 0 then some (.pcal p.head p.a) else none := by
  obtain ⟨s, shape, page, ext, op, d, a, t, f, ord, sc, imx⟩ := p
  subst hp ho hf
  rfl

theorem row_pair (p : Parts) (hp : p.page = 5) (ho : p.op = 0) (hf : p.f = 0) : decodeParts p =
    if p.plain && p.t == 0 && p.d == 10 && p.a == 0 then some (.pair p.head) else none := by
  obtain ⟨s, shape, page, ext, op, d, a, t, f, ord, sc, imx⟩ := p
  subst hp ho hf
  rfl

theorem row_pairn (p : Parts) (hp : p.page = 5) (ho : p.op = 0) (hf : p.f = 1) : decodeParts p =
    if p.plain && p.t == 0 && p.d == 10 && p.a == 0 then some (.pairn p.head) else none := by
  obtain ⟨s, shape, page, ext, op, d, a, t, f, ord, sc, imx⟩ := p
  subst hp ho hf
  rfl

theorem row_pushp (p : Parts) (hp : p.page = 5) (ho : p.op = 0) (hf : p.f = 2) : decodeParts p =
    if p.plain && p.t == 0 && p.d == 0 then some (.pushp p.head p.a) else none := by
  obtain ⟨s, shape, page, ext, op, d, a, t, f, ord, sc, imx⟩ := p
  subst hp ho hf
  rfl

theorem row_pondq (p : Parts) (hp : p.page = 5) (ho : p.op = 0) (hf : p.f = 3) : decodeParts p =
    if p.plain && p.t == 0 && p.a == 0 then some (.pondq p.head p.d) else none := by
  obtain ⟨s, shape, page, ext, op, d, a, t, f, ord, sc, imx⟩ := p
  subst hp ho hf
  rfl

theorem row_nalloc (p : Parts) (hp : p.page = 5) (ho : p.op = 1) (hf : p.f = 0) : decodeParts p =
    if p.plain && p.t == 0 && p.a == 0 then some (.nalloc p.head p.d) else none := by
  obtain ⟨s, shape, page, ext, op, d, a, t, f, ord, sc, imx⟩ := p
  subst hp ho hf
  rfl

theorem row_walloc (p : Parts) (hp : p.page = 5) (ho : p.op = 1) (hf : p.f = 1) : decodeParts p =
    if p.plain && p.t == 0 && p.a == 0 then some (.walloc p.head p.d) else none := by
  obtain ⟨s, shape, page, ext, op, d, a, t, f, ord, sc, imx⟩ := p
  subst hp ho hf
  rfl

theorem row_nfree (p : Parts) (hp : p.page = 5) (ho : p.op = 1) (hf : p.f = 2) : decodeParts p =
    if p.plain && p.t == 0 && p.d == 0 then some (.nfree p.head p.a) else none := by
  obtain ⟨s, shape, page, ext, op, d, a, t, f, ord, sc, imx⟩ := p
  subst hp ho hf
  rfl

theorem row_wfree (p : Parts) (hp : p.page = 5) (ho : p.op = 1) (hf : p.f = 3) : decodeParts p =
    if p.plain && p.t == 0 && p.d == 0 then some (.wfree p.head p.a) else none := by
  obtain ⟨s, shape, page, ext, op, d, a, t, f, ord, sc, imx⟩ := p
  subst hp ho hf
  rfl

theorem row_nld (p : Parts) (hp : p.page = 5) (ho : p.op = 2) : decodeParts p =
    if p.plain && p.t == 0 then some (.nld p.head p.d p.a p.f) else none := by
  obtain ⟨s, shape, page, ext, op, d, a, t, f, ord, sc, imx⟩ := p
  subst hp ho
  rfl

theorem row_nst (p : Parts) (hp : p.page = 5) (ho : p.op = 3) : decodeParts p =
    if p.plain && p.t == 0 then some (.nst p.head p.d p.a p.f) else none := by
  obtain ⟨s, shape, page, ext, op, d, a, t, f, ord, sc, imx⟩ := p
  subst hp ho
  rfl

theorem row_wset (p : Parts) (hp : p.page = 5) (ho : p.op = 4) (hf : p.f = 0) : decodeParts p =
    if p.plain && p.t == 0 then some (.wset p.head p.d p.a) else none := by
  obtain ⟨s, shape, page, ext, op, d, a, t, f, ord, sc, imx⟩ := p
  subst hp ho hf
  rfl

theorem row_wrepl (p : Parts) (hp : p.page = 5) (ho : p.op = 4) (hf : p.f = 1) : decodeParts p =
    if p.plain && p.t == 0 then some (.wrepl p.head p.d p.a) else none := by
  obtain ⟨s, shape, page, ext, op, d, a, t, f, ord, sc, imx⟩ := p
  subst hp ho hf
  rfl

theorem row_wsplice (p : Parts) (hp : p.page = 5) (ho : p.op = 4) (hf : p.f = 2) : decodeParts p =
    if p.plain && p.t == 0 then some (.wsplice p.head p.d p.a) else none := by
  obtain ⟨s, shape, page, ext, op, d, a, t, f, ord, sc, imx⟩ := p
  subst hp ho hf
  rfl

theorem row_wres (p : Parts) (hp : p.page = 5) (ho : p.op = 4) (hf : p.f = 3) : decodeParts p =
    if p.plain && p.t == 0 then some (.wres p.head p.d p.a) else none := by
  obtain ⟨s, shape, page, ext, op, d, a, t, f, ord, sc, imx⟩ := p
  subst hp ho hf
  rfl

theorem row_retire (p : Parts) (hp : p.page = 5) (ho : p.op = 5) (hf : p.f = 0) : decodeParts p =
    if p.plain && p.t == 0 && p.d == 0 && p.a == 0 then some (.retire p.head) else none := by
  obtain ⟨s, shape, page, ext, op, d, a, t, f, ord, sc, imx⟩ := p
  subst hp ho hf
  rfl

theorem row_rule (p : Parts) (hp : p.page = 5) (ho : p.op = 5) (hf : p.f = 1) : decodeParts p =
    if p.plain && p.t == 0 then some (.rule p.head p.d p.a) else none := by
  obtain ⟨s, shape, page, ext, op, d, a, t, f, ord, sc, imx⟩ := p
  subst hp ho hf
  rfl

theorem row_yieldp (p : Parts) (hp : p.page = 5) (ho : p.op = 5) (hf : p.f = 2) : decodeParts p =
    if p.plain && p.t == 0 && p.d == 0 && p.a == 0 then some (.yieldp p.head) else none := by
  obtain ⟨s, shape, page, ext, op, d, a, t, f, ord, sc, imx⟩ := p
  subst hp ho hf
  rfl

theorem row_engw (p : Parts) (hp : p.page = 5) (ho : p.op = 5) (hf : p.f = 3) : decodeParts p =
    if p.plain && p.t == 0 && p.d == 0 then some (.engw p.head p.a) else none := by
  obtain ⟨s, shape, page, ext, op, d, a, t, f, ord, sc, imx⟩ := p
  subst hp ho hf
  rfl

theorem row_nrdm (p : Parts) (hp : p.page = 5) (ho : p.op = 6) (hf : p.f = 0) : decodeParts p =
    if p.plain && p.t == 0 then some (.nrdm p.head p.d p.a) else none := by
  obtain ⟨s, shape, page, ext, op, d, a, t, f, ord, sc, imx⟩ := p
  subst hp ho hf
  rfl

theorem row_nval (p : Parts) (hp : p.page = 5) (ho : p.op = 6) (hf : p.f = 1) : decodeParts p =
    if p.plain && p.t == 0 then some (.nval p.head p.d p.a) else none := by
  obtain ⟨s, shape, page, ext, op, d, a, t, f, ord, sc, imx⟩ := p
  subst hp ho hf
  rfl

theorem row_tldn (p : Parts) (hp : p.page = 6) (ho : p.op = 0) (hf : p.f = 0) : decodeParts p =
    if p.ext == 0 && p.ord != 3 && (⟨p.ord, p.sc⟩ : Order).okAccess then some (.tldn p.head p.d p.a p.disp p.t ⟨p.ord, p.sc⟩) else none := by
  obtain ⟨s, shape, page, ext, op, d, a, t, f, ord, sc, imx⟩ := p
  subst hp ho hf
  rfl

theorem row_tldg (p : Parts) (hp : p.page = 6) (ho : p.op = 0) (hf : p.f = 1) : decodeParts p =
    if p.ext == 0 && p.ord.toNat < 2 && (⟨p.ord, p.sc⟩ : Order).okAccess then some (.tldg p.head p.d p.a p.disp p.t ⟨p.ord, p.sc⟩) else none := by
  obtain ⟨s, shape, page, ext, op, d, a, t, f, ord, sc, imx⟩ := p
  subst hp ho hf
  rfl

theorem row_tkdrop (p : Parts) (hp : p.page = 6) (ho : p.op = 0) (hf : p.f = 2) : decodeParts p =
    if p.plain && p.t == 0 && p.d == 0 then some (.tkdrop p.head p.a) else none := by
  obtain ⟨s, shape, page, ext, op, d, a, t, f, ord, sc, imx⟩ := p
  subst hp ho hf
  rfl

theorem row_amoAdd (p : Parts) (hp : p.page = 6) (ho : p.op = 1) (hf : p.f = 0) : decodeParts p =
    if p.ext.toNat < 2 && p.t == 0 && (⟨p.ord, p.sc⟩ : Order).okAccess then some (.amoAdd p.head p.d p.a p.disp (p.ext.getLsbD 0) ⟨p.ord, p.sc⟩) else none := by
  obtain ⟨s, shape, page, ext, op, d, a, t, f, ord, sc, imx⟩ := p
  subst hp ho hf
  rfl

theorem row_amoAnd (p : Parts) (hp : p.page = 6) (ho : p.op = 1) (hf : p.f = 1) : decodeParts p =
    if p.ext.toNat < 2 && p.t == 0 && (⟨p.ord, p.sc⟩ : Order).okAccess then some (.amoAnd p.head p.d p.a p.disp (p.ext.getLsbD 0) ⟨p.ord, p.sc⟩) else none := by
  obtain ⟨s, shape, page, ext, op, d, a, t, f, ord, sc, imx⟩ := p
  subst hp ho hf
  rfl

theorem row_amoOr (p : Parts) (hp : p.page = 6) (ho : p.op = 1) (hf : p.f = 2) : decodeParts p =
    if p.ext.toNat < 2 && p.t == 0 && (⟨p.ord, p.sc⟩ : Order).okAccess then some (.amoOr p.head p.d p.a p.disp (p.ext.getLsbD 0) ⟨p.ord, p.sc⟩) else none := by
  obtain ⟨s, shape, page, ext, op, d, a, t, f, ord, sc, imx⟩ := p
  subst hp ho hf
  rfl

theorem row_amoXor (p : Parts) (hp : p.page = 6) (ho : p.op = 1) (hf : p.f = 3) : decodeParts p =
    if p.ext.toNat < 2 && p.t == 0 && (⟨p.ord, p.sc⟩ : Order).okAccess then some (.amoXor p.head p.d p.a p.disp (p.ext.getLsbD 0) ⟨p.ord, p.sc⟩) else none := by
  obtain ⟨s, shape, page, ext, op, d, a, t, f, ord, sc, imx⟩ := p
  subst hp ho hf
  rfl

theorem row_amoMin (p : Parts) (hp : p.page = 6) (ho : p.op = 2) (hf : p.f = 0) : decodeParts p =
    if p.ext.toNat < 4 && p.t == 0 && (⟨p.ord, p.sc⟩ : Order).okAccess then some (.amoMin p.head p.d p.a p.disp (p.ext.getLsbD 0) (p.ext.getLsbD 1) ⟨p.ord, p.sc⟩) else none := by
  obtain ⟨s, shape, page, ext, op, d, a, t, f, ord, sc, imx⟩ := p
  subst hp ho hf
  rfl

theorem row_amoMax (p : Parts) (hp : p.page = 6) (ho : p.op = 2) (hf : p.f = 1) : decodeParts p =
    if p.ext.toNat < 4 && p.t == 0 && (⟨p.ord, p.sc⟩ : Order).okAccess then some (.amoMax p.head p.d p.a p.disp (p.ext.getLsbD 0) (p.ext.getLsbD 1) ⟨p.ord, p.sc⟩) else none := by
  obtain ⟨s, shape, page, ext, op, d, a, t, f, ord, sc, imx⟩ := p
  subst hp ho hf
  rfl

theorem row_amoSwap (p : Parts) (hp : p.page = 6) (ho : p.op = 2) (hf : p.f = 2) : decodeParts p =
    if p.ext.toNat < 2 && p.t == 0 && (⟨p.ord, p.sc⟩ : Order).okAccess then some (.amoSwap p.head p.d p.a p.disp (p.ext.getLsbD 0) ⟨p.ord, p.sc⟩) else none := by
  obtain ⟨s, shape, page, ext, op, d, a, t, f, ord, sc, imx⟩ := p
  subst hp ho hf
  rfl

theorem row_amoCas (p : Parts) (hp : p.page = 6) (ho : p.op = 2) (hf : p.f = 3) : decodeParts p =
    if p.ext.toNat < 2 && (⟨p.ord, p.sc⟩ : Order).okAccess then some (.amoCas p.head p.d p.a p.t p.disp (p.ext.getLsbD 0) ⟨p.ord, p.sc⟩) else none := by
  obtain ⟨s, shape, page, ext, op, d, a, t, f, ord, sc, imx⟩ := p
  subst hp ho hf
  rfl

theorem row_famoAdd (p : Parts) (hp : p.page = 6) (ho : p.op = 3) (hf : p.f = 0) : decodeParts p =
    if p.ext == 0 && p.t == 0 && (⟨p.ord, p.sc⟩ : Order).okAccess then some (.famoAdd p.head p.d p.a p.disp ⟨p.ord, p.sc⟩) else none := by
  obtain ⟨s, shape, page, ext, op, d, a, t, f, ord, sc, imx⟩ := p
  subst hp ho hf
  rfl

theorem row_famoAdd2 (p : Parts) (hp : p.page = 6) (ho : p.op = 3) (hf : p.f = 1) : decodeParts p =
    if p.ext == 0 && p.t == 0 && (⟨p.ord, p.sc⟩ : Order).okAccess then some (.famoAdd2 p.head p.d p.a p.disp ⟨p.ord, p.sc⟩) else none := by
  obtain ⟨s, shape, page, ext, op, d, a, t, f, ord, sc, imx⟩ := p
  subst hp ho hf
  rfl

theorem row_famoMax (p : Parts) (hp : p.page = 6) (ho : p.op = 3) (hf : p.f = 2) : decodeParts p =
    if p.ext == 0 && p.t == 0 && (⟨p.ord, p.sc⟩ : Order).okAccess then some (.famoMax p.head p.d p.a p.disp ⟨p.ord, p.sc⟩) else none := by
  obtain ⟨s, shape, page, ext, op, d, a, t, f, ord, sc, imx⟩ := p
  subst hp ho hf
  rfl

theorem row_famoMin (p : Parts) (hp : p.page = 6) (ho : p.op = 3) (hf : p.f = 3) : decodeParts p =
    if p.ext == 0 && p.t == 0 && (⟨p.ord, p.sc⟩ : Order).okAccess then some (.famoMin p.head p.d p.a p.disp ⟨p.ord, p.sc⟩) else none := by
  obtain ⟨s, shape, page, ext, op, d, a, t, f, ord, sc, imx⟩ := p
  subst hp ho hf
  rfl

theorem row_msg (p : Parts) (hp : p.page = 6) (ho : p.op = 4) (hf : p.f = 0) : decodeParts p =
    if p.plain then some (.msg p.head p.d p.a p.t) else none := by
  obtain ⟨s, shape, page, ext, op, d, a, t, f, ord, sc, imx⟩ := p
  subst hp ho hf
  rfl

theorem row_callat (p : Parts) (hp : p.page = 6) (ho : p.op = 4) (hf : p.f = 1) : decodeParts p =
    if p.plain then some (.callat p.head p.d p.a p.t) else none := by
  obtain ⟨s, shape, page, ext, op, d, a, t, f, ord, sc, imx⟩ := p
  subst hp ho hf
  rfl

theorem row_mret (p : Parts) (hp : p.page = 6) (ho : p.op = 4) (hf : p.f = 2) : decodeParts p =
    if p.plain && p.t == 0 && p.d == 0 && p.a == 0 then some (.mret p.head) else none := by
  obtain ⟨s, shape, page, ext, op, d, a, t, f, ord, sc, imx⟩ := p
  subst hp ho hf
  rfl

theorem row_hret (p : Parts) (hp : p.page = 6) (ho : p.op = 4) (hf : p.f = 3) : decodeParts p =
    if p.plain && p.t == 0 && p.d == 0 && p.a == 0 then some (.hret p.head) else none := by
  obtain ⟨s, shape, page, ext, op, d, a, t, f, ord, sc, imx⟩ := p
  subst hp ho hf
  rfl

theorem row_clsm (p : Parts) (hp : p.page = 6) (ho : p.op = 5) (hf : p.f = 0) : decodeParts p =
    if p.plain && p.t == 0 && p.d == 0 then some (.clsm p.head p.a) else none := by
  obtain ⟨s, shape, page, ext, op, d, a, t, f, ord, sc, imx⟩ := p
  subst hp ho hf
  rfl

theorem row_clsu (p : Parts) (hp : p.page = 6) (ho : p.op = 5) (hf : p.f = 1) : decodeParts p =
    if p.plain && p.t == 0 && p.d == 0 then some (.clsu p.head p.a) else none := by
  obtain ⟨s, shape, page, ext, op, d, a, t, f, ord, sc, imx⟩ := p
  subst hp ho hf
  rfl

theorem row_mclose (p : Parts) (hp : p.page = 6) (ho : p.op = 5) (hf : p.f = 2) : decodeParts p =
    if p.plain && p.t == 0 then some (.mclose p.head p.d p.a) else none := by
  obtain ⟨s, shape, page, ext, op, d, a, t, f, ord, sc, imx⟩ := p
  subst hp ho hf
  rfl

theorem row_mpoll (p : Parts) (hp : p.page = 6) (ho : p.op = 5) (hf : p.f = 3) : decodeParts p =
    if p.plain && p.t == 0 then some (.mpoll p.head p.d p.a) else none := by
  obtain ⟨s, shape, page, ext, op, d, a, t, f, ord, sc, imx⟩ := p
  subst hp ho hf
  rfl

theorem row_cpset (p : Parts) (hp : p.page = 6) (ho : p.op = 6) (hf : p.f = 0) : decodeParts p =
    if p.plain && p.t == 0 && p.a.toNat < 7 then some (.cpset p.head p.d (p.a.setWidth 3)) else none := by
  obtain ⟨s, shape, page, ext, op, d, a, t, f, ord, sc, imx⟩ := p
  subst hp ho hf
  rfl

theorem row_cpgo (p : Parts) (hp : p.page = 6) (ho : p.op = 6) (hf : p.f = 1) : decodeParts p =
    if p.plain && p.t == 0 && p.a == 0 then some (.cpgo p.head p.d) else none := by
  obtain ⟨s, shape, page, ext, op, d, a, t, f, ord, sc, imx⟩ := p
  subst hp ho hf
  rfl

theorem row_cpwait (p : Parts) (hp : p.page = 6) (ho : p.op = 6) (hf : p.f = 2) : decodeParts p =
    if p.plain && p.t == 0 then some (.cpwait p.head p.d p.a) else none := by
  obtain ⟨s, shape, page, ext, op, d, a, t, f, ord, sc, imx⟩ := p
  subst hp ho hf
  rfl

theorem row_cpq (p : Parts) (hp : p.page = 6) (ho : p.op = 6) (hf : p.f = 3) : decodeParts p =
    if p.plain && p.t == 0 then some (.cpq p.head p.d p.a) else none := by
  obtain ⟨s, shape, page, ext, op, d, a, t, f, ord, sc, imx⟩ := p
  subst hp ho hf
  rfl

theorem row_cshape (p : Parts) (hp : p.page = 6) (ho : p.op = 7) (hf : p.f = 0) : decodeParts p =
    if p.plain && p.t == 0 then some (.cshape p.head p.d p.a) else none := by
  obtain ⟨s, shape, page, ext, op, d, a, t, f, ord, sc, imx⟩ := p
  subst hp ho hf
  rfl

theorem row_cpmc (p : Parts) (hp : p.page = 6) (ho : p.op = 7) (hf : p.f = 1) : decodeParts p =
    if p.plain && p.t == 0 then some (.cpmc p.head p.d p.a) else none := by
  obtain ⟨s, shape, page, ext, op, d, a, t, f, ord, sc, imx⟩ := p
  subst hp ho hf
  rfl

theorem row_gred (p : Parts) (hp : p.page = 6) (ho : p.op = 8) (hf : p.f = 0) : decodeParts p =
    if p.plain && p.t == 0 then some (.gred p.head p.d p.a) else none := by
  obtain ⟨s, shape, page, ext, op, d, a, t, f, ord, sc, imx⟩ := p
  subst hp ho hf
  rfl

theorem row_gbc (p : Parts) (hp : p.page = 6) (ho : p.op = 8) (hf : p.f = 1) : decodeParts p =
    if p.plain && p.t == 0 then some (.gbc p.head p.d p.a) else none := by
  obtain ⟨s, shape, page, ext, op, d, a, t, f, ord, sc, imx⟩ := p
  subst hp ho hf
  rfl

theorem row_dsend (p : Parts) (hp : p.page = 6) (ho : p.op = 9) (hf : p.f = 0) : decodeParts p =
    if p.plain && p.t == 0 then some (.dsend p.head p.d p.a) else none := by
  obtain ⟨s, shape, page, ext, op, d, a, t, f, ord, sc, imx⟩ := p
  subst hp ho hf
  rfl

theorem row_dpoll (p : Parts) (hp : p.page = 6) (ho : p.op = 9) (hf : p.f = 1) : decodeParts p =
    if p.plain && p.t == 0 then some (.dpoll p.head p.d p.a) else none := by
  obtain ⟨s, shape, page, ext, op, d, a, t, f, ord, sc, imx⟩ := p
  subst hp ho hf
  rfl

theorem row_dslot (p : Parts) (hp : p.page = 6) (ho : p.op = 9) (hf : p.f = 2) : decodeParts p =
    if p.plain && p.t == 0 then some (.dslot p.head p.d p.a) else none := by
  obtain ⟨s, shape, page, ext, op, d, a, t, f, ord, sc, imx⟩ := p
  subst hp ho hf
  rfl

theorem row_dsig (p : Parts) (hp : p.page = 6) (ho : p.op = 9) (hf : p.f = 3) : decodeParts p =
    if p.plain && p.t == 0 then some (.dsig p.head p.d p.a) else none := by
  obtain ⟨s, shape, page, ext, op, d, a, t, f, ord, sc, imx⟩ := p
  subst hp ho hf
  rfl

theorem row_rft (p : Parts) (hp : p.page = 7) (ho : p.op = 0) (hf : p.f = 0) : decodeParts p =
    if p.plain && p.t == 0 && p.d == 0 && p.a == 1 then some (.rft p.head) else if p.plain && p.t == 0 && p.d == 0 && p.a == 2 then some (.rftNext p.head) else none := by
  obtain ⟨s, shape, page, ext, op, d, a, t, f, ord, sc, imx⟩ := p
  subst hp ho hf
  rfl

theorem row_trrec (p : Parts) (hp : p.page = 7) (ho : p.op = 0) (hf : p.f = 1) : decodeParts p =
    if p.plainI && p.t == 0 then some (.trrec p.head p.d p.a p.disp) else none := by
  obtain ⟨s, shape, page, ext, op, d, a, t, f, ord, sc, imx⟩ := p
  subst hp ho hf
  rfl

theorem row_mfp (p : Parts) (hp : p.page = 7) (ho : p.op = 1) (hf : p.f = 0) : decodeParts p =
    if p.plainI && p.t == 0 then some (.mfp p.head p.d p.a p.disp) else none := by
  obtain ⟨s, shape, page, ext, op, d, a, t, f, ord, sc, imx⟩ := p
  subst hp ho hf
  rfl

theorem row_mtp (p : Parts) (hp : p.page = 7) (ho : p.op = 1) (hf : p.f = 1) : decodeParts p =
    if p.plainI && p.t == 0 then some (.mtp p.head p.d p.a p.disp) else none := by
  obtain ⟨s, shape, page, ext, op, d, a, t, f, ord, sc, imx⟩ := p
  subst hp ho hf
  rfl

theorem row_tlbi (p : Parts) (hp : p.page = 7) (ho : p.op = 2) (hf : p.f = 0) : decodeParts p =
    if p.plain && p.t == 0 then some (.tlbi p.head p.d p.a) else none := by
  obtain ⟨s, shape, page, ext, op, d, a, t, f, ord, sc, imx⟩ := p
  subst hp ho hf
  rfl

theorem row_tlbia (p : Parts) (hp : p.page = 7) (ho : p.op = 2) (hf : p.f = 1) : decodeParts p =
    if p.plain && p.t == 0 && p.d == 0 then some (.tlbia p.head p.a) else none := by
  obtain ⟨s, shape, page, ext, op, d, a, t, f, ord, sc, imx⟩ := p
  subst hp ho hf
  rfl

theorem row_xbset (p : Parts) (hp : p.page = 7) (ho : p.op = 2) (hf : p.f = 2) : decodeParts p =
    if p.plain && p.t == 0 && p.d == 0 then some (.xbset p.head p.a) else none := by
  obtain ⟨s, shape, page, ext, op, d, a, t, f, ord, sc, imx⟩ := p
  subst hp ho hf
  rfl

theorem row_cflush (p : Parts) (hp : p.page = 7) (ho : p.op = 3) (hf : p.f = 0) : decodeParts p =
    if p.plainI && p.t == 0 && p.d == 0 then some (.cflush p.head p.a p.disp) else none := by
  obtain ⟨s, shape, page, ext, op, d, a, t, f, ord, sc, imx⟩ := p
  subst hp ho hf
  rfl

theorem row_cinv (p : Parts) (hp : p.page = 7) (ho : p.op = 3) (hf : p.f = 1) : decodeParts p =
    if p.plainI && p.t == 0 && p.d == 0 then some (.cinv p.head p.a p.disp) else none := by
  obtain ⟨s, shape, page, ext, op, d, a, t, f, ord, sc, imx⟩ := p
  subst hp ho hf
  rfl

theorem row_czero (p : Parts) (hp : p.page = 7) (ho : p.op = 3) (hf : p.f = 2) : decodeParts p =
    if p.plainI && p.t == 0 && p.d == 0 then some (.czero p.head p.a p.disp) else none := by
  obtain ⟨s, shape, page, ext, op, d, a, t, f, ord, sc, imx⟩ := p
  subst hp ho hf
  rfl

theorem row_dstop (p : Parts) (hp : p.page = 7) (ho : p.op = 4) (hf : p.f = 0) : decodeParts p =
    if p.plain && p.t == 0 && p.d == 0 then some (.dstop p.head p.a) else none := by
  obtain ⟨s, shape, page, ext, op, d, a, t, f, ord, sc, imx⟩ := p
  subst hp ho hf
  rfl

theorem row_trmark (p : Parts) (hp : p.page = 7) (ho : p.op = 4) (hf : p.f = 1) : decodeParts p =
    if p.plain && p.t == 0 && p.d == 0 then some (.trmark p.head p.a) else none := by
  obtain ⟨s, shape, page, ext, op, d, a, t, f, ord, sc, imx⟩ := p
  subst hp ho hf
  rfl

theorem row_evsel (p : Parts) (hp : p.page = 7) (ho : p.op = 4) (hf : p.f = 2) : decodeParts p =
    if p.plain && p.t == 0 then some (.evsel p.head p.d p.a) else none := by
  obtain ⟨s, shape, page, ext, op, d, a, t, f, ord, sc, imx⟩ := p
  subst hp ho hf
  rfl

theorem row_evrd (p : Parts) (hp : p.page = 7) (ho : p.op = 4) (hf : p.f = 3) : decodeParts p =
    if p.plain && p.t == 0 then some (.evrd p.head p.d p.a) else none := by
  obtain ⟨s, shape, page, ext, op, d, a, t, f, ord, sc, imx⟩ := p
  subst hp ho hf
  rfl

theorem row_rpcapCapture (p : Parts) (hp : p.page = 7) (ho : p.op = 5) (hf : p.f = 0) : decodeParts p =
    if p.plain then some (.rpcapCapture p.head p.d p.a p.t) else none := by
  obtain ⟨s, shape, page, ext, op, d, a, t, f, ord, sc, imx⟩ := p
  subst hp ho hf
  rfl

theorem row_rpstat (p : Parts) (hp : p.page = 7) (ho : p.op = 5) (hf : p.f = 1) : decodeParts p =
    if p.plain && p.t == 0 then some (.rpstat p.head p.d p.a) else none := by
  obtain ⟨s, shape, page, ext, op, d, a, t, f, ord, sc, imx⟩ := p
  subst hp ho hf
  rfl

theorem row_tpert (p : Parts) (hp : p.page = 7) (ho : p.op = 6) (hf : p.f = 0) : decodeParts p =
    if p.plain && p.t == 0 then some (.tpert p.head p.d p.a) else none := by
  obtain ⟨s, shape, page, ext, op, d, a, t, f, ord, sc, imx⟩ := p
  subst hp ho hf
  rfl

theorem row_inj (p : Parts) (hp : p.page = 7) (ho : p.op = 6) (hf : p.f = 1) : decodeParts p =
    if p.plainI && p.t == 0 then some (.inj p.head p.d p.a p.disp) else none := by
  obtain ⟨s, shape, page, ext, op, d, a, t, f, ord, sc, imx⟩ := p
  subst hp ho hf
  rfl

theorem row_pwrf (p : Parts) (hp : p.page = 7) (ho : p.op = 7) (hf : p.f = 0) : decodeParts p =
    if p.plain && p.t == 0 then some (.pwrf p.head p.d p.a) else none := by
  obtain ⟨s, shape, page, ext, op, d, a, t, f, ord, sc, imx⟩ := p
  subst hp ho hf
  rfl

/-! ### The lemmas -/

theorem PartsRoundTrip.breakpoint a0 : Statement (.breakpoint a0) := fun _ h => nomatch h
theorem PartsRoundTrip.resultLand a0 a1 a2 a3 a4 : Statement (.resultLand a0 a1 a2 a3 a4) := fun _ h => nomatch h
theorem PartsRoundTrip.storeAck a0 : Statement (.storeAck a0) := fun _ h => nomatch h
theorem PartsRoundTrip.atomicPerform a0 a1 a2 a3 a4 a5 : Statement (.atomicPerform a0 a1 a2 a3 a4 a5) := fun _ h => nomatch h
theorem PartsRoundTrip.tlbWalk a0 : Statement (.tlbWalk a0) := fun _ h => nomatch h
theorem PartsRoundTrip.ticketGrant a0 a1 : Statement (.ticketGrant a0 a1) := fun _ h => nomatch h
theorem PartsRoundTrip.grantArrive a0 a1 : Statement (.grantArrive a0 a1) := fun _ h => nomatch h
theorem PartsRoundTrip.tldRequestArrive a0 a1 : Statement (.tldRequestArrive a0 a1) := fun _ h => nomatch h
theorem PartsRoundTrip.ticketFetchPerform a0 a1 a2 a3 a4 : Statement (.ticketFetchPerform a0 a1 a2 a3 a4) := fun _ h => nomatch h
theorem PartsRoundTrip.ticketDataArrive a0 a1 a2 a3 a4 a5 a6 : Statement (.ticketDataArrive a0 a1 a2 a3 a4 a5 a6) := fun _ h => nomatch h
theorem PartsRoundTrip.redeemArrive a0 a1 : Statement (.redeemArrive a0 a1) := fun _ h => nomatch h
theorem PartsRoundTrip.tkdropArrive a0 a1 : Statement (.tkdropArrive a0 a1) := fun _ h => nomatch h
theorem PartsRoundTrip.tkqArrive a0 a1 : Statement (.tkqArrive a0 a1) := fun _ h => nomatch h
theorem PartsRoundTrip.redeemDelivery a0 a1 a2 a3 : Statement (.redeemDelivery a0 a1 a2 a3) := fun _ h => nomatch h
theorem PartsRoundTrip.packageTimerTick : Statement (.packageTimerTick) := fun _ h => nomatch h
theorem PartsRoundTrip.leaseExpire a0 a1 : Statement (.leaseExpire a0 a1) := fun _ h => nomatch h
theorem PartsRoundTrip.setend a0 a1 a2 a3 : Statement (.setend a0 a1 a2 a3) := fun _ h => nomatch h
theorem PartsRoundTrip.replace a0 a1 a2 a3 : Statement (.replace a0 a1 a2 a3) := fun _ h => nomatch h
theorem PartsRoundTrip.splice a0 a1 a2 a3 a4 : Statement (.splice a0 a1 a2 a3 a4) := fun _ h => nomatch h
theorem PartsRoundTrip.adopt a0 a1 a2 a3 : Statement (.adopt a0 a1 a2 a3) := fun _ h => nomatch h
theorem PartsRoundTrip.resolve a0 a1 a2 a3 a4 a5 : Statement (.resolve a0 a1 a2 a3 a4 a5) := fun _ h => nomatch h
theorem PartsRoundTrip.unref a0 a1 a2 : Statement (.unref a0 a1 a2) := fun _ h => nomatch h
theorem PartsRoundTrip.wfreeMessage a0 a1 : Statement (.wfreeMessage a0 a1) := fun _ h => nomatch h
theorem PartsRoundTrip.nfreeMessage a0 a1 : Statement (.nfreeMessage a0 a1) := fun _ h => nomatch h
theorem PartsRoundTrip.pondRequestRound a0 : Statement (.pondRequestRound a0) := fun _ h => nomatch h
theorem PartsRoundTrip.pondWorkRequest a0 a1 a2 : Statement (.pondWorkRequest a0 a1 a2) := fun _ h => nomatch h
theorem PartsRoundTrip.pondHighmAnnounce a0 a1 : Statement (.pondHighmAnnounce a0 a1) := fun _ h => nomatch h
theorem PartsRoundTrip.springStockRefill a0 : Statement (.springStockRefill a0) := fun _ h => nomatch h
theorem PartsRoundTrip.twinCompare a0 : Statement (.twinCompare a0) := fun _ h => nomatch h
theorem PartsRoundTrip.msgArrive a0 a1 : Statement (.msgArrive a0 a1) := fun _ h => nomatch h
theorem PartsRoundTrip.handlerStart a0 : Statement (.handlerStart a0) := fun _ h => nomatch h
theorem PartsRoundTrip.taskStart a0 : Statement (.taskStart a0) := fun _ h => nomatch h
theorem PartsRoundTrip.messageRefusal a0 : Statement (.messageRefusal a0) := fun _ h => nomatch h
theorem PartsRoundTrip.barrierArrival a0 a1 a2 : Statement (.barrierArrival a0 a1 a2) := fun _ h => nomatch h
theorem PartsRoundTrip.barrierCompletionNotice a0 a1 a2 : Statement (.barrierCompletionNotice a0 a1 a2) := fun _ h => nomatch h
theorem PartsRoundTrip.collectiveContribution a0 a1 a2 : Statement (.collectiveContribution a0 a1 a2) := fun _ h => nomatch h
theorem PartsRoundTrip.collectiveResult a0 a1 a2 a3 : Statement (.collectiveResult a0 a1 a2 a3) := fun _ h => nomatch h
theorem PartsRoundTrip.copyTransferStart a0 : Statement (.copyTransferStart a0) := fun _ h => nomatch h
theorem PartsRoundTrip.copyTransferComplete a0 a1 : Statement (.copyTransferComplete a0 a1) := fun _ h => nomatch h
theorem PartsRoundTrip.tileStepStart a0 : Statement (.tileStepStart a0) := fun _ h => nomatch h
theorem PartsRoundTrip.tileStepRetire a0 : Statement (.tileStepRetire a0) := fun _ h => nomatch h
theorem PartsRoundTrip.phldTakeEffect a0 : Statement (.phldTakeEffect a0) := fun _ h => nomatch h
theorem PartsRoundTrip.shadowSettle a0 : Statement (.shadowSettle a0) := fun _ h => nomatch h
theorem PartsRoundTrip.phrdTakeEffect a0 : Statement (.phrdTakeEffect a0) := fun _ h => nomatch h
theorem PartsRoundTrip.phwrTakeEffect a0 : Statement (.phwrTakeEffect a0) := fun _ h => nomatch h
theorem PartsRoundTrip.ptrimTakeEffect a0 : Statement (.ptrimTakeEffect a0) := fun _ h => nomatch h
theorem PartsRoundTrip.passBoundary a0 : Statement (.passBoundary a0) := fun _ h => nomatch h
theorem PartsRoundTrip.trimSettle a0 : Statement (.trimSettle a0) := fun _ h => nomatch h
theorem PartsRoundTrip.passStart a0 : Statement (.passStart a0) := fun _ h => nomatch h
theorem PartsRoundTrip.passHeaderWrite a0 : Statement (.passHeaderWrite a0) := fun _ h => nomatch h
theorem PartsRoundTrip.probeEvaluation a0 : Statement (.probeEvaluation a0) := fun _ h => nomatch h
theorem PartsRoundTrip.probeComplete a0 : Statement (.probeComplete a0) := fun _ h => nomatch h
theorem PartsRoundTrip.pcalComplete a0 : Statement (.pcalComplete a0) := fun _ h => nomatch h
theorem PartsRoundTrip.deComplete a0 : Statement (.deComplete a0) := fun _ h => nomatch h
theorem PartsRoundTrip.deBankLoad a0 : Statement (.deBankLoad a0) := fun _ h => nomatch h
theorem PartsRoundTrip.balanceHeaterUpdate a0 : Statement (.balanceHeaterUpdate a0) := fun _ h => nomatch h
theorem PartsRoundTrip.combLoss a0 a1 : Statement (.combLoss a0 a1) := fun _ h => nomatch h
theorem PartsRoundTrip.modStuck a0 a1 a2 : Statement (.modStuck a0 a1 a2) := fun _ h => nomatch h
theorem PartsRoundTrip.parityRecovery a0 a1 a2 a3 : Statement (.parityRecovery a0 a1 a2 a3) := fun _ h => nomatch h
theorem PartsRoundTrip.scrub a0 : Statement (.scrub a0) := fun _ h => nomatch h
theorem PartsRoundTrip.asyncFaultTake a0 : Statement (.asyncFaultTake a0) := fun _ h => nomatch h
theorem PartsRoundTrip.fpExcWindowClose a0 : Statement (.fpExcWindowClose a0) := fun _ h => nomatch h
theorem PartsRoundTrip.tickMiss a0 : Statement (.tickMiss a0) := fun _ h => nomatch h
theorem PartsRoundTrip.quietNotice a0 : Statement (.quietNotice a0) := fun _ h => nomatch h
theorem PartsRoundTrip.completionWave a0 : Statement (.completionWave a0) := fun _ h => nomatch h
theorem PartsRoundTrip.waveReport a0 : Statement (.waveReport a0) := fun _ h => nomatch h
theorem PartsRoundTrip.submissionTake a0 : Statement (.submissionTake a0) := fun _ h => nomatch h
theorem PartsRoundTrip.dispatchSelect : Statement (.dispatchSelect) := fun _ h => nomatch h
theorem PartsRoundTrip.preemption a0 : Statement (.preemption a0) := fun _ h => nomatch h
theorem PartsRoundTrip.resumption a0 : Statement (.resumption a0) := fun _ h => nomatch h
theorem PartsRoundTrip.jobEnd a0 : Statement (.jobEnd a0) := fun _ h => nomatch h
theorem PartsRoundTrip.completionEventWrite a0 a1 : Statement (.completionEventWrite a0 a1) := fun _ h => nomatch h
theorem PartsRoundTrip.qCfgWrite a0 a1 : Statement (.qCfgWrite a0 a1) := fun _ h => nomatch h
theorem PartsRoundTrip.dispKill a0 : Statement (.dispKill a0) := fun _ h => nomatch h
theorem PartsRoundTrip.contRectDefine a0 a1 : Statement (.contRectDefine a0 a1) := fun _ h => nomatch h
theorem PartsRoundTrip.contRectGo a0 : Statement (.contRectGo a0) := fun _ h => nomatch h
theorem PartsRoundTrip.containment a0 : Statement (.containment a0) := fun _ h => nomatch h
theorem PartsRoundTrip.basinSplitWrite a0 a1 : Statement (.basinSplitWrite a0 a1) := fun _ h => nomatch h
theorem PartsRoundTrip.basinSplitDone a0 : Statement (.basinSplitDone a0) := fun _ h => nomatch h
theorem PartsRoundTrip.dialCommit : Statement (.dialCommit) := fun _ h => nomatch h
theorem PartsRoundTrip.dialEnable a0 : Statement (.dialEnable a0) := fun _ h => nomatch h
theorem PartsRoundTrip.dialRotationStart : Statement (.dialRotationStart) := fun _ h => nomatch h
theorem PartsRoundTrip.dialWindowOpen a0 a1 : Statement (.dialWindowOpen a0 a1) := fun _ h => nomatch h
theorem PartsRoundTrip.dialMessageEnd a0 : Statement (.dialMessageEnd a0) := fun _ h => nomatch h
theorem PartsRoundTrip.dialFlitReceive a0 a1 : Statement (.dialFlitReceive a0 a1) := fun _ h => nomatch h
theorem PartsRoundTrip.dialFlitNak a0 a1 : Statement (.dialFlitNak a0 a1) := fun _ h => nomatch h
theorem PartsRoundTrip.dialMessageDelivered a0 a1 : Statement (.dialMessageDelivered a0 a1) := fun _ h => nomatch h
theorem PartsRoundTrip.dialAck a0 a1 a2 a3 : Statement (.dialAck a0 a1 a2 a3) := fun _ h => nomatch h
theorem PartsRoundTrip.dialTimerDrift : Statement (.dialTimerDrift) := fun _ h => nomatch h
theorem PartsRoundTrip.lossOfReturnLight a0 : Statement (.lossOfReturnLight a0) := fun _ h => nomatch h
theorem PartsRoundTrip.dialPresenceLoss a0 : Statement (.dialPresenceLoss a0) := fun _ h => nomatch h
theorem PartsRoundTrip.dsigPartialArrive a0 a1 a2 : Statement (.dsigPartialArrive a0 a1 a2) := fun _ h => nomatch h
theorem PartsRoundTrip.dsigResultArrive a0 a1 : Statement (.dsigResultArrive a0 a1) := fun _ h => nomatch h
theorem PartsRoundTrip.nqlLinkDown : Statement (.nqlLinkDown) := fun _ h => nomatch h
theorem PartsRoundTrip.nqlFail : Statement (.nqlFail) := fun _ h => nomatch h
theorem PartsRoundTrip.nqlRetrain : Statement (.nqlRetrain) := fun _ h => nomatch h
theorem PartsRoundTrip.hostMemAccess a0 a1 a2 : Statement (.hostMemAccess a0 a1 a2) := fun _ h => nomatch h
theorem PartsRoundTrip.regUnsupportedAccess a0 a1 : Statement (.regUnsupportedAccess a0 a1) := fun _ h => nomatch h
theorem PartsRoundTrip.registerWrite a0 a1 a2 : Statement (.registerWrite a0 a1 a2) := fun _ h => nomatch h
theorem PartsRoundTrip.nocGridSample : Statement (.nocGridSample) := fun _ h => nomatch h
theorem PartsRoundTrip.fcastUpdate : Statement (.fcastUpdate) := fun _ h => nomatch h
theorem PartsRoundTrip.pcapLimitWrite a0 a1 : Statement (.pcapLimitWrite a0 a1) := fun _ h => nomatch h
theorem PartsRoundTrip.pcapWindowEnd a0 : Statement (.pcapWindowEnd a0) := fun _ h => nomatch h
theorem PartsRoundTrip.fastClamp : Statement (.fastClamp) := fun _ h => nomatch h
theorem PartsRoundTrip.clampRelease : Statement (.clampRelease) := fun _ h => nomatch h
theorem PartsRoundTrip.thermalTrip a0 : Statement (.thermalTrip a0) := fun _ h => nomatch h
theorem PartsRoundTrip.thermalRecovery a0 : Statement (.thermalRecovery a0) := fun _ h => nomatch h
theorem PartsRoundTrip.healthUpdate : Statement (.healthUpdate) := fun _ h => nomatch h
theorem PartsRoundTrip.coldReset a0 : Statement (.coldReset a0) := fun _ h => nomatch h
theorem PartsRoundTrip.attestGo a0 : Statement (.attestGo a0) := fun _ h => nomatch h
theorem PartsRoundTrip.attestReportDone : Statement (.attestReportDone) := fun _ h => nomatch h
theorem PartsRoundTrip.debugStop a0 : Statement (.debugStop a0) := fun _ h => nomatch h
theorem PartsRoundTrip.debugAccess a0 a1 a2 a3 : Statement (.debugAccess a0 a1 a2 a3) := fun _ h => nomatch h
theorem PartsRoundTrip.singleStep a0 : Statement (.singleStep a0) := fun _ h => nomatch h
theorem PartsRoundTrip.stepUntilDrained a0 : Statement (.stepUntilDrained a0) := fun _ h => nomatch h
theorem PartsRoundTrip.pondHandover a0 a1 a2 a3 : Statement (.pondHandover a0 a1 a2 a3) := fun _ h => nomatch h
theorem PartsRoundTrip.dialTimerAligned : Statement (.dialTimerAligned) := fun _ h => nomatch h
theorem PartsRoundTrip.moduleInsertion a0 : Statement (.moduleInsertion a0) := fun _ h => nomatch h
theorem PartsRoundTrip.returnLightRestored a0 : Statement (.returnLightRestored a0) := fun _ h => nomatch h
theorem PartsRoundTrip.spareLineProbe a0 : Statement (.spareLineProbe a0) := fun _ h => nomatch h
theorem PartsRoundTrip.ill (h d a) : Statement (.ill h d a) :=
  of rfl (row_ill _ rfl rfl rfl) fun hw hf => ⟨rfl, rfl⟩
theorem PartsRoundTrip.nop (h) : Statement (.nop h) :=
  of rfl (row_nop _ rfl rfl rfl) fun hw hf => ⟨rfl, rfl⟩
theorem PartsRoundTrip.tick (h) : Statement (.tick h) :=
  of rfl (row_tick _ rfl rfl rfl) fun hw hf => ⟨rfl, rfl⟩
theorem PartsRoundTrip.halt (h) : Statement (.halt h) :=
  of rfl (row_halt _ rfl rfl rfl) fun hw hf => ⟨rfl, rfl⟩
theorem PartsRoundTrip.mov (h d a) : Statement (.mov h d a) :=
  of rfl (row_mov _ rfl rfl rfl) fun hw hf => ⟨rfl, rfl⟩
theorem PartsRoundTrip.not (h d a) : Statement (.not h d a) :=
  of rfl (row_not _ rfl rfl rfl) fun hw hf => ⟨rfl, rfl⟩
theorem PartsRoundTrip.neg (h d a) : Statement (.neg h d a) :=
  of rfl (row_neg _ rfl rfl rfl) fun hw hf => ⟨rfl, rfl⟩
theorem PartsRoundTrip.clz (h d a) : Statement (.clz h d a) :=
  of rfl (row_clz _ rfl rfl rfl) fun hw hf => ⟨rfl, rfl⟩
theorem PartsRoundTrip.add (h d a t) : Statement (.add h d a t) :=
  of rfl (row_add _ rfl rfl rfl) fun hw hf => ⟨rfl, congrArg (Instr.add h d a) (tOpt_back (Bool.and_eq_true_iff.mp hf).2)⟩
theorem PartsRoundTrip.sub (h d a t) : Statement (.sub h d a t) :=
  of rfl (row_sub _ rfl rfl rfl) fun hw hf => ⟨rfl, congrArg (Instr.sub h d a) (tOpt_back (Bool.and_eq_true_iff.mp hf).2)⟩
theorem PartsRoundTrip.and (h d a t) : Statement (.and h d a t) :=
  of rfl (row_and _ rfl rfl rfl) fun hw hf => ⟨rfl, congrArg (Instr.and h d a) (tOpt_back (Bool.and_eq_true_iff.mp hf).2)⟩
theorem PartsRoundTrip.or (h d a t) : Statement (.or h d a t) :=
  of rfl (row_or _ rfl rfl rfl) fun hw hf => ⟨rfl, congrArg (Instr.or h d a) (tOpt_back (Bool.and_eq_true_iff.mp hf).2)⟩
theorem PartsRoundTrip.xor (h d a t) : Statement (.xor h d a t) :=
  of rfl (row_xor _ rfl rfl rfl) fun hw hf => ⟨rfl, congrArg (Instr.xor h d a) (tOpt_back (Bool.and_eq_true_iff.mp hf).2)⟩
theorem PartsRoundTrip.shl (h d a t) : Statement (.shl h d a t) :=
  of rfl (row_shl _ rfl rfl rfl) fun hw hf => ⟨rfl, congrArg (Instr.shl h d a) (tOpt_back (Bool.and_eq_true_iff.mp hf).2)⟩
theorem PartsRoundTrip.shr (h d a t) : Statement (.shr h d a t) :=
  of rfl (row_shr _ rfl rfl rfl) fun hw hf => ⟨rfl, congrArg (Instr.shr h d a) (tOpt_back (Bool.and_eq_true_iff.mp hf).2)⟩
theorem PartsRoundTrip.sar (h d a t) : Statement (.sar h d a t) :=
  of rfl (row_sar _ rfl rfl rfl) fun hw hf => ⟨rfl, congrArg (Instr.sar h d a) (tOpt_back (Bool.and_eq_true_iff.mp hf).2)⟩
theorem PartsRoundTrip.min (h d a t) : Statement (.min h d a t) :=
  of rfl (row_min _ rfl rfl rfl) fun hw hf => ⟨rfl, congrArg (Instr.min h d a) (tOpt_back (Bool.and_eq_true_iff.mp hf).2)⟩
theorem PartsRoundTrip.max (h d a t) : Statement (.max h d a t) :=
  of rfl (row_max _ rfl rfl rfl) fun hw hf => ⟨rfl, congrArg (Instr.max h d a) (tOpt_back (Bool.and_eq_true_iff.mp hf).2)⟩
theorem PartsRoundTrip.minu (h d a t) : Statement (.minu h d a t) :=
  of rfl (row_minu _ rfl rfl rfl) fun hw hf => ⟨rfl, congrArg (Instr.minu h d a) (tOpt_back (Bool.and_eq_true_iff.mp hf).2)⟩
theorem PartsRoundTrip.maxu (h d a t) : Statement (.maxu h d a t) :=
  of rfl (row_maxu _ rfl rfl rfl) fun hw hf => ⟨rfl, congrArg (Instr.maxu h d a) (tOpt_back (Bool.and_eq_true_iff.mp hf).2)⟩
theorem PartsRoundTrip.seq (h d a t) : Statement (.seq h d a t) :=
  of rfl (row_seq _ rfl rfl rfl) fun hw hf => ⟨rfl, congrArg (Instr.seq h d a) (tOpt_back (Bool.and_eq_true_iff.mp hf).2)⟩
theorem PartsRoundTrip.sne (h d a t) : Statement (.sne h d a t) :=
  of rfl (row_sne _ rfl rfl rfl) fun hw hf => ⟨rfl, congrArg (Instr.sne h d a) (tOpt_back (Bool.and_eq_true_iff.mp hf).2)⟩
theorem PartsRoundTrip.slt (h d a t) : Statement (.slt h d a t) :=
  of rfl (row_slt _ rfl rfl rfl) fun hw hf => ⟨rfl, congrArg (Instr.slt h d a) (tOpt_back (Bool.and_eq_true_iff.mp hf).2)⟩
theorem PartsRoundTrip.sltu (h d a t) : Statement (.sltu h d a t) :=
  of rfl (row_sltu _ rfl rfl rfl) fun hw hf => ⟨rfl, congrArg (Instr.sltu h d a) (tOpt_back (Bool.and_eq_true_iff.mp hf).2)⟩
theorem PartsRoundTrip.mul (h d a t) : Statement (.mul h d a t) :=
  of rfl (row_mul _ rfl rfl rfl) fun hw hf => ⟨rfl, congrArg (Instr.mul h d a) (tOpt_back (Bool.and_eq_true_iff.mp hf).2)⟩
theorem PartsRoundTrip.mulh (h d a t) : Statement (.mulh h d a t) :=
  of rfl (row_mulh _ rfl rfl rfl) fun hw hf => ⟨rfl, congrArg (Instr.mulh h d a) (tOpt_back (Bool.and_eq_true_iff.mp hf).2)⟩
theorem PartsRoundTrip.mulhu (h d a t) : Statement (.mulhu h d a t) :=
  of rfl (row_mulhu _ rfl rfl rfl) fun hw hf => ⟨rfl, congrArg (Instr.mulhu h d a) (tOpt_back (Bool.and_eq_true_iff.mp hf).2)⟩
theorem PartsRoundTrip.popc (h d a) : Statement (.popc h d a) :=
  of rfl (row_popc _ rfl rfl rfl) fun hw hf => ⟨rfl, rfl⟩
theorem PartsRoundTrip.div (h d a t) : Statement (.div h d a t) :=
  of rfl (row_div _ rfl rfl rfl) fun hw hf => ⟨rfl, congrArg (Instr.div h d a) (tOpt_back (Bool.and_eq_true_iff.mp hf).2)⟩
theorem PartsRoundTrip.divu (h d a t) : Statement (.divu h d a t) :=
  of rfl (row_divu _ rfl rfl rfl) fun hw hf => ⟨rfl, congrArg (Instr.divu h d a) (tOpt_back (Bool.and_eq_true_iff.mp hf).2)⟩
theorem PartsRoundTrip.rem (h d a t) : Statement (.rem h d a t) :=
  of rfl (row_rem _ rfl rfl rfl) fun hw hf => ⟨rfl, congrArg (Instr.rem h d a) (tOpt_back (Bool.and_eq_true_iff.mp hf).2)⟩
theorem PartsRoundTrip.remu (h d a t) : Statement (.remu h d a t) :=
  of rfl (row_remu _ rfl rfl rfl) fun hw hf => ⟨rfl, congrArg (Instr.remu h d a) (tOpt_back (Bool.and_eq_true_iff.mp hf).2)⟩
theorem PartsRoundTrip.addi (h d imm) : Statement (.addi h d imm) :=
  of rfl (row_addi _ rfl rfl) fun hw hf => ⟨by simp [Parts.setI6, Parts.base, Parts.plainI]; omega, congrArg (Instr.addi h d) (sextNat_ri (Bool.and_eq_true_iff.mp hf).2 _ (by simp [Parts.i6, Parts.setI6, Parts.base]; omega))⟩
theorem PartsRoundTrip.li (h d imm) : Statement (.li h d imm) :=
  of rfl (row_li _ rfl rfl) fun hw hf => ⟨by simp [Parts.setI6, Parts.base, Parts.plainI]; omega, congrArg (Instr.li h d) (sextNat_ri (Bool.and_eq_true_iff.mp hf).2 _ (by simp [Parts.i6, Parts.setI6, Parts.base]; omega))⟩
theorem PartsRoundTrip.andi (h d imm) : Statement (.andi h d imm) :=
  of rfl (row_andi _ rfl rfl) fun hw hf => ⟨by simp [Parts.setI6, Parts.base, Parts.plainI]; omega, congrArg (Instr.andi h d) (sextNat_ri (Bool.and_eq_true_iff.mp hf).2 _ (by simp [Parts.i6, Parts.setI6, Parts.base]; omega))⟩
theorem PartsRoundTrip.shli (h d n) : Statement (.shli h d n) :=
  of rfl (row_shli _ rfl rfl) fun hw hf => ⟨by simp [Parts.setI6, Parts.base, Parts.plain, immBytes]; omega, congrArg (Instr.shli h d) (i6_back n)⟩
theorem PartsRoundTrip.shri (h d n) : Statement (.shri h d n) :=
  of rfl (row_shri _ rfl rfl) fun hw hf => ⟨by simp [Parts.setI6, Parts.base, Parts.plain, immBytes]; omega, congrArg (Instr.shri h d) (i6_back n)⟩
theorem PartsRoundTrip.sari (h d n) : Statement (.sari h d n) :=
  of rfl (row_sari _ rfl rfl) fun hw hf => ⟨by simp [Parts.setI6, Parts.base, Parts.plain, immBytes]; omega, congrArg (Instr.sari h d) (i6_back n)⟩
theorem PartsRoundTrip.ldB (h d a disp o) : Statement (.ldB h d a disp o) :=
  of rfl (row_ldB _ rfl rfl rfl) fun hw hf => ⟨(Bool.and_eq_true_iff.mp hw).2, congrArg ((Instr.ldB h d a · o)) (sextNat_disp (Bool.and_eq_true_iff.mp hf).2)⟩
theorem PartsRoundTrip.ldH (h d a disp o) : Statement (.ldH h d a disp o) :=
  of rfl (row_ldH _ rfl rfl rfl) fun hw hf => ⟨(Bool.and_eq_true_iff.mp hw).2, congrArg ((Instr.ldH h d a · o)) (sextNat_disp (Bool.and_eq_true_iff.mp hf).2)⟩
theorem PartsRoundTrip.ldW (h d a disp o) : Statement (.ldW h d a disp o) :=
  of rfl (row_ldW _ rfl rfl rfl) fun hw hf => ⟨(Bool.and_eq_true_iff.mp hw).2, congrArg ((Instr.ldW h d a · o)) (sextNat_disp (Bool.and_eq_true_iff.mp hf).2)⟩
theorem PartsRoundTrip.ldD (h d a disp o) : Statement (.ldD h d a disp o) :=
  of rfl (row_ldD _ rfl rfl rfl) fun hw hf => ⟨(Bool.and_eq_true_iff.mp hw).2, congrArg ((Instr.ldD h d a · o)) (sextNat_disp (Bool.and_eq_true_iff.mp hf).2)⟩
theorem PartsRoundTrip.ldzB (h d a disp o) : Statement (.ldzB h d a disp o) :=
  of rfl (row_ldzB _ rfl rfl rfl) fun hw hf => ⟨(Bool.and_eq_true_iff.mp hw).2, congrArg ((Instr.ldzB h d a · o)) (sextNat_disp (Bool.and_eq_true_iff.mp hf).2)⟩
theorem PartsRoundTrip.ldzH (h d a disp o) : Statement (.ldzH h d a disp o) :=
  of rfl (row_ldzH _ rfl rfl rfl) fun hw hf => ⟨(Bool.and_eq_true_iff.mp hw).2, congrArg ((Instr.ldzH h d a · o)) (sextNat_disp (Bool.and_eq_true_iff.mp hf).2)⟩
theorem PartsRoundTrip.ldzW (h d a disp o) : Statement (.ldzW h d a disp o) :=
  of rfl (row_ldzW _ rfl rfl rfl) fun hw hf => ⟨(Bool.and_eq_true_iff.mp hw).2, congrArg ((Instr.ldzW h d a · o)) (sextNat_disp (Bool.and_eq_true_iff.mp hf).2)⟩
theorem PartsRoundTrip.stB (h d a disp o) : Statement (.stB h d a disp o) :=
  of rfl (row_stB _ rfl rfl rfl) fun hw hf => ⟨(Bool.and_eq_true_iff.mp hw).2, congrArg ((Instr.stB h d a · o)) (sextNat_disp (Bool.and_eq_true_iff.mp hf).2)⟩
theorem PartsRoundTrip.stH (h d a disp o) : Statement (.stH h d a disp o) :=
  of rfl (row_stH _ rfl rfl rfl) fun hw hf => ⟨(Bool.and_eq_true_iff.mp hw).2, congrArg ((Instr.stH h d a · o)) (sextNat_disp (Bool.and_eq_true_iff.mp hf).2)⟩
theorem PartsRoundTrip.stW (h d a disp o) : Statement (.stW h d a disp o) :=
  of rfl (row_stW _ rfl rfl rfl) fun hw hf => ⟨(Bool.and_eq_true_iff.mp hw).2, congrArg ((Instr.stW h d a · o)) (sextNat_disp (Bool.and_eq_true_iff.mp hf).2)⟩
theorem PartsRoundTrip.stD (h d a disp o) : Statement (.stD h d a disp o) :=
  of rfl (row_stD _ rfl rfl rfl) fun hw hf => ⟨(Bool.and_eq_true_iff.mp hw).2, congrArg ((Instr.stD h d a · o)) (sextNat_disp (Bool.and_eq_true_iff.mp hf).2)⟩
theorem PartsRoundTrip.tld8 (h d a disp t o) : Statement (.tld8 h d a disp t o) :=
  of rfl (row_tld8 _ rfl rfl rfl) fun hw hf => ⟨by have hx : ((o.okAccess && o.ord != 3) : Bool) = true := (Bool.and_eq_true_iff.mp hw).2; simpa [Parts.base, Parts.plain, Parts.plainI, Parts.plainT, Parts.head, Parts.tOpt, Parts.disp, -BitVec.toNat_setWidth, vOk_set, kOk_set, accOk_set, v_back, k_back, acc_back, nib_back, nib_lt, ext3_back, ext3_toNat, ext4_back, ext4_toNat, And.comm, and_comm] using hx, congrArg (Instr.tld8 h d a · t o) (sextNat_disp (Bool.and_eq_true_iff.mp hf).2)⟩
theorem PartsRoundTrip.tld32 (h d a disp t o) : Statement (.tld32 h d a disp t o) :=
  of rfl (row_tld32 _ rfl rfl rfl) fun hw hf => ⟨by have hx : ((o.okAccess && o.ord != 3) : Bool) = true := (Bool.and_eq_true_iff.mp hw).2; simpa [Parts.base, Parts.plain, Parts.plainI, Parts.plainT, Parts.head, Parts.tOpt, Parts.disp, -BitVec.toNat_setWidth, vOk_set, kOk_set, accOk_set, v_back, k_back, acc_back, nib_back, nib_lt, ext3_back, ext3_toNat, ext4_back, ext4_toNat, And.comm, and_comm] using hx, congrArg (Instr.tld32 h d a · t o) (sextNat_disp (Bool.and_eq_true_iff.mp hf).2)⟩
theorem PartsRoundTrip.tld64 (h d a disp t o) : Statement (.tld64 h d a disp t o) :=
  of rfl (row_tld64 _ rfl rfl rfl) fun hw hf => ⟨by have hx : ((o.okAccess && o.ord != 3) : Bool) = true := (Bool.and_eq_true_iff.mp hw).2; simpa [Parts.base, Parts.plain, Parts.plainI, Parts.plainT, Parts.head, Parts.tOpt, Parts.disp, -BitVec.toNat_setWidth, vOk_set, kOk_set, accOk_set, v_back, k_back, acc_back, nib_back, nib_lt, ext3_back, ext3_toNat, ext4_back, ext4_toNat, And.comm, and_comm] using hx, congrArg (Instr.tld64 h d a · t o) (sextNat_disp (Bool.and_eq_true_iff.mp hf).2)⟩
theorem PartsRoundTrip.tld256 (h d a disp t o) : Statement (.tld256 h d a disp t o) :=
  of rfl (row_tld256 _ rfl rfl rfl) fun hw hf => ⟨by have hx : ((o.okAccess && o.ord != 3) : Bool) = true := (Bool.and_eq_true_iff.mp hw).2; simpa [Parts.base, Parts.plain, Parts.plainI, Parts.plainT, Parts.head, Parts.tOpt, Parts.disp, -BitVec.toNat_setWidth, vOk_set, kOk_set, accOk_set, v_back, k_back, acc_back, nib_back, nib_lt, ext3_back, ext3_toNat, ext4_back, ext4_toNat, And.comm, and_comm] using hx, congrArg (Instr.tld256 h d a · t o) (sextNat_disp (Bool.and_eq_true_iff.mp hf).2)⟩
theorem PartsRoundTrip.rdm (h d a) : Statement (.rdm h d a) :=
  of rfl (row_rdm _ rfl rfl rfl) fun hw hf => ⟨rfl, rfl⟩
theorem PartsRoundTrip.rdmV (h d a) : Statement (.rdmV h d a) :=
  of rfl (row_rdmV _ rfl rfl rfl) fun hw hf => ⟨by simp [Parts.base, Parts.plain, Parts.plainI, Parts.plainT, Parts.head, Parts.tOpt, Parts.disp, -BitVec.toNat_setWidth, vOk_set, kOk_set, accOk_set, v_back, k_back, acc_back, nib_back, nib_lt, ext3_back, ext3_toNat, ext4_back, ext4_toNat], by simp [Parts.base, Parts.plain, Parts.plainI, Parts.plainT, Parts.head, Parts.tOpt, Parts.disp, -BitVec.toNat_setWidth, vOk_set, kOk_set, accOk_set, v_back, k_back, acc_back, nib_back, nib_lt, ext3_back, ext3_toNat, ext4_back, ext4_toNat, Instr.asRead]⟩
theorem PartsRoundTrip.rdmS (h d a disp) : Statement (.rdmS h d a disp) :=
  of rfl (row_rdmS _ rfl rfl rfl) fun hw hf => ⟨rfl, congrArg (Instr.rdmS h d a) (sextNat_disp (Bool.and_eq_true_iff.mp hf).2)⟩
theorem PartsRoundTrip.tkq (h d a) : Statement (.tkq h d a) :=
  of rfl (row_tkq _ rfl rfl rfl) fun hw hf => ⟨rfl, rfl⟩
theorem PartsRoundTrip.br (h off) : Statement (.br h off) :=
  of rfl (row_br _ rfl rfl) fun hw hf => ⟨by simp [Parts.setI10, Parts.base, Parts.plainI]; omega, congrArg (Instr.br h) (sextNat_i10 (Bool.and_eq_true_iff.mp hf).2 _ (by simp [Parts.i6, Parts.i10, Parts.setI10, Parts.base]; omega))⟩
theorem PartsRoundTrip.call (h off) : Statement (.call h off) :=
  of rfl (row_call _ rfl rfl) fun hw hf => ⟨by simp [Parts.setI10, Parts.base, Parts.plainI]; omega, congrArg (Instr.call h) (sextNat_i10 (Bool.and_eq_true_iff.mp hf).2 _ (by simp [Parts.i6, Parts.i10, Parts.setI10, Parts.base]; omega))⟩
theorem PartsRoundTrip.bz (h d imm) : Statement (.bz h d imm) :=
  of rfl (row_bz _ rfl rfl) fun hw hf => ⟨by simp [Parts.setI6, Parts.base, Parts.plainI]; omega, congrArg (Instr.bz h d) (sextNat_ri (Bool.and_eq_true_iff.mp hf).2 _ (by simp [Parts.i6, Parts.setI6, Parts.base]; omega))⟩
theorem PartsRoundTrip.bnz (h d imm) : Statement (.bnz h d imm) :=
  of rfl (row_bnz _ rfl rfl) fun hw hf => ⟨by simp [Parts.setI6, Parts.base, Parts.plainI]; omega, congrArg (Instr.bnz h d) (sextNat_ri (Bool.and_eq_true_iff.mp hf).2 _ (by simp [Parts.i6, Parts.setI6, Parts.base]; omega))⟩
theorem PartsRoundTrip.loop (h d imm) : Statement (.loop h d imm) :=
  of rfl (row_loop _ rfl rfl) fun hw hf => ⟨by simp [Parts.setI6, Parts.base, Parts.plainI]; omega, congrArg (Instr.loop h d) (sextNat_ri (Bool.and_eq_true_iff.mp hf).2 _ (by simp [Parts.i6, Parts.setI6, Parts.base]; omega))⟩
theorem PartsRoundTrip.jr (h a) : Statement (.jr h a) :=
  of rfl (row_jr _ rfl rfl rfl) fun hw hf => ⟨rfl, rfl⟩
theorem PartsRoundTrip.callr (h a) : Statement (.callr h a) :=
  of rfl (row_callr _ rfl rfl rfl) fun hw hf => ⟨rfl, rfl⟩
theorem PartsRoundTrip.ret (h) : Statement (.ret h) :=
  of rfl (row_ret _ rfl rfl rfl) fun hw hf => ⟨rfl, rfl⟩
theorem PartsRoundTrip.jtab (h d a n) : Statement (.jtab h d a n) :=
  of rfl (row_jtab _ rfl rfl rfl) fun hw hf => ⟨rfl, congrArg (Instr.jtab h d a) (by
    have e := of_decide_eq_true (Bool.and_eq_true_iff.mp hf).2
    simp [Parts.base, imxVal_immBytes, Nat.mod_eq_of_lt e])⟩
theorem PartsRoundTrip.mfs (h d n) : Statement (.mfs h d n) :=
  of rfl (row_mfs _ rfl rfl) fun hw hf => by
    have e := sysNumber (of_decide_eq_true (Bool.and_eq_true_iff.mp hf).2)
    have i6 : ({ Parts.base h 0 25 0 with d := d }.setI6 h.nImx n.toNat).i6 = n.toNat % 64 := by
      simp [Parts.i6, Parts.setI6]; omega
    have v : imxVal ({ Parts.base h 0 25 0 with d := d }.setI6 h.nImx n.toNat).imx * 64 +
        ({ Parts.base h 0 25 0 with d := d }.setI6 h.nImx n.toNat).i6 = n.toNat := by rw [i6]; exact e
    rw [v]
    refine ⟨?_, congrArg (Instr.mfs h d) (by simp)⟩
    have := n.isLt
    simp [Parts.setI6, Parts.base, Parts.plainI]
    omega
theorem PartsRoundTrip.mts (h d n) : Statement (.mts h d n) :=
  of rfl (row_mts _ rfl rfl) fun hw hf => by
    have e := sysNumber (of_decide_eq_true (Bool.and_eq_true_iff.mp hf).2)
    have i6 : ({ Parts.base h 0 26 0 with d := d }.setI6 h.nImx n.toNat).i6 = n.toNat % 64 := by
      simp [Parts.i6, Parts.setI6]; omega
    have v : imxVal ({ Parts.base h 0 26 0 with d := d }.setI6 h.nImx n.toNat).imx * 64 +
        ({ Parts.base h 0 26 0 with d := d }.setI6 h.nImx n.toNat).i6 = n.toNat := by rw [i6]; exact e
    rw [v]
    refine ⟨?_, congrArg (Instr.mts h d) (by simp)⟩
    have := n.isLt
    simp [Parts.setI6, Parts.base, Parts.plainI]
    omega
theorem PartsRoundTrip.fence (h sc kind) : Statement (.fence h sc kind) :=
  of rfl (row_fence _ rfl rfl rfl) fun hw hf => ⟨by have hx : ((h.shape == [] && sc != 7) : Bool) = true := (Bool.and_eq_true_iff.mp hw).2; simp at hx; simp [Parts.base, Parts.plain, Parts.plainI, Parts.plainT, Parts.head, Parts.tOpt, Parts.disp, -BitVec.toNat_setWidth, hx.1, two_lt, shadow_lt (i := sc) (by simpa using hx.2)], by simp [Parts.base, Parts.plain, Parts.plainI, Parts.plainT, Parts.head, Parts.tOpt, Parts.disp, -BitVec.toNat_setWidth, vOk_set, kOk_set, accOk_set, v_back, k_back, acc_back, nib_back, nib_lt, ext3_back, ext3_toNat, ext4_back, ext4_toNat, Instr.asRead]⟩
theorem PartsRoundTrip.bar (h a) : Statement (.bar h a) :=
  of rfl (row_bar _ rfl rfl rfl) fun hw hf => ⟨rfl, rfl⟩
theorem PartsRoundTrip.bara (h d a) : Statement (.bara h d a) :=
  of rfl (row_bara _ rfl rfl rfl) fun hw hf => ⟨rfl, rfl⟩
theorem PartsRoundTrip.barw (h d a) : Statement (.barw h d a) :=
  of rfl (row_barw _ rfl rfl rfl) fun hw hf => ⟨rfl, rfl⟩
theorem PartsRoundTrip.barq (h d a) : Statement (.barq h d a) :=
  of rfl (row_barq _ rfl rfl rfl) fun hw hf => ⟨rfl, rfl⟩
theorem PartsRoundTrip.trap (h n) : Statement (.trap h n) :=
  of rfl (row_trap _ rfl rfl) fun hw hf => ⟨by simp [Parts.setI10, Parts.base, Parts.plain, immBytes]; omega, congrArg (Instr.trap h) (by
    apply BitVec.eq_of_toNat_eq; simp [Parts.i6, Parts.i10, Parts.setI10, Parts.base]; omega)⟩
theorem PartsRoundTrip.rol (h d a t) : Statement (.rol h d a t) :=
  of rfl (row_rol _ rfl rfl rfl) fun hw hf => ⟨rfl, congrArg (Instr.rol h d a) (tOpt_back (Bool.and_eq_true_iff.mp hf).2)⟩
theorem PartsRoundTrip.ror (h d a t) : Statement (.ror h d a t) :=
  of rfl (row_ror _ rfl rfl rfl) fun hw hf => ⟨rfl, congrArg (Instr.ror h d a) (tOpt_back (Bool.and_eq_true_iff.mp hf).2)⟩
theorem PartsRoundTrip.bswap (h d a) : Statement (.bswap h d a) :=
  of rfl (row_bswap _ rfl rfl rfl) fun hw hf => ⟨rfl, rfl⟩
theorem PartsRoundTrip.ctz (h d a) : Statement (.ctz h d a) :=
  of rfl (row_ctz _ rfl rfl rfl) fun hw hf => ⟨rfl, rfl⟩
theorem PartsRoundTrip.ext (h d a lo wm) : Statement (.ext h d a lo wm) :=
  of rfl (row_ext _ rfl rfl rfl) fun hw hf => by
    have hx : ((lo.toNat + wm.toNat < 64) : Bool) = true := (Bool.and_eq_true_iff.mp hw).2; 
    have e := field_back (of_decide_eq_true (Bool.and_eq_true_iff.mp hf).2)
    simp only [Parts.base, e, field_lo, field_wm, Instr.asRead, and_true, Parts.head]
    simp at hx
    have := lo.isLt; have := wm.isLt
    simp [Parts.plainI]
    omega
theorem PartsRoundTrip.extz (h d a lo wm) : Statement (.extz h d a lo wm) :=
  of rfl (row_extz _ rfl rfl rfl) fun hw hf => by
    have hx : ((lo.toNat + wm.toNat < 64) : Bool) = true := (Bool.and_eq_true_iff.mp hw).2; 
    have e := field_back (of_decide_eq_true (Bool.and_eq_true_iff.mp hf).2)
    simp only [Parts.base, e, field_lo, field_wm, Instr.asRead, and_true, Parts.head]
    simp at hx
    have := lo.isLt; have := wm.isLt
    simp [Parts.plainI]
    omega
theorem PartsRoundTrip.dep (h d a lo wm) : Statement (.dep h d a lo wm) :=
  of rfl (row_dep _ rfl rfl rfl) fun hw hf => by
    have hx : ((lo.toNat + wm.toNat < 64) : Bool) = true := (Bool.and_eq_true_iff.mp hw).2; 
    have e := field_back (of_decide_eq_true (Bool.and_eq_true_iff.mp hf).2)
    simp only [Parts.base, e, field_lo, field_wm, Instr.asRead, and_true, Parts.head]
    simp at hx
    have := lo.isLt; have := wm.isLt
    simp [Parts.plainI]
    omega
theorem PartsRoundTrip.depz (h d a lo wm) : Statement (.depz h d a lo wm) :=
  of rfl (row_depz _ rfl rfl rfl) fun hw hf => by
    have hx : ((lo.toNat + wm.toNat < 64) : Bool) = true := (Bool.and_eq_true_iff.mp hw).2; 
    have e := field_back (of_decide_eq_true (Bool.and_eq_true_iff.mp hf).2)
    simp only [Parts.base, e, field_lo, field_wm, Instr.asRead, and_true, Parts.head]
    simp at hx
    have := lo.isLt; have := wm.isLt
    simp [Parts.plainI]
    omega
theorem PartsRoundTrip.lea (h d a t sh disp) : Statement (.lea h d a t sh disp) :=
  of rfl (row_lea _ rfl rfl) fun hw hf => ⟨rfl, congrArg₂ (Instr.lea h d a · sh ·) (tOpt_back (Bool.and_eq_true_iff.mp (Bool.and_eq_true_iff.mp hf).2).1) (sextNat_disp (Bool.and_eq_true_iff.mp (Bool.and_eq_true_iff.mp hf).2).2)⟩
theorem PartsRoundTrip.madd (h d a t) : Statement (.madd h d a t) :=
  of rfl (row_madd _ rfl rfl rfl) fun hw hf => ⟨rfl, rfl⟩
theorem PartsRoundTrip.msub (h d a t) : Statement (.msub h d a t) :=
  of rfl (row_msub _ rfl rfl rfl) fun hw hf => ⟨rfl, rfl⟩
theorem PartsRoundTrip.cselz (h d a t) : Statement (.cselz h d a t) :=
  of rfl (row_cselz _ rfl rfl rfl) fun hw hf => ⟨rfl, rfl⟩
theorem PartsRoundTrip.cselnz (h d a t) : Statement (.cselnz h d a t) :=
  of rfl (row_cselnz _ rfl rfl rfl) fun hw hf => ⟨rfl, rfl⟩
theorem PartsRoundTrip.sextB (h d a) : Statement (.sextB h d a) :=
  of rfl (row_sextB _ rfl rfl rfl) fun hw hf => ⟨rfl, rfl⟩
theorem PartsRoundTrip.sextH (h d a) : Statement (.sextH h d a) :=
  of rfl (row_sextH _ rfl rfl rfl) fun hw hf => ⟨rfl, rfl⟩
theorem PartsRoundTrip.sextW (h d a) : Statement (.sextW h d a) :=
  of rfl (row_sextW _ rfl rfl rfl) fun hw hf => ⟨rfl, rfl⟩
theorem PartsRoundTrip.zextW (h d a) : Statement (.zextW h d a) :=
  of rfl (row_zextW _ rfl rfl rfl) fun hw hf => ⟨rfl, rfl⟩
theorem PartsRoundTrip.hash (h d a t) : Statement (.hash h d a t) :=
  of rfl (row_hash _ rfl rfl rfl) fun hw hf => ⟨rfl, congrArg (Instr.hash h d a) (tOpt_back (Bool.and_eq_true_iff.mp hf).2)⟩
theorem PartsRoundTrip.crc (h d a t) : Statement (.crc h d a t) :=
  of rfl (row_crc _ rfl rfl rfl) fun hw hf => ⟨rfl, congrArg (Instr.crc h d a) (tOpt_back (Bool.and_eq_true_iff.mp hf).2)⟩
theorem PartsRoundTrip.geo (h d sel) : Statement (.geo h d sel) :=
  of rfl (row_geo _ rfl rfl) fun hw hf => ⟨by simp [Parts.setI6, Parts.base, Parts.plain, immBytes]; omega, congrArg (Instr.geo h d) (i6_back sel)⟩
theorem PartsRoundTrip.adds (h d a t) : Statement (.adds h d a t) :=
  of rfl (row_adds _ rfl rfl rfl) fun hw hf => ⟨rfl, congrArg (Instr.adds h d a) (tOpt_back (Bool.and_eq_true_iff.mp hf).2)⟩
theorem PartsRoundTrip.subs (h d a t) : Statement (.subs h d a t) :=
  of rfl (row_subs _ rfl rfl rfl) fun hw hf => ⟨rfl, congrArg (Instr.subs h d a) (tOpt_back (Bool.and_eq_true_iff.mp hf).2)⟩
theorem PartsRoundTrip.addus (h d a t) : Statement (.addus h d a t) :=
  of rfl (row_addus _ rfl rfl rfl) fun hw hf => ⟨rfl, congrArg (Instr.addus h d a) (tOpt_back (Bool.and_eq_true_iff.mp hf).2)⟩
theorem PartsRoundTrip.subus (h d a t) : Statement (.subus h d a t) :=
  of rfl (row_subus _ rfl rfl rfl) fun hw hf => ⟨rfl, congrArg (Instr.subus h d a) (tOpt_back (Bool.and_eq_true_iff.mp hf).2)⟩
theorem PartsRoundTrip.vadd (h d a m) : Statement (.vadd h d a m) :=
  of rfl (row_vadd _ rfl rfl rfl) fun hw hf => ⟨by simp [Parts.base, Parts.plain, Parts.plainI, Parts.plainT, Parts.head, Parts.tOpt, Parts.disp, -BitVec.toNat_setWidth, vOk_set, kOk_set, accOk_set, v_back, k_back, acc_back, nib_back, nib_lt, ext3_back, ext3_toNat, ext4_back, ext4_toNat], by simp [Parts.base, Parts.plain, Parts.plainI, Parts.plainT, Parts.head, Parts.tOpt, Parts.disp, -BitVec.toNat_setWidth, vOk_set, kOk_set, accOk_set, v_back, k_back, acc_back, nib_back, nib_lt, ext3_back, ext3_toNat, ext4_back, ext4_toNat, Instr.asRead]⟩
theorem PartsRoundTrip.vsub (h d a m) : Statement (.vsub h d a m) :=
  of rfl (row_vsub _ rfl rfl rfl) fun hw hf => ⟨by simp [Parts.base, Parts.plain, Parts.plainI, Parts.plainT, Parts.head, Parts.tOpt, Parts.disp, -BitVec.toNat_setWidth, vOk_set, kOk_set, accOk_set, v_back, k_back, acc_back, nib_back, nib_lt, ext3_back, ext3_toNat, ext4_back, ext4_toNat], by simp [Parts.base, Parts.plain, Parts.plainI, Parts.plainT, Parts.head, Parts.tOpt, Parts.disp, -BitVec.toNat_setWidth, vOk_set, kOk_set, accOk_set, v_back, k_back, acc_back, nib_back, nib_lt, ext3_back, ext3_toNat, ext4_back, ext4_toNat, Instr.asRead]⟩
theorem PartsRoundTrip.vmul (h d a m) : Statement (.vmul h d a m) :=
  of rfl (row_vmul _ rfl rfl rfl) fun hw hf => ⟨by simp [Parts.base, Parts.plain, Parts.plainI, Parts.plainT, Parts.head, Parts.tOpt, Parts.disp, -BitVec.toNat_setWidth, vOk_set, kOk_set, accOk_set, v_back, k_back, acc_back, nib_back, nib_lt, ext3_back, ext3_toNat, ext4_back, ext4_toNat], by simp [Parts.base, Parts.plain, Parts.plainI, Parts.plainT, Parts.head, Parts.tOpt, Parts.disp, -BitVec.toNat_setWidth, vOk_set, kOk_set, accOk_set, v_back, k_back, acc_back, nib_back, nib_lt, ext3_back, ext3_toNat, ext4_back, ext4_toNat, Instr.asRead]⟩
theorem PartsRoundTrip.vmulh (h d a m) : Statement (.vmulh h d a m) :=
  of rfl (row_vmulh _ rfl rfl rfl) fun hw hf => ⟨by simp [Parts.base, Parts.plain, Parts.plainI, Parts.plainT, Parts.head, Parts.tOpt, Parts.disp, -BitVec.toNat_setWidth, vOk_set, kOk_set, accOk_set, v_back, k_back, acc_back, nib_back, nib_lt, ext3_back, ext3_toNat, ext4_back, ext4_toNat], by simp [Parts.base, Parts.plain, Parts.plainI, Parts.plainT, Parts.head, Parts.tOpt, Parts.disp, -BitVec.toNat_setWidth, vOk_set, kOk_set, accOk_set, v_back, k_back, acc_back, nib_back, nib_lt, ext3_back, ext3_toNat, ext4_back, ext4_toNat, Instr.asRead]⟩
theorem PartsRoundTrip.vand (h d a m) : Statement (.vand h d a m) :=
  of rfl (row_vand _ rfl rfl rfl) fun hw hf => ⟨by simp [Parts.base, Parts.plain, Parts.plainI, Parts.plainT, Parts.head, Parts.tOpt, Parts.disp, -BitVec.toNat_setWidth, vOk_set, kOk_set, accOk_set, v_back, k_back, acc_back, nib_back, nib_lt, ext3_back, ext3_toNat, ext4_back, ext4_toNat], by simp [Parts.base, Parts.plain, Parts.plainI, Parts.plainT, Parts.head, Parts.tOpt, Parts.disp, -BitVec.toNat_setWidth, vOk_set, kOk_set, accOk_set, v_back, k_back, acc_back, nib_back, nib_lt, ext3_back, ext3_toNat, ext4_back, ext4_toNat, Instr.asRead]⟩
theorem PartsRoundTrip.vor (h d a m) : Statement (.vor h d a m) :=
  of rfl (row_vor _ rfl rfl rfl) fun hw hf => ⟨by simp [Parts.base, Parts.plain, Parts.plainI, Parts.plainT, Parts.head, Parts.tOpt, Parts.disp, -BitVec.toNat_setWidth, vOk_set, kOk_set, accOk_set, v_back, k_back, acc_back, nib_back, nib_lt, ext3_back, ext3_toNat, ext4_back, ext4_toNat], by simp [Parts.base, Parts.plain, Parts.plainI, Parts.plainT, Parts.head, Parts.tOpt, Parts.disp, -BitVec.toNat_setWidth, vOk_set, kOk_set, accOk_set, v_back, k_back, acc_back, nib_back, nib_lt, ext3_back, ext3_toNat, ext4_back, ext4_toNat, Instr.asRead]⟩
theorem PartsRoundTrip.vxor (h d a m) : Statement (.vxor h d a m) :=
  of rfl (row_vxor _ rfl rfl rfl) fun hw hf => ⟨by simp [Parts.base, Parts.plain, Parts.plainI, Parts.plainT, Parts.head, Parts.tOpt, Parts.disp, -BitVec.toNat_setWidth, vOk_set, kOk_set, accOk_set, v_back, k_back, acc_back, nib_back, nib_lt, ext3_back, ext3_toNat, ext4_back, ext4_toNat], by simp [Parts.base, Parts.plain, Parts.plainI, Parts.plainT, Parts.head, Parts.tOpt, Parts.disp, -BitVec.toNat_setWidth, vOk_set, kOk_set, accOk_set, v_back, k_back, acc_back, nib_back, nib_lt, ext3_back, ext3_toNat, ext4_back, ext4_toNat, Instr.asRead]⟩
theorem PartsRoundTrip.vandn (h d a m) : Statement (.vandn h d a m) :=
  of rfl (row_vandn _ rfl rfl rfl) fun hw hf => ⟨by simp [Parts.base, Parts.plain, Parts.plainI, Parts.plainT, Parts.head, Parts.tOpt, Parts.disp, -BitVec.toNat_setWidth, vOk_set, kOk_set, accOk_set, v_back, k_back, acc_back, nib_back, nib_lt, ext3_back, ext3_toNat, ext4_back, ext4_toNat], by simp [Parts.base, Parts.plain, Parts.plainI, Parts.plainT, Parts.head, Parts.tOpt, Parts.disp, -BitVec.toNat_setWidth, vOk_set, kOk_set, accOk_set, v_back, k_back, acc_back, nib_back, nib_lt, ext3_back, ext3_toNat, ext4_back, ext4_toNat, Instr.asRead]⟩
theorem PartsRoundTrip.vshl (h d a m) : Statement (.vshl h d a m) :=
  of rfl (row_vshl _ rfl rfl rfl) fun hw hf => ⟨by simp [Parts.base, Parts.plain, Parts.plainI, Parts.plainT, Parts.head, Parts.tOpt, Parts.disp, -BitVec.toNat_setWidth, vOk_set, kOk_set, accOk_set, v_back, k_back, acc_back, nib_back, nib_lt, ext3_back, ext3_toNat, ext4_back, ext4_toNat], by simp [Parts.base, Parts.plain, Parts.plainI, Parts.plainT, Parts.head, Parts.tOpt, Parts.disp, -BitVec.toNat_setWidth, vOk_set, kOk_set, accOk_set, v_back, k_back, acc_back, nib_back, nib_lt, ext3_back, ext3_toNat, ext4_back, ext4_toNat, Instr.asRead]⟩
theorem PartsRoundTrip.vshr (h d a m) : Statement (.vshr h d a m) :=
  of rfl (row_vshr _ rfl rfl rfl) fun hw hf => ⟨by simp [Parts.base, Parts.plain, Parts.plainI, Parts.plainT, Parts.head, Parts.tOpt, Parts.disp, -BitVec.toNat_setWidth, vOk_set, kOk_set, accOk_set, v_back, k_back, acc_back, nib_back, nib_lt, ext3_back, ext3_toNat, ext4_back, ext4_toNat], by simp [Parts.base, Parts.plain, Parts.plainI, Parts.plainT, Parts.head, Parts.tOpt, Parts.disp, -BitVec.toNat_setWidth, vOk_set, kOk_set, accOk_set, v_back, k_back, acc_back, nib_back, nib_lt, ext3_back, ext3_toNat, ext4_back, ext4_toNat, Instr.asRead]⟩
theorem PartsRoundTrip.vsar (h d a m) : Statement (.vsar h d a m) :=
  of rfl (row_vsar _ rfl rfl rfl) fun hw hf => ⟨by simp [Parts.base, Parts.plain, Parts.plainI, Parts.plainT, Parts.head, Parts.tOpt, Parts.disp, -BitVec.toNat_setWidth, vOk_set, kOk_set, accOk_set, v_back, k_back, acc_back, nib_back, nib_lt, ext3_back, ext3_toNat, ext4_back, ext4_toNat], by simp [Parts.base, Parts.plain, Parts.plainI, Parts.plainT, Parts.head, Parts.tOpt, Parts.disp, -BitVec.toNat_setWidth, vOk_set, kOk_set, accOk_set, v_back, k_back, acc_back, nib_back, nib_lt, ext3_back, ext3_toNat, ext4_back, ext4_toNat, Instr.asRead]⟩
theorem PartsRoundTrip.vrol (h d a m) : Statement (.vrol h d a m) :=
  of rfl (row_vrol _ rfl rfl rfl) fun hw hf => ⟨by simp [Parts.base, Parts.plain, Parts.plainI, Parts.plainT, Parts.head, Parts.tOpt, Parts.disp, -BitVec.toNat_setWidth, vOk_set, kOk_set, accOk_set, v_back, k_back, acc_back, nib_back, nib_lt, ext3_back, ext3_toNat, ext4_back, ext4_toNat], by simp [Parts.base, Parts.plain, Parts.plainI, Parts.plainT, Parts.head, Parts.tOpt, Parts.disp, -BitVec.toNat_setWidth, vOk_set, kOk_set, accOk_set, v_back, k_back, acc_back, nib_back, nib_lt, ext3_back, ext3_toNat, ext4_back, ext4_toNat, Instr.asRead]⟩
theorem PartsRoundTrip.vmin (h d a m) : Statement (.vmin h d a m) :=
  of rfl (row_vmin _ rfl rfl rfl) fun hw hf => ⟨by simp [Parts.base, Parts.plain, Parts.plainI, Parts.plainT, Parts.head, Parts.tOpt, Parts.disp, -BitVec.toNat_setWidth, vOk_set, kOk_set, accOk_set, v_back, k_back, acc_back, nib_back, nib_lt, ext3_back, ext3_toNat, ext4_back, ext4_toNat], by simp [Parts.base, Parts.plain, Parts.plainI, Parts.plainT, Parts.head, Parts.tOpt, Parts.disp, -BitVec.toNat_setWidth, vOk_set, kOk_set, accOk_set, v_back, k_back, acc_back, nib_back, nib_lt, ext3_back, ext3_toNat, ext4_back, ext4_toNat, Instr.asRead]⟩
theorem PartsRoundTrip.vmax (h d a m) : Statement (.vmax h d a m) :=
  of rfl (row_vmax _ rfl rfl rfl) fun hw hf => ⟨by simp [Parts.base, Parts.plain, Parts.plainI, Parts.plainT, Parts.head, Parts.tOpt, Parts.disp, -BitVec.toNat_setWidth, vOk_set, kOk_set, accOk_set, v_back, k_back, acc_back, nib_back, nib_lt, ext3_back, ext3_toNat, ext4_back, ext4_toNat], by simp [Parts.base, Parts.plain, Parts.plainI, Parts.plainT, Parts.head, Parts.tOpt, Parts.disp, -BitVec.toNat_setWidth, vOk_set, kOk_set, accOk_set, v_back, k_back, acc_back, nib_back, nib_lt, ext3_back, ext3_toNat, ext4_back, ext4_toNat, Instr.asRead]⟩
theorem PartsRoundTrip.vminu (h d a m) : Statement (.vminu h d a m) :=
  of rfl (row_vminu _ rfl rfl rfl) fun hw hf => ⟨by simp [Parts.base, Parts.plain, Parts.plainI, Parts.plainT, Parts.head, Parts.tOpt, Parts.disp, -BitVec.toNat_setWidth, vOk_set, kOk_set, accOk_set, v_back, k_back, acc_back, nib_back, nib_lt, ext3_back, ext3_toNat, ext4_back, ext4_toNat], by simp [Parts.base, Parts.plain, Parts.plainI, Parts.plainT, Parts.head, Parts.tOpt, Parts.disp, -BitVec.toNat_setWidth, vOk_set, kOk_set, accOk_set, v_back, k_back, acc_back, nib_back, nib_lt, ext3_back, ext3_toNat, ext4_back, ext4_toNat, Instr.asRead]⟩
theorem PartsRoundTrip.vmaxu (h d a m) : Statement (.vmaxu h d a m) :=
  of rfl (row_vmaxu _ rfl rfl rfl) fun hw hf => ⟨by simp [Parts.base, Parts.plain, Parts.plainI, Parts.plainT, Parts.head, Parts.tOpt, Parts.disp, -BitVec.toNat_setWidth, vOk_set, kOk_set, accOk_set, v_back, k_back, acc_back, nib_back, nib_lt, ext3_back, ext3_toNat, ext4_back, ext4_toNat], by simp [Parts.base, Parts.plain, Parts.plainI, Parts.plainT, Parts.head, Parts.tOpt, Parts.disp, -BitVec.toNat_setWidth, vOk_set, kOk_set, accOk_set, v_back, k_back, acc_back, nib_back, nib_lt, ext3_back, ext3_toNat, ext4_back, ext4_toNat, Instr.asRead]⟩
theorem PartsRoundTrip.vfadd (h d a m rc) : Statement (.vfadd h d a m rc) :=
  of rfl (row_vfadd _ rfl rfl rfl) fun hw hf => ⟨by have hx : ((rc.toNat < 5) : Bool) = true := (Bool.and_eq_true_iff.mp hw).2; simpa [Parts.base, Parts.plain, Parts.plainI, Parts.plainT, Parts.head, Parts.tOpt, Parts.disp, -BitVec.toNat_setWidth, vOk_set, kOk_set, accOk_set, v_back, k_back, acc_back, nib_back, nib_lt, ext3_back, ext3_toNat, ext4_back, ext4_toNat] using hx, by simp [Parts.base, Parts.plain, Parts.plainI, Parts.plainT, Parts.head, Parts.tOpt, Parts.disp, -BitVec.toNat_setWidth, vOk_set, kOk_set, accOk_set, v_back, k_back, acc_back, nib_back, nib_lt, ext3_back, ext3_toNat, ext4_back, ext4_toNat, Instr.asRead]⟩
theorem PartsRoundTrip.vfsub (h d a m rc) : Statement (.vfsub h d a m rc) :=
  of rfl (row_vfsub _ rfl rfl rfl) fun hw hf => ⟨by have hx : ((rc.toNat < 5) : Bool) = true := (Bool.and_eq_true_iff.mp hw).2; simpa [Parts.base, Parts.plain, Parts.plainI, Parts.plainT, Parts.head, Parts.tOpt, Parts.disp, -BitVec.toNat_setWidth, vOk_set, kOk_set, accOk_set, v_back, k_back, acc_back, nib_back, nib_lt, ext3_back, ext3_toNat, ext4_back, ext4_toNat] using hx, by simp [Parts.base, Parts.plain, Parts.plainI, Parts.plainT, Parts.head, Parts.tOpt, Parts.disp, -BitVec.toNat_setWidth, vOk_set, kOk_set, accOk_set, v_back, k_back, acc_back, nib_back, nib_lt, ext3_back, ext3_toNat, ext4_back, ext4_toNat, Instr.asRead]⟩
theorem PartsRoundTrip.vfmul (h d a m rc) : Statement (.vfmul h d a m rc) :=
  of rfl (row_vfmul _ rfl rfl rfl) fun hw hf => ⟨by have hx : ((rc.toNat < 5) : Bool) = true := (Bool.and_eq_true_iff.mp hw).2; simpa [Parts.base, Parts.plain, Parts.plainI, Parts.plainT, Parts.head, Parts.tOpt, Parts.disp, -BitVec.toNat_setWidth, vOk_set, kOk_set, accOk_set, v_back, k_back, acc_back, nib_back, nib_lt, ext3_back, ext3_toNat, ext4_back, ext4_toNat] using hx, by simp [Parts.base, Parts.plain, Parts.plainI, Parts.plainT, Parts.head, Parts.tOpt, Parts.disp, -BitVec.toNat_setWidth, vOk_set, kOk_set, accOk_set, v_back, k_back, acc_back, nib_back, nib_lt, ext3_back, ext3_toNat, ext4_back, ext4_toNat, Instr.asRead]⟩
theorem PartsRoundTrip.vfma (h d a t rc m) : Statement (.vfma h d a t rc m) :=
  of rfl (row_vfma _ rfl rfl rfl) fun hw hf => ⟨by have hx : ((rc.toNat < 5) : Bool) = true := (Bool.and_eq_true_iff.mp hw).2; simpa [Parts.base, Parts.plain, Parts.plainI, Parts.plainT, Parts.head, Parts.tOpt, Parts.disp, -BitVec.toNat_setWidth, vOk_set, kOk_set, accOk_set, v_back, k_back, acc_back, nib_back, nib_lt, ext3_back, ext3_toNat, ext4_back, ext4_toNat, rc_mod] using hx, by simp [Parts.base, Parts.plain, Parts.plainI, Parts.plainT, Parts.head, Parts.tOpt, Parts.disp, -BitVec.toNat_setWidth, vOk_set, kOk_set, accOk_set, v_back, k_back, acc_back, nib_back, nib_lt, ext3_back, ext3_toNat, ext4_back, ext4_toNat, Instr.asRead, rc_back, mode_back]⟩
theorem PartsRoundTrip.vfmin (h d a m) : Statement (.vfmin h d a m) :=
  of rfl (row_vfmin _ rfl rfl rfl) fun hw hf => ⟨by simp [Parts.base, Parts.plain, Parts.plainI, Parts.plainT, Parts.head, Parts.tOpt, Parts.disp, -BitVec.toNat_setWidth, vOk_set, kOk_set, accOk_set, v_back, k_back, acc_back, nib_back, nib_lt, ext3_back, ext3_toNat, ext4_back, ext4_toNat], by simp [Parts.base, Parts.plain, Parts.plainI, Parts.plainT, Parts.head, Parts.tOpt, Parts.disp, -BitVec.toNat_setWidth, vOk_set, kOk_set, accOk_set, v_back, k_back, acc_back, nib_back, nib_lt, ext3_back, ext3_toNat, ext4_back, ext4_toNat, Instr.asRead]⟩
theorem PartsRoundTrip.vfmax (h d a m) : Statement (.vfmax h d a m) :=
  of rfl (row_vfmax _ rfl rfl rfl) fun hw hf => ⟨by simp [Parts.base, Parts.plain, Parts.plainI, Parts.plainT, Parts.head, Parts.tOpt, Parts.disp, -BitVec.toNat_setWidth, vOk_set, kOk_set, accOk_set, v_back, k_back, acc_back, nib_back, nib_lt, ext3_back, ext3_toNat, ext4_back, ext4_toNat], by simp [Parts.base, Parts.plain, Parts.plainI, Parts.plainT, Parts.head, Parts.tOpt, Parts.disp, -BitVec.toNat_setWidth, vOk_set, kOk_set, accOk_set, v_back, k_back, acc_back, nib_back, nib_lt, ext3_back, ext3_toNat, ext4_back, ext4_toNat, Instr.asRead]⟩
theorem PartsRoundTrip.vfabs (h d a m) : Statement (.vfabs h d a m) :=
  of rfl (row_vfabs _ rfl rfl rfl) fun hw hf => ⟨by simp [Parts.base, Parts.plain, Parts.plainI, Parts.plainT, Parts.head, Parts.tOpt, Parts.disp, -BitVec.toNat_setWidth, vOk_set, kOk_set, accOk_set, v_back, k_back, acc_back, nib_back, nib_lt, ext3_back, ext3_toNat, ext4_back, ext4_toNat], by simp [Parts.base, Parts.plain, Parts.plainI, Parts.plainT, Parts.head, Parts.tOpt, Parts.disp, -BitVec.toNat_setWidth, vOk_set, kOk_set, accOk_set, v_back, k_back, acc_back, nib_back, nib_lt, ext3_back, ext3_toNat, ext4_back, ext4_toNat, Instr.asRead]⟩
theorem PartsRoundTrip.vfneg (h d a m) : Statement (.vfneg h d a m) :=
  of rfl (row_vfneg _ rfl rfl rfl) fun hw hf => ⟨by simp [Parts.base, Parts.plain, Parts.plainI, Parts.plainT, Parts.head, Parts.tOpt, Parts.disp, -BitVec.toNat_setWidth, vOk_set, kOk_set, accOk_set, v_back, k_back, acc_back, nib_back, nib_lt, ext3_back, ext3_toNat, ext4_back, ext4_toNat], by simp [Parts.base, Parts.plain, Parts.plainI, Parts.plainT, Parts.head, Parts.tOpt, Parts.disp, -BitVec.toNat_setWidth, vOk_set, kOk_set, accOk_set, v_back, k_back, acc_back, nib_back, nib_lt, ext3_back, ext3_toNat, ext4_back, ext4_toNat, Instr.asRead]⟩
theorem PartsRoundTrip.vfdiv (h d a m rc) : Statement (.vfdiv h d a m rc) :=
  of rfl (row_vfdiv _ rfl rfl rfl) fun hw hf => ⟨by have hx : ((rc.toNat < 5) : Bool) = true := (Bool.and_eq_true_iff.mp hw).2; simpa [Parts.base, Parts.plain, Parts.plainI, Parts.plainT, Parts.head, Parts.tOpt, Parts.disp, -BitVec.toNat_setWidth, vOk_set, kOk_set, accOk_set, v_back, k_back, acc_back, nib_back, nib_lt, ext3_back, ext3_toNat, ext4_back, ext4_toNat] using hx, by simp [Parts.base, Parts.plain, Parts.plainI, Parts.plainT, Parts.head, Parts.tOpt, Parts.disp, -BitVec.toNat_setWidth, vOk_set, kOk_set, accOk_set, v_back, k_back, acc_back, nib_back, nib_lt, ext3_back, ext3_toNat, ext4_back, ext4_toNat, Instr.asRead]⟩
theorem PartsRoundTrip.vfsqrt (h d a m rc) : Statement (.vfsqrt h d a m rc) :=
  of rfl (row_vfsqrt _ rfl rfl rfl) fun hw hf => ⟨by have hx : ((rc.toNat < 5) : Bool) = true := (Bool.and_eq_true_iff.mp hw).2; simpa [Parts.base, Parts.plain, Parts.plainI, Parts.plainT, Parts.head, Parts.tOpt, Parts.disp, -BitVec.toNat_setWidth, vOk_set, kOk_set, accOk_set, v_back, k_back, acc_back, nib_back, nib_lt, ext3_back, ext3_toNat, ext4_back, ext4_toNat] using hx, by simp [Parts.base, Parts.plain, Parts.plainI, Parts.plainT, Parts.head, Parts.tOpt, Parts.disp, -BitVec.toNat_setWidth, vOk_set, kOk_set, accOk_set, v_back, k_back, acc_back, nib_back, nib_lt, ext3_back, ext3_toNat, ext4_back, ext4_toNat, Instr.asRead]⟩
theorem PartsRoundTrip.vfrcp (h d a m rc) : Statement (.vfrcp h d a m rc) :=
  of rfl (row_vfrcp _ rfl rfl rfl) fun hw hf => ⟨by have hx : ((rc.toNat < 5) : Bool) = true := (Bool.and_eq_true_iff.mp hw).2; simpa [Parts.base, Parts.plain, Parts.plainI, Parts.plainT, Parts.head, Parts.tOpt, Parts.disp, -BitVec.toNat_setWidth, vOk_set, kOk_set, accOk_set, v_back, k_back, acc_back, nib_back, nib_lt, ext3_back, ext3_toNat, ext4_back, ext4_toNat] using hx, by simp [Parts.base, Parts.plain, Parts.plainI, Parts.plainT, Parts.head, Parts.tOpt, Parts.disp, -BitVec.toNat_setWidth, vOk_set, kOk_set, accOk_set, v_back, k_back, acc_back, nib_back, nib_lt, ext3_back, ext3_toNat, ext4_back, ext4_toNat, Instr.asRead]⟩
theorem PartsRoundTrip.vfrsq (h d a m rc) : Statement (.vfrsq h d a m rc) :=
  of rfl (row_vfrsq _ rfl rfl rfl) fun hw hf => ⟨by have hx : ((rc.toNat < 5) : Bool) = true := (Bool.and_eq_true_iff.mp hw).2; simpa [Parts.base, Parts.plain, Parts.plainI, Parts.plainT, Parts.head, Parts.tOpt, Parts.disp, -BitVec.toNat_setWidth, vOk_set, kOk_set, accOk_set, v_back, k_back, acc_back, nib_back, nib_lt, ext3_back, ext3_toNat, ext4_back, ext4_toNat] using hx, by simp [Parts.base, Parts.plain, Parts.plainI, Parts.plainT, Parts.head, Parts.tOpt, Parts.disp, -BitVec.toNat_setWidth, vOk_set, kOk_set, accOk_set, v_back, k_back, acc_back, nib_back, nib_lt, ext3_back, ext3_toNat, ext4_back, ext4_toNat, Instr.asRead]⟩
theorem PartsRoundTrip.vcmpEq (h d a b m) : Statement (.vcmpEq h d a b m) :=
  of rfl (row_vcmpEq _ rfl rfl rfl) fun hw hf => ⟨by simp [Parts.base, Parts.plain, Parts.plainI, Parts.plainT, Parts.head, Parts.tOpt, Parts.disp, -BitVec.toNat_setWidth, vOk_set, kOk_set, accOk_set, v_back, k_back, acc_back, nib_back, nib_lt, ext3_back, ext3_toNat, ext4_back, ext4_toNat], by simp [Parts.base, Parts.plain, Parts.plainI, Parts.plainT, Parts.head, Parts.tOpt, Parts.disp, -BitVec.toNat_setWidth, vOk_set, kOk_set, accOk_set, v_back, k_back, acc_back, nib_back, nib_lt, ext3_back, ext3_toNat, ext4_back, ext4_toNat, Instr.asRead]⟩
theorem PartsRoundTrip.vcmpLt (h d a b m) : Statement (.vcmpLt h d a b m) :=
  of rfl (row_vcmpLt _ rfl rfl rfl) fun hw hf => ⟨by simp [Parts.base, Parts.plain, Parts.plainI, Parts.plainT, Parts.head, Parts.tOpt, Parts.disp, -BitVec.toNat_setWidth, vOk_set, kOk_set, accOk_set, v_back, k_back, acc_back, nib_back, nib_lt, ext3_back, ext3_toNat, ext4_back, ext4_toNat], by simp [Parts.base, Parts.plain, Parts.plainI, Parts.plainT, Parts.head, Parts.tOpt, Parts.disp, -BitVec.toNat_setWidth, vOk_set, kOk_set, accOk_set, v_back, k_back, acc_back, nib_back, nib_lt, ext3_back, ext3_toNat, ext4_back, ext4_toNat, Instr.asRead]⟩
theorem PartsRoundTrip.vcmpLtu (h d a b m) : Statement (.vcmpLtu h d a b m) :=
  of rfl (row_vcmpLtu _ rfl rfl rfl) fun hw hf => ⟨by simp [Parts.base, Parts.plain, Parts.plainI, Parts.plainT, Parts.head, Parts.tOpt, Parts.disp, -BitVec.toNat_setWidth, vOk_set, kOk_set, accOk_set, v_back, k_back, acc_back, nib_back, nib_lt, ext3_back, ext3_toNat, ext4_back, ext4_toNat], by simp [Parts.base, Parts.plain, Parts.plainI, Parts.plainT, Parts.head, Parts.tOpt, Parts.disp, -BitVec.toNat_setWidth, vOk_set, kOk_set, accOk_set, v_back, k_back, acc_back, nib_back, nib_lt, ext3_back, ext3_toNat, ext4_back, ext4_toNat, Instr.asRead]⟩
theorem PartsRoundTrip.vcmpNe (h d a b m) : Statement (.vcmpNe h d a b m) :=
  of rfl (row_vcmpNe _ rfl rfl rfl) fun hw hf => ⟨by simp [Parts.base, Parts.plain, Parts.plainI, Parts.plainT, Parts.head, Parts.tOpt, Parts.disp, -BitVec.toNat_setWidth, vOk_set, kOk_set, accOk_set, v_back, k_back, acc_back, nib_back, nib_lt, ext3_back, ext3_toNat, ext4_back, ext4_toNat], by simp [Parts.base, Parts.plain, Parts.plainI, Parts.plainT, Parts.head, Parts.tOpt, Parts.disp, -BitVec.toNat_setWidth, vOk_set, kOk_set, accOk_set, v_back, k_back, acc_back, nib_back, nib_lt, ext3_back, ext3_toNat, ext4_back, ext4_toNat, Instr.asRead]⟩
theorem PartsRoundTrip.vfcmpEq (h d a b m) : Statement (.vfcmpEq h d a b m) :=
  of rfl (row_vfcmpEq _ rfl rfl rfl) fun hw hf => ⟨by simp [Parts.base, Parts.plain, Parts.plainI, Parts.plainT, Parts.head, Parts.tOpt, Parts.disp, -BitVec.toNat_setWidth, vOk_set, kOk_set, accOk_set, v_back, k_back, acc_back, nib_back, nib_lt, ext3_back, ext3_toNat, ext4_back, ext4_toNat], by simp [Parts.base, Parts.plain, Parts.plainI, Parts.plainT, Parts.head, Parts.tOpt, Parts.disp, -BitVec.toNat_setWidth, vOk_set, kOk_set, accOk_set, v_back, k_back, acc_back, nib_back, nib_lt, ext3_back, ext3_toNat, ext4_back, ext4_toNat, Instr.asRead]⟩
theorem PartsRoundTrip.vfcmpLt (h d a b m) : Statement (.vfcmpLt h d a b m) :=
  of rfl (row_vfcmpLt _ rfl rfl rfl) fun hw hf => ⟨by simp [Parts.base, Parts.plain, Parts.plainI, Parts.plainT, Parts.head, Parts.tOpt, Parts.disp, -BitVec.toNat_setWidth, vOk_set, kOk_set, accOk_set, v_back, k_back, acc_back, nib_back, nib_lt, ext3_back, ext3_toNat, ext4_back, ext4_toNat], by simp [Parts.base, Parts.plain, Parts.plainI, Parts.plainT, Parts.head, Parts.tOpt, Parts.disp, -BitVec.toNat_setWidth, vOk_set, kOk_set, accOk_set, v_back, k_back, acc_back, nib_back, nib_lt, ext3_back, ext3_toNat, ext4_back, ext4_toNat, Instr.asRead]⟩
theorem PartsRoundTrip.vfcmpLe (h d a b m) : Statement (.vfcmpLe h d a b m) :=
  of rfl (row_vfcmpLe _ rfl rfl rfl) fun hw hf => ⟨by simp [Parts.base, Parts.plain, Parts.plainI, Parts.plainT, Parts.head, Parts.tOpt, Parts.disp, -BitVec.toNat_setWidth, vOk_set, kOk_set, accOk_set, v_back, k_back, acc_back, nib_back, nib_lt, ext3_back, ext3_toNat, ext4_back, ext4_toNat], by simp [Parts.base, Parts.plain, Parts.plainI, Parts.plainT, Parts.head, Parts.tOpt, Parts.disp, -BitVec.toNat_setWidth, vOk_set, kOk_set, accOk_set, v_back, k_back, acc_back, nib_back, nib_lt, ext3_back, ext3_toNat, ext4_back, ext4_toNat, Instr.asRead]⟩
theorem PartsRoundTrip.vfcmpUn (h d a b m) : Statement (.vfcmpUn h d a b m) :=
  of rfl (row_vfcmpUn _ rfl rfl rfl) fun hw hf => ⟨by simp [Parts.base, Parts.plain, Parts.plainI, Parts.plainT, Parts.head, Parts.tOpt, Parts.disp, -BitVec.toNat_setWidth, vOk_set, kOk_set, accOk_set, v_back, k_back, acc_back, nib_back, nib_lt, ext3_back, ext3_toNat, ext4_back, ext4_toNat], by simp [Parts.base, Parts.plain, Parts.plainI, Parts.plainT, Parts.head, Parts.tOpt, Parts.disp, -BitVec.toNat_setWidth, vOk_set, kOk_set, accOk_set, v_back, k_back, acc_back, nib_back, nib_lt, ext3_back, ext3_toNat, ext4_back, ext4_toNat, Instr.asRead]⟩
theorem PartsRoundTrip.vld (h d a m disp o) : Statement (.vld h d a m disp o) :=
  of rfl (row_vld _ rfl rfl rfl) fun hw hf => ⟨by have hx : ((o.okAccess) : Bool) = true := (Bool.and_eq_true_iff.mp hw).2; simp [Parts.base, Parts.plain, Parts.plainI, Parts.plainT, Parts.head, Parts.tOpt, Parts.disp, -BitVec.toNat_setWidth, vOk_set, kOk_set, accOk_set, v_back, k_back, acc_back, nib_back, nib_lt, ext3_back, ext3_toNat, ext4_back, ext4_toNat, hx], by simp [Parts.base, Parts.plain, Parts.plainI, Parts.plainT, Parts.head, Parts.tOpt, Parts.disp, -BitVec.toNat_setWidth, vOk_set, kOk_set, accOk_set, v_back, k_back, acc_back, nib_back, nib_lt, ext3_back, ext3_toNat, ext4_back, ext4_toNat, Instr.asRead, sextNat_disp (Bool.and_eq_true_iff.mp hf).2]⟩
theorem PartsRoundTrip.vst (h d a m disp o) : Statement (.vst h d a m disp o) :=
  of rfl (row_vst _ rfl rfl rfl) fun hw hf => ⟨by have hx : ((o.okAccess) : Bool) = true := (Bool.and_eq_true_iff.mp hw).2; simp [Parts.base, Parts.plain, Parts.plainI, Parts.plainT, Parts.head, Parts.tOpt, Parts.disp, -BitVec.toNat_setWidth, vOk_set, kOk_set, accOk_set, v_back, k_back, acc_back, nib_back, nib_lt, ext3_back, ext3_toNat, ext4_back, ext4_toNat, hx], by simp [Parts.base, Parts.plain, Parts.plainI, Parts.plainT, Parts.head, Parts.tOpt, Parts.disp, -BitVec.toNat_setWidth, vOk_set, kOk_set, accOk_set, v_back, k_back, acc_back, nib_back, nib_lt, ext3_back, ext3_toNat, ext4_back, ext4_toNat, Instr.asRead, sextNat_disp (Bool.and_eq_true_iff.mp hf).2]⟩
theorem PartsRoundTrip.vldg (h d a i m disp o) : Statement (.vldg h d a i m disp o) :=
  of rfl (row_vldg _ rfl rfl rfl) fun hw hf => ⟨by have hx : ((o.okAccess) : Bool) = true := (Bool.and_eq_true_iff.mp hw).2; simp [Parts.base, Parts.plain, Parts.plainI, Parts.plainT, Parts.head, Parts.tOpt, Parts.disp, -BitVec.toNat_setWidth, vOk_set, kOk_set, accOk_set, v_back, k_back, acc_back, nib_back, nib_lt, ext3_back, ext3_toNat, ext4_back, ext4_toNat, hx], by simp [Parts.base, Parts.plain, Parts.plainI, Parts.plainT, Parts.head, Parts.tOpt, Parts.disp, -BitVec.toNat_setWidth, vOk_set, kOk_set, accOk_set, v_back, k_back, acc_back, nib_back, nib_lt, ext3_back, ext3_toNat, ext4_back, ext4_toNat, Instr.asRead, sextNat_disp (Bool.and_eq_true_iff.mp hf).2]⟩
theorem PartsRoundTrip.vsts (h d a i m disp o) : Statement (.vsts h d a i m disp o) :=
  of rfl (row_vsts _ rfl rfl rfl) fun hw hf => ⟨by have hx : ((o.okAccess) : Bool) = true := (Bool.and_eq_true_iff.mp hw).2; simp [Parts.base, Parts.plain, Parts.plainI, Parts.plainT, Parts.head, Parts.tOpt, Parts.disp, -BitVec.toNat_setWidth, vOk_set, kOk_set, accOk_set, v_back, k_back, acc_back, nib_back, nib_lt, ext3_back, ext3_toNat, ext4_back, ext4_toNat, hx], by simp [Parts.base, Parts.plain, Parts.plainI, Parts.plainT, Parts.head, Parts.tOpt, Parts.disp, -BitVec.toNat_setWidth, vOk_set, kOk_set, accOk_set, v_back, k_back, acc_back, nib_back, nib_lt, ext3_back, ext3_toNat, ext4_back, ext4_toNat, Instr.asRead, sextNat_disp (Bool.and_eq_true_iff.mp hf).2]⟩
theorem PartsRoundTrip.vldl (h d a m disp o) : Statement (.vldl h d a m disp o) :=
  of rfl (row_vldl _ rfl rfl rfl) fun hw hf => ⟨by have hx : ((o.okAccess) : Bool) = true := (Bool.and_eq_true_iff.mp hw).2; simp [Parts.base, Parts.plain, Parts.plainI, Parts.plainT, Parts.head, Parts.tOpt, Parts.disp, -BitVec.toNat_setWidth, vOk_set, kOk_set, accOk_set, v_back, k_back, acc_back, nib_back, nib_lt, ext3_back, ext3_toNat, ext4_back, ext4_toNat, hx], by simp [Parts.base, Parts.plain, Parts.plainI, Parts.plainT, Parts.head, Parts.tOpt, Parts.disp, -BitVec.toNat_setWidth, vOk_set, kOk_set, accOk_set, v_back, k_back, acc_back, nib_back, nib_lt, ext3_back, ext3_toNat, ext4_back, ext4_toNat, Instr.asRead, sextNat_disp (Bool.and_eq_true_iff.mp hf).2]⟩
theorem PartsRoundTrip.vstl (h d a m disp o) : Statement (.vstl h d a m disp o) :=
  of rfl (row_vstl _ rfl rfl rfl) fun hw hf => ⟨by have hx : ((o.okAccess) : Bool) = true := (Bool.and_eq_true_iff.mp hw).2; simp [Parts.base, Parts.plain, Parts.plainI, Parts.plainT, Parts.head, Parts.tOpt, Parts.disp, -BitVec.toNat_setWidth, vOk_set, kOk_set, accOk_set, v_back, k_back, acc_back, nib_back, nib_lt, ext3_back, ext3_toNat, ext4_back, ext4_toNat, hx], by simp [Parts.base, Parts.plain, Parts.plainI, Parts.plainT, Parts.head, Parts.tOpt, Parts.disp, -BitVec.toNat_setWidth, vOk_set, kOk_set, accOk_set, v_back, k_back, acc_back, nib_back, nib_lt, ext3_back, ext3_toNat, ext4_back, ext4_toNat, Instr.asRead, sextNat_disp (Bool.and_eq_true_iff.mp hf).2]⟩
theorem PartsRoundTrip.vbcst (h d a m) : Statement (.vbcst h d a m) :=
  of rfl (row_vbcst _ rfl rfl rfl) fun hw hf => ⟨by simp [Parts.base, Parts.plain, Parts.plainI, Parts.plainT, Parts.head, Parts.tOpt, Parts.disp, -BitVec.toNat_setWidth, vOk_set, kOk_set, accOk_set, v_back, k_back, acc_back, nib_back, nib_lt, ext3_back, ext3_toNat, ext4_back, ext4_toNat], by simp [Parts.base, Parts.plain, Parts.plainI, Parts.plainT, Parts.head, Parts.tOpt, Parts.disp, -BitVec.toNat_setWidth, vOk_set, kOk_set, accOk_set, v_back, k_back, acc_back, nib_back, nib_lt, ext3_back, ext3_toNat, ext4_back, ext4_toNat, Instr.asRead]⟩
theorem PartsRoundTrip.vext (h d a n z) : Statement (.vext h d a n z) :=
  of rfl (row_vext _ rfl rfl rfl) fun hw hf => ⟨by simp [Parts.base, Parts.plain, Parts.plainI, Parts.plainT, Parts.head, Parts.tOpt, Parts.disp, -BitVec.toNat_setWidth, vOk_set, kOk_set, accOk_set, v_back, k_back, acc_back, nib_back, nib_lt, ext3_back, ext3_toNat, ext4_back, ext4_toNat, lane_lt2], by simp [Parts.base, Parts.plain, Parts.plainI, Parts.plainT, Parts.head, Parts.tOpt, Parts.disp, -BitVec.toNat_setWidth, vOk_set, kOk_set, accOk_set, v_back, k_back, acc_back, nib_back, nib_lt, ext3_back, ext3_toNat, ext4_back, ext4_toNat, Instr.asRead, lane_back2, lane_top2]⟩
theorem PartsRoundTrip.vsel (h d a b k) : Statement (.vsel h d a b k) :=
  of rfl (row_vsel _ rfl rfl rfl) fun hw hf => ⟨by simp [Parts.base, Parts.plain, Parts.plainI, Parts.plainT, Parts.head, Parts.tOpt, Parts.disp, -BitVec.toNat_setWidth, vOk_set, kOk_set, accOk_set, v_back, k_back, acc_back, nib_back, nib_lt, ext3_back, ext3_toNat, ext4_back, ext4_toNat], by simp [Parts.base, Parts.plain, Parts.plainI, Parts.plainT, Parts.head, Parts.tOpt, Parts.disp, -BitVec.toNat_setWidth, vOk_set, kOk_set, accOk_set, v_back, k_back, acc_back, nib_back, nib_lt, ext3_back, ext3_toNat, ext4_back, ext4_toNat, Instr.asRead]⟩
theorem PartsRoundTrip.vperm (h d a m) : Statement (.vperm h d a m) :=
  of rfl (row_vperm _ rfl rfl rfl) fun hw hf => ⟨by simp [Parts.base, Parts.plain, Parts.plainI, Parts.plainT, Parts.head, Parts.tOpt, Parts.disp, -BitVec.toNat_setWidth, vOk_set, kOk_set, accOk_set, v_back, k_back, acc_back, nib_back, nib_lt, ext3_back, ext3_toNat, ext4_back, ext4_toNat], by simp [Parts.base, Parts.plain, Parts.plainI, Parts.plainT, Parts.head, Parts.tOpt, Parts.disp, -BitVec.toNat_setWidth, vOk_set, kOk_set, accOk_set, v_back, k_back, acc_back, nib_back, nib_lt, ext3_back, ext3_toNat, ext4_back, ext4_toNat, Instr.asRead]⟩
theorem PartsRoundTrip.vlrot (h d a n m) : Statement (.vlrot h d a n m) :=
  of rfl (row_vlrot _ rfl rfl rfl) fun hw hf => ⟨by simp [Parts.base, Parts.plain, Parts.plainI, Parts.plainT, Parts.head, Parts.tOpt, Parts.disp, -BitVec.toNat_setWidth, vOk_set, kOk_set, accOk_set, v_back, k_back, acc_back, nib_back, nib_lt, ext3_back, ext3_toNat, ext4_back, ext4_toNat, show n.toNat < 8 from n.isLt], by simp [Parts.base, Parts.plain, Parts.plainI, Parts.plainT, Parts.head, Parts.tOpt, Parts.disp, -BitVec.toNat_setWidth, vOk_set, kOk_set, accOk_set, v_back, k_back, acc_back, nib_back, nib_lt, ext3_back, ext3_toNat, ext4_back, ext4_toNat, Instr.asRead]⟩
theorem PartsRoundTrip.vmov (h d a m) : Statement (.vmov h d a m) :=
  of rfl (row_vmov _ rfl rfl rfl) fun hw hf => ⟨by simp [Parts.base, Parts.plain, Parts.plainI, Parts.plainT, Parts.head, Parts.tOpt, Parts.disp, -BitVec.toNat_setWidth, vOk_set, kOk_set, accOk_set, v_back, k_back, acc_back, nib_back, nib_lt, ext3_back, ext3_toNat, ext4_back, ext4_toNat], by simp [Parts.base, Parts.plain, Parts.plainI, Parts.plainT, Parts.head, Parts.tOpt, Parts.disp, -BitVec.toNat_setWidth, vOk_set, kOk_set, accOk_set, v_back, k_back, acc_back, nib_back, nib_lt, ext3_back, ext3_toNat, ext4_back, ext4_toNat, Instr.asRead]⟩
theorem PartsRoundTrip.vradd (h d a m) : Statement (.vradd h d a m) :=
  of rfl (row_vradd _ rfl rfl rfl) fun hw hf => ⟨by simp [Parts.base, Parts.plain, Parts.plainI, Parts.plainT, Parts.head, Parts.tOpt, Parts.disp, -BitVec.toNat_setWidth, vOk_set, kOk_set, accOk_set, v_back, k_back, acc_back, nib_back, nib_lt, ext3_back, ext3_toNat, ext4_back, ext4_toNat], by simp [Parts.base, Parts.plain, Parts.plainI, Parts.plainT, Parts.head, Parts.tOpt, Parts.disp, -BitVec.toNat_setWidth, vOk_set, kOk_set, accOk_set, v_back, k_back, acc_back, nib_back, nib_lt, ext3_back, ext3_toNat, ext4_back, ext4_toNat, Instr.asRead]⟩
theorem PartsRoundTrip.vrfadd (h d a m rc) : Statement (.vrfadd h d a m rc) :=
  of rfl (row_vrfadd _ rfl rfl rfl) fun hw hf => ⟨by have hx : ((rc.toNat < 5) : Bool) = true := (Bool.and_eq_true_iff.mp hw).2; simpa [Parts.base, Parts.plain, Parts.plainI, Parts.plainT, Parts.head, Parts.tOpt, Parts.disp, -BitVec.toNat_setWidth, vOk_set, kOk_set, accOk_set, v_back, k_back, acc_back, nib_back, nib_lt, ext3_back, ext3_toNat, ext4_back, ext4_toNat] using hx, by simp [Parts.base, Parts.plain, Parts.plainI, Parts.plainT, Parts.head, Parts.tOpt, Parts.disp, -BitVec.toNat_setWidth, vOk_set, kOk_set, accOk_set, v_back, k_back, acc_back, nib_back, nib_lt, ext3_back, ext3_toNat, ext4_back, ext4_toNat, Instr.asRead]⟩
theorem PartsRoundTrip.vrmax (h d a m) : Statement (.vrmax h d a m) :=
  of rfl (row_vrmax _ rfl rfl rfl) fun hw hf => ⟨by simp [Parts.base, Parts.plain, Parts.plainI, Parts.plainT, Parts.head, Parts.tOpt, Parts.disp, -BitVec.toNat_setWidth, vOk_set, kOk_set, accOk_set, v_back, k_back, acc_back, nib_back, nib_lt, ext3_back, ext3_toNat, ext4_back, ext4_toNat], by simp [Parts.base, Parts.plain, Parts.plainI, Parts.plainT, Parts.head, Parts.tOpt, Parts.disp, -BitVec.toNat_setWidth, vOk_set, kOk_set, accOk_set, v_back, k_back, acc_back, nib_back, nib_lt, ext3_back, ext3_toNat, ext4_back, ext4_toNat, Instr.asRead]⟩
theorem PartsRoundTrip.vrmin (h d a m) : Statement (.vrmin h d a m) :=
  of rfl (row_vrmin _ rfl rfl rfl) fun hw hf => ⟨by simp [Parts.base, Parts.plain, Parts.plainI, Parts.plainT, Parts.head, Parts.tOpt, Parts.disp, -BitVec.toNat_setWidth, vOk_set, kOk_set, accOk_set, v_back, k_back, acc_back, nib_back, nib_lt, ext3_back, ext3_toNat, ext4_back, ext4_toNat], by simp [Parts.base, Parts.plain, Parts.plainI, Parts.plainT, Parts.head, Parts.tOpt, Parts.disp, -BitVec.toNat_setWidth, vOk_set, kOk_set, accOk_set, v_back, k_back, acc_back, nib_back, nib_lt, ext3_back, ext3_toNat, ext4_back, ext4_toNat, Instr.asRead]⟩
theorem PartsRoundTrip.kand (h d a t) : Statement (.kand h d a t) :=
  of rfl (row_kand _ rfl rfl rfl) fun hw hf => ⟨by simp [Parts.base, Parts.plain, Parts.plainI, Parts.plainT, Parts.head, Parts.tOpt, Parts.disp, -BitVec.toNat_setWidth, vOk_set, kOk_set, accOk_set, v_back, k_back, acc_back, nib_back, nib_lt, ext3_back, ext3_toNat, ext4_back, ext4_toNat, kOk_set (t.getD 0)], by
    have e := tOpt_backK (Bool.and_eq_true_iff.mp hf).2
    simp only [Instr.asRead, Parts.base, Parts.tOpt, k_back, Parts.head]
    exact congrArg (Instr.kand _ d a) e⟩
theorem PartsRoundTrip.kor (h d a t) : Statement (.kor h d a t) :=
  of rfl (row_kor _ rfl rfl rfl) fun hw hf => ⟨by simp [Parts.base, Parts.plain, Parts.plainI, Parts.plainT, Parts.head, Parts.tOpt, Parts.disp, -BitVec.toNat_setWidth, vOk_set, kOk_set, accOk_set, v_back, k_back, acc_back, nib_back, nib_lt, ext3_back, ext3_toNat, ext4_back, ext4_toNat, kOk_set (t.getD 0)], by
    have e := tOpt_backK (Bool.and_eq_true_iff.mp hf).2
    simp only [Instr.asRead, Parts.base, Parts.tOpt, k_back, Parts.head]
    exact congrArg (Instr.kor _ d a) e⟩
theorem PartsRoundTrip.kxor (h d a t) : Statement (.kxor h d a t) :=
  of rfl (row_kxor _ rfl rfl rfl) fun hw hf => ⟨by simp [Parts.base, Parts.plain, Parts.plainI, Parts.plainT, Parts.head, Parts.tOpt, Parts.disp, -BitVec.toNat_setWidth, vOk_set, kOk_set, accOk_set, v_back, k_back, acc_back, nib_back, nib_lt, ext3_back, ext3_toNat, ext4_back, ext4_toNat, kOk_set (t.getD 0)], by
    have e := tOpt_backK (Bool.and_eq_true_iff.mp hf).2
    simp only [Instr.asRead, Parts.base, Parts.tOpt, k_back, Parts.head]
    exact congrArg (Instr.kxor _ d a) e⟩
theorem PartsRoundTrip.knot (h d a) : Statement (.knot h d a) :=
  of rfl (row_knot _ rfl rfl rfl) fun hw hf => ⟨by simp [Parts.base, Parts.plain, Parts.plainI, Parts.plainT, Parts.head, Parts.tOpt, Parts.disp, -BitVec.toNat_setWidth, vOk_set, kOk_set, accOk_set, v_back, k_back, acc_back, nib_back, nib_lt, ext3_back, ext3_toNat, ext4_back, ext4_toNat], by simp [Parts.base, Parts.plain, Parts.plainI, Parts.plainT, Parts.head, Parts.tOpt, Parts.disp, -BitVec.toNat_setWidth, vOk_set, kOk_set, accOk_set, v_back, k_back, acc_back, nib_back, nib_lt, ext3_back, ext3_toNat, ext4_back, ext4_toNat, Instr.asRead]⟩
theorem PartsRoundTrip.kany (h d a) : Statement (.kany h d a) :=
  of rfl (row_kany _ rfl rfl rfl) fun hw hf => ⟨by simp [Parts.base, Parts.plain, Parts.plainI, Parts.plainT, Parts.head, Parts.tOpt, Parts.disp, -BitVec.toNat_setWidth, vOk_set, kOk_set, accOk_set, v_back, k_back, acc_back, nib_back, nib_lt, ext3_back, ext3_toNat, ext4_back, ext4_toNat], by simp [Parts.base, Parts.plain, Parts.plainI, Parts.plainT, Parts.head, Parts.tOpt, Parts.disp, -BitVec.toNat_setWidth, vOk_set, kOk_set, accOk_set, v_back, k_back, acc_back, nib_back, nib_lt, ext3_back, ext3_toNat, ext4_back, ext4_toNat, Instr.asRead]⟩
theorem PartsRoundTrip.kall (h d a) : Statement (.kall h d a) :=
  of rfl (row_kall _ rfl rfl rfl) fun hw hf => ⟨by simp [Parts.base, Parts.plain, Parts.plainI, Parts.plainT, Parts.head, Parts.tOpt, Parts.disp, -BitVec.toNat_setWidth, vOk_set, kOk_set, accOk_set, v_back, k_back, acc_back, nib_back, nib_lt, ext3_back, ext3_toNat, ext4_back, ext4_toNat], by simp [Parts.base, Parts.plain, Parts.plainI, Parts.plainT, Parts.head, Parts.tOpt, Parts.disp, -BitVec.toNat_setWidth, vOk_set, kOk_set, accOk_set, v_back, k_back, acc_back, nib_back, nib_lt, ext3_back, ext3_toNat, ext4_back, ext4_toNat, Instr.asRead]⟩
theorem PartsRoundTrip.kcnt (h d a) : Statement (.kcnt h d a) :=
  of rfl (row_kcnt _ rfl rfl rfl) fun hw hf => ⟨by simp [Parts.base, Parts.plain, Parts.plainI, Parts.plainT, Parts.head, Parts.tOpt, Parts.disp, -BitVec.toNat_setWidth, vOk_set, kOk_set, accOk_set, v_back, k_back, acc_back, nib_back, nib_lt, ext3_back, ext3_toNat, ext4_back, ext4_toNat], by simp [Parts.base, Parts.plain, Parts.plainI, Parts.plainT, Parts.head, Parts.tOpt, Parts.disp, -BitVec.toNat_setWidth, vOk_set, kOk_set, accOk_set, v_back, k_back, acc_back, nib_back, nib_lt, ext3_back, ext3_toNat, ext4_back, ext4_toNat, Instr.asRead]⟩
theorem PartsRoundTrip.kfirst (h d a) : Statement (.kfirst h d a) :=
  of rfl (row_kfirst _ rfl rfl rfl) fun hw hf => ⟨by simp [Parts.base, Parts.plain, Parts.plainI, Parts.plainT, Parts.head, Parts.tOpt, Parts.disp, -BitVec.toNat_setWidth, vOk_set, kOk_set, accOk_set, v_back, k_back, acc_back, nib_back, nib_lt, ext3_back, ext3_toNat, ext4_back, ext4_toNat], by simp [Parts.base, Parts.plain, Parts.plainI, Parts.plainT, Parts.head, Parts.tOpt, Parts.disp, -BitVec.toNat_setWidth, vOk_set, kOk_set, accOk_set, v_back, k_back, acc_back, nib_back, nib_lt, ext3_back, ext3_toNat, ext4_back, ext4_toNat, Instr.asRead]⟩
theorem PartsRoundTrip.kmov (h d a) : Statement (.kmov h d a) :=
  of rfl (row_kmov _ rfl rfl rfl) fun hw hf => ⟨by simp [Parts.base, Parts.plain, Parts.plainI, Parts.plainT, Parts.head, Parts.tOpt, Parts.disp, -BitVec.toNat_setWidth, vOk_set, kOk_set, accOk_set, v_back, k_back, acc_back, nib_back, nib_lt, ext3_back, ext3_toNat, ext4_back, ext4_toNat], by simp [Parts.base, Parts.plain, Parts.plainI, Parts.plainT, Parts.head, Parts.tOpt, Parts.disp, -BitVec.toNat_setWidth, vOk_set, kOk_set, accOk_set, v_back, k_back, acc_back, nib_back, nib_lt, ext3_back, ext3_toNat, ext4_back, ext4_toNat, Instr.asRead]⟩
theorem PartsRoundTrip.kmovx (h d a) : Statement (.kmovx h d a) :=
  of rfl (row_kmovx _ rfl rfl rfl) fun hw hf => ⟨by simp [Parts.base, Parts.plain, Parts.plainI, Parts.plainT, Parts.head, Parts.tOpt, Parts.disp, -BitVec.toNat_setWidth, vOk_set, kOk_set, accOk_set, v_back, k_back, acc_back, nib_back, nib_lt, ext3_back, ext3_toNat, ext4_back, ext4_toNat], by simp [Parts.base, Parts.plain, Parts.plainI, Parts.plainT, Parts.head, Parts.tOpt, Parts.disp, -BitVec.toNat_setWidth, vOk_set, kOk_set, accOk_set, v_back, k_back, acc_back, nib_back, nib_lt, ext3_back, ext3_toNat, ext4_back, ext4_toNat, Instr.asRead]⟩
theorem PartsRoundTrip.vcvt (h d a m fmt dir) : Statement (.vcvt h d a m fmt dir) :=
  of rfl (row_vcvt _ rfl rfl rfl) fun hw hf => ⟨by have hx : ((cvtOk d a m fmt dir) : Bool) = true := (Bool.and_eq_true_iff.mp hw).2; simpa [Parts.base, Parts.plain, Parts.plainI, Parts.plainT, Parts.head, Parts.tOpt, Parts.disp, -BitVec.toNat_setWidth, vOk_set, kOk_set, accOk_set, v_back, k_back, acc_back, nib_back, nib_lt, ext3_back, ext3_toNat, ext4_back, ext4_toNat, fmt_back, dir_back2] using hx, by simp [Parts.base, Parts.plain, Parts.plainI, Parts.plainT, Parts.head, Parts.tOpt, Parts.disp, -BitVec.toNat_setWidth, vOk_set, kOk_set, accOk_set, v_back, k_back, acc_back, nib_back, nib_lt, ext3_back, ext3_toNat, ext4_back, ext4_toNat, Instr.asRead, fmt_back, dir_back2]⟩
theorem PartsRoundTrip.vcvts (h d a m fmt) : Statement (.vcvts h d a m fmt) :=
  of rfl (row_vcvts _ rfl rfl rfl) fun hw hf => ⟨by have hx : ((fmt.toNat < 13) : Bool) = true := (Bool.and_eq_true_iff.mp hw).2; simpa [Parts.base, Parts.plain, Parts.plainI, Parts.plainT, Parts.head, Parts.tOpt, Parts.disp, -BitVec.toNat_setWidth, vOk_set, kOk_set, accOk_set, v_back, k_back, acc_back, nib_back, nib_lt, ext3_back, ext3_toNat, ext4_back, ext4_toNat, show fmt.toNat < 16 from fmt.isLt] using hx, by simp [Parts.base, Parts.plain, Parts.plainI, Parts.plainT, Parts.head, Parts.tOpt, Parts.disp, -BitVec.toNat_setWidth, vOk_set, kOk_set, accOk_set, v_back, k_back, acc_back, nib_back, nib_lt, ext3_back, ext3_toNat, ext4_back, ext4_toNat, Instr.asRead]⟩
theorem PartsRoundTrip.vqnt (h d a m fmt) : Statement (.vqnt h d a m fmt) :=
  of rfl (row_vqnt _ rfl rfl rfl) fun hw hf => ⟨by have hx : ((qntOk d a m fmt) : Bool) = true := (Bool.and_eq_true_iff.mp hw).2; simpa [Parts.base, Parts.plain, Parts.plainI, Parts.plainT, Parts.head, Parts.tOpt, Parts.disp, -BitVec.toNat_setWidth, vOk_set, kOk_set, accOk_set, v_back, k_back, acc_back, nib_back, nib_lt, ext3_back, ext3_toNat, ext4_back, ext4_toNat, show fmt.toNat < 16 from fmt.isLt] using hx, by simp [Parts.base, Parts.plain, Parts.plainI, Parts.plainT, Parts.head, Parts.tOpt, Parts.disp, -BitVec.toNat_setWidth, vOk_set, kOk_set, accOk_set, v_back, k_back, acc_back, nib_back, nib_lt, ext3_back, ext3_toNat, ext4_back, ext4_toNat, Instr.asRead]⟩
theorem PartsRoundTrip.vdqnt (h d a m fmt) : Statement (.vdqnt h d a m fmt) :=
  of rfl (row_vdqnt _ rfl rfl rfl) fun hw hf => ⟨by have hx : ((affine fmt && even d) : Bool) = true := (Bool.and_eq_true_iff.mp hw).2; simpa [Parts.base, Parts.plain, Parts.plainI, Parts.plainT, Parts.head, Parts.tOpt, Parts.disp, -BitVec.toNat_setWidth, vOk_set, kOk_set, accOk_set, v_back, k_back, acc_back, nib_back, nib_lt, ext3_back, ext3_toNat, ext4_back, ext4_toNat, show fmt.toNat < 16 from fmt.isLt] using hx, by simp [Parts.base, Parts.plain, Parts.plainI, Parts.plainT, Parts.head, Parts.tOpt, Parts.disp, -BitVec.toNat_setWidth, vOk_set, kOk_set, accOk_set, v_back, k_back, acc_back, nib_back, nib_lt, ext3_back, ext3_toNat, ext4_back, ext4_toNat, Instr.asRead]⟩
theorem PartsRoundTrip.vresc (h d a m disp i32) : Statement (.vresc h d a m disp i32) :=
  of rfl (row_vresc _ rfl rfl rfl) fun hw hf => ⟨by simp [Parts.base, Parts.plain, Parts.plainI, Parts.plainT, Parts.head, Parts.tOpt, Parts.disp, -BitVec.toNat_setWidth, vOk_set, kOk_set, accOk_set, v_back, k_back, acc_back, nib_back, nib_lt, ext3_back, ext3_toNat, ext4_back, ext4_toNat, flag_lt], by simp [Parts.base, Parts.plain, Parts.plainI, Parts.plainT, Parts.head, Parts.tOpt, Parts.disp, -BitVec.toNat_setWidth, vOk_set, kOk_set, accOk_set, v_back, k_back, acc_back, nib_back, nib_lt, ext3_back, ext3_toNat, ext4_back, ext4_toNat, Instr.asRead, flag_back, sextNat_disp (Bool.and_eq_true_iff.mp hf).2]⟩
theorem PartsRoundTrip.vscal (h d a m fmt) : Statement (.vscal h d a m fmt) :=
  of rfl (row_vscal _ rfl rfl rfl) fun hw hf => ⟨by have hx : ((affine fmt && even d && even a) : Bool) = true := (Bool.and_eq_true_iff.mp hw).2; simpa [Parts.base, Parts.plain, Parts.plainI, Parts.plainT, Parts.head, Parts.tOpt, Parts.disp, -BitVec.toNat_setWidth, vOk_set, kOk_set, accOk_set, v_back, k_back, acc_back, nib_back, nib_lt, ext3_back, ext3_toNat, ext4_back, ext4_toNat, show fmt.toNat < 16 from fmt.isLt] using hx, by simp [Parts.base, Parts.plain, Parts.plainI, Parts.plainT, Parts.head, Parts.tOpt, Parts.disp, -BitVec.toNat_setWidth, vOk_set, kOk_set, accOk_set, v_back, k_back, acc_back, nib_back, nib_lt, ext3_back, ext3_toNat, ext4_back, ext4_toNat, Instr.asRead]⟩
theorem PartsRoundTrip.vpack (h d a w p) : Statement (.vpack h d a w p) :=
  of rfl (row_vpack _ rfl rfl rfl) fun hw hf => ⟨by have hx : ((w != 3 && p.toNat < 2 ^ (w.toNat + 1)) : Bool) = true := (Bool.and_eq_true_iff.mp hw).2; simpa [Parts.base, Parts.plain, Parts.plainI, Parts.plainT, Parts.head, Parts.tOpt, Parts.disp, -BitVec.toNat_setWidth, vOk_set, kOk_set, accOk_set, v_back, k_back, acc_back, nib_back, nib_lt, ext3_back, ext3_toNat, ext4_back, ext4_toNat, pair_mod, pair_div, three_iff] using hx, by simp [Parts.base, Parts.plain, Parts.plainI, Parts.plainT, Parts.head, Parts.tOpt, Parts.disp, -BitVec.toNat_setWidth, vOk_set, kOk_set, accOk_set, v_back, k_back, acc_back, nib_back, nib_lt, ext3_back, ext3_toNat, ext4_back, ext4_toNat, Instr.asRead, pair_lo, pair_hi]⟩
theorem PartsRoundTrip.vunpk (h d a w p) : Statement (.vunpk h d a w p) :=
  of rfl (row_vunpk _ rfl rfl rfl) fun hw hf => ⟨by have hx : ((w != 3 && p.toNat < 2 ^ (w.toNat + 1)) : Bool) = true := (Bool.and_eq_true_iff.mp hw).2; simpa [Parts.base, Parts.plain, Parts.plainI, Parts.plainT, Parts.head, Parts.tOpt, Parts.disp, -BitVec.toNat_setWidth, vOk_set, kOk_set, accOk_set, v_back, k_back, acc_back, nib_back, nib_lt, ext3_back, ext3_toNat, ext4_back, ext4_toNat, pair_mod, pair_div, three_iff] using hx, by simp [Parts.base, Parts.plain, Parts.plainI, Parts.plainT, Parts.head, Parts.tOpt, Parts.disp, -BitVec.toNat_setWidth, vOk_set, kOk_set, accOk_set, v_back, k_back, acc_back, nib_back, nib_lt, ext3_back, ext3_toNat, ext4_back, ext4_toNat, Instr.asRead, pair_lo, pair_hi]⟩
theorem PartsRoundTrip.tmmaF32 (h acc ra rb z k t) : Statement (.tmmaF32 h acc ra rb z k t) :=
  of rfl (row_tmmaF32 _ rfl rfl) fun hw hf => ⟨by simp [Parts.base, Parts.plain, Parts.plainI, Parts.plainT, Parts.head, Parts.tOpt, Parts.disp, -BitVec.toNat_setWidth, d_tile, a_tile], by
    have e := tOpt_back (Bool.and_eq_true_iff.mp hf).2
    simp only [Instr.asRead, Parts.base, Parts.tOpt, acc_tile, ra_tile, rb_tile, z_tile, k_tile, Parts.head]
    exact congrArg (Instr.tmmaF32 ⟨h.s, h.shape⟩ acc ra rb z k ·) e⟩
theorem PartsRoundTrip.tmmaBf (h acc ra rb z k t) : Statement (.tmmaBf h acc ra rb z k t) :=
  of rfl (row_tmmaBf _ rfl rfl) fun hw hf => ⟨by simp [Parts.base, Parts.plain, Parts.plainI, Parts.plainT, Parts.head, Parts.tOpt, Parts.disp, -BitVec.toNat_setWidth, d_tile, a_tile], by
    have e := tOpt_back (Bool.and_eq_true_iff.mp hf).2
    simp only [Instr.asRead, Parts.base, Parts.tOpt, acc_tile, ra_tile, rb_tile, z_tile, k_tile, Parts.head]
    exact congrArg (Instr.tmmaBf ⟨h.s, h.shape⟩ acc ra rb z k ·) e⟩
theorem PartsRoundTrip.tmmaH (h acc ra rb z k t) : Statement (.tmmaH h acc ra rb z k t) :=
  of rfl (row_tmmaH _ rfl rfl) fun hw hf => ⟨by simp [Parts.base, Parts.plain, Parts.plainI, Parts.plainT, Parts.head, Parts.tOpt, Parts.disp, -BitVec.toNat_setWidth, d_tile, a_tile], by
    have e := tOpt_back (Bool.and_eq_true_iff.mp hf).2
    simp only [Instr.asRead, Parts.base, Parts.tOpt, acc_tile, ra_tile, rb_tile, z_tile, k_tile, Parts.head]
    exact congrArg (Instr.tmmaH ⟨h.s, h.shape⟩ acc ra rb z k ·) e⟩
theorem PartsRoundTrip.tmmaHb (h acc ra rb z k t x) : Statement (.tmmaHb h acc ra rb z k t x) :=
  of rfl (row_tmmaHb _ rfl rfl) fun hw hf => ⟨by simp [Parts.base, Parts.plain, Parts.plainI, Parts.plainT, Parts.head, Parts.tOpt, Parts.disp, -BitVec.toNat_setWidth, d_tile, a_tile, flag_lt], by
    have e := tOpt_back (Bool.and_eq_true_iff.mp hf).2
    simp only [Instr.asRead, Parts.base, Parts.tOpt, acc_tile, ra_tile, rb_tile, z_tile, k_tile, Parts.head, flag_back]
    exact congrArg (Instr.tmmaHb ⟨h.s, h.shape⟩ acc ra rb z k · x) e⟩
theorem PartsRoundTrip.tmmaE4 (h acc ra rb z k t) : Statement (.tmmaE4 h acc ra rb z k t) :=
  of rfl (row_tmmaE4 _ rfl rfl) fun hw hf => ⟨by simp [Parts.base, Parts.plain, Parts.plainI, Parts.plainT, Parts.head, Parts.tOpt, Parts.disp, -BitVec.toNat_setWidth, d_tile, a_tile], by
    have e := tOpt_back (Bool.and_eq_true_iff.mp hf).2
    simp only [Instr.asRead, Parts.base, Parts.tOpt, acc_tile, ra_tile, rb_tile, z_tile, k_tile, Parts.head]
    exact congrArg (Instr.tmmaE4 ⟨h.s, h.shape⟩ acc ra rb z k ·) e⟩
theorem PartsRoundTrip.tmmaE5 (h acc ra rb z k t) : Statement (.tmmaE5 h acc ra rb z k t) :=
  of rfl (row_tmmaE5 _ rfl rfl) fun hw hf => ⟨by simp [Parts.base, Parts.plain, Parts.plainI, Parts.plainT, Parts.head, Parts.tOpt, Parts.disp, -BitVec.toNat_setWidth, d_tile, a_tile], by
    have e := tOpt_back (Bool.and_eq_true_iff.mp hf).2
    simp only [Instr.asRead, Parts.base, Parts.tOpt, acc_tile, ra_tile, rb_tile, z_tile, k_tile, Parts.head]
    exact congrArg (Instr.tmmaE5 ⟨h.s, h.shape⟩ acc ra rb z k ·) e⟩
theorem PartsRoundTrip.tmmaE45 (h acc ra rb z k t x) : Statement (.tmmaE45 h acc ra rb z k t x) :=
  of rfl (row_tmmaE45 _ rfl rfl) fun hw hf => ⟨by simp [Parts.base, Parts.plain, Parts.plainI, Parts.plainT, Parts.head, Parts.tOpt, Parts.disp, -BitVec.toNat_setWidth, d_tile, a_tile, flag_lt], by
    have e := tOpt_back (Bool.and_eq_true_iff.mp hf).2
    simp only [Instr.asRead, Parts.base, Parts.tOpt, acc_tile, ra_tile, rb_tile, z_tile, k_tile, Parts.head, flag_back]
    exact congrArg (Instr.tmmaE45 ⟨h.s, h.shape⟩ acc ra rb z k · x) e⟩
theorem PartsRoundTrip.tmmaE3 (h acc ra rb z k t) : Statement (.tmmaE3 h acc ra rb z k t) :=
  of rfl (row_tmmaE3 _ rfl rfl) fun hw hf => ⟨by simp [Parts.base, Parts.plain, Parts.plainI, Parts.plainT, Parts.head, Parts.tOpt, Parts.disp, -BitVec.toNat_setWidth, d_tile, a_tile], by
    have e := tOpt_back (Bool.and_eq_true_iff.mp hf).2
    simp only [Instr.asRead, Parts.base, Parts.tOpt, acc_tile, ra_tile, rb_tile, z_tile, k_tile, Parts.head]
    exact congrArg (Instr.tmmaE3 ⟨h.s, h.shape⟩ acc ra rb z k ·) e⟩
theorem PartsRoundTrip.tmmaE2 (h acc ra rb z k t) : Statement (.tmmaE2 h acc ra rb z k t) :=
  of rfl (row_tmmaE2 _ rfl rfl) fun hw hf => ⟨by simp [Parts.base, Parts.plain, Parts.plainI, Parts.plainT, Parts.head, Parts.tOpt, Parts.disp, -BitVec.toNat_setWidth, d_tile, a_tile], by
    have e := tOpt_back (Bool.and_eq_true_iff.mp hf).2
    simp only [Instr.asRead, Parts.base, Parts.tOpt, acc_tile, ra_tile, rb_tile, z_tile, k_tile, Parts.head]
    exact congrArg (Instr.tmmaE2 ⟨h.s, h.shape⟩ acc ra rb z k ·) e⟩
theorem PartsRoundTrip.tmmaE1 (h acc ra rb z k t) : Statement (.tmmaE1 h acc ra rb z k t) :=
  of rfl (row_tmmaE1 _ rfl rfl) fun hw hf => ⟨by simp [Parts.base, Parts.plain, Parts.plainI, Parts.plainT, Parts.head, Parts.tOpt, Parts.disp, -BitVec.toNat_setWidth, d_tile, a_tile], by
    have e := tOpt_back (Bool.and_eq_true_iff.mp hf).2
    simp only [Instr.asRead, Parts.base, Parts.tOpt, acc_tile, ra_tile, rb_tile, z_tile, k_tile, Parts.head]
    exact congrArg (Instr.tmmaE1 ⟨h.s, h.shape⟩ acc ra rb z k ·) e⟩
theorem PartsRoundTrip.tmmaI8 (h acc ra rb z k t x) : Statement (.tmmaI8 h acc ra rb z k t x) :=
  of rfl (row_tmmaI8 _ rfl rfl) fun hw hf => ⟨by simp [Parts.base, Parts.plain, Parts.plainI, Parts.plainT, Parts.head, Parts.tOpt, Parts.disp, -BitVec.toNat_setWidth, d_tile, a_tile, flag_lt], by
    have e := tOpt_back (Bool.and_eq_true_iff.mp hf).2
    simp only [Instr.asRead, Parts.base, Parts.tOpt, acc_tile, ra_tile, rb_tile, z_tile, k_tile, Parts.head, flag_back]
    exact congrArg (Instr.tmmaI8 ⟨h.s, h.shape⟩ acc ra rb z k · x) e⟩
theorem PartsRoundTrip.tmmaIz8 (h acc ra rb z k t) : Statement (.tmmaIz8 h acc ra rb z k t) :=
  of rfl (row_tmmaIz8 _ rfl rfl) fun hw hf => ⟨by simp [Parts.base, Parts.plain, Parts.plainI, Parts.plainT, Parts.head, Parts.tOpt, Parts.disp, -BitVec.toNat_setWidth, d_tile, a_tile], by
    have e := tOpt_back (Bool.and_eq_true_iff.mp hf).2
    simp only [Instr.asRead, Parts.base, Parts.tOpt, acc_tile, ra_tile, rb_tile, z_tile, k_tile, Parts.head]
    exact congrArg (Instr.tmmaIz8 ⟨h.s, h.shape⟩ acc ra rb z k ·) e⟩
theorem PartsRoundTrip.tmmaI4 (h acc ra rb z k t) : Statement (.tmmaI4 h acc ra rb z k t) :=
  of rfl (row_tmmaI4 _ rfl rfl) fun hw hf => ⟨by simp [Parts.base, Parts.plain, Parts.plainI, Parts.plainT, Parts.head, Parts.tOpt, Parts.disp, -BitVec.toNat_setWidth, d_tile, a_tile], by
    have e := tOpt_back (Bool.and_eq_true_iff.mp hf).2
    simp only [Instr.asRead, Parts.base, Parts.tOpt, acc_tile, ra_tile, rb_tile, z_tile, k_tile, Parts.head]
    exact congrArg (Instr.tmmaI4 ⟨h.s, h.shape⟩ acc ra rb z k ·) e⟩
theorem PartsRoundTrip.tmmaIz4 (h acc ra rb z k t) : Statement (.tmmaIz4 h acc ra rb z k t) :=
  of rfl (row_tmmaIz4 _ rfl rfl) fun hw hf => ⟨by simp [Parts.base, Parts.plain, Parts.plainI, Parts.plainT, Parts.head, Parts.tOpt, Parts.disp, -BitVec.toNat_setWidth, d_tile, a_tile], by
    have e := tOpt_back (Bool.and_eq_true_iff.mp hf).2
    simp only [Instr.asRead, Parts.base, Parts.tOpt, acc_tile, ra_tile, rb_tile, z_tile, k_tile, Parts.head]
    exact congrArg (Instr.tmmaIz4 ⟨h.s, h.shape⟩ acc ra rb z k ·) e⟩
theorem PartsRoundTrip.tcommit (h d u) : Statement (.tcommit h d u) :=
  of rfl (row_tcommit _ rfl rfl rfl) fun hw hf => ⟨by simp [Parts.base, Parts.plain, Parts.plainI, Parts.plainT, Parts.head, Parts.tOpt, Parts.disp, -BitVec.toNat_setWidth, vOk_set, kOk_set, accOk_set, v_back, k_back, acc_back, nib_back, nib_lt, ext3_back, ext3_toNat, ext4_back, ext4_toNat], by simp [Parts.base, Parts.plain, Parts.plainI, Parts.plainT, Parts.head, Parts.tOpt, Parts.disp, -BitVec.toNat_setWidth, vOk_set, kOk_set, accOk_set, v_back, k_back, acc_back, nib_back, nib_lt, ext3_back, ext3_toNat, ext4_back, ext4_toNat, Instr.asRead]⟩
theorem PartsRoundTrip.twaitb (h d a) : Statement (.twaitb h d a) :=
  of rfl (row_twaitb _ rfl rfl rfl) fun hw hf => ⟨rfl, rfl⟩
theorem PartsRoundTrip.tbatq (h d a) : Statement (.tbatq h d a) :=
  of rfl (row_tbatq _ rfl rfl rfl) fun hw hf => ⟨rfl, rfl⟩
theorem PartsRoundTrip.tlda (h d a t disp) : Statement (.tlda h d a t disp) :=
  of rfl (row_tlda _ rfl rfl rfl) fun hw hf => ⟨by simp [Parts.base, Parts.plain, Parts.plainI, Parts.plainT, Parts.head, Parts.tOpt, Parts.disp, -BitVec.toNat_setWidth, vOk_set, kOk_set, accOk_set, v_back, k_back, acc_back, nib_back, nib_lt, ext3_back, ext3_toNat, ext4_back, ext4_toNat], by
    have e := tOpt_back (Bool.and_eq_true_iff.mp (Bool.and_eq_true_iff.mp hf).2).1
    simp only [Instr.asRead, Parts.base, Parts.tOpt, Parts.disp, acc_back, Parts.head, sextNat_disp (Bool.and_eq_true_iff.mp (Bool.and_eq_true_iff.mp hf).2).2]
    exact congrArg (Instr.tlda ⟨h.s, h.shape⟩ d a · disp) e⟩
theorem PartsRoundTrip.tsta (h d a t disp) : Statement (.tsta h d a t disp) :=
  of rfl (row_tsta _ rfl rfl rfl) fun hw hf => ⟨by simp [Parts.base, Parts.plain, Parts.plainI, Parts.plainT, Parts.head, Parts.tOpt, Parts.disp, -BitVec.toNat_setWidth, vOk_set, kOk_set, accOk_set, v_back, k_back, acc_back, nib_back, nib_lt, ext3_back, ext3_toNat, ext4_back, ext4_toNat], by
    have e := tOpt_back (Bool.and_eq_true_iff.mp (Bool.and_eq_true_iff.mp hf).2).1
    simp only [Instr.asRead, Parts.base, Parts.tOpt, Parts.disp, acc_back, Parts.head, sextNat_disp (Bool.and_eq_true_iff.mp (Bool.and_eq_true_iff.mp hf).2).2]
    exact congrArg (Instr.tsta ⟨h.s, h.shape⟩ d a · disp) e⟩
theorem PartsRoundTrip.tstaQ (h d a t disp i32) : Statement (.tstaQ h d a t disp i32) := by
  intro hw hf
  have i := (Bool.and_eq_true_iff.mp (show (_ && (h.trx && dispFits h.nImx disp)) = true from hf)).2
  simp only [Bool.and_eq_true] at i
  refine ⟨_, rfl, ?_⟩
  rw [row_tsta _ rfl rfl rfl, if_neg, if_pos]
  · simp [Parts.base, Parts.head, Parts.disp, acc_back, quant_back, Instr.asRead, sextNat_disp i.2]
  · have q := quant_bits i32
    have e : h.shape.contains .trx = true := i.1
    simp only [Bool.and_eq_true] at q
    simp only [Parts.base, accOk_set, e, q.1, q.2]
    rfl
  · cases i32 <;> simp [Parts.base, Parts.plainI]
theorem PartsRoundTrip.tzero (h d u) : Statement (.tzero h d u) :=
  of rfl (row_tzero _ rfl rfl rfl) fun hw hf => ⟨by simp [Parts.base, Parts.plain, Parts.plainI, Parts.plainT, Parts.head, Parts.tOpt, Parts.disp, -BitVec.toNat_setWidth, vOk_set, kOk_set, accOk_set, v_back, k_back, acc_back, nib_back, nib_lt, ext3_back, ext3_toNat, ext4_back, ext4_toNat], by simp [Parts.base, Parts.plain, Parts.plainI, Parts.plainT, Parts.head, Parts.tOpt, Parts.disp, -BitVec.toNat_setWidth, vOk_set, kOk_set, accOk_set, v_back, k_back, acc_back, nib_back, nib_lt, ext3_back, ext3_toNat, ext4_back, ext4_toNat, Instr.asRead]⟩
theorem PartsRoundTrip.taccq (h d u) : Statement (.taccq h d u) :=
  of rfl (row_taccq _ rfl rfl rfl) fun hw hf => ⟨by simp [Parts.base, Parts.plain, Parts.plainI, Parts.plainT, Parts.head, Parts.tOpt, Parts.disp, -BitVec.toNat_setWidth, vOk_set, kOk_set, accOk_set, v_back, k_back, acc_back, nib_back, nib_lt, ext3_back, ext3_toNat, ext4_back, ext4_toNat], by simp [Parts.base, Parts.plain, Parts.plainI, Parts.plainT, Parts.head, Parts.tOpt, Parts.disp, -BitVec.toNat_setWidth, vOk_set, kOk_set, accOk_set, v_back, k_back, acc_back, nib_back, nib_lt, ext3_back, ext3_toNat, ext4_back, ext4_toNat, Instr.asRead]⟩
theorem PartsRoundTrip.rcfg (h d a) : Statement (.rcfg h d a) :=
  of rfl (row_rcfg _ rfl rfl rfl) fun hw hf => ⟨by simp [Parts.base, Parts.plain, Parts.plainI, Parts.plainT, Parts.head, Parts.tOpt, Parts.disp, -BitVec.toNat_setWidth, vOk_set, kOk_set, accOk_set, v_back, k_back, acc_back, nib_back, nib_lt, ext3_back, ext3_toNat, ext4_back, ext4_toNat], by simp [Parts.base, Parts.plain, Parts.plainI, Parts.plainT, Parts.head, Parts.tOpt, Parts.disp, -BitVec.toNat_setWidth, vOk_set, kOk_set, accOk_set, v_back, k_back, acc_back, nib_back, nib_lt, ext3_back, ext3_toNat, ext4_back, ext4_toNat, Instr.asRead]⟩
theorem PartsRoundTrip.rpush (h d u) : Statement (.rpush h d u) :=
  of rfl (row_rpush _ rfl rfl rfl) fun hw hf => ⟨by simp [Parts.base, Parts.plain, Parts.plainI, Parts.plainT, Parts.head, Parts.tOpt, Parts.disp, -BitVec.toNat_setWidth, vOk_set, kOk_set, accOk_set, v_back, k_back, acc_back, nib_back, nib_lt, ext3_back, ext3_toNat, ext4_back, ext4_toNat], by simp [Parts.base, Parts.plain, Parts.plainI, Parts.plainT, Parts.head, Parts.tOpt, Parts.disp, -BitVec.toNat_setWidth, vOk_set, kOk_set, accOk_set, v_back, k_back, acc_back, nib_back, nib_lt, ext3_back, ext3_toNat, ext4_back, ext4_toNat, Instr.asRead]⟩
theorem PartsRoundTrip.rpos (h d a) : Statement (.rpos h d a) :=
  of rfl (row_rpos _ rfl rfl rfl) fun hw hf => ⟨by simp [Parts.base, Parts.plain, Parts.plainI, Parts.plainT, Parts.head, Parts.tOpt, Parts.disp, -BitVec.toNat_setWidth, vOk_set, kOk_set, accOk_set, v_back, k_back, acc_back, nib_back, nib_lt, ext3_back, ext3_toNat, ext4_back, ext4_toNat], by simp [Parts.base, Parts.plain, Parts.plainI, Parts.plainT, Parts.head, Parts.tOpt, Parts.disp, -BitVec.toNat_setWidth, vOk_set, kOk_set, accOk_set, v_back, k_back, acc_back, nib_back, nib_lt, ext3_back, ext3_toNat, ext4_back, ext4_toNat, Instr.asRead]⟩
theorem PartsRoundTrip.rrst (h d u) : Statement (.rrst h d u) :=
  of rfl (row_rrst _ rfl rfl rfl) fun hw hf => ⟨by simp [Parts.base, Parts.plain, Parts.plainI, Parts.plainT, Parts.head, Parts.tOpt, Parts.disp, -BitVec.toNat_setWidth, vOk_set, kOk_set, accOk_set, v_back, k_back, acc_back, nib_back, nib_lt, ext3_back, ext3_toNat, ext4_back, ext4_toNat], by simp [Parts.base, Parts.plain, Parts.plainI, Parts.plainT, Parts.head, Parts.tOpt, Parts.disp, -BitVec.toNat_setWidth, vOk_set, kOk_set, accOk_set, v_back, k_back, acc_back, nib_back, nib_lt, ext3_back, ext3_toNat, ext4_back, ext4_toNat, Instr.asRead]⟩
theorem PartsRoundTrip.tgeo (h d sel) : Statement (.tgeo h d sel) :=
  of rfl (row_tgeo _ rfl rfl) fun hw hf => ⟨by simp [Parts.setI6, Parts.base, Parts.plain, immBytes]; omega, congrArg (Instr.tgeo h d) (i6_back sel)⟩
theorem PartsRoundTrip.psel (h a) : Statement (.psel h a) :=
  of rfl (row_psel _ rfl rfl rfl) fun hw hf => ⟨rfl, rfl⟩
theorem PartsRoundTrip.pstat (h d a) : Statement (.pstat h d a) :=
  of rfl (row_pstat _ rfl rfl rfl) fun hw hf => ⟨rfl, rfl⟩
theorem PartsRoundTrip.pgain (h d a) : Statement (.pgain h d a) :=
  of rfl (row_pgain _ rfl rfl rfl) fun hw hf => ⟨rfl, rfl⟩
theorem PartsRoundTrip.pserial (h d) : Statement (.pserial h d) :=
  of rfl (row_pserial _ rfl rfl rfl) fun hw hf => ⟨rfl, rfl⟩
theorem PartsRoundTrip.phld (h a) : Statement (.phld h a) :=
  of rfl (row_phld _ rfl rfl rfl) fun hw hf => ⟨rfl, rfl⟩
theorem PartsRoundTrip.phsw (h) : Statement (.phsw h) :=
  of rfl (row_phsw _ rfl rfl rfl) fun hw hf => ⟨rfl, rfl⟩
theorem PartsRoundTrip.phrd (h d a) : Statement (.phrd h d a) :=
  of rfl (row_phrd _ rfl rfl rfl) fun hw hf => ⟨rfl, rfl⟩
theorem PartsRoundTrip.phwr (h d a) : Statement (.phwr h d a) :=
  of rfl (row_phwr _ rfl rfl rfl) fun hw hf => ⟨rfl, rfl⟩
theorem PartsRoundTrip.pdec (h d a) : Statement (.pdec h d a) :=
  of rfl (row_pdec _ rfl rfl rfl) fun hw hf => ⟨rfl, rfl⟩
theorem PartsRoundTrip.pdecq (h d a) : Statement (.pdecq h d a) :=
  of rfl (row_pdecq _ rfl rfl rfl) fun hw hf => ⟨rfl, rfl⟩
theorem PartsRoundTrip.ppass (h a) : Statement (.ppass h a) :=
  of rfl (row_ppass _ rfl rfl rfl) fun hw hf => ⟨rfl, rfl⟩
theorem PartsRoundTrip.ppassa (h a) : Statement (.ppassa h a) :=
  of rfl (row_ppassa _ rfl rfl rfl) fun hw hf => ⟨rfl, rfl⟩
theorem PartsRoundTrip.pflush (h d) : Statement (.pflush h d) :=
  of rfl (row_pflush _ rfl rfl rfl) fun hw hf => ⟨rfl, rfl⟩
theorem PartsRoundTrip.pwait (h d a) : Statement (.pwait h d a) :=
  of rfl (row_pwait _ rfl rfl rfl) fun hw hf => ⟨rfl, rfl⟩
theorem PartsRoundTrip.pprobe (h) : Statement (.pprobe h) :=
  of rfl (row_pprobe _ rfl rfl rfl) fun hw hf => ⟨rfl, rfl⟩
theorem PartsRoundTrip.ptrim (h d a) : Statement (.ptrim h d a) :=
  of rfl (row_ptrim _ rfl rfl rfl) fun hw hf => ⟨rfl, rfl⟩
theorem PartsRoundTrip.ploop (h d a) : Statement (.ploop h d a) :=
  of rfl (row_ploop _ rfl rfl rfl) fun hw hf => ⟨rfl, rfl⟩
theorem PartsRoundTrip.pcal (h a) : Statement (.pcal h a) :=
  of rfl (row_pcal _ rfl rfl rfl) fun hw hf => ⟨rfl, rfl⟩
theorem PartsRoundTrip.pair (h) : Statement (.pair h) :=
  of rfl (row_pair _ rfl rfl rfl) fun hw hf => ⟨rfl, rfl⟩
theorem PartsRoundTrip.pairn (h) : Statement (.pairn h) :=
  of rfl (row_pairn _ rfl rfl rfl) fun hw hf => ⟨rfl, rfl⟩
theorem PartsRoundTrip.pushp (h a) : Statement (.pushp h a) :=
  of rfl (row_pushp _ rfl rfl rfl) fun hw hf => ⟨rfl, rfl⟩
theorem PartsRoundTrip.pondq (h d) : Statement (.pondq h d) :=
  of rfl (row_pondq _ rfl rfl rfl) fun hw hf => ⟨rfl, rfl⟩
theorem PartsRoundTrip.nalloc (h d) : Statement (.nalloc h d) :=
  of rfl (row_nalloc _ rfl rfl rfl) fun hw hf => ⟨rfl, rfl⟩
theorem PartsRoundTrip.walloc (h d) : Statement (.walloc h d) :=
  of rfl (row_walloc _ rfl rfl rfl) fun hw hf => ⟨rfl, rfl⟩
theorem PartsRoundTrip.nfree (h a) : Statement (.nfree h a) :=
  of rfl (row_nfree _ rfl rfl rfl) fun hw hf => ⟨rfl, rfl⟩
theorem PartsRoundTrip.wfree (h a) : Statement (.wfree h a) :=
  of rfl (row_wfree _ rfl rfl rfl) fun hw hf => ⟨rfl, rfl⟩
theorem PartsRoundTrip.nld (h d a w) : Statement (.nld h d a w) :=
  of rfl (row_nld _ rfl rfl) fun hw hf => ⟨rfl, rfl⟩
theorem PartsRoundTrip.nst (h d a w) : Statement (.nst h d a w) :=
  of rfl (row_nst _ rfl rfl) fun hw hf => ⟨rfl, rfl⟩
theorem PartsRoundTrip.wset (h d a) : Statement (.wset h d a) :=
  of rfl (row_wset _ rfl rfl rfl) fun hw hf => ⟨rfl, rfl⟩
theorem PartsRoundTrip.wrepl (h d a) : Statement (.wrepl h d a) :=
  of rfl (row_wrepl _ rfl rfl rfl) fun hw hf => ⟨rfl, rfl⟩
theorem PartsRoundTrip.wsplice (h d a) : Statement (.wsplice h d a) :=
  of rfl (row_wsplice _ rfl rfl rfl) fun hw hf => ⟨rfl, rfl⟩
theorem PartsRoundTrip.wres (h d a) : Statement (.wres h d a) :=
  of rfl (row_wres _ rfl rfl rfl) fun hw hf => ⟨rfl, rfl⟩
theorem PartsRoundTrip.retire (h) : Statement (.retire h) :=
  of rfl (row_retire _ rfl rfl rfl) fun hw hf => ⟨rfl, rfl⟩
theorem PartsRoundTrip.rule (h d a) : Statement (.rule h d a) :=
  of rfl (row_rule _ rfl rfl rfl) fun hw hf => ⟨rfl, rfl⟩
theorem PartsRoundTrip.yieldp (h) : Statement (.yieldp h) :=
  of rfl (row_yieldp _ rfl rfl rfl) fun hw hf => ⟨rfl, rfl⟩
theorem PartsRoundTrip.engw (h a) : Statement (.engw h a) :=
  of rfl (row_engw _ rfl rfl rfl) fun hw hf => ⟨rfl, rfl⟩
theorem PartsRoundTrip.nrdm (h d a) : Statement (.nrdm h d a) :=
  of rfl (row_nrdm _ rfl rfl rfl) fun hw hf => ⟨rfl, rfl⟩
theorem PartsRoundTrip.nval (h d a) : Statement (.nval h d a) :=
  of rfl (row_nval _ rfl rfl rfl) fun hw hf => ⟨rfl, rfl⟩
theorem PartsRoundTrip.tldn (h d a disp t o) : Statement (.tldn h d a disp t o) :=
  of rfl (row_tldn _ rfl rfl rfl) fun hw hf => ⟨by have hx : ((o.okAccess && o.ord != 3) : Bool) = true := (Bool.and_eq_true_iff.mp hw).2; simpa [Parts.base, Parts.plain, Parts.plainI, Parts.plainT, Parts.head, Parts.tOpt, Parts.disp, -BitVec.toNat_setWidth, vOk_set, kOk_set, accOk_set, v_back, k_back, acc_back, nib_back, nib_lt, ext3_back, ext3_toNat, ext4_back, ext4_toNat, And.comm, and_comm] using hx, congrArg (Instr.tldn h d a · t o) (sextNat_disp (Bool.and_eq_true_iff.mp hf).2)⟩
theorem PartsRoundTrip.tldg (h d a disp t o) : Statement (.tldg h d a disp t o) :=
  of rfl (row_tldg _ rfl rfl rfl) fun hw hf => ⟨by have hx : ((o.okAccess && o.ord.toNat < 2) : Bool) = true := (Bool.and_eq_true_iff.mp hw).2; simpa [Parts.base, Parts.plain, Parts.plainI, Parts.plainT, Parts.head, Parts.tOpt, Parts.disp, -BitVec.toNat_setWidth, vOk_set, kOk_set, accOk_set, v_back, k_back, acc_back, nib_back, nib_lt, ext3_back, ext3_toNat, ext4_back, ext4_toNat, And.comm, and_comm] using hx, congrArg (Instr.tldg h d a · t o) (sextNat_disp (Bool.and_eq_true_iff.mp hf).2)⟩
theorem PartsRoundTrip.tkdrop (h a) : Statement (.tkdrop h a) :=
  of rfl (row_tkdrop _ rfl rfl rfl) fun hw hf => ⟨rfl, rfl⟩
theorem PartsRoundTrip.amoAdd (h d a disp w o) : Statement (.amoAdd h d a disp w o) :=
  of rfl (row_amoAdd _ rfl rfl rfl) fun hw hf => ⟨by have hx : ((o.okAccess) : Bool) = true := (Bool.and_eq_true_iff.mp hw).2; simp [Parts.base, Parts.plain, Parts.plainI, Parts.plainT, Parts.head, Parts.tOpt, Parts.disp, -BitVec.toNat_setWidth, flag_lt, hx], by simp [Parts.base, Parts.plain, Parts.plainI, Parts.plainT, Parts.head, Parts.tOpt, Parts.disp, -BitVec.toNat_setWidth, vOk_set, kOk_set, accOk_set, v_back, k_back, acc_back, nib_back, nib_lt, ext3_back, ext3_toNat, ext4_back, ext4_toNat, Instr.asRead, flag_back, sextNat_disp (Bool.and_eq_true_iff.mp hf).2]⟩
theorem PartsRoundTrip.amoAnd (h d a disp w o) : Statement (.amoAnd h d a disp w o) :=
  of rfl (row_amoAnd _ rfl rfl rfl) fun hw hf => ⟨by have hx : ((o.okAccess) : Bool) = true := (Bool.and_eq_true_iff.mp hw).2; simp [Parts.base, Parts.plain, Parts.plainI, Parts.plainT, Parts.head, Parts.tOpt, Parts.disp, -BitVec.toNat_setWidth, flag_lt, hx], by simp [Parts.base, Parts.plain, Parts.plainI, Parts.plainT, Parts.head, Parts.tOpt, Parts.disp, -BitVec.toNat_setWidth, vOk_set, kOk_set, accOk_set, v_back, k_back, acc_back, nib_back, nib_lt, ext3_back, ext3_toNat, ext4_back, ext4_toNat, Instr.asRead, flag_back, sextNat_disp (Bool.and_eq_true_iff.mp hf).2]⟩
theorem PartsRoundTrip.amoOr (h d a disp w o) : Statement (.amoOr h d a disp w o) :=
  of rfl (row_amoOr _ rfl rfl rfl) fun hw hf => ⟨by have hx : ((o.okAccess) : Bool) = true := (Bool.and_eq_true_iff.mp hw).2; simp [Parts.base, Parts.plain, Parts.plainI, Parts.plainT, Parts.head, Parts.tOpt, Parts.disp, -BitVec.toNat_setWidth, flag_lt, hx], by simp [Parts.base, Parts.plain, Parts.plainI, Parts.plainT, Parts.head, Parts.tOpt, Parts.disp, -BitVec.toNat_setWidth, vOk_set, kOk_set, accOk_set, v_back, k_back, acc_back, nib_back, nib_lt, ext3_back, ext3_toNat, ext4_back, ext4_toNat, Instr.asRead, flag_back, sextNat_disp (Bool.and_eq_true_iff.mp hf).2]⟩
theorem PartsRoundTrip.amoXor (h d a disp w o) : Statement (.amoXor h d a disp w o) :=
  of rfl (row_amoXor _ rfl rfl rfl) fun hw hf => ⟨by have hx : ((o.okAccess) : Bool) = true := (Bool.and_eq_true_iff.mp hw).2; simp [Parts.base, Parts.plain, Parts.plainI, Parts.plainT, Parts.head, Parts.tOpt, Parts.disp, -BitVec.toNat_setWidth, flag_lt, hx], by simp [Parts.base, Parts.plain, Parts.plainI, Parts.plainT, Parts.head, Parts.tOpt, Parts.disp, -BitVec.toNat_setWidth, vOk_set, kOk_set, accOk_set, v_back, k_back, acc_back, nib_back, nib_lt, ext3_back, ext3_toNat, ext4_back, ext4_toNat, Instr.asRead, flag_back, sextNat_disp (Bool.and_eq_true_iff.mp hf).2]⟩
theorem PartsRoundTrip.amoMin (h d a disp w u o) : Statement (.amoMin h d a disp w u o) :=
  of rfl (row_amoMin _ rfl rfl rfl) fun hw hf => ⟨by have hx : ((o.okAccess) : Bool) = true := (Bool.and_eq_true_iff.mp hw).2; simp [Parts.base, Parts.plain, Parts.plainI, Parts.plainT, Parts.head, Parts.tOpt, Parts.disp, -BitVec.toNat_setWidth, flags_lt, hx], by simp [Parts.base, Parts.plain, Parts.plainI, Parts.plainT, Parts.head, Parts.tOpt, Parts.disp, -BitVec.toNat_setWidth, vOk_set, kOk_set, accOk_set, v_back, k_back, acc_back, nib_back, nib_lt, ext3_back, ext3_toNat, ext4_back, ext4_toNat, Instr.asRead, flags_lo, flags_hi, sextNat_disp (Bool.and_eq_true_iff.mp hf).2]⟩
theorem PartsRoundTrip.amoMax (h d a disp w u o) : Statement (.amoMax h d a disp w u o) :=
  of rfl (row_amoMax _ rfl rfl rfl) fun hw hf => ⟨by have hx : ((o.okAccess) : Bool) = true := (Bool.and_eq_true_iff.mp hw).2; simp [Parts.base, Parts.plain, Parts.plainI, Parts.plainT, Parts.head, Parts.tOpt, Parts.disp, -BitVec.toNat_setWidth, flags_lt, hx], by simp [Parts.base, Parts.plain, Parts.plainI, Parts.plainT, Parts.head, Parts.tOpt, Parts.disp, -BitVec.toNat_setWidth, vOk_set, kOk_set, accOk_set, v_back, k_back, acc_back, nib_back, nib_lt, ext3_back, ext3_toNat, ext4_back, ext4_toNat, Instr.asRead, flags_lo, flags_hi, sextNat_disp (Bool.and_eq_true_iff.mp hf).2]⟩
theorem PartsRoundTrip.amoSwap (h d a disp w o) : Statement (.amoSwap h d a disp w o) :=
  of rfl (row_amoSwap _ rfl rfl rfl) fun hw hf => ⟨by have hx : ((o.okAccess) : Bool) = true := (Bool.and_eq_true_iff.mp hw).2; simp [Parts.base, Parts.plain, Parts.plainI, Parts.plainT, Parts.head, Parts.tOpt, Parts.disp, -BitVec.toNat_setWidth, flag_lt, hx], by simp [Parts.base, Parts.plain, Parts.plainI, Parts.plainT, Parts.head, Parts.tOpt, Parts.disp, -BitVec.toNat_setWidth, vOk_set, kOk_set, accOk_set, v_back, k_back, acc_back, nib_back, nib_lt, ext3_back, ext3_toNat, ext4_back, ext4_toNat, Instr.asRead, flag_back, sextNat_disp (Bool.and_eq_true_iff.mp hf).2]⟩
theorem PartsRoundTrip.amoCas (h d a t disp w o) : Statement (.amoCas h d a t disp w o) :=
  of rfl (row_amoCas _ rfl rfl rfl) fun hw hf => ⟨by have hx : ((o.okAccess) : Bool) = true := (Bool.and_eq_true_iff.mp hw).2; simp [Parts.base, Parts.plain, Parts.plainI, Parts.plainT, Parts.head, Parts.tOpt, Parts.disp, -BitVec.toNat_setWidth, flag_lt, hx], by simp [Parts.base, Parts.plain, Parts.plainI, Parts.plainT, Parts.head, Parts.tOpt, Parts.disp, -BitVec.toNat_setWidth, vOk_set, kOk_set, accOk_set, v_back, k_back, acc_back, nib_back, nib_lt, ext3_back, ext3_toNat, ext4_back, ext4_toNat, Instr.asRead, flag_back, sextNat_disp (Bool.and_eq_true_iff.mp hf).2]⟩
theorem PartsRoundTrip.famoAdd (h d a disp o) : Statement (.famoAdd h d a disp o) :=
  of rfl (row_famoAdd _ rfl rfl rfl) fun hw hf => ⟨(Bool.and_eq_true_iff.mp hw).2, congrArg ((Instr.famoAdd h d a · o)) (sextNat_disp (Bool.and_eq_true_iff.mp hf).2)⟩
theorem PartsRoundTrip.famoAdd2 (h d a disp o) : Statement (.famoAdd2 h d a disp o) :=
  of rfl (row_famoAdd2 _ rfl rfl rfl) fun hw hf => ⟨(Bool.and_eq_true_iff.mp hw).2, congrArg ((Instr.famoAdd2 h d a · o)) (sextNat_disp (Bool.and_eq_true_iff.mp hf).2)⟩
theorem PartsRoundTrip.famoMax (h d a disp o) : Statement (.famoMax h d a disp o) :=
  of rfl (row_famoMax _ rfl rfl rfl) fun hw hf => ⟨(Bool.and_eq_true_iff.mp hw).2, congrArg ((Instr.famoMax h d a · o)) (sextNat_disp (Bool.and_eq_true_iff.mp hf).2)⟩
theorem PartsRoundTrip.famoMin (h d a disp o) : Statement (.famoMin h d a disp o) :=
  of rfl (row_famoMin _ rfl rfl rfl) fun hw hf => ⟨(Bool.and_eq_true_iff.mp hw).2, congrArg ((Instr.famoMin h d a · o)) (sextNat_disp (Bool.and_eq_true_iff.mp hf).2)⟩
theorem PartsRoundTrip.msg (h d a t) : Statement (.msg h d a t) :=
  of rfl (row_msg _ rfl rfl rfl) fun hw hf => ⟨rfl, rfl⟩
theorem PartsRoundTrip.callat (h d a t) : Statement (.callat h d a t) :=
  of rfl (row_callat _ rfl rfl rfl) fun hw hf => ⟨rfl, rfl⟩
theorem PartsRoundTrip.mret (h) : Statement (.mret h) :=
  of rfl (row_mret _ rfl rfl rfl) fun hw hf => ⟨rfl, rfl⟩
theorem PartsRoundTrip.hret (h) : Statement (.hret h) :=
  of rfl (row_hret _ rfl rfl rfl) fun hw hf => ⟨rfl, rfl⟩
theorem PartsRoundTrip.clsm (h a) : Statement (.clsm h a) :=
  of rfl (row_clsm _ rfl rfl rfl) fun hw hf => ⟨rfl, rfl⟩
theorem PartsRoundTrip.clsu (h a) : Statement (.clsu h a) :=
  of rfl (row_clsu _ rfl rfl rfl) fun hw hf => ⟨rfl, rfl⟩
theorem PartsRoundTrip.mclose (h d a) : Statement (.mclose h d a) :=
  of rfl (row_mclose _ rfl rfl rfl) fun hw hf => ⟨rfl, rfl⟩
theorem PartsRoundTrip.mpoll (h d a) : Statement (.mpoll h d a) :=
  of rfl (row_mpoll _ rfl rfl rfl) fun hw hf => ⟨rfl, rfl⟩
theorem PartsRoundTrip.cpset (h d i) : Statement (.cpset h d i) :=
  of rfl (row_cpset _ rfl rfl rfl) fun hw hf => ⟨by have hx : ((i != 7) : Bool) = true := (Bool.and_eq_true_iff.mp hw).2; simp [Parts.base, Parts.plain, Parts.plainI, Parts.plainT, Parts.head, Parts.tOpt, Parts.disp, -BitVec.toNat_setWidth, shadow_lt hx], by simp [Parts.base, Parts.plain, Parts.plainI, Parts.plainT, Parts.head, Parts.tOpt, Parts.disp, -BitVec.toNat_setWidth, vOk_set, kOk_set, accOk_set, v_back, k_back, acc_back, nib_back, nib_lt, ext3_back, ext3_toNat, ext4_back, ext4_toNat, Instr.asRead]⟩
theorem PartsRoundTrip.cpgo (h d) : Statement (.cpgo h d) :=
  of rfl (row_cpgo _ rfl rfl rfl) fun hw hf => ⟨rfl, rfl⟩
theorem PartsRoundTrip.cpwait (h d a) : Statement (.cpwait h d a) :=
  of rfl (row_cpwait _ rfl rfl rfl) fun hw hf => ⟨rfl, rfl⟩
theorem PartsRoundTrip.cpq (h d a) : Statement (.cpq h d a) :=
  of rfl (row_cpq _ rfl rfl rfl) fun hw hf => ⟨rfl, rfl⟩
theorem PartsRoundTrip.cshape (h d a) : Statement (.cshape h d a) :=
  of rfl (row_cshape _ rfl rfl rfl) fun hw hf => ⟨rfl, rfl⟩
theorem PartsRoundTrip.cpmc (h d a) : Statement (.cpmc h d a) :=
  of rfl (row_cpmc _ rfl rfl rfl) fun hw hf => ⟨rfl, rfl⟩
theorem PartsRoundTrip.gred (h d a) : Statement (.gred h d a) :=
  of rfl (row_gred _ rfl rfl rfl) fun hw hf => ⟨rfl, rfl⟩
theorem PartsRoundTrip.gbc (h d a) : Statement (.gbc h d a) :=
  of rfl (row_gbc _ rfl rfl rfl) fun hw hf => ⟨rfl, rfl⟩
theorem PartsRoundTrip.dsend (h d a) : Statement (.dsend h d a) :=
  of rfl (row_dsend _ rfl rfl rfl) fun hw hf => ⟨rfl, rfl⟩
theorem PartsRoundTrip.dpoll (h d a) : Statement (.dpoll h d a) :=
  of rfl (row_dpoll _ rfl rfl rfl) fun hw hf => ⟨rfl, rfl⟩
theorem PartsRoundTrip.dslot (h d a) : Statement (.dslot h d a) :=
  of rfl (row_dslot _ rfl rfl rfl) fun hw hf => ⟨rfl, rfl⟩
theorem PartsRoundTrip.dsig (h d a) : Statement (.dsig h d a) :=
  of rfl (row_dsig _ rfl rfl rfl) fun hw hf => ⟨rfl, rfl⟩
theorem PartsRoundTrip.rft (h) : Statement (.rft h) :=
  of rfl (row_rft _ rfl rfl rfl) fun hw hf => ⟨rfl, rfl⟩
theorem PartsRoundTrip.rftNext (h) : Statement (.rftNext h) := fun _ _ => ⟨_, rfl, rfl⟩
theorem PartsRoundTrip.trrec (h d a disp) : Statement (.trrec h d a disp) :=
  of rfl (row_trrec _ rfl rfl rfl) fun hw hf => ⟨rfl, congrArg (Instr.trrec h d a) (sextNat_disp (Bool.and_eq_true_iff.mp hf).2)⟩
theorem PartsRoundTrip.mfp (h d a disp) : Statement (.mfp h d a disp) :=
  of rfl (row_mfp _ rfl rfl rfl) fun hw hf => ⟨rfl, congrArg (Instr.mfp h d a) (sextNat_disp (Bool.and_eq_true_iff.mp hf).2)⟩
theorem PartsRoundTrip.mtp (h d a disp) : Statement (.mtp h d a disp) :=
  of rfl (row_mtp _ rfl rfl rfl) fun hw hf => ⟨rfl, congrArg (Instr.mtp h d a) (sextNat_disp (Bool.and_eq_true_iff.mp hf).2)⟩
theorem PartsRoundTrip.tlbi (h d a) : Statement (.tlbi h d a) :=
  of rfl (row_tlbi _ rfl rfl rfl) fun hw hf => ⟨rfl, rfl⟩
theorem PartsRoundTrip.tlbia (h a) : Statement (.tlbia h a) :=
  of rfl (row_tlbia _ rfl rfl rfl) fun hw hf => ⟨rfl, rfl⟩
theorem PartsRoundTrip.xbset (h a) : Statement (.xbset h a) :=
  of rfl (row_xbset _ rfl rfl rfl) fun hw hf => ⟨rfl, rfl⟩
theorem PartsRoundTrip.cflush (h a disp) : Statement (.cflush h a disp) :=
  of rfl (row_cflush _ rfl rfl rfl) fun hw hf => ⟨rfl, congrArg (Instr.cflush h a) (sextNat_disp (Bool.and_eq_true_iff.mp hf).2)⟩
theorem PartsRoundTrip.cinv (h a disp) : Statement (.cinv h a disp) :=
  of rfl (row_cinv _ rfl rfl rfl) fun hw hf => ⟨rfl, congrArg (Instr.cinv h a) (sextNat_disp (Bool.and_eq_true_iff.mp hf).2)⟩
theorem PartsRoundTrip.czero (h a disp) : Statement (.czero h a disp) :=
  of rfl (row_czero _ rfl rfl rfl) fun hw hf => ⟨rfl, congrArg (Instr.czero h a) (sextNat_disp (Bool.and_eq_true_iff.mp hf).2)⟩
theorem PartsRoundTrip.dstop (h a) : Statement (.dstop h a) :=
  of rfl (row_dstop _ rfl rfl rfl) fun hw hf => ⟨rfl, rfl⟩
theorem PartsRoundTrip.trmark (h a) : Statement (.trmark h a) :=
  of rfl (row_trmark _ rfl rfl rfl) fun hw hf => ⟨rfl, rfl⟩
theorem PartsRoundTrip.evsel (h d a) : Statement (.evsel h d a) :=
  of rfl (row_evsel _ rfl rfl rfl) fun hw hf => ⟨rfl, rfl⟩
theorem PartsRoundTrip.evrd (h d a) : Statement (.evrd h d a) :=
  of rfl (row_evrd _ rfl rfl rfl) fun hw hf => ⟨rfl, rfl⟩
theorem PartsRoundTrip.rpcapCapture (h d a t) : Statement (.rpcapCapture h d a t) :=
  of rfl (row_rpcapCapture _ rfl rfl rfl) fun hw hf => ⟨rfl, rfl⟩
theorem PartsRoundTrip.rpcapReplay (h d a t) : Statement (.rpcapReplay h d a t) :=
  of rfl (row_rpcapCapture _ rfl rfl rfl) fun _ _ => ⟨rfl, rfl⟩
theorem PartsRoundTrip.rpcapEnd (h d a t) : Statement (.rpcapEnd h d a t) :=
  of rfl (row_rpcapCapture _ rfl rfl rfl) fun _ _ => ⟨rfl, rfl⟩
theorem PartsRoundTrip.rpcapRelease (h d a t) : Statement (.rpcapRelease h d a t) :=
  of rfl (row_rpcapCapture _ rfl rfl rfl) fun _ _ => ⟨rfl, rfl⟩
theorem PartsRoundTrip.rpstat (h d a) : Statement (.rpstat h d a) :=
  of rfl (row_rpstat _ rfl rfl rfl) fun hw hf => ⟨rfl, rfl⟩
theorem PartsRoundTrip.tpert (h d a) : Statement (.tpert h d a) :=
  of rfl (row_tpert _ rfl rfl rfl) fun hw hf => ⟨rfl, rfl⟩
theorem PartsRoundTrip.inj (h d a disp) : Statement (.inj h d a disp) :=
  of rfl (row_inj _ rfl rfl rfl) fun hw hf => ⟨rfl, congrArg (Instr.inj h d a) (sextNat_disp (Bool.and_eq_true_iff.mp hf).2)⟩
theorem PartsRoundTrip.pwrf (h d a) : Statement (.pwrf h d a) :=
  of rfl (row_pwrf _ rfl rfl rfl) fun hw hf => ⟨rfl, rfl⟩

end Sys2Proof.Laws
end

