-- ==== Sys2Proof/Laws/Run.lean ====
section
/-! SUPPORT. What holds at the start of a run and is kept by every step. -/

namespace Sys2Proof

/-- What holds at the start and is kept holds wherever a run comes. -/
theorem Kept.reaches {p : Machine.State → Prop} (h : Kept p) {s t : Machine.State} (hs : p s) (r : Reaches s t) : p t := by
  induction r with
  | here => exact hs
  | next _ f ih => exact h _ _ ih f

end Sys2Proof
end

