-- ==== Sys2Proof/Laws/Store.lean ====
section
/-! SUPPORT. What a store does: the capture of its block, the bytes it writes, and its acknowledgement. -/

namespace Sys2Proof.Machine

/-- Placing bytes changes memory and what is known of its lines, nothing else. -/
theorem State.poke_units (s : State) (key : Nat) (bs : List Byte) (cached : Bool) :
    s.poke key bs cached = { s with
      mem := (s.poke key bs cached).mem, under := (s.poke key bs cached).under
      poison := (s.poke key bs cached).poison, damage := (s.poke key bs cached).damage } := rfl

/-- Two states that differ in memory, its lines and the hub only, and keep the canonical form. -/
structure SameButLines (s t : State) : Prop where
  units : t = { s with mem := t.mem, under := t.under, poison := t.poison, damage := t.damage, hub := t.hub }
  wf : s.mem.wf = true → t.mem.wf = true

theorem SameButLines.refl (s : State) : SameButLines s s := ⟨rfl, id⟩

theorem SameButLines.poke {s t : State} (h : SameButLines s t) (key : Nat) (bs : List Byte) (cached : Bool) :
    SameButLines s (t.poke key bs cached) := by
  refine ⟨?_, fun w => Memory.wf_writeBytes key bs (h.wf w)⟩
  generalize hp : t.poke key bs cached = u
  have e : u = { t with mem := u.mem, under := u.under, poison := u.poison, damage := u.damage } := by
    rw [← hp]; exact t.poke_units key bs cached
  rw [e, h.units]

theorem SameButLines.upHub {s t : State} (h : SameButLines s t) (f : Hub → Hub) : SameButLines s (t.upHub f) := by
  refine ⟨?_, h.wf⟩
  have e : t.upHub f = { t with hub := (t.upHub f).hub } := rfl
  rw [e, h.units]

/-- What a capture can do (R307): nothing outside a running pass. -/
structure Captured (s t : State) (colour : Nat) : Prop where
  units : t = { s with mem := t.mem, under := t.under, poison := t.poison, damage := t.damage, hub := t.hub }
  wf : s.mem.wf = true → t.mem.wf = true
  idle : s.replaying colour = false → t = s

theorem State.capture_lines (s : State) (colour key : Nat) : SameButLines s (s.capture colour key) := by
  unfold State.capture
  split
  · exact .refl s
  · split
    · split
      · exact (SameButLines.refl s).upHub _
      · exact .refl s
    · split
      · exact .refl s
      · dsimp only
        split
        · exact (SameButLines.refl s).upHub _
        · exact (((SameButLines.refl s).upHub _).poke _ _ _).poke _ _ _

theorem State.capture_spec (s : State) (colour key : Nat) : Captured s (s.capture colour key) colour := by
  refine ⟨(s.capture_lines colour key).units, (s.capture_lines colour key).wf, ?_⟩
  intro h
  have e : s.hub.replays.find? (fun r => r.colour == colour && r.run) = none := by
    rw [List.find?_eq_none]
    intro r hm hp
    have : s.replaying colour = true := List.any_eq_true.2 ⟨r, hm, hp⟩
    rw [h] at this
    exact absurd this (by simp)
  unfold State.capture
  rw [e]

theorem Captured.me {s t : State} {c : Nat} (h : Captured s t c) : t.me = s.me := by rw [h.units]; rfl
theorem Captured.cores {s t : State} {c : Nat} (h : Captured s t c) (j : Nat) : t.core j = s.core j := by rw [h.units]; rfl
theorem Captured.cur {s t : State} {c : Nat} (h : Captured s t c) : t.cur = s.cur := by rw [h.units]
theorem Captured.agenda {s t : State} {c : Nat} (h : Captured s t c) : t.agenda = s.agenda := by rw [h.units]
theorem Captured.heldSlot {s t : State} {c : Nat} (h : Captured s t c) (key n : Nat) : t.heldSlot key n = s.heldSlot key n := by
  unfold State.heldSlot; simp only [h.cores]
theorem Captured.heldWrites {s t : State} {c : Nat} (h : Captured s t c) : t.heldWrites = s.heldWrites := by rw [h.units]

/-- The core that stores last to a line is noted, and nothing else (R389). -/
theorem State.mark_units (s : State) (c key n : Nat) (cached : Bool) :
    s.mark c key n cached = { s with dirtyBy := (s.mark c key n cached).dirtyBy } := by
  unfold State.mark
  split <;> rfl

/-- What a store does (R68, R118): its bytes are placed at their key, or it waits while a ring slot is held over them. -/
theorem State.storeAt_spec (s : State) (c key : Nat) (bs : List Byte) (cached ack : Bool) :
    let t := s.storeAt c key bs cached ack
    let u := s.capture (s.core c).colour key
    (s.heldSlot key bs.length = false → t.mem = u.mem.writeBytes key bs ∧ t.heldWrites = s.heldWrites) ∧
    (s.heldSlot key bs.length = true → t.mem = u.mem ∧ t.heldWrites = s.heldWrites ++ [⟨c, ack, key, bs, none⟩]) ∧
    t.hub = u.hub ∧ t.cores = s.cores ∧
    t = { s with
      mem := t.mem, under := t.under, dirtyBy := t.dirtyBy, poison := t.poison, damage := t.damage, hub := t.hub
      heldWrites := t.heldWrites } := by
  intro t u
  have cp : Captured s u (s.core c).colour := s.capture_spec (s.core c).colour key
  have mk := u.mark_units c key bs.length cached
  have hs : (u.mark c key bs.length cached).heldSlot key bs.length = s.heldSlot key bs.length := by
    rw [mk]; exact cp.heldSlot _ _
  cases hh : s.heldSlot key bs.length with
  | false =>
    have e : t = (u.mark c key bs.length cached).poke key bs cached := by
      show State.store _ _ _ _ _ _ = _
      unfold State.store
      rw [hs, hh]
      rfl
    rw [mk, State.poke_units] at e
    rw [cp.units] at e
    refine ⟨fun _ => ⟨?_, ?_⟩, by simp, ?_, ?_, ?_⟩
    · rw [e, cp.units]; rfl
    · rw [e]
    · rw [e]
    · rw [e]
    · rw [e]
  | true =>
    have e : t = { u.mark c key bs.length cached with
        heldWrites := (u.mark c key bs.length cached).heldWrites ++ [⟨c, ack, key, bs, none⟩] } := by
      show State.store _ _ _ _ _ _ = _
      unfold State.store
      rw [hs, hh]
      rfl
    rw [mk] at e
    refine ⟨by simp, fun _ => ⟨by rw [e], ?_⟩, by rw [e], ?_, ?_⟩
    · rw [e]; rw [← cp.heldWrites]
    · rw [e]; show u.cores = _; rw [cp.units]
    · have : t = { u with dirtyBy := t.dirtyBy, heldWrites := t.heldWrites } := by rw [e]
      rw [this, cp.units]

end Sys2Proof.Machine
end

