-- ==== Sys2Proof/Laws/Words.lean ====
section
/-! SUPPORT. The loop of R180 reads back the words that the encoder writes. -/

namespace Sys2Proof.Laws

/-- The parts that the loop of R180 has when it has read the lead words `done`, with `bs` of the immediate bytes. -/
def partRead (p : Parts) (done : List Pfx) (bs : List Byte) : Parts :=
  { s := false, shape := done
    page := if done.contains .pgx then p.page else 0
    ext := if done.contains .pgx then p.ext else 0
    op := 0
    d := (if done.contains .rgx then p.d.extractLsb' 4 2 else 0) ++ (0 : BitVec 4)
    a := (if done.contains .rgx then p.a.extractLsb' 4 2 else 0) ++ (0 : BitVec 4)
    t := (if done.contains .rgx then p.t.extractLsb' 4 2 else 0) ++ (if done.contains .trx then p.t.extractLsb' 0 4 else 0)
    f := 0
    ord := if done.contains .trx then p.ord else 0
    sc := if done.contains .trx then p.sc else 0
    imx := bs }

theorem hi_append (x : BitVec 2) (y : BitVec 4) : (x ++ y).extractLsb' 4 2 = x := by revert x y; decide
theorem lo_append (x : BitVec 2) (y : BitVec 4) : (x ++ y).extractLsb' 0 4 = y := by revert x y; decide
theorem hi_lo (x : BitVec 6) : x.extractLsb' 4 2 ++ x.extractLsb' 0 4 = x := by revert x; decide
theorem small_hi {x : BitVec 6} (h : x.toNat < 16) : (0 : BitVec 2) ++ x.extractLsb' 0 4 = x := by revert x h; decide

theorem leadWord_fields (k : BitVec 2) (b : Byte) : (leadWord k b).extractLsb' 10 5 = 31 ∧ (leadWord k b).getLsbD 15 = false ∧
    (leadWord k b).extractLsb' 8 2 = k ∧ (leadWord k b).extractLsb' 0 8 = b := by
  revert k b; decide +kernel

theorem rgxByte_fields (p : Parts) : p.rgxByte.extractLsb' 0 2 = 0 ∧ p.rgxByte.extractLsb' 6 2 = p.d.extractLsb' 4 2 ∧
    p.rgxByte.extractLsb' 4 2 = p.a.extractLsb' 4 2 ∧ p.rgxByte.extractLsb' 2 2 = p.t.extractLsb' 4 2 := by
  unfold Parts.rgxByte
  generalize p.d.extractLsb' 4 2 = x; generalize p.a.extractLsb' 4 2 = y; generalize p.t.extractLsb' 4 2 = z
  revert x y z; decide +kernel

theorem pgxByte_fields (p : Parts) : p.pgxByte.extractLsb' 0 3 = p.page ∧ p.pgxByte.extractLsb' 3 5 = p.ext := by
  unfold Parts.pgxByte
  generalize p.page = x; generalize p.ext = y
  revert x y; decide +kernel

theorem trxByte_fields (p : Parts) : p.trxByte.extractLsb' 4 4 = p.t.extractLsb' 0 4 ∧ p.trxByte.extractLsb' 2 2 = p.ord ∧
    p.trxByte.extractLsb' 0 2 = p.sc := by
  unfold Parts.trxByte
  generalize p.t.extractLsb' 0 4 = x; generalize p.ord = y; generalize p.sc = z
  revert x y z; decide +kernel

theorem baseWord_fields (p : Parts) : p.baseWord.getLsbD 15 = p.s ∧ p.baseWord.extractLsb' 10 5 = p.op ∧
    p.baseWord.extractLsb' 6 4 = p.d.extractLsb' 0 4 ∧ p.baseWord.extractLsb' 2 4 = p.a.extractLsb' 0 4 ∧
    p.baseWord.extractLsb' 0 2 = p.f := by
  unfold Parts.baseWord
  generalize p.d.extractLsb' 0 4 = d; generalize p.a.extractLsb' 0 4 = a
  refine ⟨?_, ?_, ?_, ?_, ?_⟩
  · simp only [BitVec.getLsbD_append]; simp
  all_goals
    apply BitVec.eq_of_getElem_eq
    intro i hi
    rw [BitVec.getElem_extractLsb']
    simp only [BitVec.getLsbD_append]
    interval_cases i <;> simp

theorem lead_imx (p : Parts) (b : Byte) (h : p.shape.length < 4) : p.lead (leadWord 0 b) = .ok (p.withImx b) := by
  obtain ⟨_, h15, hk, hb⟩ := leadWord_fields 0 b
  unfold Parts.lead
  simp only [h15, hk, hb, Nat.ne_of_lt h]
  rfl

theorem lead_rgx (p q : Parts) (h : p.shape.length < 4) (n : p.shape.contains .rgx = false) :
    p.lead (leadWord 1 q.rgxByte) = .ok (p.withRgx q.rgxByte) := by
  obtain ⟨_, h15, hk, hb⟩ := leadWord_fields 1 q.rgxByte
  unfold Parts.lead
  simp only [h15, hk, hb, Nat.ne_of_lt h, n, (rgxByte_fields q).1]
  rfl

theorem lead_pgx (p q : Parts) (h : p.shape.length < 4) (n : p.shape.contains .pgx = false) (z : q.page ≠ 0) :
    p.lead (leadWord 2 q.pgxByte) = .ok (p.withPgx q.pgxByte) := by
  obtain ⟨_, h15, hk, hb⟩ := leadWord_fields 2 q.pgxByte
  unfold Parts.lead
  simp only [h15, hk, hb, Nat.ne_of_lt h, n, (pgxByte_fields q).1, beq_eq_false_iff_ne.mpr z]
  rfl

theorem lead_trx (p q : Parts) (h : p.shape.length < 4) (n : p.shape.contains .trx = false) :
    p.lead (leadWord 3 q.trxByte) = .ok (p.withTrx q.trxByte) := by
  obtain ⟨_, h15, hk, hb⟩ := leadWord_fields 3 q.trxByte
  unfold Parts.lead
  simp only [h15, hk, hb, Nat.ne_of_lt h, n]
  rfl

theorem contains_snoc (l : List Pfx) (x y : Pfx) : (l ++ [x]).contains y = (l.contains y || y == x) := by
  simp only [List.contains_append]
  congr 1
  cases x <;> cases y <;> rfl

theorem read_imx (p : Parts) (done : List Pfx) (bs : List Byte) (b : Byte) :
    (partRead p done bs).withImx b = partRead p (done ++ [.imx]) (bs ++ [b]) := by
  simp only [Parts.withImx, partRead, contains_snoc]
  simp

theorem read_rgx (p : Parts) (done : List Pfx) (bs : List Byte) :
    (partRead p done bs).withRgx p.rgxByte = partRead p (done ++ [.rgx]) bs := by
  obtain ⟨_, h1, h2, h3⟩ := rgxByte_fields p
  simp only [Parts.withRgx, partRead, contains_snoc, h1, h2, h3, lo_append]
  simp

theorem read_pgx (p : Parts) (done : List Pfx) (bs : List Byte) :
    (partRead p done bs).withPgx p.pgxByte = partRead p (done ++ [.pgx]) bs := by
  obtain ⟨h1, h2⟩ := pgxByte_fields p
  simp only [Parts.withPgx, partRead, contains_snoc, h1, h2]
  simp

theorem read_trx (p : Parts) (done : List Pfx) (bs : List Byte) :
    (partRead p done bs).withTrx p.trxByte = partRead p (done ++ [.trx]) bs := by
  obtain ⟨h1, h2, h3⟩ := trxByte_fields p
  simp only [Parts.withTrx, partRead, contains_snoc, h1, h2, h3, hi_append]
  simp

/-- The base word ends the loop with all the parts (R173, R177, R180). -/
theorem read_base (p : Parts) (rest : List W16) (h : p.fits = true) :
    parse (partRead p p.shape p.imx) (p.baseWord :: rest) = .ok p := by
  obtain ⟨h15, hop, hd, ha, hf⟩ := baseWord_fields p
  simp only [Parts.fits, Bool.and_eq_true] at h
  obtain ⟨⟨⟨⟨⟨f1, f2⟩, f3⟩, f4⟩, f5⟩, f6⟩ := h
  have n31 : (p.op == 31) = false := by simpa using f6
  rw [parse, hop, n31]
  have e : (partRead p p.shape p.imx).withBase p.baseWord = p := by
    simp only [Parts.withBase, partRead, h15, hop, hd, ha, hf, hi_append]
    have reg : ∀ x : BitVec 6, (p.shape.contains .rgx = false → x.toNat < 16) →
        (if p.shape.contains .rgx = true then x.extractLsb' 4 2 else 0) ++ x.extractLsb' 0 4 = x := by
      intro x hx
      split
      · exact hi_lo x
      · exact small_hi (hx (by rename_i n; exact Bool.eq_false_iff.mpr n))
    simp only [Bool.or_eq_true, Bool.and_eq_true, decide_eq_true_eq] at f3
    have r1 := reg p.d (fun n => by rw [n] at f3; simp at f3; exact f3.1.1)
    have r2 := reg p.a (fun n => by rw [n] at f3; simp at f3; exact f3.1.2)
    have r3 : (if p.shape.contains .rgx = true then p.t.extractLsb' 4 2 else 0) ++
        (if p.shape.contains .trx = true then p.t.extractLsb' 0 4 else 0) = p.t := by
      cases ht : p.shape.contains .trx
      · rw [ht] at f4
        simp at f4
        rw [f4.1.1]
        split <;> rfl
      · exact reg p.t (fun n => by rw [n] at f3; simp at f3; exact f3.2)
    rw [r1, r2, r3]
    have pg : (if p.shape.contains .pgx = true then p.page else 0) = p.page := by
      split
      · rfl
      · have : p.shape.contains .pgx = false := by rename_i n; exact Bool.eq_false_iff.mpr n
        rw [this] at f1
        have z : p.page = 0 := by simpa using f1
        exact z.symm
    have ex : (if p.shape.contains .pgx = true then p.ext else 0) = p.ext := by
      split
      · rfl
      · have : p.shape.contains .pgx = false := by rename_i n; exact Bool.eq_false_iff.mpr n
        rw [this] at f1
        have z : p.page = 0 := by simpa using f1
        rw [z] at f2
        have z2 : p.ext = 0 := by simpa using f2
        exact z2.symm
    have tr : p.shape.contains .trx = false → p.ord = 0 ∧ p.sc = 0 := by
      intro n
      rw [n] at f4
      simp at f4
      exact ⟨f4.1.2, f4.2⟩
    have orr : (if p.shape.contains .trx = true then p.ord else 0) = p.ord := by
      split
      · rfl
      · exact (tr (by rename_i n; exact Bool.eq_false_iff.mpr n)).1.symm
    have scr : (if p.shape.contains .trx = true then p.sc else 0) = p.sc := by
      split
      · rfl
      · exact (tr (by rename_i n; exact Bool.eq_false_iff.mpr n)).2.symm
    rw [pg, ex, orr, scr]
  have stray : (!p.shape.contains .trx && p.t != 0) = false := by
    cases ht : p.shape.contains .trx
    · rw [ht] at f4
      simp at f4
      simp [f4.1.1]
    · rfl
  simp only [e, stray]
  rfl

/-- The loop of R180 reads what `leadWords` and `baseWord` write, whatever follows. -/
theorem parse_rest (p : Parts) (rest : List W16) (h : p.fits = true) (ok : p.head.ok = true) (todo : List Pfx) :
    ∀ (done : List Pfx) (bs left : List Byte), p.shape = done ++ todo → p.imx = bs ++ left → left.length = todo.count .imx →
      parse (partRead p done bs) (p.leadWords todo left ++ p.baseWord :: rest) = .ok p := by
  simp only [Head.ok, Parts.head, Bool.and_eq_true] at ok
  obtain ⟨⟨⟨k4, kr⟩, kp⟩, kt⟩ := ok
  replace k4 := of_decide_eq_true k4
  replace kr := of_decide_eq_true kr
  replace kp := of_decide_eq_true kp
  replace kt := of_decide_eq_true kt
  induction todo with
  | nil =>
    intro done bs left hs hi hl
    have : left = [] := by simpa using hl
    rw [this, List.append_nil] at hi
    rw [List.append_nil] at hs
    rw [← hs, ← hi]
    exact read_base p rest h
  | cons x todo ih =>
    intro done bs left hs hi hl
    have lt : done.length < 4 := by
      have e := congrArg List.length hs
      simp only [List.length_append, List.length_cons] at e
      omega
    have once : ∀ y, y = x → p.shape.count y ≤ 1 → done.contains y = false := by
      intro y hy hc
      rw [hs, hy, List.count_append, List.count_cons_self] at hc
      have z : done.count x = 0 := by omega
      rw [hy]
      simpa using List.count_eq_zero.mp z
    have step : ∀ w q b, w.extractLsb' 10 5 = (31 : BitVec 5) → (partRead p done bs).lead w = .ok q →
        parse (partRead p done bs) (w :: b) = parse q b := by
      intro w q b hw hq
      rw [parse, hw, hq]
      rfl
    have hs' : p.shape = (done ++ [x]) ++ todo := by simp [hs]
    cases x with
    | imx =>
      obtain ⟨b, left, rfl⟩ : ∃ b l, left = b :: l := by
        cases left with
        | nil => simp at hl
        | cons b l => exact ⟨b, l, rfl⟩
      rw [Parts.leadWords, List.cons_append, step _ _ _ (leadWord_fields 0 b).1 (lead_imx _ b lt), read_imx]
      exact ih _ _ _ hs' (by simp [hi]) (by simpa using hl)
    | rgx =>
      rw [Parts.leadWords, List.cons_append, step _ _ _ (leadWord_fields 1 p.rgxByte).1 (lead_rgx _ p lt (once _ rfl kr)), read_rgx]
      exact ih _ _ _ hs' hi (by simpa using hl)
    | pgx =>
      have z : p.page ≠ 0 := by
        simp only [Parts.fits, Bool.and_eq_true] at h
        have c : p.shape.contains .pgx = true := by rw [hs]; simp
        have := h.1.1.1.1.1
        rw [c] at this
        simpa using this
      rw [Parts.leadWords, List.cons_append, step _ _ _ (leadWord_fields 2 p.pgxByte).1 (lead_pgx _ p lt (once _ rfl kp) z), read_pgx]
      exact ih _ _ _ hs' hi (by simpa using hl)
    | trx =>
      rw [Parts.leadWords, List.cons_append, step _ _ _ (leadWord_fields 3 p.trxByte).1 (lead_trx _ p lt (once _ rfl kt)), read_trx]
      exact ih _ _ _ hs' hi (by simpa using hl)

/-- The words of parts that fit read back as the parts, whatever follows (R180). -/
theorem parse_words (p : Parts) (rest : List W16) (h : p.fits = true) (ok : p.head.ok = true) :
    parse Parts.empty (p.words ++ rest) = .ok p := by
  have n : p.imx.length = p.shape.count .imx := by
    simp only [Parts.fits, Bool.and_eq_true] at h
    simpa using h.1.2
  have := parse_rest p rest h ok p.shape [] [] p.imx rfl rfl n
  have e : partRead p [] [] = Parts.empty := by simp [partRead, Parts.empty, Parts.base]
  rw [e] at this
  rw [Parts.words, List.append_assoc]
  exact this

end Sys2Proof.Laws
end

