-- ==== Sys2Proof/Tests/Slice0.lean ====
section
/-! SUPPORT. The package's own tests: encodings written out by hand, ill-formed terms, single steps on small states, and for
each statement with hypotheses a witness that something meets them. -/

set_option Elab.async false
namespace Sys2Proof.Tests

open Sys2Proof.Machine

/-! ### Encodings

The bit patterns are the manual's worked encodings, or written out from its encoding tables. -/

/-- "Encodings worked through" (07): 80 7D 09 7F 18 7C 17 BA. -/
theorem test_decode_ld : DecodesTo [0x7D80, 0x7F09, 0x7C18, 0xBA17] (.ldD ⟨true, [.rgx, .trx, .imx]⟩ 40 5 24 ⟨2, 1⟩) := by rfl
/-- "Encodings worked through": `li x4, -300`. -/
theorem test_decode_li : DecodesTo [0x7CFB, 0x2514] (.li ⟨false, [.imx]⟩ 4 (BitVec.ofInt 64 (-300))) := by rfl
/-- "Encodings worked through": `rol x4, x5, x6`. -/
theorem test_decode_rol : DecodesTo [0x7E01, 0x7F60, 0x0114] (.rol ⟨false, [.pgx, .trx]⟩ 4 5 (some 6)) := by rfl
/-- The worked encoding after R203: `sub x4, x5, x6`. -/
theorem test_decode_sub : DecodesTo [0x7F60, 0x0915] (.sub ⟨false, [.trx]⟩ 4 5 (some 6)) := by rfl
/-- The worked encoding after R207: `addi x3, -1`. -/
theorem test_decode_addi : DecodesTo [0x20FF] (.addi ⟨false, []⟩ 3 (BitVec.ofInt 64 (-1))) := by rfl
/-- The worked encoding after R213: `st.d [x5+8], x4`. -/
theorem test_decode_st : DecodesTo [0x7C08, 0x4117] (.stD ⟨false, [.imx]⟩ 4 5 8 ⟨0, 0⟩) := by rfl
/-- The worked encoding after R240: `vfadd.rz v4, v3, k2`. -/
theorem test_decode_vfadd : DecodesTo [0x7E0A, 0x7F20, 0x110C] (.vfadd ⟨false, [.pgx, .trx]⟩ 4 3 2 1) := by rfl
/-- The worked encoding after R261: `tmma.h.z a1, ring0, ring1, x20`. -/
theorem test_decode_tmma : DecodesTo [0x7E03, 0x7D04, 0x7F40, 0x0905]
    (.tmmaH ⟨false, [.pgx, .rgx, .trx]⟩ 1 0 1 true false (some 20)) := by rfl
/-- The worked encoding after R225: `amo.cas.w.acqrel.die x4, [x9+16], x5`. -/
theorem test_decode_amo : DecodesTo [0x7E0E, 0x7F59, 0x7C10, 0x0927]
    (.amoCas ⟨false, [.pgx, .trx, .imx]⟩ 4 9 5 16 true ⟨2, 1⟩) := by rfl
/-- The worked encoding after R228: `msg x20, x4, x5`. -/
theorem test_decode_msg : DecodesTo [0x7E06, 0x7D40, 0x7F50, 0x1110] (.msg ⟨false, [.pgx, .rgx, .trx]⟩ 20 4 5) := by rfl
/-- R215: TLD.64, OP 17, F 2. -/
theorem test_decode_tld : DecodesTo [0b0100010001001010] (.tld64 ⟨false, []⟩ 1 2 0 0 ⟨0, 0⟩) := by rfl
/-- R219: BNZ, OP 22, offset −2 in I6. -/
theorem test_decode_bnz : DecodesTo [0b0101100001111110] (.bnz ⟨false, []⟩ 1 (BitVec.ofInt 64 (-2))) := by rfl
/-- R114: FENCE, OP 27, C 6, K 3. -/
theorem test_decode_fence : DecodesTo [0b0110110110001100] (.fence ⟨false, []⟩ 6 3) := by rfl
/-- R277: PPASS, page 4, OP 3, F 0. -/
theorem test_decode_ppass : DecodesTo [0b0111111000000100, 0b0000110000001000] (.ppass ⟨false, [.pgx]⟩ 2) := by rfl
/-- R286: WSPLICE, page 5, OP 4, F 2. -/
theorem test_decode_wsplice : DecodesTo [0b0111111000000101, 0b0001000011010010] (.wsplice ⟨false, [.pgx]⟩ 3 4) := by rfl
/-- R291: CPGO, page 6, OP 6, F 1. -/
theorem test_decode_cpgo : DecodesTo [0b0111111000000110, 0b0001100001000001] (.cpgo ⟨false, [.pgx]⟩ 1) := by rfl
/-- R303: XBSET, page 7, OP 2, F 2. -/
theorem test_decode_xbset : DecodesTo [0b0111111000000111, 0b0000100000001010] (.xbset ⟨false, [.pgx]⟩ 2) := by rfl
/-- "Encodings worked through": with `rgx 0x80` before `vfadd v4, v3` the D field names v36, which is ILLEGAL. -/
theorem test_decode_highVector : DecodesTo [0x7D40, 0x7E02, 0x110C] (.vfadd ⟨false, [.rgx, .pgx]⟩ 20 3 0 0) ∧
    decodeWords [0x7D80, 0x7E02, 0x110C] = .error .badInstruction := by exact ⟨rfl, rfl⟩
/-- The table's numbering of bits: the lead word of a 32-bit row stands above its base word (log 5). -/
theorem test_tableWord : decodeTableWord 32 0x7E010400 = some (.ext ⟨false, [.pgx]⟩ 0 0 0 0) ∧
    decodeTableWord 16 0x1C00 = some (.div ⟨false, []⟩ 0 0 none) := by exact ⟨rfl, rfl⟩
/-- R174, R180: the encoder lays the words out as the manual does. -/
theorem test_encode : encode (.ldD ⟨true, [.rgx, .trx, .imx]⟩ 40 5 24 ⟨2, 1⟩) = [0x7D80, 0x7F09, 0x7C18, 0xBA17] ∧
    encode (.tmmaH ⟨false, [.pgx, .rgx, .trx]⟩ 1 0 1 true false (some 20)) = [0x7E03, 0x7D04, 0x7F40, 0x0905] := by
  exact ⟨rfl, rfl⟩

/-! ### Ill-formed terms: one for each check of WellFormed.lean -/

/-- R180: a fifth lead word, and a second RGX, PGX or TRX. -/
theorem test_wf_leads : (Instr.nop ⟨false, [.imx, .imx, .imx, .imx, .imx]⟩).wf = false ∧
    (Instr.nop ⟨false, [.rgx, .rgx]⟩).wf = false ∧ (Instr.rol ⟨false, [.pgx, .pgx]⟩ 1 2 none).wf = false ∧
    (Instr.add ⟨false, [.trx, .trx]⟩ 1 2 (some 3)).wf = false := by decide
/-- R105, R215, R216: a scope without a kind; sync on a ticket fetch; acqrel on TLDG. -/
theorem test_wf_order : (Instr.ldB ⟨false, [.trx]⟩ 1 2 0 ⟨0, 1⟩).wf = false ∧
    (Instr.tld8 ⟨false, [.trx]⟩ 1 2 0 0 ⟨3, 0⟩).wf = false ∧ (Instr.tldg ⟨false, [.pgx, .trx]⟩ 1 2 0 0 ⟨2, 0⟩).wf = false := by decide
/-- R114: FENCE takes no lead word, and scope 7 is none. -/
theorem test_wf_fence : (Instr.fence ⟨false, [.imx]⟩ 0 0).wf = false ∧ (Instr.fence ⟨false, []⟩ 7 0).wf = false := by decide
/-- R208: a field beyond bit 63. -/
theorem test_wf_field : (Instr.ext ⟨false, [.pgx, .imx, .imx]⟩ 1 2 1 63).wf = false ∧
    (Instr.depz ⟨false, [.pgx, .imx, .imx]⟩ 1 2 63 1).wf = false := by decide
/-- R242: a rounding code from 5 up. -/
theorem test_wf_rounding : (Instr.vfadd ⟨false, [.pgx]⟩ 1 2 0 5).wf = false ∧ (Instr.vrfadd ⟨false, [.pgx]⟩ 1 2 0 7).wf = false := by
  decide
/-- R251, R252: a BFP conversion under a mask or on a group that does not start at a multiple of 4; VCVTS to BFP. -/
theorem test_wf_convert : (Instr.vcvt ⟨false, [.pgx]⟩ 0 0 1 13 false).wf = false ∧ (Instr.vcvt ⟨false, [.pgx]⟩ 2 2 0 13 false).wf = false ∧
    (Instr.vcvt ⟨false, [.pgx]⟩ 2 2 0 13 true).wf = false ∧ (Instr.vcvts ⟨false, [.pgx]⟩ 1 2 0 13).wf = false := by decide
/-- R253, R254: quantising to a format that is not affine, an odd pair, a pack width of 3, a piece that is not there. -/
theorem test_wf_quantise : (Instr.vqnt ⟨false, [.pgx]⟩ 0 2 0 0).wf = false ∧ (Instr.vqnt ⟨false, [.pgx]⟩ 1 2 0 10).wf = false ∧
    (Instr.vdqnt ⟨false, [.pgx]⟩ 1 2 0 10).wf = false ∧ (Instr.vdqnt ⟨false, [.pgx]⟩ 2 2 0 0).wf = false ∧
    (Instr.vscal ⟨false, [.pgx]⟩ 2 1 0 10).wf = false ∧ (Instr.vpack ⟨false, [.pgx]⟩ 1 2 3 0).wf = false ∧
    (Instr.vpack ⟨false, [.pgx]⟩ 1 2 0 2).wf = false ∧ (Instr.vunpk ⟨false, [.pgx]⟩ 1 2 1 4).wf = false := by decide
/-- R291: there is no control register 7. -/
theorem test_wf_cpset : (Instr.cpset ⟨false, [.pgx]⟩ 1 7).wf = false := by decide
/-- Operands that their lead words do not carry. -/
theorem test_fits : (Instr.add ⟨false, []⟩ 16 1 none).fits = false ∧ (Instr.add ⟨false, []⟩ 1 1 (some 1)).fits = false ∧
    (Instr.addi ⟨false, []⟩ 1 32).fits = false ∧ (Instr.addi ⟨false, [.imx]⟩ 1 32).fits = true := by exact ⟨rfl, rfl, rfl, rfl⟩

/-! ### Single steps, with the results that the manual works out -/

/-- A marker-free instruction without lead words. -/
abbrev h0 : Head := ⟨false, []⟩
/-- Core 0 runs a job of its own at level 0, user privilege, 256 bytes of code. -/
noncomputable def lab : State := State.reset.withFetchWord 16 0
/-- As `lab`, with registers set. -/
noncomputable def labX (rs : List (XReg × Word)) : State := rs.foldl (fun s r => s.setX r.1 r.2) lab
/-- As `lab`, with vector registers set. -/
noncomputable def labV (rs : List (VReg × List W32)) : State :=
  rs.foldl (fun s r => s.setV r.1 (Vector.ofFn (fun (j : Fin 8) => r.2[j.val]?.getD 0))) lab
/-- What an instruction leaves of something, if it answers a next state. -/
noncomputable def after {α : Type} (i : Instr) (s : State) (f : State → α) : Option α :=
  match exec i s with
  | .next t => some (f t)
  | _ => none

/-- R205: the most negative number by −1, and by 0. -/
theorem test_div_wraps : after (.div h0 1 2 none) (labX [(1, 0x8000000000000000), (2, 0xFFFFFFFFFFFFFFFF)]) (fun t =>
      t.agenda.map (·.ev)) = some [.resultLand 0 0 0 0 (.regs [(1, 0x8000000000000000)])] ∧
    after (.rem h0 1 2 none) (labX [(1, 7)]) (fun t => t.agenda.map (·.ev)) = some [.resultLand 0 0 0 0 (.regs [(1, 7)])] := by
  exact ⟨rfl, rfl⟩
/-- R204: a saturating sum stops at 2^63 − 1. -/
theorem test_adds_saturates : after (.adds h0 1 2 none) (labX [(1, 0x7FFFFFFFFFFFFFFF), (2, 1)]) (fun t => t.getX 1) =
    some 0x7FFFFFFFFFFFFFFF := by rfl
/-- R208: a field of 4 bits from bit 4, sign-extended; the source is the destination. -/
theorem test_ext_sign : after (.ext h0 1 1 4 3) (labX [(1, 0x80)]) (fun t => t.getX 1) = some 0xFFFFFFFFFFFFFFF8 := by rfl
/-- The worked example after R249: eight lanes whose sum in the fixed order is 5.0. -/
theorem test_vrfadd : after (.vrfadd h0 1 0 0 0)
    (labV [(0, [0x4B800000, 0x3F800000, 0x3F800000, 0x3F800000, 0x3F800000, 0x3F800000, 0x3F800000, 0xCB800000])]) (fun t => t.getX 1) =
    some 0x40A00000 := by rfl
/-- The worked example after R139: 1 + 2^−10 to BF16 under two random words. -/
theorem test_vcvts : after (.vcvts h0 1 2 0 1) (labV [(1, [0x12345678, 0x0000F001]), (2, [0x3F802000, 0x3F802000])]) (fun t =>
    ((t.getV 1)[0], (t.getV 1)[1])) = some (0x3F80, 0x3F81) := by rfl
/-- R221: an odd target raises ALIGN, with SUP.VEC 0 the job ends with it. -/
theorem test_jr_odd : after (.jr h0 1) (labX [(1, 3)]) (fun t => (t.job? 1).bind (·.ending)) = some (some ⟨6, Code.align, 0⟩) := by rfl
/-- R219: LOOP ends at 1. -/
theorem test_loop_ends : after (.loop h0 1 (BitVec.ofInt 64 (-2))) (labX [(1, 1)]) (fun t => (t.getX 1, t.pc)) = some (0, 2) := by rfl
/-- R213: a store is little-endian, and a load of its upper byte sign-extends. -/
theorem test_store_load : after (.stH h0 1 2 0 ⟨0, 0⟩) (labX [(1, 0x80FF), (2, 0xFF00000000000100)]) (fun t =>
      (t.mem.read (padKey 0 256), t.mem.read (padKey 0 257), after (.ldB h0 3 2 1 ⟨0, 0⟩) t (fun u => u.getX 3))) =
    some (0xFF, 0x80, some 0xFFFFFFFFFFFFFF80) := by decide +kernel
/-- R81: a store into the code traps XO_ACCESS and writes nothing. -/
theorem test_store_code : after (.stB h0 1 2 0 ⟨0, 0⟩) (labX [(1, 1), (2, 0xFF000000000000FF)]) (fun t =>
    ((t.job? 1).bind (·.ending), t.mem.read (padKey 0 255))) = some (some ⟨6, Code.xoAccess, 0⟩, 0) := by rfl
/-- R17: core (5, 2, 11), which is core 347, lies on die 3 and at router (11, 10). -/
theorem test_core_place : clusterOf 347 = 21 ∧ dieOf 347 = 3 ∧ routerOf 347 = (11, 10) := by decide


/-! ### Witnesses: states and operands that meet the hypotheses of each statement, clause by clause -/

/-- An address of the own scratchpad, the first behind the code. -/
abbrev pad : Word := 0xFF00000000000100
/-- As `lab`, privileged. -/
noncomputable def labSup : State := lab.upLev (fun v => { v with sup := true })
/-- As `lab`, with a trap handler of the supervisor inside the code. -/
noncomputable def labVec : State := lab.upMe (fun k => { k with svec := 2, uvec := 4, ovec := 6 })
/-- As `lab`, with a translation of the first page in the TLB. -/
noncomputable def labTlb : State :=
  lab.upCluster 0 (fun k => { k with tlb := [⟨0, 0, none, 0x10000, 0, false, true, true, true⟩] })
/-- As `lab`, inside a twin activation. -/
noncomputable def labTwin : State := lab.upMe (fun k => { k with twin := some ⟨0, 0, 0⟩, inact := true })
/-- As `lab`, with a full list of outstanding results. -/
noncomputable def labFull : State := lab.upLev (fun v => { v with out := List.replicate 16 ⟨0, 1, false⟩ })
/-- A level that handles a delegated trap, and one that a supervisor does. -/
noncomputable def labDeleg : State := labVec.upLev (fun v => { v with tcause := 0x500020 })
/-- As `labVec`, with FP_EXC delegated. -/
noncomputable def labFp : State := labVec.upMe (fun k => { k with delegFp := true })
/-- A supervisor's handler, ACTIVE. -/
noncomputable def labHandler : State := (labVec.upLev (fun v => { v with tcause := 0x400004, sup := true }))

theorem witness_DivisionResults : RoomX lab 1 ∧ ¬RoomX labFull 1 := by
  constructor
  · right; decide +kernel
  · unfold RoomX; decide +kernel

theorem witness_BitFieldHashAndCrcResults : ((0 : BitVec 6).toNat + ((63 : BitVec 6).toNat + 1) ≤ 64) ∧
    (64 < (1 : BitVec 6).toNat + ((63 : BitVec 6).toNat + 1)) := by decide

theorem witness_NopsTicksAndFences :
    (lab.lev.out = [] ∧ lab.me.stores = 0 ∧ lab.atomicAhead lab.cur = false ∧ lab.me.dsOut = [] ∧ lab.drained lab.cur 6 = true) ∧
    labFull.lev.out ≠ [] := by decide +kernel

theorem witness_LoadResults : lab.orderHold ⟨0, 0⟩ false = false ∧
    lab.plan pad 8 false = .go (padKey 0 256) true true false ∧
    labTlb.plan 0x8 8 false = .go 0x10008 false true false ∧ labTlb.orderHold ⟨3, 2⟩ false = false ∧ RoomX labTlb 0 := by
  refine ⟨?_, ?_, ?_, ?_, Or.inl rfl⟩ <;> decide +kernel

theorem witness_StoreResults : lab.orderHold ⟨2, 3⟩ true = false ∧ lab.twinStore pad = false ∧ lab.mem.wf = true ∧
    lab.plan pad 8 true = .go (padKey 0 256) true true false ∧
    labTlb.plan 0x7FF8 8 true = .go 0x17FF8 false true false := by decide +kernel

theorem witness_AccessChecksAtIssue :
    ((0x0100000000000000 : Word).toNat / 2 ^ 56 ≠ 0 ∧ (0x0100000000000000 : Word).toNat / 2 ^ 56 ≠ 0xFF) ∧
    placeOf lab.cur 0xFF00000000040000 = .bad Code.addrWin ∧
    (placeOf lab.cur 0xFF00000000000101 = .own 257 ∧ (0xFF00000000000101 : Word).toNat % 2 ≠ 0) ∧
    (placeOf lab.cur 0xFF000000000000F8 = .own 248 ∧ 248 < 256 * lab.me.xb.toNat) ∧
    placeOf lab.cur 0xFF01100000000001 = .remote 1 1 ∧ placeOf lab.cur 0xFF03000000000001 = .lane 1 ∧
    placeOf lab.cur 0x1 = .trans ∧ placeOf lab.cur 0xFF05000000000004 = .acc 4 ∧
    (lab.orderHold ⟨0, 0⟩ true = false ∧ lab.plan 0xFF05000000000004 4 true = .trap Code.addrWin 0xFF05000000000004 ∧
      lab.twinStore 0xFF05000000000004 = false) ∧
    lab.plan 0xFF000000000000FF 1 false = .trap Code.xoAccess 0xFF000000000000FF := by decide +kernel

theorem witness_AtomicsAreSent : lab.orderHold ⟨1, 0⟩ true = false ∧ lab.inTwin = false ∧
    lab.plan pad 8 true ⟨false, false, false⟩ = .go (padKey 0 256) true true false ∧ lab.badStripe (padKey 0 256) 8 = none ∧
    RoomX lab 4 := by
  refine ⟨?_, ?_, ?_, ?_, Or.inr ?_⟩ <;> decide +kernel

theorem witness_AtomicsPerform : lab.mem.wf = true ∧ lab.damage = [] ∧ lab.fencedKey 0 (padKey 0 256) = false ∧
    lab.poisoned (padKey 0 256) 8 = false ∧ lab.heldSlot (padKey 0 256) 8 = false ∧ lab.replaying (lab.core 0).colour = false := by
  decide +kernel

theorem witness_ResultsLand : ((labFull.core 0).lv[(0 : Fin 4)].out.any (fun o => o.id == 0) = true) ∧
    (lab.mem.wf = true ∧ lab.heldSlot (padKey 0 256) [(1 : Byte)].length = false ∧ lab.replaying (lab.core 0).colour = false) := by
  decide +kernel

/-- As `labTlb`, with grants, and a gather list with one address in the scratchpad. -/
noncomputable def labGrant : State :=
  { (labTlb.upMe (fun k => { k with grants := [5, 9] })) with mem := lab.mem.writeBytes (padKey 0 256) [8] }

theorem witness_TicketFetches : labGrant.inTwin = false ∧ labGrant.source 0x100 = .src (.at 0x10100 0x100) false ∧
    labGrant.me.grants ≠ [] ∧ (∃ code, lab.source pad = .bad code) ∧ (∀ off, placeOf lab.cur 0x100 ≠ .own off) ∧
    placeOf labGrant.cur pad = .own 256 ∧
    labGrant.planAt labGrant.cur pad 64 64 false ⟨false, false, false⟩ = .go (padKey labGrant.cur 256) true true false ∧
    (∃ f : Word → FetchSrc, f 0 = .masked ∧ ∃ walk, labGrant.source 8 = .src (f 8) walk) ∧
    (List.range 8).map (fun j => BitVec.ofNat 64 (leVal (labGrant.readFor 0 (padKey 0 256 + 8 * j) 8))) = [8, 0, 0, 0, 0, 0, 0, 0] := by
  refine ⟨by decide +kernel, by rfl, by decide +kernel, ⟨_, rfl⟩, ?_, by decide +kernel, by decide +kernel,
    ⟨fun w => if w = 0 then .masked else .at 0x10008 8, rfl, false, rfl⟩, by decide +kernel⟩
  intro off h
  have e : placeOf lab.cur 0x100 = .trans := by decide +kernel
  rw [e] at h
  cases h

theorem witness_RedeemsAreSent : lab.inTwin = false ∧ lab.roomFor = true ∧ placeOf lab.cur pad = .own 256 ∧ 256 % 8 = 0 ∧
    lab.me.codeEnd ≤ 256 ∧ 256 + 8 * (tkWords 0 + 1) ≤ 2 ^ 18 ∧
    (placeOf lab.cur 0xFF0000000003FFF8 = .own 0x3FFF8 ∧ 2 ^ 18 < 0x3FFF8 + 8 * (tkWords (1 <<< 10) + 1)) := by decide +kernel

/-- A ticket entry of a slice in a given state. -/
noncomputable def labEntry (t : TkEntry) : State := lab.upSlice 0 (fun k => { k with tk := NMap.set k.tk 3 t })
/-- An entry of the job's colour. -/
def entry (st : TkState) : TkEntry := { TkEntry.initial with st := st, gen := 1, colour := 1, lease := 100, data := [7], core := 0 }
/-- A redeem with that entry's ticket. -/
noncomputable def ask (st : TkState) : Redeem := ⟨0, 0, 0, 0, 0, 1, 0, makeTicket 0 3 1 1 0 0 ((labEntry (entry st)).keyOf 1), 1, 0, 0, 0⟩

theorem witness_RedeemsAreDelivered :
    (∀ st ∈ [TkState.flight, .arrived, .pending, .spent, .expired], let s := labEntry (entry st)
      s.ticketCheck 0 (ask st) = none ∧ s.ticketFenced (ask st) = false ∧ s.damage = [] ∧ tkEntry (ask st).ticket = 3 ∧
      (s.tk 0 3).st = st ∧ (s.tk 0 3).overdue = false) ∧
    (labEntry (entry .flight)).ticketCheck 0 { ask .flight with ticket := 0 } = some Code.tktForged ∧
    (lab.mem.wf = true ∧ lab.heldSlot (padKey 0 256) (8 * [(7 : Word)].length) = false ∧ lab.replaying (lab.core 0).colour = false) := by
  decide +kernel

theorem witness_TicketQueryCodes :
    (∀ st ∈ [TkState.flight, .arrived, .pending, .spent, .expired], let s := labEntry (entry st)
      s.ticketCheck 0 (ask st) = none ∧ (s.tk 0 (tkEntry (ask st).ticket)).st = st ∧ (s.tk 0 3).overdue = false) ∧
    (labEntry (entry .flight)).ticketCheck 0 { ask .flight with ticket := 0 } = some Code.tktForged ∧
    (labEntry { entry .flight with gen := 2 }).ticketCheck 0 (ask .flight) = some Code.tktStale ∧
    (labEntry { entry .arrived with fault := 0x17 }).ticketCheck 0 (ask .arrived) = none := by decide +kernel

theorem witness_FetchesAndLeases : ((lab.slice 0).grantable 0).isSome = true ∧ lab.grantTurn 0 0 = true ∧
    ((labEntry (entry .granted)).tk 0 3).st = .granted ∧
    (let t := (labEntry { entry .flight with left := 1 }).tk 0 3
     t.overdue = false ∧ t.gen = 1 ∧ t.left = [(7 : Word)].length ∧ t.st = .flight ∧ 0 + [(7 : Word)].length ≤ t.data.length) ∧
    ((labEntry (entry .flight)).tk 0 3).frozen = false ∧ (labEntry (entry .flight)).leasesHeld 1 = false ∧
    ((labEntry { entry .flight with lease := 0 }).tk 0 3).overdue = true := by
  decide +kernel

theorem witness_ControlTransfers : ((5 : Word).getLsbD 0 = true) ∧ ((4 : Word).getLsbD 0 = false ∧ (4 : Word).toNat < lab.me.codeEnd) ∧
    (lab.me.codeEnd ≤ (256 : Word).toNat) ∧ (labX [(1, 2)]).pc.getLsbD 0 = false ∧ (labX [(2, 1)]).getX 2 = 1 ∧
    ((labX [(2, 1)]).getX 2).toNat < (2 : Word).toNat := by decide +kernel

theorem witness_TrapInstruction : labVec.lev.active = false ∧ labVec.me.svec ≠ 0 ∧ labVec.me.svec.toNat < labVec.me.codeEnd := by
  decide +kernel

theorem witness_TrapEntryAndReturn :
    (labVec.lev.active = false ∧ classOf Code.align = 0 ∧ (labVec.core 0).svec ≠ 0 ∧ (labVec.core 0).svec.toNat < (labVec.core 0).codeEnd) ∧
    (labFp.lev.sup = false ∧ (labFp.core 0).delegFp = true ∧ classOf Code.fpExc = 1) ∧
    (labDeleg.lev.active = true ∧ labDeleg.lev.deleg = true) ∧
    (labHandler.lev.active = true ∧ labHandler.lev.deleg = false ∧ labHandler.lev.cause ≠ Code.overlay ∧
      ∃ j, labHandler.job? (labHandler.core 0).colour = some j ∧ j.ending = none) ∧
    ((lab.core 0).svec = 0 ∧ ∃ j, lab.job? (lab.core 0).colour = some j ∧ j.ending = none) ∧
    (labHandler.lev.sup = true ∧ labHandler.lengthAt labHandler.cur labHandler.lev.tpc.toNat = some 2) ∧
    (lab.lev.sup = false ∧ ¬(lab.lev.active = true ∧ lab.lev.deleg = true)) ∧ (labSup.lev.sup = true ∧ labSup.lev.active = false) := by
  refine ⟨?_, ?_, ?_, ⟨?_, ?_, ?_, _, rfl, rfl⟩, ⟨?_, _, rfl, rfl⟩, ?_⟩
  all_goals decide +kernel

theorem witness_BoundaryAndWindowEvents :
    (let s := lab.upMe (fun k => { k with pend := [⟨Code.drift, 0, 0, 0, false⟩] })
     (s.core 0).pend = ⟨Code.drift, 0, 0, 0, false⟩ :: [] ∧ (s.core 0).lv[(s.core 0).lvl].active = false) ∧
    (labHandler.core 0).lv[(labHandler.core 0).lvl].active = true ∧ lab.hub.trace.getLsbD 63 = false ∧
    State.reset.job? (State.reset.core 0).colour = none ∧
    (let s := lab.upCluster 0 (fun k => { k with fp := [⟨0, 4, 1, 16⟩] })
     (s.cluster 0).fp = [⟨0, 4, 1, 16⟩] ∧ (s.core 0).status = .running ∧ (s.core 0).pend.length < 8) ∧
    (lab.cluster 0).fp = [] := by decide +kernel

theorem witness_SystemRegisters : labSup.lev.sup = true ∧ lab.lev.sup = false ∧ labSup.getX 0 + 517 = BitVec.ofNat 64 517 ∧
    (∀ n ∈ [48, 49, 50, 51, 64, 65, 66, 67, 513], ∃ w, labSup.readSys labSup.cur n = some w) ∧ RoomX lab 1 ∧
    lab.readSys lab.cur 7 = none := by
  refine ⟨?_, ?_, ?_, ?_, Or.inr ?_, ?_⟩
  case _ => decide +kernel
  case _ => decide +kernel
  case _ => decide +kernel
  case _ =>
    intro n hn
    have h : ∀ n ∈ [48, 49, 50, 51, 64, 65, 66, 67, 513], (labSup.readSys labSup.cur n).isSome = true := by decide +kernel
    exact Option.isSome_iff_exists.mp (h n hn)
  case _ => decide +kernel
  case _ => decide +kernel

/-- A job whose group table holds one group of cores 0 to 3, with a net heap: nodes, wires, paths and rules at 1 MiB, 2 MiB, 3 MiB
and 4 MiB. -/
def groupJob : Job :=
  { probeJob with
    groups := [(7, ⟨[0, 1, 2, 3], 0x40100804⟩)]
    launch := { probeJob.launch with lpb := [0, 0, 0, 0, 0, 0, 0, 0, 0x100000, 0x200000, 0x300000, 0x400000, 4, 0, 0] } }
/-- The same job with deterministic placement. -/
def detJob : Job := { groupJob with launch := { groupJob.launch with lpb := groupJob.launch.lpb.set 0 0x40 } }
/-- Core 0 runs that job, a member of its group, with the first GiB mapped. -/
noncomputable def labGroup : State :=
  ({ labX [(1, 7)] with jobs := [groupJob] }.upMe (fun k => { k with grp := 0x100000007, nstock := 1, wstock := 1 })).upCluster 0
    (fun k => { k with tlb := [⟨0, 3, none, 0, 0, false, true, true, true⟩] })

theorem witness_GroupGeometry : labGroup.me.grp.getLsbD (32 + 0) = true ∧
    labGroup.group? labGroup.me.colour (labGroup.me.grp.extractLsb' (8 * 0) 8).toNat = some ⟨[0, 1, 2, 3], 0x40100804⟩ := by
  decide +kernel

theorem witness_BarriersAndCollectives :
    (labGroup.waiting = none ∧ labGroup.group? labGroup.me.colour 7 = some ⟨[0, 1, 2, 3], 0x40100804⟩ ∧
      labGroup.me.memberOf 7 = true ∧ NMap.find? labGroup.me.arrived 7 = none ∧ labGroup.phase labGroup.cur 7 ≠ 1 ∧
      labGroup.me.memberOf 8 = false ∧ NMap.find? labGroup.me.coll 7 = none ∧ (labGroup.getX 1).toNat / 2 ^ 8 % 16 ≤ 8) ∧
    (let s := labGroup.upMe (fun k => { k with arrived := [(7, 0)] })
     (NMap.find? s.me.arrived 7).isSome = true ∧ NMap.find? (s.core 0).arrived 7 = some 0) ∧
    (let s := labGroup.upLev (fun v => { v with wait := some ⟨.barrier, v.pc, 7, 0, false, false⟩ })
     s.waiting = some ⟨.barrier, 0, 7, 0, false, false⟩ ∧ NMap.find? s.me.arrived 7 ≠ some 0) ∧
    (∀ m ∈ labGroup.membersAt 0 9, m ∈ (labGroup.groupAt 0 9).here ∨ m = 0) ∧
    ¬(∀ m ∈ labGroup.membersAt 0 7, m ∈ (labGroup.groupAt 0 7).here ∨ m = 0) ∧
    (let s := labGroup.upMe (fun k => { k with coll := [(7, 0, 0, 3)] }); NMap.find? (s.core 0).coll 7 = some ((0 : Fin 4).val, 0, 3)) := by
  decide +kernel

/-- Core 0 with a dispatch table: type 1 at level 1, type 2 sorted for the group, class 1 at level 2, tasks. -/
noncomputable def labMsg : State := labGroup.upMe (fun k => { k with
  dtab := ((List.replicate 64 0).set 1 (1 <<< 63 ||| 1 <<< 60 ||| 2)).set 2 (1 <<< 63 ||| 1 <<< 62 ||| 7 <<< 52 ||| 1 <<< 60)
    |>.set 56 (1 <<< 63 ||| 2 <<< 60) |>.set 63 (1 <<< 63), cmask := 4 })
/-- A message of a type and a class. -/
def message (typ cls : Nat) : UMsg := ⟨0, 0, 1, cls, typ, .msg, [5, 6], 0, 0, 0, []⟩

theorem witness_Messages :
    (labMsg.inTwin = false ∧ labMsg.inPartition 0 = true ∧ (labMsg.me.dtab[1]?.getD 0).getLsbD 63 = true ∧
      (labMsg.me.dtab[1]?.getD 0).extractLsb' 60 2 ≠ 0 ∧ (labMsg.me.dtab[63]?.getD 0).getLsbD 63 = true ∧
      labMsg.inPartition 16 = false ∧ labMsg.me.dtab[3]?.getD 0 = 0) ∧
    (State.reset.accepts 0 = false ∧ labMsg.accepts 0 = true ∧ (labMsg.core 0).cmask.getLsbD (message 0 2).cls = true ∧
      (labMsg.core 0).cmask.getLsbD (message 0 1).cls = false ∧ msgLevel (message 0 1) (labMsg.core 0) < 4 ∧
      msgLevel (message 1 0) (labMsg.core 0) = 1 ∧ ((labMsg.core 0).dtab[(message 2 0).typ]?.getD 0).getLsbD 62 = true ∧
      ([] : List UMsg).length + 1 < labMsg.groupSize 0 (entryGroup ((labMsg.core 0).dtab[2]?.getD 0))) := by decide +kernel

theorem witness_HandlersAndTasks :
    (let s := labMsg.upMe (fun k => { k with hq := k.hq.set 1 [message 1 0] })
     (s.core 0).lvl < (1 : Fin 4) ∧ (s.core 0).hq[(1 : Fin 4)] = [message 1 0] ∧
      (∀ j : Fin 4, (1 : Fin 4) < j → (s.core 0).hq[j] = []) ∧ s.hub.trace.getLsbD 63 = false) ∧
    (let s := labMsg.upMe (fun k => { k with lvl := 1, under := [0] }); s.me.under = 0 :: [] ∧ s.me.lvl ≠ 0) ∧ labMsg.me.lvl = 0 ∧
    (let s := labMsg.upMe (fun k => { k with tq := [{ message 0 0 with kind := .task, a := [1, 2, 3, 4] }], intask := true })
     (s.core 0).tq ≠ [] ∧ s.me.lvl = 0 ∧ s.me.intask = true) ∧ labMsg.me.intask = false := by decide +kernel

theorem witness_MaskWindowHalt : labMsg.me.hold = [] ∧
    (labMsg.me.dtab[2]?.getD 0).getLsbD 63 = true ∧ (labMsg.me.dtab[2]?.getD 0).getLsbD 62 = true ∧ (labMsg.getX 3).toNat ≤ 4096 ∧
    4096 < (4097 : Word).toNat ∧ (labMsg.me.dtab[1]?.getD 0).getLsbD 62 = false ∧
    (labMsg.me.lvl = 0 ∧ labMsg.me.inact = false ∧ labMsg.me.intask = false ∧ labMsg.me.tq = [] ∧ labMsg.me.stores = 0 ∧
      labMsg.atomicAhead labMsg.cur = false ∧ ∀ v ∈ labMsg.me.lv.toList, v.out = [] ∧ v.locks = []) ∧
    (labFull.me.lvl = 0 ∧ labFull.me.inact = false ∧ labFull.me.intask = false ∧ labFull.me.tq = [] ∧ ∃ v ∈ labFull.me.lv.toList, v.out ≠ []) ∧
    labTwin.me.inact = true := by decide +kernel

theorem witness_VectorFloat : lab.roomFor = true ∧ isNan32 0x7FC00000 = true ∧ isNan32 0xBF800000 = false ∧
    (0xBF800000 : W32).msb = true ∧ (0xBF800000 : W32) ≠ 0x80000000 := by decide +kernel

theorem witness_VectorMemory :
    (lab.orderHold ⟨0, 0⟩ false = false ∧ placeOf lab.cur (lab.getX 0 + pad) = .own 256 ∧
      (∀ j : Fin 8, lab.plan (lab.getX 0 + pad + BitVec.ofNat 64 (4 * j.val)) 4 false = .go (padKey 0 (256 + 4 * j.val)) true true false)) ∧
    (labTlb.roomFor = true ∧ placeOf labTlb.cur 0x20 = .trans ∧
      (∀ j : Fin 8, ∀ wr : Bool, labTlb.plan (0x20 + BitVec.ofNat 64 (4 * j.val)) 4 wr = .go (0x10020 + 4 * j.val) false true false)) ∧
    (∀ j : Fin 8, (((lab.getV 0)[j]).toNat + 0) % 2 ^ 32 < 2048) ∧ lab.cur < 512 ∧ lab.damage = [] ∧ lab.poison = [] ∧
    lab.atomicAhead lab.cur = false ∧ lab.heldWrites = [] ∧ lab.orderHold ⟨0, 0⟩ true = false ∧ lab.mem.wf = true ∧
    lab.inTwin = false ∧ lab.replaying lab.me.colour = false ∧ lab.heldSlot (laneKey 0 0) 4 = false := by decide +kernel

theorem witness_VectorMovesAndReductions : (1 : BitVec 2) ≠ 3 ∧ 8 * 8 * ((3 : BitVec 3).toNat + 1) ≤ 256 := by decide

/-- An entry of the rescale table at the first free scratchpad offset: int8 output (R143). -/
noncomputable def labResc : State := { lab with mem := lab.mem.writeBytes (padKey 0 256) [0, 0, 0x80, 0x3F] }

theorem witness_VectorConversions : (12 : BitVec 4).toNat < 13 ∧ 13 ≤ (13 : BitVec 4).toNat ∧
    placeOf lab.cur (lab.getX 0 + pad) = .own 256 ∧ 256 % 16 = 0 ∧
    (∀ j : Fin 8, lab.planAt lab.cur (lab.getX 0 + pad + BitVec.ofNat 64 (16 * j.val)) 16 16 false ⟨false, false, false⟩ =
      .go (padKey 0 (256 + 16 * j.val)) true true false) ∧
    (lab.rescAt 256).isSome = true ∧ (∃ b : Byte, ({ lab with mem := lab.mem.writeBytes (padKey 0 264) [b] }).rescAt 256 = none) := by
  refine ⟨?_, ?_, ?_, ?_, ?_, ?_, ⟨0xFF, ?_⟩⟩
  all_goals decide +kernel

/-- Core 0 with two rings of 4 slots, two slots of each ready. -/
noncomputable def labRing : State :=
  lab.upMe (fun k => { k with ring := (k.ring.set 0 ⟨2, 2, 0, 2, 4, 64⟩).set 1 ⟨2, 2, 0, 2, 4, 256⟩ })
/-- With a batch in flight. -/
noncomputable def labBatch : State := labRing.upMe (fun k => { k with
  batches := [⟨1, [⟨10, false, 0, true, 0, 0, 1, 0, true, 0x7F7F⟩], false, 0, [⟨10, false, 0, true, 0, 0, 1, 0, true, 0x7F7F⟩], none⟩], lastBatch := 1 })

theorem witness_TileWork :
    ((labRing.me.ringAt 0).slots ≠ 0 ∧ 1 ≤ (labRing.me.ringAt 0).ready ∧ 1 ≤ (labRing.me.ringAt 1).ready ∧ labRing.me.openB.length < 16) ∧
    (lab.me.ringAt 0).slots = 0 ∧
    (let s := labRing.upMe (fun k => { k with openB := List.replicate 16 ⟨10, false, 0, true, 0, 0, 1, 0, true, 0⟩ }); 16 ≤ s.me.openB.length) ∧
    (let s := labRing.upMe (fun k => { k with ring := k.ring.set 0 ⟨0, 0, 0, 0, 4, 64⟩ })
     (s.me.ringAt 0).slots ≠ 0 ∧ (s.me.ringAt 0).ready = 0) ∧
    (let v : Word := 4 * 64 + 2 ^ 24
     v.extractLsb' 0 6 = 0 ∧ lab.me.codeEnd ≤ 64 * (v.extractLsb' 6 12).toNat ∧
      64 * (v.extractLsb' 6 12).toNat + 768 * (v.extractLsb' 24 8).toNat ≤ 2 ^ 18 ∧ lab.me.openClaims 0 = false ∧
      lab.me.flightClaims 0 = false ∧ lab.heldWrites = []) ∧
    (let v : Word := 2 ^ 24; (v.extractLsb' 24 8).toNat ≠ 0 ∧ 64 * (v.extractLsb' 6 12).toNat < lab.me.codeEnd) ∧
    (let s := labRing.upMe (fun k => { k with openB := [⟨10, false, 0, true, 0, 0, 1, 0, true, 0⟩] }); s.me.openClaims 0 = true) ∧
    ((labRing.me.ringAt 0).held ≠ (labRing.me.ringAt 0).slots ∧ labRing.atomicAhead labRing.cur = false) ∧
    (labRing.me.batches.length < 4 ∧ labRing.me.bind = none ∧ labRing.me.openB = []) ∧
    ((2 : BitVec 32) ≠ 0 ∧ 1 ≤ (2 - labBatch.me.lastBatch).toNat ∧ (2 - labBatch.me.lastBatch).toNat < 2 ^ 31 ∧ labBatch.waiting = none) ∧
    (∃ q ∈ labBatch.me.batches, q.num = (1 : BitVec 32).toNat) ∧ labRing.me.batches = [] := by decide +kernel

theorem witness_TileAccumulators :
    (lab.me.accOpen 0 = false ∧ lab.accBusy lab.cur 0 = false ∧
      (∀ n : Fin 256, lab.plan (pad + BitVec.ofNat 64 (n.val / 16) * 64 + BitVec.ofNat 64 (4 * (n.val % 16))) 4 true ⟨false, true, true⟩ =
        .go (padKey 0 (256 + 4 * n.val)) true true false) ∧
      lab.damage = [] ∧ lab.inTwin = false ∧ lab.mem.wf = true ∧ lab.replaying lab.me.colour = false ∧
      (∀ n : Fin 256, lab.heldSlot (padKey 0 (256 + 4 * n.val)) 4 = false)) ∧
    ((∀ j : Fin 16, ∃ r, lab.rescAt (4096 + 16 * j.val) = some r ∧ fmtWidth r.fmt = 32) ∧ lab.lev.ten = 0) ∧
    ((labBatch.core 0).batches = [⟨1, [⟨10, false, 0, true, 0, 0, 1, 0, true, 0x7F7F⟩], false, 0, [⟨10, false, 0, true, 0, 0, 1, 0, true, 0x7F7F⟩], none⟩] ∧
      (labBatch.core 0).tpert = none ∧ labBatch.heldWrites = [] ∧ labBatch.damage = []) := by
  refine ⟨?_, ⟨?_, ?_⟩, ?_⟩
  case _ => decide +kernel
  case _ =>
    intro j
    have h : ∀ j : Fin 16, (lab.rescAt (4096 + 16 * j.val)).any (fun r => fmtWidth r.fmt == 32) = true := by decide +kernel
    have := h j
    revert this
    cases lab.rescAt (4096 + 16 * j.val) with
    | none => intro h; cases h
    | some r => intro h; exact ⟨r, rfl, by simpa using h⟩
  case _ => decide +kernel
  case _ => decide +kernel

/-- `labGroup` with wire 5 and nodes 3 and 4 in memory. -/
noncomputable def labWire (r : WireRec) (n3 n4 : Word) : State :=
  { labGroup with mem := ((labGroup.mem.writeBytes (0x100000 + 32 * 3) (leBytes 8 n3.toNat)).writeBytes (0x100000 + 32 * 4)
      (leBytes 8 n4.toNat)).writeBytes (0x200000 + 32 * 5) r.bytes }
/-- A live wire with both ends open. -/
def openWire : WireRec := ⟨openEnd, openEnd, 1 <<< 62, 0⟩
/-- A live wire whose end 0 is node 3's principal port. -/
def halfWire : WireRec := ⟨3, openEnd, 1 <<< 62, 0⟩
/-- A shunt to end 1 of wire 6. -/
def shuntWire : WireRec := ⟨openEnd, openEnd, 2 <<< 62 ||| 2, portWord 6 1⟩
/-- Where the units of a job see a record. -/
noncomputable def sees (s : State) (j : Job) (va : Word) (key : Nat) : Bool :=
  decide (placeOf 0 va = .trans) && [true, false].all (fun wr => match s.translate 0 j.root true va wr with
    | (.ok p, false) => p.pa == key
    | _ => false)

theorem witness_WeirsServeMessages :
    ((labWire openWire 0 0).jobAt 0 = some groupJob ∧ sees (labWire openWire 0 0) groupJob (groupJob.wireVa 5) 0x2000A0 = true ∧
      (let s := labWire openWire 0 0
       s.mem.wf = true ∧ s.damage = [] ∧ s.poison = [] ∧ s.replaying 1 = false ∧ (WireRec.ofNat (s.peek 0x2000A0 32)) = openWire) ∧
      openWire.st = 1 ∧ isOpen (openWire.ends 0) = true ∧ isPrincipal (openWire.ends 1) = false) ∧
    ((WireRec.ofNat ((labWire shuntWire 0 0).peek 0x2000A0 32)) = shuntWire ∧ shuntWire.st = 2 ∧ shuntWire.refs = 2 ∧
      (labWire shuntWire 0 0).spent 0 5 0 = false ∧ 0 + 1 ≤ shuntWire.refs) ∧
    (WireRec.ofNat (labGroup.peek 0x2000A0 32)).st = 0 ∧
    (let s := labWire halfWire (nodeAlloc ||| portWord 5 0) nodeAlloc
     sees s groupJob (groupJob.nodeVa 3) 0x100060 = true ∧ sees s groupJob (groupJob.nodeVa 4) 0x100080 = true ∧
      (s.peek64 0x100060).getLsbD 41 = true ∧ (s.peek64 0x100060).getLsbD 40 = false ∧
      (s.peek64 0x100060).extractLsb' 0 33 = (portWord 5 0).extractLsb' 0 33 ∧ isPrincipal (halfWire.setEnd 1 4).e0 = true ∧
      isPrincipal (halfWire.setEnd 1 4).e1 = true ∧ isOpen (halfWire.ends 1) = true ∧ endNode (halfWire.setEnd 1 4).e1 = 4 ∧
      (s.cluster 0).stalled = [] ∧ groupJob.pondRoom (s.cluster 0) = true) ∧
    (let s := labWire halfWire (0xF04 <<< 52 ||| nodeAlloc) (0xF00 <<< 52 ||| nodeAlloc)
     nodeSym (s.peek64 0x100060) = symRoot ∧ nodeSym (s.peek64 0x100080) = symVal ∧ s.job? groupJob.colour = some groupJob) := by
  decide +kernel

theorem witness_NetMessages :
    (lab.job? lab.me.colour = some probeJob ∧ probeJob.word 8 = 0) ∧
    (labGroup.job? labGroup.me.colour = some groupJob ∧ groupJob.word 8 ≠ 0 ∧ labGroup.inTwin = false ∧
      labGroup.atomicAhead labGroup.cur = false ∧ labGroup.getX 1 = 7 ∧ labGroup.inPartition (ownerOf 7) = true ∧
      ownerOf 7 = labGroup.cur ∧ labGroup.inPartition (ownerOf (511 * 2 ^ 23)) = false) ∧
    (labGroup.plan (groupJob.nodeVa 7 0) 8 false = .go 0x1000E0 false true false ∧
      labGroup.plan (groupJob.nodeVa 7 0) 8 true = .go 0x1000E0 false true false ∧ labGroup.mem.wf = true ∧
      labGroup.planAt labGroup.cur (groupJob.wireVa 5) 32 32 false ⟨true, true, true⟩ = .go 0x2000A0 false true false ∧
      (WireRec.ofNat (labGroup.peek 0x2000A0 32)).st ≠ 2) ∧
    (labGroup.me.stores = 0 ∧ (7 : Word).toNat < 2 ^ 24 ∧ ((1 : Word) <<< 63).extractLsb' 48 8 = 0 ∧ ((1 : Word) <<< 63).getLsbD 63 = true ∧
      labGroup.plan (groupJob.word 11) 16 false = .go 0x400000 false true false ∧
      labGroup.plan (groupJob.word 11 + 0x30) 16 true = .go 0x400030 false true false ∧ labGroup.heldSlot 0x400000 16 = false ∧
      (0x7003 : Nat) / 2 ^ 12 % 2 ^ 12 = 7) ∧
    (placeOf labGroup.cur pad = .own 256 ∧ labGroup.plan pad 16 false = .go (padKey 0 256) true true false ∧
      (labGroup.cluster 0).stalled = [] ∧ groupJob.pondRoom (labGroup.cluster 0) = true) := by decide +kernel

/-- `labGroup` inside the activation of a pair of nodes 3 and 4 on wire 5, x10 with the wire. -/
noncomputable def labAct : State :=
  (({ labWire openWire (nodeAlloc ||| nodeBusy) (nodeAlloc ||| nodeBusy) with jobs := [groupJob] }.setX 10 5)).upMe (fun k => { k with
    inact := true, act := some ⟨3, 4, 5, 5, 5, false, [], 0, ⟨5, 3, 4, 0, 0⟩, 0, 0, 0, 0, 0⟩ })
/-- The same under deterministic placement. -/
noncomputable def labDet : State := { labAct with jobs := [detJob] }

theorem witness_NetAllocation :
    (labGroup.job? labGroup.me.colour = some groupJob ∧ groupJob.det = false ∧ labGroup.mem.wf = true ∧
      (((labGroup.core 0).nextSlot .node groupJob.heap).map (·.1) = some 1) ∧ (labGroup.core 0).stock .node ≠ 0 ∧
      (((labGroup.core 0).nextSlot .wire groupJob.heap).map (·.1) = some 1) ∧ (labGroup.core 0).stock .wire ≠ 0 ∧
      labGroup.plan (groupJob.nodeVa 1) 8 true = .go 0x100020 false true false ∧
      (∀ n : Fin 3, labGroup.plan (groupJob.wireVa 1 + BitVec.ofNat 64 (8 * n.val)) 8 true = .go (0x200020 + 8 * n.val) false true false)) ∧
    (let s := labGroup.upMe (fun k => { k with ntop := 2 ^ 23 })
     (s.core s.cur).freeList .node = [] ∧ groupJob.heap < (s.core s.cur).top .node) ∧
    (labAct.inAct = true ∧ (labAct.getX 1).toNat % 2 ^ 23 ≠ 0 ∧ (labAct.getX 1).toNat < 2 ^ 33 ∧ labAct.me.nstock ≠ 0 ∧ labAct.me.bind = none ∧
      labAct.atomicAhead labAct.cur = false ∧ labAct.inTwin = false) ∧
    labGroup.inAct = false ∧
    (labDet.job? labDet.me.colour = some detJob ∧ detJob.det = true ∧ labDet.me.inact = true ∧
      (let c := detJob.allCores[(crcPair 0 0).toNat % detJob.allCores.length]?.getD labDet.cur
       c < 16 ∧ (((labDet.core c).nextSlot .node detJob.heap).map (·.1) = some 1) ∧
        labDet.plan (detJob.nodeVa (c * 2 ^ 23 + 1)) 8 true = .go (0x100000 + 32 * (c * 2 ^ 23 + 1)) false true false ∧
        labDet.plan (detJob.word 10 + BitVec.ofNat 64 (8 * (c * 2 ^ 23 + 1))) 8 true = .go (0x300000 + 8 * (c * 2 ^ 23 + 1)) false true false)) := by
  decide +kernel

/-- `labWire` with its pair in the Pond and a rule in the cache. -/
noncomputable def labPair : State :=
  (labWire openWire nodeAlloc (1 <<< 52 ||| nodeAlloc)).upCluster 0 (fun k => { k with
    pond := [⟨5, 3, 4, 0, 1⟩], rules := [(0, 1, 1 <<< 63)] })

theorem witness_ActivationsRun :
    (labPair.me.lvl = 0 ∧ labPair.me.inact = false ∧ labPair.me.kept = none ∧ labPair.me.offer = [] ∧ labPair.roomFor 4 = true ∧
      labPair.pondFor groupJob labPair.cur = some ⟨5, 3, 4, 0, 1⟩ ∧ (labPair.cluster labPair.cl).stalled = [] ∧
      labPair.plan (groupJob.nodeVa 3) 8 true = .go 0x100060 false true false ∧
      labPair.plan (groupJob.nodeVa 4) 8 true = .go 0x100080 false true false ∧
      (∀ k ∈ [0x100060, 0x100080], (labPair.peek64 k).getLsbD 41 = true ∧ (labPair.peek64 k).getLsbD 40 = false ∧ labPair.heldSlot k 8 = false) ∧
      (labPair.cluster labPair.cl).rules.find? (fun r => r.1 == 0 && r.2.1 == 1) = some (0, 1, (1 : Word) <<< 63) ∧ labPair.mem.wf = true ∧
      nodeSym (labPair.peek64 0x100060) = 0 ∧ nodeSym (labPair.peek64 0x100080) = 1 ∧
      ((1 : Word) <<< 63).getLsbD 62 = false ∧ labPair.replaying labPair.me.colour = false ∧ labPair.hub.trace.getLsbD 63 = false) ∧
    labGroup.pondFor groupJob labGroup.cur = none ∧ labAct.me.inact = true ∧
    (labAct.inAct = true ∧ labAct.me.act ≠ none ∧ labAct.me.bind = none ∧ labAct.me.twin = none ∧
      labAct.plan (groupJob.nodeVa 3) 8 true = .go 0x100060 false true false ∧ (labAct.cluster 0).stalled = [] ∧
      groupJob.pondRoom (labAct.cluster 0) = true) ∧ labGroup.inAct = false := by decide +kernel

/-- A job on the first row of a sector, and a cluster of it with pairs. -/
noncomputable def labPonds : State :=
  { (labGroup.upCluster 0 (fun k => { k with highm := 1, pond := List.replicate 3 ⟨5, 3, 4, 0, 1⟩ })) with jobs := [{ groupJob with w := 4 }] }
/-- A twin run whose two streams have come. -/
def twinsDone (a b : List TwinItem) : TwinRun := ⟨0, [0, 8], ⟨5, 3, 4, 0, 1⟩, 0, [a, b, []], [(0, 0, 0), (1, 0, 0)], []⟩
/-- A cluster with that run. -/
noncomputable def labTwins (r : TwinRun) : State :=
  { labGroup.upCluster 0 (fun k => { k with twins := [r] }) with
    jobs := [groupJob], cores := labGroup.cores ++ [(6, { Core.initial 6 with status := .running })] }

theorem witness_PondsAndTwins :
    ({ groupJob with w := 4 }.victims 0 = [1, 2, 3] ∧ labPonds.jobAt 0 = some { groupJob with w := 4 } ∧ groupJob.victims 0 = [] ∧
      (labPonds.cluster 0).highm < (labPonds.cluster 0).pond.length ∧
      ((labPonds.cluster 0).pond.length - (labPonds.cluster 0).highm) / 2 ≠ 0 ∧ (labPonds.cluster 0).stalled = [] ∧
      (labGroup.cluster 0).pond.length ≤ (labGroup.cluster 0).highm ∧ (labGroup.cluster 0).pond.length < (labGroup.cluster 0).lowm ∧
      (labGroup.cluster 0).steal = true ∧ (labGroup.cluster 0).det = false ∧ (labGroup.cluster 0).failed = false) ∧
    (let s := labTwins (twinsDone [⟨5, 5, 0, 0⟩] [⟨5, 5, 0, 0⟩])
     (s.cluster 0).twins.find? (fun t => t.done.length == t.cores.length) = some (twinsDone [⟨5, 5, 0, 0⟩] [⟨5, 5, 0, 0⟩]) ∧
      (s.jobAt 0).isSome = true) ∧
    (streamHash [⟨5, 5, 0, 0⟩] ≠ streamHash [⟨5, 6, 0, 0⟩] ∧
      (let s := labTwins (twinsDone [⟨5, 5, 0, 0⟩] [⟨5, 6, 0, 0⟩])
       s.jobAt 0 = some groupJob ∧ ((List.range 16).map (16 * 0 + ·)).find? (fun c => s.twinEligible groupJob c [0, 8]) = some 6)) ∧
    (streamHash [⟨5, 7, 0, 0⟩] ≠ streamHash [⟨5, 5, 0, 0⟩] ∧ streamHash [⟨5, 7, 0, 0⟩] ≠ streamHash [⟨5, 6, 0, 0⟩]) := by decide +kernel

/-- A command of core 0 in the queue of MU 0. -/
def muCmd (ops : List MuOp) : MuCmd := ⟨0, 0, 0, 4, 0, ops, none, false⟩
/-- MU 0 with one command. -/
noncomputable def labMu (ops : List MuOp) : State := lab.upMu 0 (fun m => { m with q := [muCmd ops], stamps := 1 })
/-- Is the command the head of MU 0's service order? -/
noncomputable def atHead (s : State) (op : MuOp) : Bool :=
  match (s.mu 0).pick with
  | some (q, _) => q.op.head? == some op
  | none => false

theorem witness_PhotonicIssue :
    (2 ^ 19 ≤ (0x80000 : Word).toNat ∧ (0x3FF40 : Word).toNat % 64 = 0 ∧ 2 ^ 18 < (0x3FF40 : Word).toNat % 2 ^ 18 + 4288 ∧
      (0 : Word).toNat % 2 ^ 18 + 4288 ≤ 2 ^ 18 ∧ sigmaOk 0xBF800000 = false) ∧
    (passLegal (31 <<< 36) ∧ ¬passLegal (3 <<< 54)) ∧
    (lab.inTwin = false ∧ labTwin.inTwin = true ∧ lab.atomicAhead lab.cur = false ∧
      (labMu [.phsw]).inTwin = false ∧ ((labMu [.phsw]).mu 0).q.countP (fun q => q.c == lab.cur) = 1) ∧
    (let s := lab.upMu 0 (fun m => { m with q := List.replicate 8 (muCmd [.probe]) }); 8 ≤ (s.mu 0).q.countP (fun q => q.c == s.cur)) ∧
    ((2 : Word).toNat < 3 ∧ labSup.lev.sup = true ∧ lab.lev.sup = false) ∧
    (RoomX lab 1 ∧ ¬RoomX labFull 1 ∧ lab.me.selMu < 2 ∧ lab.waiting = none ∧ lab.me.muNext < 2 ^ 58) ∧
    (f32 0x3E99999A = .fin false 10066330 (-25) false ∧ 1024 * 10066330 * 2 ^ ((-25 : Int) + 200).toNat < 1023 * 2 ^ ((-1 : Int) + 200).toNat ∧
      ∀ k : Fin 7, ¬1024 * 10066330 * 2 ^ ((-25 : Int) + 200).toNat < 1023 * 2 ^ ((k.val : Int) - 8 + 200).toNat) ∧
    (let s := lab.upMe (fun k => { k with serials := [(0, 3, 2)], unfinished := [0, 1], muNext := 2, recent := some (1, none) })
     (0, 3, 2) ∈ (s.core 0).serials ∧ (s.core 0).serials.countP (fun e => e.2.2 == 2) = 1 ∧
      (1 : Nat) < s.me.unfinished.countP (fun k => decide (k < s.me.muNext))) ∧
    (∀ q ∈ ((labMu [.pass 0 false true]).mu 0).q, q.bind = none) := by
  refine ⟨?_, ?_, ?_, ?_, ?_, ⟨Or.inr ?_, ?_, ?_⟩, ?_, ?_, ?_⟩
  case _ => decide
  case _ => unfold passLegal; decide
  case _ => decide +kernel
  case _ => decide +kernel
  case _ => decide +kernel
  case _ => decide +kernel
  case _ => unfold RoomX; decide +kernel
  case _ => decide +kernel
  case _ => decide +kernel
  case _ => decide +kernel
  case _ => decide +kernel

/-- The worked bounds of R279: 0.3 gives −1. -/
theorem test_pgain : gainOf 0x3E99999A = -1 ∧ gainOf 0x40B38637 = 3 ∧ gainOf 0 = -8 ∧ gainOf 0x7F800000 = 7 := by decide +kernel

theorem crc_zeros (n : Nat) : (List.replicate n 0#8).foldl crcByte 0#64 = 0#64 := by
  induction n with
  | zero => rfl
  | succ n ih => exact ih
theorem leVal_zeros (n : Nat) : leVal (List.replicate n 0#8) = 0 := by
  induction n with
  | zero => rfl
  | succ n ih => show (0#8).toNat + 256 * leVal (List.replicate n 0#8) = 0; rw [ih]; rfl
theorem bytes_empty (k n : Nat) : Memory.bytes [] k n = List.replicate n 0 := by
  induction n generalizing k with
  | zero => rfl
  | succ n ih => simp [Memory.bytes, List.replicate_succ, ih, Memory.read]
/-- A phase image of zeros, whose crc64 is 0, is legal; one that ends in another byte is not. -/
theorem imageBank_zeros : (imageBank (List.replicate 4288 0)).isSome = true ∧ imageBank (List.replicate 4287 0 ++ [1]) = none := by
  constructor
  · simp [-List.reduceReplicate, imageBank, List.drop_replicate, List.take_replicate, crc_zeros, leVal_zeros, sigmaOk]
    decide
  · have e : leVal (((List.replicate 4287 (0 : Byte) ++ [1]).drop 4280).take 8) = 2 ^ 56 := by
      rw [List.drop_append_of_le_length (by rw [List.length_replicate]; decide), List.drop_replicate]
      decide
    have c : ((List.replicate 4287 (0 : Byte) ++ [1]).take 4280).foldl crcByte 0 = 0 := by
      rw [List.take_append_of_le_length (by rw [List.length_replicate]; decide), List.take_replicate]
      exact crc_zeros 4280
    simp only [imageBank, e, c]
    rfl

theorem witness_PhasesAndPasses :
    ((List.replicate 4288 (0 : Byte)).length = 4288 ∧ (imageBank (List.replicate 4288 0)).isSome = true) ∧
    imageBank (List.replicate 4287 0 ++ [1]) = none ∧
    (∀ op ∈ [MuOp.phld 0, .phrd 5 3, .phwr 5 1, .phwr 0x1005 1, .ptrim 5 1, .pass (31 <<< 36) false true], atHead (labMu [op]) op = true) ∧
    (labMu [.phld 0]).mem.bytes (muKey 0 0 0) 4288 = List.replicate 4288 0 ∧
    (let s := lab.upMu 0 (fun m => { m with loads := [(0, Bank.zero)] })
     (s.mu 0).loads = [(0, Bank.zero)] ∧ (s.mu 0).swpend = false ∧ (s.mu 0).ldbusy = false ∧ (s.mu 0).q = []) ∧
    (((labMu []).mu 0).boundaryDue = false ∧ ((labMu []).mu 0).hold = false ∧ (labMu []).damage = [] ∧ (labMu []).mem.wf = true) ∧
    (let s := lab.upMu 0 (fun m => { m with hold := true }); (s.mu 0).hold = true) ∧ sigmaOk 0x3F800000 = true ∧
    (let s := lab.upMu 0 (fun m => { m with stream := [⟨0, 0, 1, 0, false, true, false, false, false, 0, 0, 0, none⟩] })
     (s.mu 0).stream = ⟨0, 0, 1, 0, false, true, false, false, false, 0, 0, 0, none⟩ :: []) := by
  refine ⟨⟨List.length_replicate, imageBank_zeros.1⟩, imageBank_zeros.2, ?_, ?_, ?_⟩
  case _ => decide +kernel
  case _ =>
    have e : (labMu [.phld 0]).mem = [] := by decide +kernel
    rw [e]
    exact bytes_empty _ _
  case _ => decide +kernel

theorem witness_ProbesAndDecompositions :
    (let s := lab.upMu 0 (fun m => { m with probing := some ⟨some 0, some 3, [1]⟩, evalOk := true })
     (s.mu 0).probing = some ⟨some 0, some 3, [1]⟩ ∧ (s.mu 0).evalOk = true ∧ (s.mu 0).stream = [] ∧
      (∀ i : Fin 64, s.peek (muKey 0 2 (0xF000 + 64 * i.val) + 4) 4 ∉ [1]) ∧ (s.cluster 0).job = some 1 ∧
      (s.core 0).status = .running ∧ (s.core 0).colour = 1 ∧ (s.core 0).pend.length < 8) ∧
    (lab.mu 0).probing = none ∧ enobOf 100 = 4 ∧
    (let s := lab.upMu 0 (fun m => { m with cal := some (0, 2) }); (s.mu 0).cal = some (0, 2)) ∧ (lab.cluster 1).job = none ∧
    (let s := lab.upMu 0 (fun m => { m with pauseMu := true }); (s.mu 0).pauseMu = true) ∧
    (∀ mu : Fin 64, dieOfCluster (mu.val / 2) = 3 → (lab.cluster (mu.val / 2)).job = none) ∧ ((lab.mu 0).lam[(0 : Fin 8)] = 0) ∧
    (placeOf lab.cur pad = .own 256 ∧ lab.plan pad 32 false = .go (padKey 0 256) true true false ∧ lab.inTwin = false ∧
      (deCommand lab (fun i => if i = 3 then 0x108 else 0)).isSome = true ∧ deCommand lab (fun _ => 0) = none ∧
      (lab.die 0).de.length < 16 ∧ lab.atomicAhead lab.cur = false) ∧
    (let s := lab.upMe (fun k => { k with deStat := [(1, 1)] }); ∃ e ∈ s.me.deStat, e.2 = 1) ∧
    (1 ≤ ((1 : BitVec 32) - lab.me.deNum).toNat ∧ ((1 : BitVec 32) - lab.me.deNum).toNat < 2 ^ 31) ∧
    (let q : DeCmd := ⟨0, 1, 0, 0, 0, some 0, 1, false⟩
     let s := labTlb.upDie 0 (fun d => { d with de := [q] })
     (s.die 0).de = [q] ∧ (match s.deMatrix q with | .ok (_, w) => w == [[0]] | .error _ => false) = true ∧
      (match s.deRun { q with wva := 0x8000 } with | .ok _ => false | .error (c, _) => c == Code.pageNp) = true) ∧
    (lab.die 1).de = [] := by decide +kernel

/-- A transfer of 64 bytes between places of core 0's scratchpad. -/
def padCopy : Copy := ⟨1, 0, #v[0x2000000000000100, 0x2000000000000200, 0, 0, 0x100000040, 0, 0], none, none, true, false, 0, false⟩

theorem witness_Copies :
    (lab.inTwin = false ∧ labTwin.inTwin = true ∧ lab.atomicAhead lab.cur = false ∧ lab.me.bind = none ∧
      (lab.cluster lab.cl).copies.countP (fun q => !q.running) < 64 ∧
      (let s := lab.upMe (fun k => { k with cp := padCopy.regs })
       s.cpFault ⟨1, 0, s.me.cp, none, none, false, false, 0, false⟩ = none ∧ s.me.cp[3] = 0)) ∧
    (let s := lab.upMe (fun k => { k with cp := k.cp.set 4 0x1000001 }); s.me.cp[3] = 0 ∧ 2 ^ 24 < s.me.cp[4].toNat % 2 ^ 32) ∧
    (let s := lab.upMe (fun k => { k with cp := k.cp.set 0 0xE000000000000000 })
     s.me.cp[0].toNat / 2 ^ 61 = 7 ∧ s.me.cp[4].toNat % 2 ^ 32 ≤ 2 ^ 24 ∧ s.me.cp[4].toNat < 2 ^ 48) ∧
    (let s := lab.upCluster 0 (fun k => { k with copies := List.replicate 64 { padCopy with running := false } })
     64 ≤ (s.cluster s.cl).copies.countP (fun q => !q.running)) ∧
    ((1 : Word) ≠ 0 ∧ 1 ≤ (((1 : Word).setWidth 32 : BitVec 32) - (lab.cluster 0).lastCp).toNat ∧
      (((1 : Word).setWidth 32 : BitVec 32) - (lab.cluster 0).lastCp).toNat < 2 ^ 31 ∧ lab.waiting = none) ∧
    (let s := lab.upCluster 0 (fun k => { k with lastCp := 1, cpStat := [(1, 1)] })
     ¬(1 ≤ (((1 : Word).setWidth 32 : BitVec 32) - (s.cluster 0).lastCp).toNat) ∧
      (((s.cluster 0).cpStat.find? (fun e => e.1 == 1)).map (·.2)).getD 0 = 1) ∧
    (let s := (lab.upCluster 0 (fun k => { k with cpStat := [(1, 1)] })).upMe (fun k => { k with cpIds := [1] })
     ∃ e ∈ (s.cluster 0).cpStat.filter (fun e => s.me.cpIds.contains e.1), e.2 = 1) ∧
    (placeOf lab.cur pad = .own 256 ∧ pad.toNat % 64 = 0 ∧ lab.plan pad 64 false = .go (padKey 0 256) true true false ∧
      lab.heldSlot (padKey 0 256) 64 = false ∧ lab.mem.wf = true ∧ (pad + 8).toNat % 64 ≠ 0) ∧
    (shapeFault (fun i => if i = 1 then 0x0001000100010001 else 0) = none ∧ shapeFault (fun _ => 0) = some 1) ∧
    (labGroup.group? labGroup.me.colour ((7 : Word).toNat % 256) = some ⟨[0, 1, 2, 3], 0x40100804⟩ ∧
      labGroup.me.memberOf ((7 : Word).toNat % 256) = true ∧ lab.me.memberOf 7 = false) ∧
    (let s := lab.upCluster 0 (fun k => { k with copies := [{ padCopy with running := false }] })
     (s.cluster 0).copies.countP (·.running) < 8 ∧ (s.cluster 0).copies.find? (fun q => !q.running) = some { padCopy with running := false }) ∧
    (let s := lab.upCluster 0 (fun k => { k with copies := [padCopy] })
     (s.cluster 0).copies.find? (fun q => q.id == 1 && q.running) = some padCopy ∧ padCopy.bind = none ∧ padCopy.shape = none ∧
      cpBase padCopy.c (padCopy.reg 0) = some (.pad 0 256) ∧ cpBase padCopy.c (padCopy.reg 1) = some (.pad 0 512) ∧
      padCopy.reg 4 = BitVec.ofNat 64 (2 ^ 32 + 64) ∧ padCopy.reg 5 = 0 ∧ padCopy.reg 6 = 0 ∧ (s.core 0).codeEnd ≤ 256 ∧ s.fenced 0 = false ∧
      (match s.cpRun padCopy with | .ok _ => true | .error _ => false) = true ∧
      (match s.cpRun { padCopy with regs := padCopy.regs.set 1 0x8000 } with | .ok _ => false | .error (c, _) => c != 0) = true) := by
  decide +kernel

/-- The hub of `lab` with a domain, an enabled slot entry 0 that names package 5 on port 0, and a tree rooted here. -/
noncomputable def labDial : State := lab.upHub (fun h => { h with
  dom := 0x21, dialEn := true, dest := [(0, 0xFFFFFFFFFFFFFF05)], dtime := [(0, 0x100000015)], tree := [(0, 0x7000000), (1, 0x6030000)] })
/-- As `labDial`, with a request for a send to package 5 at scratchpad offset 256: source, destination, LEN 64 and PKG 5. -/
noncomputable def labSend (len : Nat) : State :=
  { labDial with mem := labDial.mem.writeBytes (padKey 0 256) (leBytes 8 0xFF00000000000200 ++ leBytes 8 0x1000 ++ leBytes 8 (len + 5 * 2 ^ 32) ++ leBytes 8 0) }
/-- A message of 64 bytes for package 5. -/
def dialMsg : DialMsg := ⟨0, 0, 0, 1, 1, 0xFF00000000000200, 0x1000, 64, 5, []⟩
/-- As `labDial`, with that message in the queue of die 0. -/
noncomputable def labVoq : State := labDial.upDie 0 (fun d => { d with voq := [(5, [dialMsg])] })
/-- A contribution of core 0 to a tree. -/
def contribution : Dsig := ⟨3, 0, 0, 0, 0, 256, [7]⟩

theorem witness_DialCommands :
    (let s := labSend 64
     (labDial.inTwin = false ∧ placeOf labDial.cur pad = .own 256 ∧ labDial.atomicAhead labDial.cur = false ∧
      labDial.planAt labDial.cur pad 32 32 false ⟨true, true, true⟩ = .go (padKey 0 256) true true false) ∧
     (s.padWord (256 + 16)).toNat = 64 + 5 * 2 ^ 32 ∧ s.padWord (256 + 24) = 0 ∧ (5 : Nat) ≠ s.pkg.toNat ∧ s.hub.dom.getLsbD 5 = true ∧
      s.dialFits 0 5 64 = true ∧ s.dialFits 0 5 (2 ^ 20) = false) ∧
    (labTwin.inTwin = true ∧ labTwin.waiting = none) ∧
    ((255 : Word).toNat % 256 = 255 ∧ (0x105 : Word).getLsbD 8 = true ∧ lab.dialCount 5 = 0 ∧ lab.getX 0 = 0) ∧
    ((0x40 : Word).getLsbD 6 = true ∧ (0 : Word).getLsbD 6 = false ∧ labDial.hub.slotOn 0 = true ∧ labDial.hub.slotDest 0 = 0xFFFFFFFFFFFFFF05) ∧
    (let c : Word := 0x100
     labDial.waiting = none ∧ c.toNat / 16 % 16 ≤ 6 ∧ (NMap.get labDial.hub.tree 0 0).getLsbD 26 = true ∧
      (NMap.get labDial.hub.tree 0 0).getLsbD 25 = true ∧ labDial.hub.children 0 = [] ∧
      labDial.hub.children 1 = [0, 1] ∧ labDial.hub.dsigs = [] ∧ (NMap.get labDial.hub.tree 0 2).getLsbD 26 = false ∧
      labDial.planAt labDial.cur pad (8 * 2) 8 false ⟨true, true, true⟩ = .go (padKey 0 256) true true false) ∧
    (let s := labDial.upLev (fun v => { v with wait := some ⟨.engine, 0, 3, 0, false, false⟩ })
     s.waiting.isSome = true ∧ s.hub.dsigs = []) ∧
    ((⟨1, 0, some contribution, [(0, [1])], false⟩ : DsigRun).full (NMap.get labDial.hub.tree 0 1) [0, 1] = false ∧
      (⟨1, 0, some contribution, [(0, [1]), (1, [2])], false⟩ : DsigRun).full (NMap.get labDial.hub.tree 0 1) [0, 1] = true) ∧
    (let s := labDial.upHub (fun h => { h with dsigs := [⟨0, 0, some contribution, [], true⟩] })
     s.hub.dsigs = ⟨0, 0, some contribution, [], true⟩ :: [] ∧ s.heldSlot (padKey 0 256) 8 = false ∧ s.mem.wf = true) := by
  decide +kernel

theorem witness_DialTraffic :
    (labDial.hub.rotates = true ∧ lab.hub.rotates = false ∧ (∀ d : Fin 4, (lab.die d.val).voq = []) ∧ (labDial.port 0).fails = []) ∧
    (let s := labVoq.upHub (fun h => { h with pendCommit := true })
     s.hub.pendCommit = true ∧ labVoq.hub.pendCommit = false) ∧
    (labVoq.nextSlot 0 = some 0 ∧ (labVoq.port 0).sending = none ∧ (labVoq.port 0).resend = [] ∧ labVoq.hub.slotPkg 0 0 = some 5 ∧
      labVoq.lit 0 = true ∧ labVoq.hub.dialEn = true ∧ NMap.get (labVoq.die 0).voq [] 5 = dialMsg :: [] ∧
      2 * 64 + 5000 * (labVoq.port 0).n ≤ labVoq.hub.windowTime 0 (labVoq.port 0).n ∧
      labVoq.hub.windowTime 0 (labVoq.port 0).n < 2 * 2 ^ 20 + 5000 * (labVoq.port 0).n ∧
      (match labVoq.dialRead dialMsg with | .ok (_, bs) => bs.length == 64 | .error _ => false) = true) ∧
    (let s := labDial.upPort 0 (fun k => { k with sending := some dialMsg })
     (s.port 0).sending = some dialMsg ∧ (s.port 0).window = none ∧ (s.port 0).resend = [] ∧
      ((s.port 0).sending.toList ++ (s.port 0).unacked).find? (fun m => m.n == 1) = some dialMsg) ∧
    (let s := labDial.upPort 0 (fun k => { k with unacked := [dialMsg] })
     (s.port 0).unacked = [dialMsg] ∧ (∀ q : Fin 8, q ≠ 0 → (s.port q.val).unacked = []) ∧ (s.core 0).colour = dialMsg.colour) ∧
    (lab.hub.incoming = [] ∧ lab.job? 1 = some probeJob ∧ lab.job? 2 = none ∧
      (match labTlb.dialWrite probeJob 0x100 [1] with | .ok u => u.hub == labTlb.hub | .error _ => false) = true) ∧
    (let s := lab.upHub (fun h => { h with incoming := [⟨3, 5, 0, 1, 1, 64, [0], 0⟩] })
     s.hub.incoming.find? (fun m => m.src == 5 && m.id == 3) = some ⟨3, 5, 0, 1, 1, 64, [0], 0⟩) ∧
    ((∀ d : Fin 4, (labDial.die d.val).voq = []) ∧ labDial.hub.dsigs = []) := by
  decide +kernel

/-- A replay session of colour 1. -/
def session (run : Bool) (c : Nat) : Replay := ⟨c, 0x10000000, run, false, false, false, 0, [], 0, 0, 0⟩
/-- As `labSup`, with a replay region of two parts and a session. -/
noncomputable def labReplay (r : List Replay) : State :=
  labSup.upHub (fun h => { h with rplay := 0x8001000010000002, replays := r })

theorem witness_SupervisorWork :
    (lab.lev.sup = false ∧ labSup.lev.sup = true) ∧
    (placeOf labSup.cur 0xFF00000000000100 = .own 256 ∧ (0xFF00000000000100 : Word).toNat % 32 = 0 ∧ labSup.mem.wf = true ∧
      labSup.replaying labSup.me.colour = false ∧ (∀ n m : Fin 4, n ≠ m → padKey 0 256 + 8 * n.val + 8 ≤ padKey 0 256 + 8 * m.val ∨ padKey 0 256 + 8 * m.val + 8 ≤ padKey 0 256 + 8 * n.val) ∧
      (∀ n : Fin 4, labSup.heldSlot (padKey 0 256 + 8 * n.val) 8 = false) ∧
      (∀ i : Fin 4, labSup.plan (pad + BitVec.ofNat 64 (8 * i.val)) 8 true ⟨false, false, true⟩ =
        .go (padKey 0 256 + 8 * i.val) true true false)) ∧
    (0xFF00000000000101 : Word).toNat % 32 ≠ 0 ∧ labSup.tlbiWaits = false ∧
    (let s := labSup.upMe (fun k => { k with stores := 1 }); s.tlbiWaits = true) ∧
    (let s := labTlb.upLev (fun v => { v with sup := true })
     placeOf s.cur 0x123 = .trans ∧ s.damage = [] ∧ s.plan 0x100 256 false ⟨false, false, false⟩ = .go 0x10100 false true false ∧
      s.plan 0x100 256 true ⟨false, false, false⟩ = .go 0x10100 false true false ∧ s.atomicAt 0x10100 = false ∧
      (s.under.map (·.1)).Nodup ∧ s.heldSlot 0x10100 256 = false) ∧
    placeOf labSup.cur 0x0100000000000000 = .bad Code.vaRange ∧ labSup.hub.trace.getLsbD 63 = false := by
  decide +kernel

theorem witness_DebugCountersAndReplay :
    ((0 : Word).getLsbD 9 = false ∧ labGroup.inPartition 1 = true ∧ (1 : Nat) ≠ labGroup.cur ∧ lab.inPartition 16 = false ∧
      (0x200 : Word).getLsbD 9 = true ∧ (0x200 : Word).getLsbD 10 = false) ∧
    (let s := lab.upMe (fun k => { k with dbg := .stopped }); (s.core 0).dbg = .stopped ∧ (lab.core 0).dbg ≠ .stopped) ∧
    (let s := lab.upMe (fun k => { k with dbg := .draining }); (s.core 0).dbg = .draining ∧ s.enginesDone 0 = true) ∧
    (let s := (lab.upMe (fun k => { k with dbg := .draining })).upCluster 0 (fun k => { k with copies := [{ padCopy with running := true }] })
     s.enginesDone 0 = false) ∧
    ((0x1005 : Word).toNat < 2 ^ 14 ∧ (0x1005 : Word).extractLsb' 12 2 ≠ 3 ∧ (0x3000 : Word).extractLsb' 12 2 = 3 ∧ (3 : Word).toNat % 4 = 3) ∧
    ((0x10000 : Word).toNat = 0 + 1 * 2 ^ 16 ∧ (labReplay []).session 1 = none ∧ (labReplay []).hub.freePart = some 0x100000000000 ∨
      (labReplay []).hub.freePart.isSome = true) ∧
    ((labReplay [session false 1]).session 1 = some (session false 1) ∧ (labReplay [session false 2]).job? 2 = none ∧
      (labReplay [session false 2]).session 2 = some (session false 2) ∧ (session false 2).blocks = []) ∧
    ((labReplay [session true 1]).session 1 = some (session true 1) ∧ (labReplay [session true 1]).job? 1 = some probeJob ∧
      probeJob.out = false) ∧
    (labSup.injPlan pad = .go (padKey 0 256) true true false ∧ labSup.injPlan (pad + 1) = .trap Code.align (pad + 1) ∧
      labSup.atomicAhead labSup.cur = false) := by
  decide +kernel

/-- Page tables at 0x10000: the first GiB maps to PA 0, readable and writable. -/
noncomputable def labTables : State :=
  { lab with mem := (lab.mem.writeBytes 0x10000 (leBytes 8 0x20001)).writeBytes 0x20000 (leBytes 8 0xF) }

theorem witness_WalksScrubsAndSplits :
    (let d : State := { lab with damage := [(0x1000, 1)] }
     d.damage = [(0x1000, 1)] ∧ stripeOf 0x1000 = 128 ∧ detectable 1 = true ∧ 8 * 0x1000 + 8 ≤ accKey 0 0 ∧ lab.mem.wf = true ∧
      128 ∈ d.scrubStripes (homeSlice 0x8000)) ∧ lab.damage = [] ∧
    ((lab.die 0).oldScr = none ∧ (3 : Word).toNat % 16 ≠ (lab.die 0).scr ∧ (4 : Word).toNat % 16 = (lab.die 0).scr) ∧
    (let s := lab.upDie 0 (fun d => { d with scr := 3, oldScr := some 4 }); (s.die 0).oldScr = some 4 ∧ (s.die 0).scr < 4) ∧
    (let s := lab.upDie 0 (fun d => { d with oldScr := some 4 }); (s.die 0).oldScr = some 4 ∧ 4 ≤ (s.die 0).scr ∧ (s.die 0).scr ≤ 16) ∧
    (match labTables.walk 0 0x10001 0 with | .ok (l, key, p) => l == 3 && key == 0x20000 && p == 0xF | .error _ => false) = true ∧
    labTables.mem.wf = true ∧
    (match lab.walk 0 1 0 with | .error code => code == Code.pageNp | .ok _ => false) = true := by
  decide +kernel

theorem witness_HubAndPlatform :
    ((writePath 0x10000 .nql = true ∧ writePath 0x10000 .oob = false ∧ (5 : Nat) % 8 ≠ 0 ∧ (Path.crown ≠ .oob)) ∧
      ((lab.queue 0).en = false ∧ ((lab.upQueue 0 (fun k => { k with en := true })).queue 0).en = true) ∧
      (populated 0x1000 = true ∧ populated 0x6000000000 = false ∧ lab.mem.wf = true ∧ lab.hub.link = .up) ∧
      (lab.upHub (fun h => { h with link := .down })).hub.link = .down) ∧
    (State.reset.hub.step < 7 ∧ State.reset.hub.fail = false ∧
      ((⟨[⟨true, 1, 0⟩], false, none⟩ : BootInput).fail = none ∧ (State.reset.imageOf ⟨[⟨true, 1, 0⟩], false, none⟩).isSome = true) ∧
      State.reset.imageOf ⟨[⟨false, 1, 0⟩], false, none⟩ = none ∧ (⟨[], false, some 5⟩ : BootInput).fail ≠ none ∧ (7 : Nat) ≤ lab.hub.step ∧
      (State.reset.upHub (fun h => { h with step := 6 })).hub.step = 6 ∧
      (lab.hub.attr.getLsbD 62 = false ∧ (0x8000800000001000 : Word).getLsbD 63 = true ∧
        2 ^ 47 ≤ ((0x8000800000001000 : Word) &&& 0x0000FFFFFFFFF000).toNat ∧ (0x8000800000001000 : Word).extractLsb' 0 12 = 0 ∧
        ((0x8000000000001000 : Word) &&& 0x0000FFFFFFFFF000).toNat < 2 ^ 47) ∧
      (lab.upHub (fun h => { h with attr := 0x4000800000001000 })).hub.attr.getLsbD 62 = true ∧
      (∀ j ∈ lab.jobs, ∀ cl : Fin 32, dieOfCluster cl.val = 3 → (lab.cluster cl.val).job ≠ some j.colour) ∧
      (lab.jobs = [probeJob] ∧ probeJob.colour ≠ 0 ∧ dieOfCluster 0 = 0 ∧ (lab.cluster 0).job = some probeJob.colour ∧ probeJob.ending = none) ∧
      (lab.powerOf 0 = .full ∧ (lab.upHub (fun h => { h with power := [(0, .tripped)] })).powerOf 0 = .tripped) ∧
      (let s := lab.upHub (fun h => { h with grid := 0x8000000000000000 })
       s.hub.grid.getLsbD 63 = true ∧ lab.hub.grid.getLsbD 63 = false ∧ populated 0 = true ∧ populated 32775 = true)) := by
  decide +kernel

/-- As `labGroup`, with a root node that holds a value. -/
noncomputable def labRoot : State :=
  let j : Job := { groupJob with rootNode := some 3 }
  let s : State := { labWire openWire 0 0 with jobs := [j] }
  { s with mem := (s.mem.writeBytes (0x100000 + 96 + 16) (leBytes 8 1)).writeBytes (0x100000 + 96 + 8) (leBytes 8 42) }

theorem witness_QuietJobsEnd :
    (lab.jobAt 0 = some probeJob ∧ lab.job? probeJob.colour = some probeJob ∧ probeJob.wave = false) ∧ lab.jobAt 1 = none ∧
    (let s : State := { lab with jobs := [{ probeJob with wave := true }] }
     s.jobAt 0 = some { probeJob with wave := true } ∧ s.job? 1 = some { probeJob with wave := true }) ∧
    (lab.job? 2 = none ∧ probeJob.ending = none ∧ probeJob.out = false ∧ probeJob.preempting = false ∧ probeJob.contain = false ∧ probeJob.again = false) ∧
    (let s := lab.upCore 0 (fun k => { k with status := .halted })
     (∀ cl ∈ probeJob.clusters, s.quiet cl = true ∧ (s.cluster cl).quietDirty = false) ∧ (s.cluster 0).sent = (s.cluster 0).recv ∧
      s.rootHeld probeJob = none ∧ s.allHalted probeJob = true) ∧
    (¬(∀ cl ∈ probeJob.clusters, lab.quiet cl = true ∧ (lab.cluster cl).quietDirty = false)) ∧ (∃ cl ∈ probeJob.clusters, lab.quiet cl = false) := by
  decide +kernel

/-- Entry 1 of a queue at 0x1000, that asks for a launch with its block at 0x2000. -/
def queueWords : List Byte := leBytes 8 0x100000001 ++ leBytes 8 0x2000
/-- A launch parameter block: one cluster, one core, colour 2, 256 bytes of code at 0x40000, tables of pages at 0x10000. -/
def lpbWords : List Word := [0x0100000111000200, 0, 0x40000, 0x10001, 0x1200000000, 0x10000, 0x41000, 0x50000, 0, 0, 0, 0, 10, 0, 0, 0,
  0, 0, 0, 0, 0, 0, 0, 0, 0, 0, 0, 0, 0, 0, 0, 0]
/-- The launch that they make. -/
def launchRec : Launch := ⟨0, 1, false, 0, 0x2000, 0, [], lpbWords⟩
/-- Queue 0 enabled, with its entry (or a bad one) and the block in memory. -/
noncomputable def labQueue (bad : Bool) : State :=
  { (labTables.upQueue 0 (fun k => { k with en := true, base := 0x1000, cbase := 0x3000 })) with
    mem := (labTables.mem.writeBytes 0x1040 (queueWords ++ leBytes 8 (if bad then 1 else 0))).writeBytes 0x2000 (lpbWords.flatMap (fun w => leBytes 8 w.toNat)) }
/-- The launch waits in the table. -/
noncomputable def labWaiting : State := (labQueue false).upHub (fun h => { h with table := [launchRec] })

theorem witness_SubmissionsAndDispatch :
    ((labQueue false).canTake 0 = true ∧ lab.canTake 0 = false ∧ (labQueue false).damage = [] ∧ (labQueue false).hub.table = [] ∧
      (labQueue false).mem.wf = true) ∧
    (entryBad (fun i => (labQueue true).peek64 (((labQueue true).queue 0).slotPa i)) = true ∧
      entryBad (fun i => (labQueue false).peek64 (((labQueue false).queue 0).slotPa i)) = false) ∧
    (((labQueue false).peek64 (((labQueue false).queue 0).slotPa 0)).toNat % 256 = 1 ∧ (labQueue false).lpbOk 0x2000 = true ∧
      launchRec.check = .ok ∧ (List.range 32).map (fun i => (labQueue false).peek64 (0x2000 + 8 * i)) = lpbWords) ∧ lab.choice = none ∧
    (match labWaiting.choice with | some (.place l _ _) => l == launchRec | _ => false) = true ∧
    (let s : State := { labWaiting with
       hub := { labWaiting.hub with table := [{ launchRec with lpb := lpbWords.set 0 0x0100000148000230 }] }
       jobs := [{ probeJob with launch := { probeJob.launch with lpb := List.replicate 16 0 ++ [0x100000, 0x10000000000] } }] }
     (match s.choice with | some (.preempt _ _ _ vs) => vs == [1] | _ => false) = true) ∧
    ((0 : Nat) < 512 ∧ lab.hub.bbase.getLsbD 63 = false ∧ (lab.core 0).retainV = false) ∧
    ((lab.upHub (fun h => { h with evaddr := 0x800000000000 })).hub.evaddr.toNat ≥ 2 ^ 47 ∧ lab.hub.evaddr.toNat < 2 ^ 47) ∧
    (labWaiting.hub.table = [launchRec] ∧ launchRec.q = ((1 : Word).extractLsb' 32 7).toNat ∧ launchRec.seq = ((1 : Word).extractLsb' 0 32).toNat) ∧
    (lab.hub.table = [] ∧ lab.jobs = [probeJob] ∧ probeJob.launch.q = 0 ∧ probeJob.launch.seq = 0 ∧ probeJob.ending = none) := by
  decide +kernel

/-- A job that is switched out, with a core saved. -/
def outJob : Job := { probeJob with colour := 2, out := true, saved := [1], savedCores := [(16, Core.initial 16)] }

theorem witness_JobsLeaveTheirPartition :
    (lab.job? 1 = some probeJob ∧ probeJob.colour = 1 ∧ probeJob.preempting = false ∧ lab.job? 2 = none ∧ probeJob.ending = none) ∧
    (let j : Job := { probeJob with preempting := true, saved := [0] }
     let s : State := { lab.upCore 0 (fun k => { k with status := .halted }) with jobs := [j] }
     s.job? 1 = some j ∧ j.out = false ∧ j.ending = none ∧ s.drainedJob j = true ∧ s.damage = []) ∧
    (let s : State := { lab with jobs := [probeJob, outJob] }
     s.job? 2 = some outJob ∧ s.choice = some (.resume 2) ∧ (outJob.savedCores.map (·.1)).Nodup) ∧
    (let j : Job := { probeJob with ending := some ⟨0, 0, 7⟩ }
     let s : State := { lab with jobs := [j] }
     s.job? 1 = some j ∧ s.enabled (.jobEnd 1) = true ∧ s.hub.table = [] ∧ s.mem.wf = true) ∧
    ((NMap.get lab.hub.rect 0 0).getLsbD 62 = false ∧
      (((1 : Word).extractLsb' 5 3).toNat < ((1 : Word).extractLsb' 0 3).toNat) ∧ lab.hub.rect = []) ∧
    (let s := lab.upHub (fun h => { h with rect := [(0, 0x8000000000000000)] })
     (NMap.get s.hub.rect 0 0).getLsbD 63 = true ∧ (NMap.get s.hub.rect 0 0).getLsbD 62 = false) ∧
    (let s : State := { State.reset.upHub (fun h => { h with rect := [(0, 0xC000000000000000)] }) with jobs := [] }
     (NMap.get s.hub.rect 0 0).getLsbD 62 = true ∧ s.jobs = [] ∧ ∀ cl : Fin 32, (s.cluster cl.val).job = none) := by
  decide +kernel

/-- As `lab`, with a NOP at the program counter. -/
noncomputable def labNop : State := State.reset.withFetchWord 16 1
/-- The instruction that its words hold. -/
theorem test_fetch : decodeWords (labNop.fetchWords 0) = .ok (.nop h0, 2) := by decide +kernel

/-- The state in which core 0 of a state fetches. -/
noncomputable def fetching (s : State) : State := State.slept { s.begin with cur := 0 }
theorem fetches_of (s : State) (h : 7 ≤ s.hub.step ∧ s.pick = .core 0 ∧ (fetching s).interrupted 0 = false ∧ (fetching s).stopDue 0 = false ∧
    (fetching s).breakDue 0 = false) : Fetches s 0 (fetching s) := ⟨h.1, h.2.1, rfl, h.2.2.1, h.2.2.2.1, h.2.2.2.2⟩

theorem witness_StepRunsDecoded :
    (Fetches labNop 0 (fetching labNop) ∧ Holds (fetching labNop) (.nop h0) ∧
      (fetching labNop).held? ((fetching labNop).select (.nop h0)) = none) ∧
    (let s := (State.reset.withFetchWord 16 0x8001).upLev (fun v => { v with out := [⟨0, 1, false⟩] })
     Fetches s 0 (fetching s) ∧ Holds (fetching s) (.nop ⟨true, []⟩) ∧
      (fetching s).held? ((fetching s).select (.nop ⟨true, []⟩)) = some .awake) ∧
    (let s := State.reset.withFetchWord 16 0x7800
     Fetches s 0 (fetching s) ∧ (fetching s).pc.toNat < (fetching s).me.codeEnd ∧
      decodeWords ((fetching s).fetchWords 0) = .error .badInstruction) ∧
    (let s := lab.upLev (fun v => { v with pc := 256 })
     Fetches s 0 (fetching s) ∧ (fetching s).me.codeEnd ≤ (fetching s).pc.toNat) ∧
    (let s : State := { lab with turn := [1], agenda := [⟨0, .waveReport 1⟩] }
     7 ≤ s.hub.step ∧ s.pick = .event 0 ∧ s.agenda[0]? = some ⟨0, .waveReport 1⟩) ∧
    (let s : State := { lab with seq := 63, turn := [] }; 7 ≤ s.hub.step ∧ s.pick = .own .packageTimerTick) ∧
    (State.reset.hub.step < 7 ∧ State.reset.agenda = [] ∧ State.reset.hub.fail = false) := by
  refine ⟨⟨fetches_of _ ?_, ⟨?_, ⟨2, ?_, ?_⟩⟩, ?_⟩, ⟨fetches_of _ ?_, ⟨?_, ⟨2, ?_, ?_⟩⟩, ?_⟩, ⟨fetches_of _ ?_, ?_, ?_⟩, ⟨fetches_of _ ?_, ?_⟩, ?_, ?_, ?_⟩
  all_goals decide +kernel

theorem witness_DecodeEncode : (Instr.ldD ⟨true, [.rgx, .trx, .imx]⟩ 40 5 24 ⟨2, 1⟩).wf = true ∧
    (Instr.ldD ⟨true, [.rgx, .trx, .imx]⟩ 40 5 24 ⟨2, 1⟩).fits = true := by exact ⟨rfl, rfl⟩

theorem witness_MemoryCanonicalKept : lab.mem.wf = true ∧ (match step lab with | .next _ => true | _ => false) = true := by decide +kernel

/-! ### Witnesses of further clauses -/

/-- As `lab`, its job contained. -/
noncomputable def labContain : State := { lab with jobs := [{ probeJob with contain := true }] }
/-- As `lab`, with core 0 held awake at a marker. -/
noncomputable def labAwake : State := lab.upLev (fun v => { v with wait := some ⟨.awake, 0, 0, 0, true, false⟩ })

theorem witness_TicketFetches_gather : labGrant.plan (labGrant.getX 0 + pad) 64 false ⟨false, false, false⟩ =
    .go (padKey labGrant.cur 256) true true false := by decide +kernel

theorem witness_FetchesAndLeases_rest :
    (let s : State := { labEntry (entry .pending) with jobs := [{ probeJob with contain := true }] }
     (s.tk 0 3).st = .pending ∧ s.containing (s.tk 0 3).colour = true) ∧
    (let t := { entry .pending with rd := some (ask .pending), left := 1 }
     (labEntry t).containing t.colour = false ∧ t.rd.isSome = true ∧ t.left = [(7 : Word)].length) ∧
    labAwake.heldAwake 0 = true ∧ lab.heldAwake 0 = false := by decide +kernel

theorem witness_TrapEntryAndReturn_overlay : let s := labVec.upMe (fun k => { k with inovl := true })
    s.me.inovl = true ∧ s.lev.active = false ∧ s.me.svec ≠ 0 ∧ s.me.svec.toNat < s.me.codeEnd := by decide +kernel

theorem witness_BarriersAndCollectives_waits : labGroup.releaseHold = false ∧
    (let s := labGroup.upLev (fun v => { v with wait := some ⟨.barrier, v.pc, 7 + 256 * 3, 0, false, false⟩ })
     s.waiting = some ⟨.barrier, 0, 7 + 256 * 3, 0, false, false⟩ ∧ NMap.find? s.me.arrived 7 ≠ some 3 ∧ s.phase s.cur 7 ≠ 3) := by
  decide +kernel

theorem witness_Messages_rest : labMsg.releaseHold = false ∧ (labMsg.core 0).parked < 64 ∧
    (let s := labMsg.upMe (fun k => { k with tq := [{ message 0 0 with kind := .task, a := [1, 2, 3, 4] }], intask := true })
     s.releaseHold = false) := by decide +kernel

theorem witness_VectorMemory_acquire : lab.lev.out = [] := by decide +kernel

theorem witness_VectorConversions_plan : ∀ j : Fin 8,
    lab.plan (lab.getX 0 + pad + BitVec.ofNat 64 (16 * j.val)) 16 false ⟨false, false, false⟩ =
      .go (padKey 0 (256 + 16 * j.val)) true true false := by decide +kernel

theorem witness_TileWork_rest : labRing.releaseHold = false ∧ lab.badStripe (accKey lab.cur 0) 1024 = none ∧
    (labBatch.me.bstat.filter (fun e => decide (labBatch.me.batchAge e.1 < 64))) = [] ∧
    (∀ j : Fin 16, lab.plan (0xFF00000000000000 + BitVec.ofNat 64 (4096 + 16 * j.val)) 16 false ⟨false, false, false⟩ =
      .go (padKey 0 (4096 + 16 * j.val)) true true false) := by decide +kernel

theorem witness_WeirsServeMessages_rest : openWire.good = true ∧ halfWire.good = true ∧ shuntWire.good = true ∧
    (⟨1 <<< 40, openEnd, 1 <<< 62, 0⟩ : WireRec).good = false ∧
    (let s := labWire halfWire (nodeAlloc ||| portWord 5 0) nodeAlloc
     s.peek64 0x100060 &&& nodeReserved = portWord 5 0 &&& nodeReserved ∧ s.peek64 0x100080 &&& nodeReserved = 0 ∧
      (s.cluster 0).pond.length < 16384) := by decide +kernel

theorem witness_NetMessages_rest : labGroup.releaseHold = false ∧ labTwin.inTwin = true ∧
    labGroup.plan (groupJob.wireVa 5) 32 false = .go 0x2000A0 false true false := by decide +kernel

theorem witness_NetAllocation_round : labDet.waiting.any (fun w => w.reason == .wire) = false ∧
    (let s := labDet.upLev (fun v => { v with wait := some ⟨.wire, v.pc, 0, 0, false, false⟩ })
     s.waiting.any (fun w => w.reason == .wire) = true) ∧ labAct.releaseHold = false := by decide +kernel

/-- As `labAct`, with the Weir of its cluster stalled and nine messages for it on their way. -/
noncomputable def labBacked : State :=
  { labAct.upCluster 0 (fun k => { k with stalled := [⟨5, 3, 4, 0, 1⟩] }) with
    agenda := List.replicate 9 ⟨netChan 0 0, .wfreeMessage 0 5⟩ }

theorem witness_ActivationsRun_rest : labAct.backedUp labAct.cur ≤ 8 ∧ 8 < labBacked.backedUp labBacked.cur ∧
    (labPair.cluster 0).pond.length < 16384 := by decide +kernel

/-- A twin run of three cores. -/
def threeTwins (c : List TwinItem) : TwinRun :=
  ⟨0, [0, 8, 6], ⟨5, 3, 4, 0, 1⟩, 0, [[⟨5, 5, 0, 0⟩], [⟨5, 6, 0, 0⟩], c], [(0, 0, 0), (1, 0, 0), (2, 0, 0)], []⟩

theorem witness_PondsAndTwins_rest :
    (let s := labGroup.upCluster 0 (fun k => { k with highm := 1, pond := List.replicate 2 ⟨5, 3, 4, 0, 1⟩ })
     (s.cluster 0).highm < (s.cluster 0).pond.length ∧ ((s.cluster 0).pond.length - (s.cluster 0).highm) / 2 = 0) ∧
    (let s := labGroup.upCluster 0 (fun k => { k with failed := true })
     (s.cluster 0).failed = true ∧ (s.cluster 0).pond.length < (s.cluster 0).lowm) ∧
    (((List.range 16).map (16 * 0 + ·)).find? (fun c => labGroup.twinEligible groupJob c [0, 8]) = none) ∧
    (threeTwins [⟨5, 5, 0, 0⟩]).cores.length ≠ 2 ∧ streamHash [⟨5, 5, 0, 0⟩] = streamHash [⟨5, 5, 0, 0⟩] := by decide +kernel

theorem witness_PhasesAndPasses_rest : ((labMu []).mu 0).probing = none ∧
    (let s := lab.upMu 0 (fun m => { m with probing := some ⟨none, none, []⟩ }); (s.mu 0).probing ≠ none) := by decide +kernel

/-- A transfer into a held slot of ring 0 of `labRing`. -/
def heldCopy : Copy := { padCopy with regs := padCopy.regs.set 1 0x2000000000001000 }

theorem witness_Copies_held :
    (let q : Copy := { padCopy with moved := true }
     let s := (lab.upCluster 0 (fun k => { k with copies := [q] }))
     (s.cluster 0).copies.find? (fun q => q.id == 1 && q.running) = some q ∧ q.moved = true ∧ s.cpHeld q = false ∧
      ({ s with heldWrites := [⟨0, false, padKey 0 4096, [1], some (0, 1)⟩] } : State).cpHeld q = true) ∧
    padCopy.moved = false ∧ lab.cpHeld padCopy = false ∧
    (match labRing.cpRun heldCopy with | .ok u => u.cpHeld heldCopy | .error _ => false) = true ∧
    (match lab.cpRun padCopy with | .ok u => !u.cpHeld padCopy | .error _ => false) = true := by decide +kernel

theorem witness_DialCommands_rest :
    (NMap.get (labDial.die 0).voq [] 5 = [] ∧ NMap.get (labVoq.die 0).voq [] 5 ≠ []) ∧
    ((NMap.get labDial.hub.tree 0 0).getLsbD 24 = true ∧ (NMap.get labDial.hub.tree 0 1).getLsbD 24 = false) ∧
    (let s := labDial.upLev (fun v => { v with wait := some ⟨.ext, 0, 3, 0, false, false⟩ })
     s.dsigWanted contribution = true ∧ lab.dsigWanted contribution = false) := by decide +kernel

theorem witness_DialTraffic_rest :
    lab.hub.fail = false ∧ (labVoq.upHub (fun h => { h with rotating := true })).windowTurn 0 0 = true ∧
    (let s := labVoq.upPort 0 (fun k => { k with sending := some dialMsg }); (s.port 0).sending.isSome = true) ∧
    (∀ p : Fin 8, (labDial.port p.val).sending = none) := by decide +kernel

theorem witness_SupervisorWork_rest : (∀ c, placeOf labSup.cur pad ≠ .bad c) ∧ placeOf labSup.cur pad ≠ .trans := by
  have e : placeOf labSup.cur pad = .own 256 := by decide +kernel
  rw [e]
  constructor
  · intro c h; cases h
  · intro h; cases h

theorem witness_DebugCountersAndReplay_rest :
    (lab.upHub (fun h => { h with fail := true })).hub.fail = true ∧
    (let s := labBatch.upMe (fun k => { k with dbg := .stopped })
     (s.core 0).landing 0 5 = false ∧ s.accBusy 0 0 = true ∧ s.accBusy 0 1 = false ∧ (s.core 0).accOpen 1 = false ∧ s.hub.fail = false) ∧
    (let s := lab.upLev (fun v => { v with out := [⟨0, 5, false⟩], locks := [5] })
     (s.upMe (fun k => { k with dbg := .stopped })).me.landing 0 5 = true) ∧
    (labReplay [session false 2]).damage = [] ∧ (labReplay [session false 2]).poison = [] := by decide +kernel

theorem witness_WalksScrubsAndSplits_rest :
    (let u := labTables.upDie 0 (fun d => { d with pool := labTables.poolFill 0x10001 0 d.pool })
     (match u.walk 0 0x10001 0 with | .ok (l, key, p) => l == 3 && key == 0x20000 && p == 0xF | .error _ => false) = true) ∧
    (let u := lab.upDie 0 (fun d => { d with pool := lab.poolFill 1 0 d.pool })
     (match u.walk 0 1 0 with | .error code => code == Code.pageNp | .ok _ => false) = true) ∧
    (populated (64 * 64) = true ∧ 64 * 64 < 2 ^ 47 ∧ lab.dirtyLine 64 = false) ∧ lab.poison = [] ∧
    ({ lab with under := [(4096, 0)] } : State).dirtyLine 64 = true := by decide +kernel

theorem witness_HubAndPlatform_rest :
    (lab.upHub (fun h => { h with fwwin := 0xC001000000200000 })).hub.fwwin.getLsbD 63 = true ∧
    (let s := lab.upHub (fun h => { h with fwwin := 0xC001000000200000 })
     (s.hub.fwwin.extractLsb' 21 27).toNat * 2 ^ 21 ≤ 0x200000 ∧
      0x200000 + 8 ≤ (s.hub.fwwin.extractLsb' 21 27).toNat * 2 ^ 21 + (s.hub.fwwin.extractLsb' 48 14).toNat * 2 ^ 21) ∧
    (let s := lab.upHub (fun h => { h with image := some (1, ⟨true, 2, 7⟩), idKey := some 7, attrReq := some (0x800000000000, List.replicate 32 0) })
     s.hub.image = some (1, ⟨true, 2, 7⟩) ∧ s.hub.idKey = some 7 ∧ s.raiseRollback.hub.rollback = 2) ∧
    lab.hub.image = none ∧ lab.hub.attrReq = none ∧
    State.reset.imageOf ⟨[⟨false, 1, 0⟩, ⟨true, 1, 0⟩], false, none⟩ = some (1, ⟨true, 1, 0⟩) := by decide +kernel

theorem witness_QuietJobsEnd_cut : let j : Job := { probeJob with preempting := true }
    let s : State := { lab with jobs := [j] }
    s.job? 1 = some j ∧ j.preempting = true := by decide +kernel

theorem witness_SubmissionsAndDispatch_rest :
    (lab.hub.link = .up ∧ lab.hub.table = [] ∧ lab.jobs = [probeJob] ∧ lab.mem.wf = true) ∧
    (let s := lab.upMe (fun k => { k with retainV := true, retainCol := 1 })
     (s.core 0).retainV = true ∧ (s.core 0).retainCol.toNat = probeJob.colour) := by decide +kernel

/-- A job that another launch drives out of cluster 0. -/
noncomputable def labHeir : State :=
  { labWaiting.upCore 0 (fun k => { k with status := .halted }) with
    jobs := [{ probeJob with w := 0, preempting := true, saved := [0], heir := some (launchRec, 0, 0) }] }

theorem witness_JobsLeaveTheirPartition_rest :
    (let j : Job := { probeJob with w := 0, preempting := true, saved := [0], heir := some (launchRec, 0, 0) }
     labHeir.job? 1 = some j ∧ labHeir.drainedJob j = true ∧
      (let u := labHeir.switchOut j
       u.hub.table = [launchRec] ∧ u.ready launchRec = true ∧ 7 ≤ u.hub.step ∧ u.hub.link = .up ∧
        (∀ cl ∈ rectOf 0 0 launchRec.w launchRec.h, u.clusterFree cl = true))) ∧
    (State.reset.damage = [] ∧ State.reset.poison = [] ∧ State.reset.hub.fail = false) := by decide +kernel

theorem witness_StepRunsDecoded_rest :
    (let s := State.reset.withFetchWord 16 0x7800
     markedWords ((fetching s).fetchWords 0) = false) ∧
    (let s := (State.reset.withFetchWord 16 0xF800).upLev (fun v => { v with out := [⟨0, 1, false⟩] })
     (match decodeWords ((fetching s).fetchWords 0) with | .ok _ => false | .error _ => true) = true ∧
      markedWords ((fetching s).fetchWords 0) = true ∧ (fetching s).markHold = some .awake) ∧
    (let s : State := { State.reset with agenda := [⟨0, .attestGo 0⟩] }
     s.hub.step < 7 ∧ s.heads = [0] ∧ s.agenda[0]? = some ⟨0, .attestGo 0⟩) ∧ State.reset.heads = [] := by decide +kernel

theorem witness_EveryFormCompletes :
    (let s := lab.upMe (fun k => { k with pend := [⟨Code.drift, 0, 0, 0, false⟩] })
     (s.core 0).pend = ⟨Code.drift, 0, 0, 0, false⟩ :: [] ∧ (s.core 0).lv[(s.core 0).lvl].active = false) ∧
    (lab.jobAt 0 = some probeJob ∧ lab.jobAt 1 = none) ∧
    ((labPonds.cluster 0).stalled = [] ∧ (labPonds.cluster 0).highm + 2 ≤ (labPonds.cluster 0).pond.length) ∧
    (let s := labGroup.upCluster 0 (fun k => { k with failed := true })
     (s.cluster 0).failed = true ∧ (s.cluster 0).pond.length < (s.cluster 0).lowm ∧ (s.cluster 0).steal = true ∧ (s.cluster 0).det = false) ∧
    (let r : TwinRun := ⟨0, [0, 8], ⟨5, 3, 4, 0, 1⟩, 0, [[], []], [(0, 0, 0), (1, 0, 0)], []⟩
     (labTwins r).jobAt 0 = some groupJob ∧ ((labTwins r).cluster 0).twins.find? (fun t => t.done.length == t.cores.length) = some r) ∧
    (let s := lab.upDie 0 (fun d => { d with scr := 3, oldScr := some 4 }); (s.die 0).oldScr = some 4) ∧
    ((lab.die 0).oldScr = none ∧ (3 : Word).toNat % 16 ≠ (lab.die 0).scr) ∧ lab.hub.link = .up ∧
    (lab.upHub (fun h => { h with link := .down })).hub.link = .down ∧ State.reset.jobs = [] ∧
    (lab.upHub (fun h => { h with power := [(0, .tripped)] })).powerOf 0 = .tripped ∧
    (let s := lab.upMe (fun k => { k with dbg := .stopped }); (s.core 0).dbg = .stopped ∧ s.hub.fail = false) ∧
    labSup.lev.sup = true ∧ (labSup.getX 0).toNat < 2 ^ 12 := by decide +kernel

/-! ### Witnesses of what the second review added -/

theorem witness_RedeemsAreDelivered_held : labRing.heldSlot (padKey 0 4096) (8 * [(7 : Word)].length) = true := by decide +kernel

/-- As `lab`, with core 1 running for the job too, inside an activation. -/
noncomputable def labTwo (j : Job) : State :=
  { lab.upCore 1 (fun k => { k with status := .running, root := 1, inact := true }) with jobs := [j] }

theorem witness_BoundaryAndWindowEvents_jobs :
    ((labTwo probeJob).job? ((labTwo probeJob).core 0).colour = some probeJob ∧ probeJob.preempting = false ∧
      ((labTwo probeJob).core 1).status = .running ∧ ((labTwo probeJob).core 1).colour = ((labTwo probeJob).core 0).colour ∧
      ((labTwo probeJob).core 1).pend.length < 8 ∧
      ∀ b : Fin 512, b ≠ 0 → b.val / 16 = 0 → ((labTwo probeJob).core b.val).status = .running → 1 ≤ b.val) ∧
    (let j : Job := { probeJob with preempting := true }
     (lab.setCore 0 { lab.core 0 with status := .fenced }).activationsDone j = true ∧ j.ending = none ∧
      ((labTwo j).setCore 0 { (labTwo j).core 0 with status := .fenced }).activationsDone j = false ∧ j.out = false) ∧
    (let s := (labTwo probeJob).upCluster 0 (fun k => { k with fp := [⟨1, 8, 0, 1⟩, ⟨0, 4, 1, 16⟩, ⟨0, 6, 1, 16⟩] })
     (s.cluster 0).fp = [⟨1, 8, 0, 1⟩] ++ ⟨0, 4, 1, 16⟩ :: [⟨0, 6, 1, 16⟩] ∧ (s.core 0).status = .running ∧ (s.core 0).pend.length < 8) := by
  decide +kernel

theorem witness_SystemRegisters_writes : labSup.me.hold = [] ∧ (labSup.die 0).oldScr = none ∧ (4 : Word).toNat % 16 = (labSup.die 0).scr ∧
    (3 : Word).toNat % 16 ≠ (labSup.die 0).scr ∧ labSup.cur < 512 := by decide +kernel

theorem witness_GroupGeometry_invalid : lab.me.grp.getLsbD (32 + 0) = false ∧ (15 : BitVec 6).toNat % 16 = 15 := by decide +kernel

theorem witness_BarriersAndCollectives_values :
    let a (c op : Nat) (v : Word) : Contribution := ⟨c, 0, 0, false, op, 0, v⟩
    collAgree [a 0 1 5, a 1 1 7] = true ∧ collAgree [a 0 1 5, a 1 2 7] = false ∧
    collValue [a 0 1 5, a 1 1 7] = 5 ∧ collValue [a 0 7 5, a 1 7 7] = 7 := by decide +kernel

/-- Two messages of the sorted type, the later one first. -/
def late : UMsg := { message 2 0 with seq := 9 }

theorem witness_Messages_window :
    (let s := labMsg.upMe (fun k => { k with win := [(2, ⟨some 2, [late], none⟩)] })
     s.accepts 0 = true ∧ (NMap.get (s.core 0).win ⟨none, [], none⟩ 2).expect = some 2 ∧ (s.core 0).parked < 64 ∧
      msgLevel (message 2 0) (s.core 0) < 4) ∧
    (late.src = (message 2 0).src ∧ ((message 2 0).seq - late.seq).msb = true ∧ (late.seq - (message 2 0).seq).msb = false) ∧
    ((1 : Word).getLsbD 0 = true ∧ labMsg.inPartition 16 = false ∧ labGroup.inPartition 0 = true ∧ (labGroup.me.dtab[63]?.getD 0).getLsbD 63 = false) := by
  decide +kernel

theorem witness_HandlersAndTasks_held :
    (let s := labMsg.upMe (fun k => { k with hq := k.hq.set 1 [message 1 0], cmask := 0, hold := [{ message 1 1 with kind := .msg }] })
     s.me.hold = [message 1 1] ∧ (message 1 1).kind = .msg ∧ (message 1 1).cls ≠ 0 ∧ s.me.cmask.getLsbD (message 1 1).cls = false ∧
      msgLevel (message 1 1) s.me = 2) ∧
    (let s := labMsg.upMe (fun k => { k with hold := [message 1 2] })
     ∀ q ∈ s.me.hold, q.cls ≠ 0 ∧ s.me.cmask.getLsbD q.cls = true) := by decide +kernel

theorem witness_MaskWindowHalt_held :
    (let s := labMsg.upMe (fun k => { k with hold := [message 1 1, message 1 1] })
     (∀ q ∈ s.me.hold, q.kind = .msg ∧ q.cls ≠ 0 ∧ ((2 : BitVec 8) &&& 0xFE).getLsbD q.cls = true ∧ msgLevel q s.me = 2) ∧
      (s.me.hq[2]?.getD []).length + s.me.hold.length ≤ 64 ∧
      ∀ q ∈ s.me.hold, q.cls ≠ 0 ∧ (((0xFF : BitVec 8) &&& 0xFE) &&& ~~~(4 : BitVec 8)).getLsbD q.cls = true) ∧
    (let s := labMsg.upMe (fun k => { k with hq := k.hq.set 2 (List.replicate 64 (message 1 1)) })
     64 ≤ (s.me.hq[2]?.getD []).length) := by decide +kernel

theorem val32_one : val32 0x3F800000 = 1 := by
  have h : (0x3F800000 : W32).toNat % 2 ^ 31 = 0x3F800000 ∧ (0x3F800000 : W32).msb = false := by decide
  simp only [val32, FpFmt.mag, h, show fp32 = (⟨8, 23, 127, 0x7F7FFFFF, some 0x7F800000, some 0x7FC00000⟩ : FpFmt) from rfl]
  norm_num

theorem witness_VectorFloat_finite : Finite32 0x3F800000 ∧ val32 0x3F800000 = 1 ∧ Binade (val32 0x3F800000 : ℝ) 0 ∧
    (0x7F800000 : W32).toNat % 2 ^ 31 = 0x7F800000 := by
  refine ⟨?_, val32_one, ?_, by decide⟩
  · unfold Finite32; decide
  · rw [val32_one]; unfold Binade; norm_num

/-- A rule table of one slot at PA 0x400000, which another rule fills. -/
noncomputable def labRules : State :=
  let j : Job := { groupJob with launch := { groupJob.launch with lpb := groupJob.launch.lpb.set 12 0 } }
  { labGroup with jobs := [j], mem := labGroup.mem.writeBytes 0x400000 (leBytes 8 0x8000000000000123) }

theorem witness_NetMessages_full :
    let j : Job := { groupJob with launch := { groupJob.launch with lpb := groupJob.launch.lpb.set 12 0 } }
    labRules.job? labRules.me.colour = some j ∧ labRules.inTwin = false ∧ labRules.me.stores = 0 ∧ labRules.releaseHold = false ∧
      labRules.plan (j.word 11 + BitVec.ofNat 64 (16 * ((4099 * 0 + 7 + 63) % 2 ^ bits (j.word 12) 0 5))) 16 false =
        .go 0x400000 false true false ∧
      (BitVec.ofNat 64 (leVal (labRules.bytesAt labRules.cur 0x400000 8)) : Word).getLsbD 63 = true ∧
      (BitVec.ofNat 64 (leVal (labRules.bytesAt labRules.cur 0x400000 8)) : Word).toNat % 2 ^ 24 ≠ 0x7000 := by decide +kernel

theorem witness_PhotonicIssue_pending :
    (let s := lab.upMe (fun k => { k with unfinished := [], pend := [⟨Code.drift, 0, 0, 0, false⟩] })
     (0 : Nat) < s.me.unfinished.countP (fun k => decide (k < s.me.muNext)) + s.me.pend.countP (fun f => f.code == Code.drift)) ∧
    (lab.mu 0).pauseMu = false := by decide +kernel

/-- A decomposition into host memory while the link is down. -/
noncomputable def labDown : State :=
  (labTlb.upCluster 0 (fun k => { k with tlb := ⟨0x10000, 0, none, 0x800000000000, 0, false, true, true, true⟩ :: k.tlb })).upHub
    (fun h => { h with link := .down })

theorem witness_ProbesAndDecompositions_waits :
    (match labDown.deRun ⟨0, 1, 0x10000, 0, 0, some 0, 1, false⟩ with | .ok _ => false | .error (c, _) => c == 0) = true := by decide +kernel

theorem witness_Copies_fault :
    (match lab.cpRun { padCopy with regs := padCopy.regs.set 0 0x8000 } with | .ok _ => false | .error (c, _) => c != 0) = true ∧
    (let q : Copy := { padCopy with moved := true, status := 5 }; q.moved = true ∧ lab.cpHeld q = false) := by decide +kernel

theorem witness_DialCommands_window :
    labDial.releaseHold = false ∧
    (let s := labDial.upPort 0 (fun k => { k with window := some 0 }); s.windowNames 0 5 = true ∧ labDial.windowNames 0 5 = false) ∧
    canonPair 0xFFC000013F800000 = 0x7FC000003F800000 := by decide +kernel

theorem witness_DialTraffic_changes :
    (labDial.hub.lost = [] ∧ (∀ p : Fin 8, (labDial.port p.val).fails = [] ∧ (labDial.port p.val).farFails = []) ∧
      labDial.hub.rotating = false ∧ (labDial.upHub (fun h => { h with rotating := true })).hub.rotating = true) ∧
    (let s := (labVoq.upPort 0 (fun k => { k with resend := [(dialMsg, 0)] })).upHub (fun h => { h with rotating := true })
     s.windowTurn 0 0 = true ∧ (s.port 0).resend = (dialMsg, 0) :: [] ∧ dialMsg.pkg = 5 ∧ s.hub.slotPkg 0 0 = some 5 ∧ s.lit 0 = true ∧
      512 ≤ s.hub.windowTime 0 (s.port 0).n) ∧
    (let s := labDial.upHub (fun h => { h with dtime := [(0, 0x100000001)] }); s.hub.windowTime 0 1 < 512) ∧
    (let s := labDial.upPort 0 (fun k => { k with unacked := [dialMsg] })
     ((s.port 0).sending.toList ++ (s.port 0).unacked ++ (s.port 0).resend.map (·.1)).find? (fun m => m.c == 0 && m.n == 1) = some dialMsg ∧
      (dialMsg, 0) ∉ (s.port 0).resend) ∧
    (let s := labDial.upHub (fun h => { h with lost := [5] })
     s.hub.rotates = true ∧ s.hub.lost = [5] ∧ s.hub.pendCommit = false ∧ s.hub.dsigs = [] ∧ ∀ d : Fin 4, (s.die d.val).voq = []) := by
  decide +kernel

theorem witness_SupervisorWork_traced :
    (let s := labTwin.upLev (fun v => { v with sup := true })
     s.inTwin = true ∧ placeOf s.cur 0x100 = .trans ∧ s.twinStore 0x100 = true ∧ s.twinStore pad = false) ∧
    (let s := labSup.upHub (fun h => { h with trace := 0xB000000000010000 })
     s.hub.trace.getLsbD 63 = true ∧ s.cur < 512 ∧ ((s.cluster 0).trWrite - (s.cluster 0).trRead).toNat ≠ 2 ^ (12 - 5)) ∧
    (let s := labSup.upCluster 0 (fun k => { k with trWrite := 128 })
     ((s.cluster 0).trWrite - (s.cluster 0).trRead).toNat = 2 ^ (12 - 5)) := by decide +kernel

theorem witness_DebugCountersAndReplay_reads :
    (let s : State := { lab.upMe (fun k => { k with dbg := .stopped }) with damage := [(padKey 0 256 / 8, 1)] }
     (s.core 0).dbg = .stopped ∧ s.damage = [(padKey 0 256 / 8, 1)] ∧ detectable 1 = true ∧ s.mem.wf = true) ∧
    (let p : Pass := ⟨0, 0, 1, 0, false, true, false, false, false, 0, 0, 0, none⟩
     p.writes 2 0 = true ∧ p.writes 2 0xF000 = true ∧ p.writes 0 0 = false ∧ p.writes 2 1024 = false) ∧
    (let s := lab.upLev (fun v => { v with wait := some ⟨.ext, 0, 3, 0, false, false⟩ })
     (s.core 0).lv[(0 : Fin 4)].asleep = true ∧ (lab.core 0).lv[(0 : Fin 4)].asleep = false) ∧
    (let s : State := { labReplay [session false 2] with jobs := [outJob] }
     s.job? 2 = some outJob ∧ outJob.out = true ∧ s.session 2 = some (session false 2)) ∧
    (let s := lab.upMe (fun k => { k with evc := k.evc.set 0 ⟨2, 0, 5⟩ })
     s.me.evc[(0 : Fin 4)].event.toNat = 2 ∧ s.me.evc[(0 : Fin 4)].mode = 0 ∧ lab.me.evc[(0 : Fin 4)].event.toNat ∉ [1, 2, 3, 7]) := by
  decide +kernel

theorem witness_HubAndPlatform_probes :
    ((State.reset.upHub (fun h => { h with step := 3 })).hub.step = 3 ∧ (∀ m : Fin 64, (State.reset.mu m.val).since = []) ∧
      ∀ cl : Fin 32, (State.reset.cluster cl.val).job = none) ∧
    (10 ≤ (12 : Nat) ∧ (0 : Int) < ((10 : Int) - 8) * ((8 : Int) - 6) ∧ ((10 : Int) - 8) * ((8 : Int) - 9) ≤ 0) := by decide +kernel

theorem witness_QuietJobsEnd_out : let j : Job := { outJob with w := 2 }
    let s : State := { lab with jobs := [j] }
    s.job? 2 = some j ∧ j.out = true ∧ 1 ∈ j.clusters ∧ 1 ∈ j.saved ∧ 0 ∉ j.saved := by decide +kernel

theorem witness_SubmissionsAndDispatch_consumed :
    (lab.upQueue 0 (fun k => { k with stats := [(0, 3)] })).hub.fail = false ∧ (lab.queue 0).en = false ∧
    (let s := lab.upQueue 0 (fun k => { k with en := true }); (s.queue 0).en = true) ∧
    (BitVec.ofNat 32 0 - (5 : Word).setWidth 32).msb = true := by decide +kernel

theorem witness_JobsLeaveTheirPartition_missed :
    (let j : Job := { probeJob with preempting := true, missed := true, saved := [0] }
     let s : State := { lab.upCore 0 (fun k => { k with status := .fenced }) with jobs := [j] }
     s.job? 1 = some j ∧ j.preempting = true ∧ j.out = false ∧ j.ending = none ∧ j.contain = false ∧ s.rectBusy j = false ∧
      s.activationsDone j = true) ∧
    (let j : Job := { probeJob with ending := some ⟨6, 1, 0⟩, contain := true }
     let s : State := { lab.upHub (fun h => { h with rect := [(0, 0xC000000000000000)], link := .down }) with jobs := [j] }
     (NMap.get s.hub.rect 0 0).getLsbD 62 = true ∧ s.jobs = [j] ∧ j.ending = some ⟨6, 1, 0⟩ ∧ s.hub.link ≠ .up ∧
      inRect 0xC000000000000000 0 = true ∧ (s.cluster 0).job = some j.colour ∧ s.damage = [] ∧ s.poison = []) := by decide +kernel

/-- The next instruction of core 0 is a PPASS and its MU's queue is full. -/
noncomputable def labFullQueue : State :=
  (State.reset.withFetchWord 32 0x7E040C08).upMu 0 (fun m => { m with q := List.replicate 8 (muCmd [.probe]) })

theorem witness_StepRunsDecoded_full :
    (match decodeWords ((fetching labFullQueue).fetchWords 0) with | .ok (i, _) => i == .ppass ⟨false, [.pgx]⟩ 2 | .error _ => false) = true ∧
    (match exec (.ppass ⟨false, [.pgx]⟩ 2) (fetching labFullQueue).issued with
      | .next t => t.lev.wait.any (fun w => w.reason == .awake && !w.fence)
      | _ => false) = true := by decide +kernel

theorem witness_EveryFormCompletes_probes : (∀ m : Fin 64, (lab.mu m.val).since = []) ∧
    (lab.upHub (fun h => { h with power := [(0, .tripped)] })).powerOf 0 = .tripped := by decide +kernel

end Sys2Proof.Tests
end

section
/-! SUPPORT. The machine right after cold reset: every unit at its reset value, and what the hub register window then reads. -/

namespace Sys2Proof.Machine

/-! ### The units at reset -/

@[simp] theorem State.reset_core (c : Nat) : State.reset.core c = Core.initial c := rfl
@[simp] theorem State.reset_cluster (cl : Nat) : State.reset.cluster cl = Cluster.initial := rfl
@[simp] theorem State.reset_mu (m : Nat) : State.reset.mu m = Mu.initial m := rfl
@[simp] theorem State.reset_die (d : Nat) : State.reset.die d = Die.initial := rfl
@[simp] theorem State.reset_slice (sl : Nat) : State.reset.slice sl = Slice.initial := rfl
@[simp] theorem State.reset_queue (q : Nat) : State.reset.queue q = Queue.initial := rfl
@[simp] theorem State.reset_hub : State.reset.hub = Hub.initial := rfl

/-! ### Registers of a core -/

/-- Every level's own registers and the shared ones are replicated zeros (log 6). -/
theorem Core.initial_getX (c : Nat) (l : Fin 4) (r : XReg) : (Core.initial c).getX l r = 0 := by
  have hlv : (Core.initial c).lv[l] = Level.zero := by simp [Core.initial]
  unfold Core.getX
  split
  · rfl
  · split
    · next hr => simp [hlv, Level.zero, hr]
    · next hr =>
      have hshared : r.toNat - 32 < 32 := by omega
      simp [Core.initial, hshared]

/-! ### Weights of the Matrix Units (R169) -/

theorem Mu.initial_wgt_even (cl : Nat) : (Mu.initial (2 * cl)).wgt = 0x11111111 := by simp [Mu.initial]
theorem Mu.initial_wgt_odd (cl : Nat) : (Mu.initial (2 * cl + 1)).wgt = 0x1111111100000000 := by simp [Mu.initial]

/-! ### Health registers (R338, R368) -/

theorem State.readReg_health (s : State) (i : Nat) (hi : i < 61) : s.readReg (0x40200 + 8 * i) = s.hub.healthReg i := by
  have haligned : (0x40200 + 8 * i) % 8 = 0 := by omega
  have hindex : (0x40200 + 8 * i - 0x40200) / 8 = i := by omega
  unfold State.readReg
  simp (disch := omega) only [haligned, hindex, if_neg, if_pos]

theorem Hub.initial_healthReg (i : Nat) : Hub.initial.healthReg i = 0xFFFFFFFF := rfl

end Sys2Proof.Machine

namespace Sys2Proof.Proofs

open Sys2Proof.Machine

/-- Settles O55: each unit at reset is its initial value, and the register reads follow from those of the hub. -/
theorem resetState : Obligations.ResetState := by
  unfold Obligations.ResetState
  refine ⟨fun c => ?core, fun cl => ?cluster, fun m => ?mu, fun cl => ?weights, fun d => ?die, fun sl e => ?slice,
    fun q => ?queue, fun i hi => ?health, ?hubAndMemory⟩
  case core =>
    rw [State.reset_core]
    exact ⟨rfl, rfl, rfl, rfl, rfl, rfl, Core.initial_getX c⟩
  case cluster => simp [Cluster.initial]
  case mu => simp [Mu.initial]
  case weights => exact ⟨Mu.initial_wgt_even cl, Mu.initial_wgt_odd cl⟩
  case die => simp [Die.initial]
  case slice => simp [Slice.initial, TkEntry.initial]
  case queue => simp [Queue.initial]
  case health => rw [State.readReg_health _ i hi, State.reset_hub, Hub.initial_healthReg]
  case hubAndMemory => exact ⟨rfl, rfl, rfl, rfl, rfl, rfl, rfl, fun _ => rfl⟩

end Sys2Proof.Proofs
end

section
/-! SUPPORT. What reporting a fault leaves as it is: the fault log, class 1 faults, the end of a job, machine checks, and the
recovery of stripes. -/

namespace Sys2Proof.Machine

@[simp] theorem NMap.get_erase {α : Type} (m : NMap α) (z : α) (k : Nat) : NMap.get (NMap.erase m k) z k = z := by
  unfold NMap.erase
  induction m with
  | nil => rfl
  | cons e r ih =>
    obtain ⟨j, v⟩ := e
    by_cases hj : j = k <;> simp [NMap.get, hj, ih]

theorem State.trace_cores (s : State) (c kind cost : Nat) (entry val : Word) :
    (s.trace c kind cost entry val).cores = s.cores := by
  unfold State.trace
  extract_lets
  split
  · split
    · rw [State.upHub_cores]
    · rw [State.upCluster_cores, State.poke_units]
  · rfl

@[simp] theorem State.core_traceRun (s : State) (c kind : Nat) (val : Word) (j : Nat) :
    (s.traceRun c kind val).core j = s.core j := by
  unfold State.traceRun State.core
  rw [State.trace_cores]

/-! ### The split of a die (R72) -/

/-- No die's split of its slices, in force or in progress, has changed (R72). -/
def SameSplits (s t : State) : Prop := ∀ d, (t.die d).scr = (s.die d).scr ∧ (t.die d).oldScr = (s.die d).oldScr

theorem SameSplits.refl (s : State) : SameSplits s s := fun _ => ⟨rfl, rfl⟩

theorem SameSplits.trans {s t u : State} (h : SameSplits s t) (g : SameSplits t u) : SameSplits s u :=
  fun d => ⟨(g d).1.trans (h d).1, (g d).2.trans (h d).2⟩

/-- Whatever leaves the dies as they are leaves their splits. -/
theorem SameSplits.of_dies {s t u : State} (h : SameSplits s t) (e : u.dies = t.dies) : SameSplits s u := by
  intro d
  unfold State.die
  rw [e]
  exact h d

theorem SameSplits.upDie {s t : State} (h : SameSplits s t) (d : Nat) {f : Die → Die}
    (hf : ∀ k, (f k).scr = k.scr ∧ (f k).oldScr = k.oldScr) : SameSplits s (t.upDie d f) := by
  refine h.trans fun j => ?_
  rw [State.die_upDie]
  split
  · next e => subst e; exact hf _
  · exact ⟨rfl, rfl⟩

/-! ### Reports of faults (R381, R384, R386) -/

/-- A fault has been reported, or its job ended: cores may stop or hold the fault, dies log it, jobs may end. No level of a
core has changed, no core has started, and nothing else but what is on its way. -/
structure Reported (s t : State) : Prop where
  units : t = { s with cores := t.cores, dies := t.dies, jobs := t.jobs, agenda := t.agenda, ids := t.ids }
  levels : ∀ c, (t.core c).lv = (s.core c).lv
  starts : ∀ c, (t.core c).status = .running → (s.core c).status = .running
  splits : SameSplits s t

theorem Reported.refl (s : State) : Reported s s := ⟨rfl, fun _ => rfl, fun _ h => h, .refl s⟩

theorem Reported.cluster {s t : State} (h : Reported s t) (cl : Nat) : t.cluster cl = s.cluster cl := by rw [h.units]; rfl
theorem Reported.mu {s t : State} (h : Reported s t) (m : Nat) : t.mu m = s.mu m := by rw [h.units]; rfl
theorem Reported.mem {s t : State} (h : Reported s t) : t.mem = s.mem := by rw [h.units]

theorem Reported.upJob {s t : State} (h : Reported s t) (colour : Nat) (f : Job → Job) : Reported s (t.upJob colour f) :=
  ⟨by rw [h.units]; rfl, h.levels, h.starts, h.splits⟩

theorem Reported.pushFree {s t : State} (h : Reported s t) (ev : Instr) : Reported s (t.pushFree ev) :=
  ⟨by rw [h.units]; rfl, h.levels, h.starts, h.splits⟩

theorem Reported.upDie {s t : State} (h : Reported s t) (d : Nat) {f : Die → Die}
    (hf : ∀ k, (f k).scr = k.scr ∧ (f k).oldScr = k.oldScr) : Reported s (t.upDie d f) :=
  ⟨by rw [h.units]; rfl, h.levels, h.starts, h.splits.upDie d hf⟩

theorem Reported.upCore {s t : State} (h : Reported s t) (c : Nat) {f : Core → Core} (hlv : ∀ k, (f k).lv = k.lv)
    (hst : ∀ k, (f k).status = .running → k.status = .running) : Reported s (t.upCore c f) := by
  refine ⟨by rw [h.units]; rfl, fun j => ?_, fun j hj => h.starts j ?_, h.splits⟩
  · rw [← h.levels j, State.core_upCore]
    split
    · next e => subst e; exact hlv _
    · rfl
  · rw [State.core_upCore] at hj
    split at hj
    · next e => subst e; exact hst _ hj
    · exact hj

theorem Reported.logRec {s t : State} (h : Reported s t) (die : Nat) (i : LogInfo) : Reported s (t.logRec die i) :=
  h.upDie die fun _ => ⟨rfl, rfl⟩

theorem Reported.logLost {s t : State} (h : Reported s t) (die : Nat) : Reported s (t.logLost die) :=
  h.upDie die fun _ => ⟨rfl, rfl⟩

theorem Reported.halt {s t : State} (h : Reported s t) (c : Nat) :
    Reported s (t.upCore c (fun k => if k.status = .running then { k with status := .halted } else k)) := by
  refine h.upCore c (fun k => ?_) (fun k hk => ?_)
  · split <;> rfl
  · split at hk
    · cases hk
    · exact hk

theorem Reported.endJob {s t : State} (h : Reported s t) (colour status detail : Nat) (value : Word) :
    Reported s (t.endJob colour status detail value) := by
  unfold State.endJob
  split
  · exact h
  · dsimp only
    split
    · exact h
    · refine .pushFree ?_ _
      split
      · exact h.upJob colour _
      · exact List.foldlRecOn (motive := Reported s) _ _ (h.upJob colour _) fun u hu c _ => hu.halt c

theorem Reported.hold1 {s t : State} (h : Reported s t) (c : Nat) (f : PendFault) : Reported s (t.hold1 c f) := by
  unfold State.hold1
  split
  · exact h.upCore c (fun _ => rfl) (fun _ hk => hk)
  · exact h.logLost _

theorem Reported.raise1 {s t : State} (h : Reported s t) (first : Option Nat) (cl colour : Nat) (f : PendFault) :
    Reported s (t.raise1 first cl colour f) := by
  unfold State.raise1
  dsimp only
  split
  · exact h.hold1 _ f
  · refine .endJob ?_ _ _ _ _
    split
    · exact h
    · exact h.logRec _ _

theorem Reported.report1 {s t : State} (h : Reported s t) (first : Option Nat) (cl : Nat) (i : LogInfo) (f : PendFault) :
    Reported s (t.report1 first cl i f) := by
  unfold State.report1
  dsimp only
  split
  · exact h.logRec _ i
  · exact (h.logRec _ i).raise1 first cl i.colour f

/-! ### Machine checks and recovery (R385, R408, R409) -/

@[simp] theorem State.eventWord_dies (s : State) (w : Nat) : (s.eventWord w).dies = s.dies := by
  unfold State.eventWord
  split <;> rfl

@[simp] theorem State.contain_dies (s : State) (n : Nat) : (s.contain n).dies = s.dies := by
  unfold State.contain
  dsimp only
  split <;> rfl

@[simp] theorem State.xorWord_dies (s : State) (w : Nat) (m : Word) : (s.xorWord w m).dies = s.dies := by
  unfold State.xorWord
  dsimp only
  repeat' split
  all_goals rfl

theorem State.xorWords_dies (s : State) (l : List (Nat × Word)) :
    (l.foldl (fun u e => u.xorWord e.1 e.2) s).dies = s.dies :=
  List.foldlRecOn (motive := fun u : State => u.dies = s.dies) l _ rfl fun u hu e _ => (u.xorWord_dies e.1 e.2).trans hu

theorem SameSplits.endJob {s t : State} (h : SameSplits s t) (colour status detail : Nat) (value : Word) :
    SameSplits s (t.endJob colour status detail value) :=
  h.trans ((Reported.refl t).endJob colour status detail value).splits

theorem SameSplits.containJob {s t : State} (h : SameSplits s t) (colour cl code : Nat) :
    SameSplits s (t.containJob colour cl code) := by
  have ended : SameSplits s (t.endJob colour 6 code) := h.endJob colour 6 code 0
  unfold State.containJob
  dsimp only
  split
  · exact ended.of_dies (by rw [State.contain_dies, State.upJob_dies])
  · exact ended.of_dies (State.upJob_dies _ _ _)

theorem SameSplits.machineCheck {s t : State} (h : SameSplits s t) (die cl : Nat) (i : LogInfo) :
    SameSplits s (t.machineCheck die cl i) := by
  have logged : SameSplits s (t.logRec die i) := h.trans ((Reported.refl t).logRec die i).splits
  have told : ∀ u, u.dies = (t.logRec die i).dies →
      SameSplits s (if i.colour = 0 then u else u.containJob i.colour cl i.code) := by
    intro u hu
    split
    · exact logged.of_dies hu
    · exact (logged.of_dies hu).containJob _ _ _
  unfold State.machineCheck
  refine told _ ?_
  split
  · exact State.eventWord_dies _ _
  · rfl

theorem SameSplits.recover {s t : State} (h : SameSplits s t) (stripe : Nat) : SameSplits s (t.recover stripe) := by
  unfold State.recover
  dsimp only
  split
  · exact h
  · refine h.of_dies ?_
    dsimp only
    rw [State.xorWord_dies]
  · split
    · split
      · refine h.of_dies ?_
        dsimp only
        rw [State.xorWords_dies]
      · refine .machineCheck (h.of_dies ?_) _ _ _
        dsimp only
        rw [State.xorWords_dies]
    · split
      · exact h
      · refine .machineCheck (h.of_dies ?_) _ _ _
        rfl

theorem SameSplits.settle {s t : State} (h : SameSplits s t) (key n : Nat) : SameSplits s (t.settle key n) :=
  List.foldlRecOn (motive := SameSplits s) _ _ h fun _ hu st _ => hu.recover st

theorem SameSplits.evict {s t : State} (h : SameSplits s t) (sel : Nat → Bool) : SameSplits s (t.evict sel) := by
  unfold State.evict
  dsimp only
  refine List.foldlRecOn (motive := SameSplits s) _ _ (.of_dies ?_ rfl) fun _ hu _ _ => hu.machineCheck _ _ _
  refine List.foldlRecOn (motive := SameSplits s) _ _ h fun u hu e _ => ?_
  split
  · exact hu.settle _ _
  · exact hu.of_dies (u.xorWord_dies _ _)

end Sys2Proof.Machine
end

section
/-! SUPPORT. What events of cores, Ponds, twins, dies, the hub and the debugger do, and the supervisor's tools: one lemma for
each. -/

namespace Sys2Proof.Machine

/-- Every arm of `exec` is `.next` of a state: the machine takes every fault of the manual as a next state. -/
theorem exec_next (i : Instr) (s : State) : ∃ t, exec i s = .next t := by
  cases i <;> exact ⟨_, rfl⟩

/-! ### At a boundary of a core (R370, R381, R397, R405) -/

theorem runs_breakpoint (c : Nat) (s : State) : Runs (.breakpoint c) s fun t =>
    t.core c = { s.core c with dbg := .stopped, broke := true } ∧ ∀ x, x ≠ c → t.core x = s.core x := by
  refine ⟨_, rfl, ?_, fun x hx => ?_⟩
  · rw [State.core_traceRun, State.core_upCore, if_pos rfl]
  · rw [State.core_traceRun, State.core_upCore, if_neg hx.symm]

theorem runs_tickMiss (c : Nat) (s : State) : Runs (.tickMiss c) s fun t =>
    (t.core c).status ≠ .running ∧ (t.core c).lv = (s.core c).lv := by
  have fenced := State.core_setCore s c c { s.core c with status := .fenced }
  rw [if_pos rfl] at fenced
  have told : ∀ t, Reported (s.setCore c { s.core c with status := .fenced }) t →
      (t.core c).status ≠ .running ∧ (t.core c).lv = (s.core c).lv := by
    intro t h
    refine ⟨fun hr => ?_, ?_⟩
    · have := h.starts c hr
      rw [fenced] at this
      cases this
    · rw [h.levels c, fenced]
  refine ⟨_, rfl, told _ (iteInduction (fun _ => ?_) (fun _ => ?_))⟩
  · exact ((Reported.refl _).logRec _ _).endJob _ _ _ _
  · exact ((Reported.refl _).upJob _ _).report1 _ _ _ _

theorem exec_asyncFaultTake (c : Nat) (f : PendFault) (r : List PendFault) (s : State) (hp : (s.core c).pend = f :: r)
    (ha : (s.core c).lv[(s.core c).lvl].active = false) :
    exec (.asyncFaultTake c) s = .next ((s.setCore c { s.core c with pend := r }).takeTrap c f.code
      (s.core c).lv[(s.core c).lvl].pc f.tval f.text) := by
  change Host.Outcome.next (s.take1 c) = _
  unfold State.take1
  dsimp only
  rw [hp]
  dsimp only
  rw [if_neg (by rw [ha]; exact Bool.false_ne_true)]

theorem runs_fpExcWindowClose (cl : Nat) (s : State) : Runs (.fpExcWindowClose cl) s fun t =>
    (t.cluster cl).fp = [] ∧ (t.cluster cl).fpOpen = false := by
  have closed := State.cluster_setCluster s cl cl { s.cluster cl with fp := [], fpOpen := false }
  rw [if_pos rfl] at closed
  have told : ∀ t, Reported (s.setCluster cl { s.cluster cl with fp := [], fpOpen := false }) t →
      (t.cluster cl).fp = [] ∧ (t.cluster cl).fpOpen = false := by
    intro t h
    rw [h.cluster, closed]
    exact ⟨rfl, rfl⟩
  refine ⟨_, rfl, told _ ?_⟩
  split
  · exact .refl _
  · exact ((Reported.refl _).logRec _ _).raise1 _ _ _ _

/-! ### Ponds (R50) -/

theorem runs_pondRequestRound (cl : Nat) (s : State) (j : Job) (hj : s.jobAt cl = some j) : Runs (.pondRequestRound cl) s fun t =>
    (t.cluster cl).failed = (j.victims cl).isEmpty ∧ (t.cluster cl).round = !(j.victims cl).isEmpty ∧ t.cores = s.cores ∧
      t.mem = s.mem := by
  refine ⟨_, rfl, ?_⟩
  rw [hj]
  dsimp only
  unfold State.askPond
  cases j.victims cl <;> simp

theorem runs_pondWorkRequest_idle (cl thief : Nat) (rest : List Nat) (s : State) (hj : s.jobAt cl = none) :
    Runs (.pondWorkRequest cl thief rest) s fun t =>
    t = { s with agenda := t.agenda, ids := t.ids } ∧
      ∃ chan, t.agenda = s.agenda ++ [⟨chan, .pondHandover thief cl [] rest⟩] := by
  refine ⟨_, rfl, ?_⟩
  dsimp only
  rw [hj]
  exact ⟨rfl, _, rfl⟩

theorem State.pushEach_cluster (s : State) (l : List Nat) (ev : Nat → Instr) (cl : Nat) :
    (l.foldl (fun u o => u.pushFree (ev o)) s).cluster cl = s.cluster cl :=
  List.foldlRecOn (motive := fun u : State => u.cluster cl = s.cluster cl) l _ rfl fun _ hu _ _ => hu

/-- A change of a Pond moves where it stands to its watermarks, and none of its pairs. -/
theorem State.pondChanged_pairs (s : State) (cl : Nat) : ((s.pondChanged cl).cluster cl).pond = (s.cluster cl).pond ∧
    ((s.pondChanged cl).cluster cl).stalled = (s.cluster cl).stalled := by
  unfold State.pondChanged
  extract_lets k n high low rise s₁ others s₂
  have told : s₂.cluster cl = s₁.cluster cl :=
    iteInduction (motive := fun u : State => u.cluster cl = s₁.cluster cl) (fun _ => State.pushEach_cluster s₁ _ _ cl)
      (fun _ => rfl)
  split <;> simp [told, s₁, k]

theorem State.pondRefill_of_stalled_nil (s : State) (j : Job) (cl : Nat) (h : (s.cluster cl).stalled = []) :
    s.pondRefill j cl = s := by
  unfold State.pondRefill
  rw [h]
  rfl

theorem runs_pondWorkRequest (cl thief : Nat) (rest : List Nat) (s : State) (j : Job) (hj : s.jobAt cl = some j)
    (hs : (s.cluster cl).stalled = []) (hn : (s.cluster cl).highm + 2 ≤ (s.cluster cl).pond.length) :
    let k := s.cluster cl
    let n := (k.pond.length - k.highm) / 2
    Runs (.pondWorkRequest cl thief rest) s fun t => (t.cluster cl).pond = k.pond.drop n ∧
      ∃ f ∈ t.agenda, f.ev = .pondHandover thief cl (k.pond.take n) [] := by
  intro k n
  refine ⟨_, rfl, ?_⟩
  dsimp only
  rw [hj]
  dsimp only
  rw [if_pos (by omega), if_neg (by omega)]
  obtain ⟨pairs, stalled⟩ := (s.setCluster cl { k with pond := k.pond.drop n }).pondChanged_pairs cl
  simp only [State.cluster_setCluster, if_pos] at pairs stalled
  rw [State.pondRefill_of_stalled_nil _ _ _ (stalled.trans hs)]
  exact ⟨pairs, _, List.mem_append_right _ (List.mem_singleton.2 rfl), rfl⟩

theorem runs_pondHandover_refused (cl victim : Nat) (s : State) : Runs (.pondHandover cl victim [] []) s fun t =>
    (t.cluster cl).round = false ∧ (t.cluster cl).failed = true :=
  ⟨_, rfl, by simp [State.askPond]⟩

theorem runs_pondHighmAnnounce (cl other : Nat) (s : State) (hf : (s.cluster cl).failed = true)
    (hl : (s.cluster cl).pond.length < (s.cluster cl).lowm) (hst : (s.cluster cl).steal = true)
    (hd : (s.cluster cl).det = false) : Runs (.pondHighmAnnounce cl other) s fun t => (t.cluster cl).round = true ∧
      ∃ f ∈ t.agenda, f.ev = .pondRequestRound cl := by
  refine ⟨_, rfl, ?_⟩
  simp [hf, hl, hst, hd]

/-! ### Twins (R414) -/

theorem runs_twinCompare (cl : Nat) (s : State) (j : Job) (r : TwinRun) (hj : s.jobAt cl = some j)
    (hr : (s.cluster cl).twins.find? (fun t => t.done.length == t.cores.length) = some r) (hc : r.cores.length = 2)
    (hst : r.streams = [[], []]) (hsl : r.slots = []) : Runs (.twinCompare cl) s fun t => t.cores = s.cores ∧ t.mem = s.mem ∧
      t.agenda = s.agenda ∧ (t.cluster cl).acts = ((s.cluster cl).acts + 1) % 2 ^ 48 ∧
      (t.cluster cl).twins = (s.cluster cl).twins.filter (·.id != r.id) := by
  refine ⟨_, rfl, ?_⟩
  rw [hj, hr]
  simp [hc, hst, hsl, State.endTwin, State.perform, State.returnSlots]

/-! ### Walks and splits (R72, R73 to R78) -/

theorem exec_tlbWalk_error (w : Walk) (s : State) (code : Nat) (hd : s.damage = []) :
    let u := s.upDie (dieOfCluster w.cl) (fun d => { d with pool := s.poolFill w.root w.va d.pool })
    u.walk w.cl w.root w.va = .error code → exec (.tlbWalk w) s = .next u := by
  intro u hw
  have settled : s.settleWalk w.root w.va = s := by
    unfold State.settleWalk
    rw [hd]
    rfl
  change Host.Outcome.next (s.doWalk w) = _
  unfold State.doWalk
  rw [settled]
  dsimp only
  rw [hw]

theorem runs_basinSplitDone (die old : Nat) (s : State) (h : (s.die die).oldScr = some old) :
    Runs (.basinSplitDone die) s fun t => (t.die die).oldScr = none ∧ (t.die die).scr = (s.die die).scr := by
  have done := State.die_setDie s die die { s.die die with oldScr := none }
  rw [if_pos rfl] at done
  have kept : ∀ t, SameSplits (s.setDie die { s.die die with oldScr := none }) t →
      (t.die die).oldScr = none ∧ (t.die die).scr = (s.die die).scr := by
    intro t h
    rw [(h die).1, (h die).2, done]
    exact ⟨rfl, rfl⟩
  refine ⟨_, rfl, kept _ ?_⟩
  rw [h]
  dsimp only
  split
  · exact .of_dies (.refl _) rfl
  · exact List.foldlRecOn (motive := SameSplits _) _ _ (.evict (.refl _) _) fun _ hu _ _ => hu.of_dies rfl

theorem runs_basinSplitWrite (die : Nat) (v : Word) (s : State) (h : (s.die die).oldScr = none)
    (hv : v.toNat % 16 ≠ (s.die die).scr) : Runs (.basinSplitWrite die v) s fun t =>
    (t.die die).scr = v.toNat % 16 ∧ ∃ f ∈ t.agenda, f.ev = .basinSplitDone die := by
  have hb : bits v 0 4 = v.toNat % 16 := by simp [bits]
  refine ⟨_, rfl, ?_⟩
  simp [State.splitWrite, h, hb, hv]

/-! ### The hub (R367, R420, R421) -/

theorem runs_nqlLinkDown (s : State) (h : s.hub.link = .up) :
    Runs .nqlLinkDown s fun t => t.hub.link = .down ∧ t.mem = s.mem ∧ t.cores = s.cores := by
  refine ⟨_, rfl, ?_⟩
  rw [if_pos h]
  exact ⟨rfl, rfl, rfl⟩

theorem runs_nqlFail (s : State) (h : s.hub.link = .down) :
    Runs .nqlFail s fun t => t.hub.link = .failed ∧ t.mem = s.mem ∧ t.cores = s.cores := by
  refine ⟨_, rfl, ?_⟩
  rw [if_pos h]
  exact ⟨rfl, rfl, rfl⟩

theorem runs_nqlRetrain (s : State) : Runs .nqlRetrain s fun t => t.hub.link = .up ∧ t.mem = s.mem ∧ t.cores = s.cores :=
  ⟨_, rfl, rfl, rfl, rfl⟩

theorem runs_fastClamp (s : State) : Runs .fastClamp s fun t =>
    t.hub.clamped = true ∧ t.hub.clampW = true ∧ t.cores = s.cores := ⟨_, rfl, rfl, rfl, rfl⟩

theorem runs_clampRelease (s : State) : Runs .clampRelease s fun t => t.hub.clamped = false ∧ t.cores = s.cores :=
  ⟨_, rfl, rfl, rfl⟩

theorem runs_thermalTrip (die : Nat) (s : State) (h : s.jobs = []) : Runs (.thermalTrip die) s fun t =>
    t.powerOf die = .tripped ∧ t.hub.trip = true ∧ t.mem = s.mem := by
  refine ⟨_, rfl, ?_⟩
  simp [h, State.powerOf]

theorem runs_pcapWindowEnd (watts : Nat) (s : State) :
    Runs (.pcapWindowEnd watts) s fun t => t.hub.actual = watts % 2 ^ 16 ∧ t.mem = s.mem := ⟨_, rfl, rfl, rfl⟩

/-! ### The debugger (R371) -/

theorem runs_singleStep (c : Nat) (s : State) (hf : s.hub.fail = false) (hd : (s.core c).dbg = .stopped) :
    Runs (.singleStep c) s fun t => t.core c = { s.core c with dbg := .stepping false } := by
  refine ⟨_, rfl, ?_⟩
  simp [hf, hd]

theorem runs_stepUntilDrained (c : Nat) (s : State) (hf : s.hub.fail = false) (hd : (s.core c).dbg = .stopped) :
    Runs (.stepUntilDrained c) s fun t => t.core c = { s.core c with dbg := .stepping true } := by
  refine ⟨_, rfl, ?_⟩
  simp [hf, hd]

/-! ### The supervisor's tools (R299, R306 to R309) -/

theorem State.superv_of_sup {s : State} (h : s.lev.sup = true) (f : State → State) : s.superv f = f s := if_pos h

/-- An update of the executing core that leaves its levels leaves the program counter. -/
theorem State.pc_upMe (s : State) {f : Core → Core} (hlv : (f s.me).lv = s.me.lv) (hl : (f s.me).lvl = s.me.lvl) :
    (s.upMe f).pc = s.pc := by
  simp only [State.pc, State.lev_eq, State.me_upMe, hlv, hl]

theorem State.past_advance {s t : State} (h : Head) (e : t.pc = s.pc) : Past h s (t.advance h) := by
  unfold Past
  rw [State.pc_advance, e]

theorem past_evrd (h : Head) (d a : XReg) (s : State) (hs : s.lev.sup = true) : Runs (.evrd h d a) s (Past h s) := by
  refine ⟨_, rfl, ?_⟩
  rw [State.superv_of_sup hs]
  refine State.past_advance h ?_
  rw [State.pc_setX]
  split
  · rw [State.pc_upMe _ rfl rfl]
    split <;> rfl
  · split <;> rfl

theorem past_rpstat (h : Head) (d a : XReg) (s : State) (hs : s.lev.sup = true) : Runs (.rpstat h d a) s (Past h s) := by
  refine ⟨_, rfl, ?_⟩
  rw [State.superv_of_sup hs]
  exact State.past_advance h (State.pc_setX _ _ _)

theorem past_tpert (h : Head) (d a : XReg) (s : State) (hs : s.lev.sup = true) : Runs (.tpert h d a) s (Past h s) := by
  refine ⟨_, rfl, ?_⟩
  rw [State.superv_of_sup hs]
  exact State.past_advance h (State.pc_upMe s rfl rfl)

theorem past_pwrf (h : Head) (d a : XReg) (s : State) (hs : s.lev.sup = true) : Runs (.pwrf h d a) s (Past h s) := by
  refine ⟨_, rfl, ?_⟩
  rw [State.superv_of_sup hs]
  exact State.past_advance h rfl

theorem past_evsel (h : Head) (d a : XReg) (s : State) (hs : s.lev.sup = true) (hd : (s.getX d).toNat < 2 ^ 12) :
    Runs (.evsel h d a) s (Past h s) := by
  refine ⟨_, rfl, ?_⟩
  have assigned : ¬(2 ^ 14 ≤ (s.getX d).toNat ∨ bits (s.getX d) 12 2 = 3) := by
    unfold bits
    omega
  rw [State.superv_of_sup hs, if_neg assigned]
  exact State.past_advance h (State.pc_upMe s rfl rfl)

end Sys2Proof.Machine
end

section
/-! SUPPORT. A calibration outside any job (R415, R421). -/

namespace Sys2Proof.Machine

/-- No byte of memory and nothing of another MU has changed. -/
structure OnlyMu (m : Nat) (s t : State) : Prop where
  mem : t.mem = s.mem
  others : ∀ j, j ≠ m → t.mu j = s.mu j

theorem OnlyMu.upMu {m : Nat} {s t : State} (h : OnlyMu m s t) (f : Mu → Mu) : OnlyMu m s (t.upMu m f) :=
  ⟨h.mem, fun j hj => by rw [State.mu_upMu, if_neg hj.symm, h.others j hj]⟩

theorem OnlyMu.setMu {m : Nat} {s t : State} (h : OnlyMu m s t) (k : Mu) : OnlyMu m s (t.setMu m k) :=
  h.upMu fun _ => k

theorem OnlyMu.reported {m : Nat} {s t u : State} (h : OnlyMu m s t) (g : Reported t u) : OnlyMu m s u :=
  ⟨g.mem.trans h.mem, fun j hj => (g.mu j).trans (h.others j hj)⟩

/-- With no pass to mark, no header changes. -/
theorem OnlyMu.markSuspect_nil {m : Nat} {s t : State} (h : OnlyMu m s t) : OnlyMu m s (t.markSuspect m []) :=
  List.foldlRecOn (motive := OnlyMu m s) _ _ (h.upMu _) fun _ hu _ _ => hu

/-- A probe of no core, with no pass since the last that passed, measures its MU and reports. -/
theorem OnlyMu.probeEnds {m : Nat} {s t : State} (h : OnlyMu m s t) : OnlyMu m s (t.probeEnds m ⟨none, none, []⟩) := by
  have taken : OnlyMu m s { t with free := t.free + 256 } := ⟨h.mem, h.others⟩
  unfold State.probeEnds State.muServe
  refine .upMu (iteInduction (motive := OnlyMu m s) (fun _ => ?_) (fun _ => ?_)) _
  · exact (taken.setMu _).markSuspect_nil.reported ((Reported.refl _).report1 _ _ _ _)
  · exact taken.setMu _

theorem OnlyMu.calibrate {m : Nat} {s : State} (h : (s.mu m).since = []) : OnlyMu m s (s.calibrate m) := by
  have started : OnlyMu m s (s.upMu m (fun k => { k with stuck := [], dev := none, evalOk := true })) :=
    OnlyMu.upMu ⟨rfl, fun _ _ => rfl⟩ _
  unfold State.calibrate
  rw [h]
  exact started.probeEnds

theorem State.calibrateEach_mem (ms : List Nat) (hms : ms.Nodup) :
    ∀ s : State, (∀ m ∈ ms, (s.mu m).since = []) → (ms.foldl (fun (u : State) m => u.calibrate m) s).mem = s.mem := by
  induction ms with
  | nil => exact fun _ _ => rfl
  | cons m ms ih =>
    intro s h
    obtain ⟨hm, hms⟩ := List.nodup_cons.1 hms
    have only := OnlyMu.calibrate (h m List.mem_cons_self)
    rw [List.foldl_cons, ih hms, only.mem]
    intro j hj
    rw [only.others j (fun e => hm (e ▸ hj))]
    exact h j (List.mem_cons_of_mem m hj)

theorem runs_thermalRecovery (die : Nat) (s : State) (h : s.powerOf die = .tripped) : Runs (.thermalRecovery die) s fun t =>
    t.powerOf die = .full ∧ ((∀ m, m < 64 → (s.mu m).since = []) → t.mem = s.mem) := by
  refine ⟨_, rfl, ?_⟩
  rw [if_neg (by rw [h]; exact PowerState.noConfusion)]
  refine ⟨NMap.get_erase _ _ _, fun hs => State.calibrateEach_mem _ (List.nodup_range.filter _) s fun m hm => ?_⟩
  exact hs m (List.mem_range.1 (List.mem_of_mem_filter hm))

end Sys2Proof.Machine

namespace Sys2Proof.Proofs

open Sys2Proof.Machine

/-- Settles O54: every arm of `exec` is `.next` of a state, and each event and tool has its own effect. -/
theorem everyFormCompletes : Obligations.EveryFormCompletes := by
  unfold Obligations.EveryFormCompletes
  exact ⟨exec_next, runs_breakpoint, runs_tickMiss, exec_asyncFaultTake, runs_fpExcWindowClose, runs_pondRequestRound,
    runs_pondWorkRequest_idle, runs_pondWorkRequest, runs_pondHandover_refused, runs_pondHighmAnnounce, runs_twinCompare,
    exec_tlbWalk_error, runs_basinSplitDone, runs_basinSplitWrite, runs_nqlLinkDown, runs_nqlFail, fun s _ => runs_nqlRetrain s,
    fun s => ⟨runs_fastClamp s, runs_clampRelease s⟩, runs_thermalTrip, runs_thermalRecovery, runs_pcapWindowEnd,
    fun c s hf hd => ⟨runs_singleStep c s hf hd, runs_stepUntilDrained c s hf hd⟩,
    fun h d a s hs => ⟨past_evrd h d a s hs, past_rpstat h d a s hs, past_tpert h d a s hs, past_pwrf h d a s hs,
      past_evsel h d a s hs⟩⟩

end Sys2Proof.Proofs
end

section
/-! SUPPORT. What a step does, by the move that comes next: an instruction of a core, an event on its way, an event that the
state enables, and bring-up (R54, R56, R80, R180, R183, R362). -/

namespace Sys2Proof.Machine

/-! ### A step is the move that is next -/

theorem step_of_up (s : State) (h : 7 ≤ s.hub.step) : step s = s.begin.move s.pick := by
  unfold step
  rw [if_neg (by omega)]

theorem State.move_event (s : State) (k : Nat) (f : Flight) (h : s.agenda[k]? = some f) :
    s.move (.event k) = onNext (exec f.ev { s with agenda := s.agenda.eraseIdx k }) (State.afterEvent f.ev) := by
  unfold State.move
  dsimp only
  rw [h]
  rfl

/-- The end of a sleep is counted at the same core, and takes a free value (R373). -/
theorem State.slept_cur (s : State) : s.slept.cur = s.cur := by
  unfold State.slept
  split <;> rfl

theorem Fetches.cur {s u : State} {c : Nat} (h : Fetches s c u) : u.cur = c := by
  rw [h.state, State.slept_cur]

/-- Nothing stands between the core and its next instruction, so the step fetches and issues it. -/
theorem Fetches.step_eq {s u : State} {c : Nat} (h : Fetches s c u) : step s = u.fetchIssue := by
  obtain rfl := h.cur
  have hquiet := h.quiet
  unfold State.interrupted at hquiet
  simp only [Bool.or_eq_false_iff] at hquiet
  obtain ⟨⟨⟨hfaults, hpend⟩, hqueues⟩, -⟩ := hquiet
  have hnone : u.lev.faults = [] := by simpa [State.lev, State.me] using hfaults
  rw [step_of_up s h.up, h.turn]
  show s.begin.coreMove u.cur = _
  unfold State.coreMove
  rw [← h.state]
  dsimp only
  rw [hnone]
  dsimp only
  refine (if_neg (Bool.eq_false_iff.1 hpend)).trans ((if_neg (Bool.eq_false_iff.1 hqueues)).trans ?_)
  rw [h.quiet, h.stop, h.bit]
  rfl

/-! ### Fetching -/

theorem State.fetchIssue_of_outside (u : State) (h : u.me.codeEnd ≤ u.pc.toNat) :
    u.fetchIssue = .next (u.overlay u.cur u.pc u.lev.prev).touch := by
  unfold State.fetchIssue
  exact if_pos h

theorem Holds.fetchIssue {u : State} {i : Instr} (h : Holds u i) : u.fetchIssue = u.issue (u.select i) := by
  obtain ⟨n, hwords, hgood⟩ := h.word
  have hin : ¬ u.me.codeEnd ≤ u.lev.pc.toNat := Nat.not_le.2 h.inside
  unfold State.fetchIssue
  dsimp only
  rw [if_neg hin, hwords, hgood]

/-- Without damage no word that is fetched is bad (R407). -/
theorem State.fetchBad_of_damage_nil {ε : Type} (u : State) (r : Except ε (Instr × Nat)) (h : u.damage = []) :
    u.fetchBad r = none := by
  unfold State.fetchBad State.badStripe State.badStripes
  rw [h]
  rfl

theorem State.fetchIssue_of_error (u : State) (e : DecodeError) (hin : u.pc.toNat < u.me.codeEnd) (hd : u.damage = [])
    (he : decodeWords (u.fetchWords u.cur) = .error e) :
    u.fetchIssue = match (if markedWords (u.fetchWords u.cur) then u.markHold else none) with
      | some r => .next (u.holdBack r)
      | none => .next u.issued.illegal.touch := by
  have hin : ¬ u.me.codeEnd ≤ u.lev.pc.toNat := Nat.not_le.2 hin
  unfold State.fetchIssue
  dsimp only
  rw [if_neg hin, he, u.fetchBad_of_damage_nil _ hd] <;> rfl

/-! ### Issuing -/

theorem State.issue_of_held (u : State) (i : Instr) (r : WaitReason) (h : u.held? i = some r) :
    u.issue i = .next (u.holdBack r) := by
  unfold State.issue
  rw [h]

theorem State.issue_of_free (u : State) (i : Instr) (h : u.held? i = none) :
    u.issue i = if Instr.pops i && u.taskDue u.cur u.pairAtHand then
        onNext (exec (.taskStart u.cur) u) (fun t => State.afterCore u.cur (u.afterWait t))
      else onNext (u.enact i) (fun t => State.afterCore u.cur (u.afterWait t)) := by
  unfold State.issue
  rw [h]

theorem State.enact_of_next (u t : State) (i : Instr) (h : exec i u.issued = .next t) :
    u.enact i = if t.lev.wait.any (fun w => w.reason == .awake && !w.fence) then exec i u.unheld else .next t := by
  unfold State.enact
  rw [h]

/-! ### The clauses of a step -/

theorem Fetches.runs {s u : State} {c : Nat} {i : Instr} (h : Fetches s c u) (g : Holds u i)
    (free : u.held? (u.select i) = none) :
    ((Instr.pops (u.select i) && u.taskDue c u.pairAtHand) = false → ∀ t, exec (u.select i) u.issued = .next t →
      let full := t.lev.wait.any (fun w => w.reason == .awake && !w.fence)
      (full = false → step s = .next (State.afterCore c (u.afterWait t))) ∧
      (full = true → step s = onNext (exec (u.select i) u.unheld) (fun t => State.afterCore c (u.afterWait t)))) ∧
    ((Instr.pops (u.select i) && u.taskDue c u.pairAtHand) = true →
      step s = onNext (exec (.taskStart c) u) (fun t => State.afterCore c (u.afterWait t))) := by
  have issues := (h.step_eq.trans g.fetchIssue).trans (u.issue_of_free _ free)
  rw [h.cur] at issues
  refine ⟨fun hno t ht => ?_, fun htask => by rw [issues, if_pos htask]⟩
  rw [if_neg (by rw [hno]; exact Bool.false_ne_true), u.enact_of_next t _ ht] at issues
  refine ⟨fun hfull => ?_, fun hfull => ?_⟩
  · rw [issues, if_neg (by rw [hfull]; exact Bool.false_ne_true)]
    rfl
  · rw [issues, if_pos hfull]

theorem Fetches.step_of_held {s u : State} {c : Nat} {i : Instr} {r : WaitReason} (h : Fetches s c u) (g : Holds u i)
    (held : u.held? (u.select i) = some r) : step s = .next (u.holdBack r) :=
  (h.step_eq.trans g.fetchIssue).trans (u.issue_of_held _ r held)

theorem Fetches.step_of_error {s u : State} {c : Nat} {e : DecodeError} (h : Fetches s c u) (hin : u.pc.toNat < u.me.codeEnd)
    (hd : u.damage = []) (he : decodeWords (u.fetchWords c) = .error e) :
    (markedWords (u.fetchWords c) = false ∨ u.lev.out = [] → step s = .next u.issued.illegal.touch) ∧
    (markedWords (u.fetchWords c) = true → ∀ r, u.markHold = some r → step s = .next (u.holdBack r)) := by
  have stops := h.step_eq.trans (u.fetchIssue_of_error e hin hd (by rw [h.cur]; exact he))
  rw [h.cur] at stops
  refine ⟨fun hmark => ?_, fun hmark r hr => ?_⟩
  · have hnone : (if markedWords (u.fetchWords c) then u.markHold else none) = none := by
      obtain hm | ho := hmark
      · rw [hm]; rfl
      · unfold State.markHold
        dsimp only
        rw [ho]
        exact ite_self _
    rw [stops, hnone]
  · rw [stops, hmark, if_pos rfl, hr]

theorem Fetches.step_of_outside {s u : State} {c : Nat} (h : Fetches s c u) (hout : u.me.codeEnd ≤ u.pc.toNat) :
    step s = .next (u.overlay c u.pc u.lev.prev).touch := by
  rw [h.step_eq, u.fetchIssue_of_outside hout, h.cur]

theorem step_of_event (s : State) (k : Nat) (f : Flight) (hup : 7 ≤ s.hub.step) (hp : s.pick = .event k)
    (hf : s.agenda[k]? = some f) :
    step s = onNext (exec f.ev { s.begin with agenda := s.agenda.eraseIdx k }) (State.afterEvent f.ev) := by
  rw [step_of_up s hup, hp]
  exact s.begin.move_event k f hf

theorem step_of_own (s : State) (e : Instr) (hup : 7 ≤ s.hub.step) (hp : s.pick = .own e) :
    step s = onNext (exec e s.begin) (State.afterEvent e) := by
  rw [step_of_up s hup, hp]
  rfl

theorem step_in_bringUp (s : State) (i : Nat) (r : List Nat) (f : Flight) (hlow : s.hub.step < 7) (hh : s.heads = i :: r)
    (hf : s.agenda[i]? = some f) :
    step s = onNext (exec f.ev { s.begin with agenda := s.agenda.eraseIdx i }) (State.afterEvent f.ev) := by
  unfold step
  rw [if_pos hlow, hh]
  exact s.begin.move_event i f hf

theorem step_begins_bringUp (s : State) (hlow : s.hub.step < 7) (hh : s.heads = []) :
    let e : Instr := .coldReset ⟨[⟨true, 1, 0⟩], false, none⟩
    (s.hub.fail = false → step s = onNext (exec e s.begin) (State.afterEvent e)) ∧
    (s.hub.fail = true → step s = .fault .bringUpStopped) := by
  unfold step
  rw [if_pos hlow, hh]
  exact ⟨fun hok => by rw [hok]; rfl, fun hbad => by rw [hbad]; rfl⟩

end Sys2Proof.Machine

namespace Sys2Proof.Proofs

open Sys2Proof.Machine

/-- Settles O56: one lemma for each kind of move. -/
theorem stepRunsDecoded : Obligations.StepRunsDecoded := by
  unfold Obligations.StepRunsDecoded
  exact ⟨fun _ _ _ _ h g free => h.runs g free, fun _ _ _ _ _ h g held => h.step_of_held g held,
    fun _ _ _ _ h hin hd he => h.step_of_error hin hd he, fun _ _ _ h hout => h.step_of_outside hout, step_of_event,
    step_of_own, step_in_bringUp, step_begins_bringUp⟩

end Sys2Proof.Proofs
end

section
/-! SUPPORT. Rank and coordinates of a member of a group, as GEO and TGEO return them (R60, R212, R266). -/

namespace Sys2Proof.Machine

/-! ### Instructions that write one register and go on -/

theorem State.getX_setX_advance (s : State) (h : Head) (d : XReg) (w : Word) :
    ((s.setX d w).advance h).getX d = if d = 0 then 0 else w := by
  rw [State.getX_advance, State.getX_setX]
  by_cases hd : d = 0
  · subst hd; rfl
  · rw [if_pos ⟨rfl, hd⟩, if_neg hd]

theorem State.past_setX_advance (s : State) (h : Head) (d : XReg) (w : Word) : Past h s ((s.setX d w).advance h) :=
  State.past_advance h (State.pc_setX s d w)

theorem State.frame_setX_advance (s : State) (h : Head) (d : XReg) (w : Word) : Frame [d] [] [] s ((s.setX d w).advance h) :=
  (Frame.setX [] [] s w (List.mem_singleton.2 rfl)).trans (Frame.advance _ _ _ _ h)

theorem Runs.of_setX {i : Instr} {h : Head} {d : XReg} {w : Word} {s : State}
    (e : exec i s = .next ((s.setX d w).advance h)) :
    Runs i s fun t => t.getX d = (if d = 0 then 0 else w) ∧ Past h s t ∧ Frame [d] [] [] s t :=
  ⟨_, e, s.getX_setX_advance h d w, s.past_setX_advance h d w, s.frame_setX_advance h d w⟩

/-! ### Fields -/

/-- Bits of a word as a number are the number of the extracted bits. -/
theorem bits_eq_extractLsb' (w : Word) (lo n : Nat) : bits w lo n = (w.extractLsb' lo n).toNat := by
  rw [BitVec.extractLsb'_toNat, Nat.shiftRight_eq_div_pow, bits]

/-- The membership and the code of a selector (R212). -/
theorem geoSel_fields {m code : Nat} (hm : m < 4) (hc : code < 16) :
    (BitVec.ofNat 6 (16 * m + code)).toNat % 16 = code ∧ (BitVec.ofNat 6 (16 * m + code)).toNat / 16 = m := by
  rw [BitVec.toNat_ofNat]
  omega

theorem pack_three (i j k x y z : Nat) :
    pack [(i, x), (j, y), (k, z)] = BitVec.ofNat 64 (x * 2 ^ i + y * 2 ^ j + z * 2 ^ k) := by
  unfold pack
  rw [List.map_cons, List.map_cons, List.map_cons, List.map_nil, List.foldl_cons, List.foldl_cons, List.foldl_cons,
    List.foldl_nil, Nat.zero_add]

theorem grpSlot_of_invalid {g : Word} {m : Nat} (h : g.getLsbD (32 + m) = false) : grpSlot g m = none := by
  unfold grpSlot
  rw [h]
  rfl

theorem grpSlot_of_valid {g : Word} {m : Nat} (h : g.getLsbD (32 + m) = true) :
    grpSlot g m = some (g.extractLsb' (8 * m) 8).toNat := by
  unfold grpSlot
  rw [h, bits_eq_extractLsb']
  rfl

theorem GroupDef.ext_eq (g : GroupDef) (i : Nat) : g.ext i = (g.geo.extractLsb' (10 * i) 10).toNat :=
  bits_eq_extractLsb' _ _ _

/-! ### GEO -/

section
variable (h : Head) (d : XReg) (s : State) {m code : Nat} (hm : m < 4)

theorem exec_geo_illegal (sel : BitVec 6) (hc : 10 ≤ sel.toNat % 16) : exec (.geo h d sel) s = .next s.illegal := by
  change execGeo h d sel s = _
  unfold execGeo
  rw [if_pos hc]

include hm

theorem exec_geo_invalid (hc : code < 10) (hv : s.me.grp.getLsbD (32 + m) = false) :
    exec (.geo h d (BitVec.ofNat 6 (16 * m + code))) s = .next ((s.setX d (BitVec.allOnes 64)).advance h) := by
  obtain ⟨hcode, hmem⟩ := geoSel_fields hm (show code < 16 by omega)
  change execGeo h d _ s = _
  unfold execGeo
  rw [hcode, hmem, if_neg (by omega), grpSlot_of_invalid hv]

theorem exec_geo_member {g : GroupDef} (hc : code < 10) (hv : s.me.grp.getLsbD (32 + m) = true)
    (hg : s.group? s.me.colour (s.me.grp.extractLsb' (8 * m) 8).toNat = some g) :
    exec (.geo h d (BitVec.ofNat 6 (16 * m + code))) s =
      .next ((s.setX d (BitVec.ofNat 64 (geoValue g (s.me.grp.extractLsb' (8 * m) 8).toNat s.cur code))).advance h) := by
  obtain ⟨hcode, hmem⟩ := geoSel_fields hm (show code < 16 by omega)
  change execGeo h d _ s = _
  unfold execGeo
  rw [hcode, hmem, if_neg (by omega), grpSlot_of_valid hv]
  dsimp only
  rw [hg]

/-! ### TGEO -/

omit hm in
theorem exec_tgeo_illegal (sel : BitVec 6) (hc : sel.toNat % 16 = 3 ∨ 8 ≤ sel.toNat % 16) :
    exec (.tgeo h d sel) s = .next s.illegal := by
  change execTgeo h d sel s = _
  unfold execTgeo
  dsimp only
  rw [if_pos hc]

theorem exec_tgeo_invalid (hc : code ≠ 3 ∧ code < 8) (hv : s.me.grp.getLsbD (32 + m) = false) :
    exec (.tgeo h d (BitVec.ofNat 6 (16 * m + code))) s = .next ((s.setX d (BitVec.allOnes 64)).advance h) := by
  obtain ⟨hcode, hmem⟩ := geoSel_fields hm (show code < 16 by omega)
  change execTgeo h d _ s = _
  unfold execTgeo
  dsimp only
  rw [hcode, hmem, if_neg (by omega), grpSlot_of_invalid hv]

/-- The value that TGEO gives for a code of a member of group `g` (R266). -/
def tgeoValue (g : GroupDef) (slot c code : Nat) : Word :=
  if code = 7 then
    pack [(0, 16 * geoValue g slot c 0 % 2 ^ 16), (16, 16 * geoValue g slot c 1 % 2 ^ 16), (32, 16 * geoValue g slot c 2 % 2 ^ 16)]
  else BitVec.ofNat 64 (16 * geoValue g slot c code)

theorem exec_tgeo_member {g : GroupDef} (hc : code ≠ 3 ∧ code < 8) (hv : s.me.grp.getLsbD (32 + m) = true)
    (hg : s.group? s.me.colour (s.me.grp.extractLsb' (8 * m) 8).toNat = some g) :
    exec (.tgeo h d (BitVec.ofNat 6 (16 * m + code))) s =
      .next ((s.setX d (tgeoValue g (s.me.grp.extractLsb' (8 * m) 8).toNat s.cur code)).advance h) := by
  obtain ⟨hcode, hmem⟩ := geoSel_fields hm (show code < 16 by omega)
  change execTgeo h d _ s = _
  unfold execTgeo
  dsimp only
  rw [hcode, hmem, if_neg (by omega), grpSlot_of_valid hv]
  dsimp only
  rw [hg]
  rfl

end

end Sys2Proof.Machine

namespace Sys2Proof.Proofs

open Sys2Proof.Machine

/-- Settles O22: each code by the equation of its instruction for a valid and for an invalid membership. -/
theorem groupGeometry : Obligations.GroupGeometry := by
  unfold Obligations.GroupGeometry
  refine ⟨fun h d s m hm hv => ⟨fun code hc => ?_, fun code hc => ?_⟩, fun h d s sel => ?_, ?_⟩
  · exact Runs.of_setX (exec_geo_invalid h d s hm hc hv)
  · have legal : code ≠ 3 ∧ code < 8 := by revert hc; simp +contextual [List.mem_cons, or_imp]
    exact Runs.of_setX (exec_tgeo_invalid h d s hm legal hv)
  · exact ⟨exec_tgeo_illegal h d s sel, exec_geo_illegal h d s sel⟩
  · intro h d s m g hm hv slot hg rank e0 e1 Gives
    have ext0 : g.ext 0 = e0 := g.ext_eq 0
    have ext1 : g.ext 1 = e1 := g.ext_eq 1
    have gives : ∀ code value, code < 10 → geoValue g slot s.cur code = value → Gives code value := fun code value hc hval =>
      Runs.of_setX (hval ▸ exec_geo_member h d s hm hc hv hg)
    have origins : geoValue g slot s.cur 0 = rank % e0 ∧ geoValue g slot s.cur 1 = rank / e0 % e1 ∧
        geoValue g slot s.cur 2 = rank / (e0 * e1) := by
      refine ⟨?_, ?_, ?_⟩ <;> simp only [geoValue, ext0, ext1] <;> rfl
    obtain ⟨origin0, origin1, origin2⟩ := origins
    refine ⟨gives 0 _ (by decide) origin0, gives 1 _ (by decide) origin1, gives 2 _ (by decide) origin2, gives 3 _ (by decide) rfl,
      gives 4 _ (by decide) ext0, gives 5 _ (by decide) ext1, ?_, gives 6 _ (by decide) (g.ext_eq 2), gives 7 _ (by decide) rfl,
      gives 8 _ (by decide) (bits_eq_extractLsb' _ _ _), gives 9 _ (by decide) rfl⟩
    intro Tile
    have tile : ∀ code value, code ≠ 3 ∧ code < 8 → tgeoValue g slot s.cur code = BitVec.ofNat 64 value → Tile code value :=
      fun code value hc hval => Runs.of_setX (hval ▸ exec_tgeo_member h d s hm hc hv hg)
    refine ⟨tile 0 _ (by decide) ?_, tile 1 _ (by decide) ?_, tile 2 _ (by decide) ?_, tile 4 _ (by decide) ?_,
      tile 5 _ (by decide) ?_, tile 6 _ (by decide) ?_, tile 7 _ (by decide) ?_⟩
    · simp only [tgeoValue, origin0]; rfl
    · simp only [tgeoValue, origin1]; rfl
    · simp only [tgeoValue, origin2]; rfl
    · simp only [tgeoValue, geoValue, ext0]; rfl
    · simp only [tgeoValue, geoValue, ext1]; rfl
    · simp only [tgeoValue, geoValue, g.ext_eq 2]; rfl
    · simp only [tgeoValue, if_true, origin0, origin1, origin2]
      rw [pack_three, Nat.pow_zero, Nat.mul_one]

end Sys2Proof.Proofs
end

section
/-! SUPPORT. Jobs by their colour, what the end of a job writes, and updates of several clusters or cores, one after the other. -/

namespace Sys2Proof.Machine

/-! ### Jobs by colour -/

theorem State.colour_of_job? {s : State} {n : Nat} {j : Job} (h : s.job? n = some j) : j.colour = n := by
  have := List.find?_some h
  simpa using this

theorem State.job?_upJob (s : State) (n m : Nat) {f : Job → Job} (hf : ∀ j, (f j).colour = j.colour) :
    (s.upJob n f).job? m = if n = m then (s.job? m).map f else s.job? m := by
  unfold State.job? State.upJob
  induction s.jobs with
  | nil => simp
  | cons j js ih =>
    simp only [List.map_cons, List.find?_cons]
    by_cases hj : j.colour = m
    · have hup : (if (j.colour == n) = true then f j else j).colour = m := by split <;> simp [hf, hj]
      rw [hup, hj, beq_self_eq_true]
      by_cases hn : n = m
      · simp [hn]
      · simp [hn, Ne.symm hn]
    · have hup : (if (j.colour == n) = true then f j else j).colour ≠ m := by split <;> simp [hf, hj]
      rw [beq_false_of_ne hup, beq_false_of_ne hj]
      exact ih

theorem State.job?_upJob_same (s : State) (n : Nat) {f : Job → Job} (hf : ∀ j, (f j).colour = j.colour) :
    (s.upJob n f).job? n = (s.job? n).map f := by
  rw [s.job?_upJob n n hf, if_pos rfl]

theorem State.job?_of_jobs {s t : State} (h : t.jobs = s.jobs) (n : Nat) : t.job? n = s.job? n := by
  unfold State.job?
  rw [h]

/-! ### Updates of a list of units -/

/-- An update of each cluster of a list in turn changes clusters only, and each cluster of the list once. -/
theorem State.cluster_upClusters (l : List Nat) (hl : l.Nodup) (f : Nat → Cluster → Cluster) (s : State) (j : Nat) :
    (l.foldl (fun (u : State) cl => u.upCluster cl (f cl)) s).cluster j = if j ∈ l then f j (s.cluster j) else s.cluster j := by
  induction l generalizing s with
  | nil => simp
  | cons cl l ih =>
    obtain ⟨hcl, hl⟩ := List.nodup_cons.1 hl
    rw [List.foldl_cons, ih hl, State.cluster_upCluster]
    by_cases hj : cl = j
    · subst hj; simp [hcl]
    · simp [hj, Ne.symm hj]

theorem State.upClusters_units (l : List Nat) (f : Nat → Cluster → Cluster) (s : State) :
    l.foldl (fun (u : State) cl => u.upCluster cl (f cl)) s =
      { s with clusters := (l.foldl (fun (u : State) cl => u.upCluster cl (f cl)) s).clusters } :=
  List.foldlRecOn (motive := fun u : State => u = { s with clusters := u.clusters }) l _ rfl fun u hu cl _ => by
    rw [hu]; rfl

theorem State.core_upCores (l : List Nat) (hl : l.Nodup) (f : Nat → Core → Core) (s : State) (j : Nat) :
    (l.foldl (fun (u : State) c => u.upCore c (f c)) s).core j = if j ∈ l then f j (s.core j) else s.core j := by
  induction l generalizing s with
  | nil => simp
  | cons c l ih =>
    obtain ⟨hc, hl⟩ := List.nodup_cons.1 hl
    rw [List.foldl_cons, ih hl, State.core_upCore]
    by_cases hj : c = j
    · subst hj; simp [hc]
    · simp [hj, Ne.symm hj]

theorem State.upCores_units (l : List Nat) (f : Nat → Core → Core) (s : State) :
    l.foldl (fun (u : State) c => u.upCore c (f c)) s =
      { s with cores := (l.foldl (fun (u : State) c => u.upCore c (f c)) s).cores } :=
  List.foldlRecOn (motive := fun u : State => u = { s with cores := u.cores }) l _ rfl fun u hu c _ => by
    rw [hu]; rfl

/-! ### Clusters and cores of a partition -/

theorem Job.clusters_nodup (j : Job) : j.clusters.Nodup := List.nodup_range.filter _

theorem Job.mem_allCores {j : Job} {c : Nat} : c ∈ j.allCores ↔ clusterOf c ∈ j.clusters := by
  unfold Job.allCores clusterOf
  rw [List.mem_flatMap]
  constructor
  · rintro ⟨cl, hcl, hc⟩
    obtain ⟨i, hi, rfl⟩ := List.mem_map.1 hc
    have := List.mem_range.1 hi
    rwa [show (cl * 16 + i) / 16 = cl by omega]
  · intro h
    exact ⟨_, h, List.mem_map.2 ⟨c % 16, List.mem_range.2 (by omega), by omega⟩⟩

/-! ### The end of a job (R319, R391) -/

/-- A running core of a job that ends has halted (R319). -/
def Core.stopped (k : Core) : Core := if k.status = .running then { k with status := .halted } else k

theorem Core.stopped_status (k : Core) : k.stopped.status ≠ .running := by
  unfold Core.stopped
  split
  · exact CoreStatus.noConfusion
  · assumption

/-- What ending a job that has no ending yet does: its ending stands, its cores stop, and the event is on its way. -/
theorem State.endJob_eq {s : State} {colour : Nat} {j : Job} (h : s.job? colour = some j) (hn : j.ending = none)
    (status detail : Nat) (value : Word) :
    s.endJob colour status detail value =
      ((if j.out then id else fun u : State => j.allCores.foldl (fun (u : State) c => u.upCore c Core.stopped) u)
        (s.upJob colour (fun j => { j with ending := some ⟨status, detail, value⟩ }))).pushFree (.jobEnd colour) := by
  unfold State.endJob
  rw [h]
  dsimp only
  rw [hn, if_neg (by exact Bool.false_ne_true)]
  cases j.out <;> rfl

/-- An end that comes later changes nothing: the first decides (R391). -/
theorem State.endJob_of_ending {s : State} {colour : Nat} {j : Job} (h : s.job? colour = some j) (hn : j.ending ≠ none)
    (status detail : Nat) (value : Word) : s.endJob colour status detail value = s := by
  unfold State.endJob
  rw [h]
  dsimp only
  rw [if_pos (Option.isSome_iff_ne_none.2 hn)]

theorem State.endJob_agenda {s : State} {colour : Nat} {j : Job} (h : s.job? colour = some j) (hn : j.ending = none)
    (status detail : Nat) (value : Word) :
    ∃ chan, (s.endJob colour status detail value).agenda = s.agenda ++ [⟨chan, .jobEnd colour⟩] := by
  rw [State.endJob_eq h hn]
  refine ⟨2 ^ 40 + s.ids, ?_⟩
  cases j.out
  · rw [if_neg Bool.false_ne_true, State.pushFree_agenda, State.upCores_units]
    rfl
  · rfl

theorem State.endJob_job? {s : State} {colour : Nat} {j : Job} (h : s.job? colour = some j) (hn : j.ending = none)
    (status detail : Nat) (value : Word) :
    (s.endJob colour status detail value).job? colour = some { j with ending := some ⟨status, detail, value⟩ } := by
  have told : ∀ t : State, t.jobs = (s.upJob colour (fun j => { j with ending := some ⟨status, detail, value⟩ })).jobs →
      t.job? colour = some { j with ending := some ⟨status, detail, value⟩ } := by
    intro t ht
    rw [State.job?_of_jobs ht]
    rw [s.job?_upJob_same, h]
    · rfl
    · exact fun _ => rfl
  rw [State.endJob_eq h hn]
  refine told _ ?_
  cases j.out
  · rw [if_neg Bool.false_ne_true, State.pushFree_jobs, State.upCores_units]
  · rfl

end Sys2Proof.Machine
end

section
/-! SUPPORT. Notices of quiet clusters, completion waves, and what a wave's report finds (R62 to R64, R353, R401). -/

namespace Sys2Proof.Machine

/-! ### Notices and waves on their way -/

theorem exec_quietNotice_idle (cl : Nat) (s : State) (h : s.jobAt cl = none) : exec (.quietNotice cl) s = .next s := by
  change execQuietNotice cl s = _
  unfold execQuietNotice
  rw [h]

theorem exec_quietNotice (cl : Nat) (s : State) (j : Job) (h : s.jobAt cl = some j) : exec (.quietNotice cl) s = .next (
    let u := s.upCluster cl (fun k => { k with noticed := true })
    if j.wave then u.upJob j.colour (fun q => { q with again := true })
    else (u.upJob j.colour (fun q => { q with wave := true })).pushFree (.completionWave j.colour)) := by
  change execQuietNotice cl s = _
  unfold execQuietNotice
  rw [h]

theorem runs_quietNotice (cl : Nat) (s : State) (j : Job) (h : s.jobAt cl = some j) (hj : s.job? j.colour = some j) :
    (j.wave = false → Runs (.quietNotice cl) s fun t => (t.cluster cl).noticed = true ∧ (t.job? j.colour).map (·.wave) = some true ∧
      ∃ chan, t.agenda = s.agenda ++ [⟨chan, .completionWave j.colour⟩]) ∧
    (j.wave = true → Runs (.quietNotice cl) s fun t => (t.cluster cl).noticed = true ∧ (t.job? j.colour).map (·.again) = some true ∧
      t.agenda = s.agenda) := by
  have marked : ∀ f : Job → Job, (∀ q, (f q).colour = q.colour) →
      ((s.upCluster cl (fun k => { k with noticed := true })).upJob j.colour f).job? j.colour = some (f j) := by
    intro f hf
    rw [State.job?_upJob_same _ _ hf]
    exact congrArg (Option.map f) hj
  refine ⟨fun hw => ⟨_, exec_quietNotice cl s j h, ?_⟩, fun hw => ⟨_, exec_quietNotice cl s j h, ?_⟩⟩
  · dsimp only
    rw [hw, if_neg Bool.false_ne_true]
    refine ⟨by simp, ?_, _, rfl⟩
    exact congrArg (Option.map Job.wave) (marked (fun q => { q with wave := true }) fun _ => rfl)
  · dsimp only
    rw [if_pos hw]
    refine ⟨by simp, ?_, rfl⟩
    exact congrArg (Option.map Job.again) (marked (fun q => { q with again := true }) fun _ => rfl)

theorem runs_completionWave (colour : Nat) (s : State) :
    (s.job? colour ≠ none → Runs (.completionWave colour) s fun t => t = { s with agenda := t.agenda, ids := t.ids } ∧
      ∃ chan, t.agenda = s.agenda ++ [⟨chan, .waveReport colour⟩]) ∧
    (s.job? colour = none → exec (.completionWave colour) s = .next s ∧ exec (.waveReport colour) s = .next s) := by
  refine ⟨fun h => ⟨s.pushFree (.waveReport colour), ?_, rfl, _, rfl⟩, fun h => ⟨?_, ?_⟩⟩
  · change execCompletionWave colour s = _
    unfold execCompletionWave
    rw [if_pos (Option.isSome_iff_ne_none.2 h)]
  · change execCompletionWave colour s = _
    unfold execCompletionWave
    rw [h]
    rfl
  · change execWaveReport colour s = _
    unfold execWaveReport
    rw [h]

/-! ### The combined report (R63) -/

theorem pack_two (i j x y : Nat) : pack [(i, x), (j, y)] = BitVec.ofNat 64 (x * 2 ^ i + y * 2 ^ j) := by
  unfold pack
  rw [List.map_cons, List.map_cons, List.map_nil, List.foldl_cons, List.foldl_cons, List.foldl_nil, Nat.zero_add]

/-- Two 32-bit counts in one word read back. -/
theorem bits_counts (x y : Nat) : bits (pack [(32, x % 2 ^ 32), (0, y % 2 ^ 32)]) 32 32 = x % 2 ^ 32 ∧
    bits (pack [(32, x % 2 ^ 32), (0, y % 2 ^ 32)]) 0 32 = y % 2 ^ 32 := by
  rw [pack_two, bits, bits, BitVec.toNat_ofNat]
  omega

/-- Bit 63 of a word of eight flags above a 48-bit count is the first flag. -/
theorem getLsbD_reportWord (q b62 b61 b60 b59 b58 b57 b56 : Bool) (n : Nat) :
    (pack [(63, q.toNat), (62, b62.toNat), (61, b61.toNat), (60, b60.toNat), (59, b59.toNat), (58, b58.toNat), (57, b57.toNat),
      (56, b56.toNat), (0, n % 2 ^ 48)]).getLsbD 63 = q := by
  have lt : ∀ b : Bool, b.toNat ≤ 1 := Bool.toNat_le
  have := lt q; have := lt b62; have := lt b61; have := lt b60; have := lt b59; have := lt b58; have := lt b57; have := lt b56
  have hq : q = decide (q.toNat % 2 = 1) := by cases q <;> rfl
  unfold pack
  simp only [List.map_cons, List.map_nil, List.foldl_cons, List.foldl_nil]
  rw [BitVec.getLsbD, BitVec.toNat_ofNat, Nat.testBit_eq_decide_div_mod_eq]
  refine Eq.trans (decide_eq_decide.2 ?_) hq.symm
  omega

theorem State.combined_quiet (s : State) (j : Job) : (s.combined j).w0.getLsbD 63 =
    j.clusters.all (fun cl => s.quiet cl && !(s.cluster cl).quietDirty) := by
  unfold State.combined
  exact getLsbD_reportWord _ _ _ _ _ _ _ _ _

/-- The counts of messages sent and received in a combined report. -/
theorem State.combined_counts (s : State) (j : Job) :
    bits (s.combined j).w1 32 32 = (j.clusters.map (fun cl => (s.cluster cl).sent)).sum % 2 ^ 32 ∧
    bits (s.combined j).w1 0 32 = (j.clusters.map (fun cl => (s.cluster cl).recv)).sum % 2 ^ 32 := by
  rw [List.sum_eq_foldl, List.sum_eq_foldl]
  exact bits_counts _ _

/-! ### What a wave's report leaves (R64, R326) -/

/-- Does an end, a pre-emption or a containment cut the job's waves short? -/
def Job.cut (j : Job) : Bool := j.ending.isSome || j.out || j.preempting || j.contain

/-- The state in which the report of job `j` has come back: the wave is over, and what each cluster had dirtied is known. -/
def State.heard (s : State) (colour : Nat) (j : Job) : State :=
  let r := s.combined j
  let at_ := (bits r.w0 0 48, bits r.w1 32 32, bits r.w1 0 32)
  let now := s.upJob colour (fun q => { q with
    wave := false, again := false, hung := q.hung && q.hangAt == at_, hangAt := at_ })
  (j.clusters.filter (fun cl => !(j.out && j.saved.contains cl))).foldl (fun (u : State) cl =>
    u.upCluster cl (fun k => { k with quietDirty := !s.quiet cl, noticed := k.noticed && s.quiet cl && !j.cut })) now

theorem State.heard_jobs (s : State) (colour : Nat) (j : Job) (hj : s.job? colour = some j) :
    ∃ q, (s.heard colour j).job? colour = some q ∧ q.wave = false ∧ q.ending = j.ending ∧ q.out = j.out := by
  unfold State.heard
  extract_lets r at_ now
  have hjobs : ∀ l : List Nat, ∀ f : Nat → Cluster → Cluster, (l.foldl (fun (u : State) cl => u.upCluster cl (f cl)) now).job? colour =
      now.job? colour := fun l f => State.job?_of_jobs (by rw [State.upClusters_units]) _
  have hnow : now.job? colour = (s.job? colour).map (fun q => { q with
      wave := false, again := false, hung := q.hung && q.hangAt == at_, hangAt := at_ }) := s.job?_upJob_same colour fun _ => rfl
  rw [hjobs, hnow, hj]
  exact ⟨_, rfl, rfl, rfl, rfl⟩

theorem State.heard_agenda (s : State) (colour : Nat) (j : Job) : (s.heard colour j).agenda = s.agenda := by
  unfold State.heard
  extract_lets r at_ now
  rw [State.upClusters_units]
  rfl

theorem State.heard_cluster (s : State) (colour : Nat) (j : Job) (cl : Nat) : (s.heard colour j).cluster cl =
    if cl ∈ j.clusters ∧ ¬(j.out = true ∧ cl ∈ j.saved) then
      { s.cluster cl with quietDirty := !s.quiet cl, noticed := (s.cluster cl).noticed && s.quiet cl && !j.cut }
    else s.cluster cl := by
  have hleft : cl ∈ j.clusters.filter (fun cl => !(j.out && j.saved.contains cl)) ↔
      cl ∈ j.clusters ∧ ¬(j.out = true ∧ cl ∈ j.saved) := by cases j.out <;> simp [List.mem_filter]
  unfold State.heard
  extract_lets r at_ now
  rw [State.cluster_upClusters _ (j.clusters_nodup.filter _)]
  simp only [hleft]
  rfl

/-- The report of a wave (R64): one that is cut short ends nothing, a quiet job with nothing on its way ends, a job whose
clusters have all become quiet since begins another wave. -/
theorem exec_waveReport (colour : Nat) (s : State) (j : Job) (hj : s.job? colour = some j) :
    exec (.waveReport colour) s = .next (
      let r := s.combined j
      let u := s.heard colour j
      if j.cut then u
      else if r.w0.getLsbD 63 && bits r.w1 32 32 == bits r.w1 0 32 then
        (match s.rootHeld j with
        | some v => u.endJob colour 0 0 v
        | none =>
          if s.allHalted j then u.endJob colour 0 0
          else if r.w0.getLsbD 62 || (j.hung && j.hangAt == (bits r.w0 0 48, bits r.w1 32 32, bits r.w1 0 32)) then u
          else u.hang j r)
      else if j.clusters.all (fun cl => s.quiet cl) || j.again then
        (u.upJob colour (fun q => { q with wave := true })).pushFree (.completionWave colour)
      else u) := by
  change execWaveReport colour s = _
  unfold execWaveReport
  rw [hj]
  rfl

/-- A cluster that a report does not leave out is dirty from then on exactly while it is not quiet. -/
theorem State.heard_dirty (s : State) (colour : Nat) (j : Job) (hout : j.out = false) (cl : Nat) (hcl : cl ∈ j.clusters) :
    ((s.heard colour j).cluster cl).quietDirty = !s.quiet cl := by
  rw [State.heard_cluster, if_pos ⟨hcl, fun h => Bool.false_ne_true (hout ▸ h.1)⟩]

/-- A job whose wave has come back ends as its report says (R401). -/
theorem State.heard_endJob (s : State) (colour : Nat) (j : Job) (hj : s.job? colour = some j) (hend : j.ending = none) (v : Word) :
    (((s.heard colour j).endJob colour 0 0 v).job? colour).bind (·.ending) = some ⟨0, 0, v⟩ ∧
    ∃ chan, ((s.heard colour j).endJob colour 0 0 v).agenda = s.agenda ++ [⟨chan, .jobEnd colour⟩] := by
  obtain ⟨q, hq, -, hqend, -⟩ := s.heard_jobs colour j hj
  obtain ⟨chan, hagenda⟩ := State.endJob_agenda hq (hqend.trans hend) 0 0 v
  rw [State.heard_agenda] at hagenda
  refine ⟨?_, chan, hagenda⟩
  rw [State.endJob_job? hq (hqend.trans hend)]
  rfl

/-- The state in which another wave of a job has started behind the one that has come back. -/
def State.rewaved (s : State) (colour : Nat) (j : Job) : State :=
  ((s.heard colour j).upJob colour (fun q => { q with wave := true })).pushFree (.completionWave colour)

theorem State.rewaved_ending (s : State) (colour : Nat) (j : Job) (hj : s.job? colour = some j) :
    ((s.rewaved colour j).job? colour).bind (·.ending) = j.ending := by
  obtain ⟨q, hq, -, hqend, -⟩ := s.heard_jobs colour j hj
  have hjob : (s.rewaved colour j).job? colour = some { q with wave := true } := by
    unfold State.rewaved
    rw [State.job?_of_jobs (State.pushFree_jobs _ _), State.job?_upJob_same, hq]
    · rfl
    · exact fun _ => rfl
  rw [hjob]
  exact hqend

theorem State.rewaved_agenda (s : State) (colour : Nat) (j : Job) :
    ∃ chan, (s.rewaved colour j).agenda = s.agenda ++ [⟨chan, .completionWave colour⟩] :=
  ⟨_, congrArg (· ++ _) (s.heard_agenda colour j)⟩

theorem State.rewaved_cluster (s : State) (colour : Nat) (j : Job) (cl : Nat) :
    (s.rewaved colour j).cluster cl = (s.heard colour j).cluster cl := rfl

end Sys2Proof.Machine

namespace Sys2Proof.Proofs
open Sys2Proof.Machine

/-- Settles O51: a notice and a wave come about as their equations say; the report's flag and counts read back from its words, and each
branch of the report is one of the clauses. -/
theorem quietJobsEnd : Obligations.QuietJobsEnd := by
  unfold Obligations.QuietJobsEnd
  refine ⟨fun cl s j h hj => runs_quietNotice cl s j h hj, exec_quietNotice_idle, runs_completionWave, ?_, ?_⟩
  · intro colour s j hj hend hout hpre hcon
    dsimp only
    have hcut : j.cut = false := by simp [Job.cut, hend, hout, hpre, hcon]
    have hends : ((s.combined j).w0.getLsbD 63 && bits (s.combined j).w1 32 32 == bits (s.combined j).w1 0 32) = true ↔
        (∀ cl ∈ j.clusters, s.quiet cl = true ∧ (s.cluster cl).quietDirty = false) ∧
        (j.clusters.map (fun cl => (s.cluster cl).sent)).sum % 2 ^ 32 = (j.clusters.map (fun cl => (s.cluster cl).recv)).sum % 2 ^ 32 := by
      rw [State.combined_quiet, (s.combined_counts j).1, (s.combined_counts j).2, Bool.and_eq_true, List.all_eq_true, beq_iff_eq]
      simp only [Bool.and_eq_true, Bool.not_eq_true']
    have hrun := exec_waveReport colour s j hj
    dsimp only at hrun
    rw [if_neg (by rw [hcut]; exact Bool.false_ne_true)] at hrun
    obtain ⟨q, hq, hwave, hqend, -⟩ := s.heard_jobs colour j hj
    refine ⟨fun v hquiet hbal hroot => ?_, fun hquiet hbal hroot hhalt => ?_, fun hno hagain => ?_, fun hno hall hagain => ?_⟩
    · rw [if_pos (hends.2 ⟨hquiet, hbal⟩), hroot] at hrun
      exact ⟨_, hrun, s.heard_endJob colour j hj hend v⟩
    · rw [if_pos (hends.2 ⟨hquiet, hbal⟩), hroot] at hrun
      dsimp only at hrun
      rw [if_pos hhalt] at hrun
      exact ⟨_, hrun, s.heard_endJob colour j hj hend 0⟩
    · rw [if_neg (mt hends.1 hno), if_pos (by simpa using hagain)] at hrun
      refine ⟨_, hrun, (s.rewaved_ending colour j hj).trans hend, s.rewaved_agenda colour j, fun cl hcl => ?_⟩
      have hdirty := (congrArg Cluster.quietDirty (s.rewaved_cluster colour j cl)).trans (s.heard_dirty colour j hout cl hcl)
      exact (Bool.eq_iff_iff.1 hdirty).trans (by simp)
    · rw [if_neg (mt hends.1 hno), if_neg (by simpa [hagain] using hall)] at hrun
      exact ⟨_, hrun, s.heard_agenda colour j, by rw [hq]; exact congrArg some hwave⟩
  · intro colour s j hj hcut
    have hcut : j.cut = true := by
      cases hend : j.ending <;> simp_all [Job.cut, or_assoc]
    have hrun := exec_waveReport colour s j hj
    dsimp only at hrun
    rw [if_pos hcut] at hrun
    obtain ⟨q, hq, hwave, -⟩ := s.heard_jobs colour j hj
    refine ⟨_, hrun, s.heard_agenda colour j, by rw [hq]; exact congrArg some hwave, fun cl hcl => ⟨fun hout hsaved => ?_, fun hstays => ?_⟩⟩
    · rw [State.heard_cluster, if_neg fun h => h.2 ⟨hout, hsaved⟩]
    · rw [State.heard_cluster, if_pos ⟨hcl, hstays⟩, hcut]
      exact Bool.and_false _

end Sys2Proof.Proofs
end

section
/-! SUPPORT. How a handler and a task start, what a start lets into the queues, and how both end (R56, R57, R230 to R232). -/

namespace Sys2Proof.Machine

theorem bits_low (w : Word) (n : Nat) : bits w 0 n = w.toNat % 2 ^ n := by rw [bits, Nat.pow_zero, Nat.div_one]

/-! ### What a register write leaves of a core -/

theorem Core.setX_units (k : Core) (l : Fin 4) (r : XReg) (w : Word) :
    k.setX l r w = { k with lv := (k.setX l r w).lv, xs := (k.setX l r w).xs } := by
  unfold Core.setX
  split
  · rfl
  · split <;> rfl

/-- Register writes, one after the other, change levels and shared registers only. -/
theorem Core.setX_units_trans {k k' : Core} (h : k' = { k with lv := k'.lv, xs := k'.xs }) (l : Fin 4) (r : XReg) (w : Word) :
    k'.setX l r w = { k with lv := (k'.setX l r w).lv, xs := (k'.setX l r w).xs } := by
  have hset := k'.setX_units l r w
  generalize k'.setX l r w = u at hset ⊢
  rw [hset, h]

theorem Core.setX_lv_ne (k : Core) (l j : Fin 4) (r : XReg) (w : Word) (h : j ≠ l) : (k.setX l r w).lv[j] = k.lv[j] := by
  unfold Core.setX
  split
  · rfl
  · split
    · exact (Core.upLv_lv k l j _).trans (if_neg h.symm)
    · rfl

/-! ### Held messages (R232) -/

/-- One held message: it stays while it is masked or its queue is full, else it is delivered. -/
def State.unholdOne (s : State) (c : Nat) (m : UMsg) : State :=
  if (s.core c).masked m.cls || decide (64 ≤ ((s.core c).hq[msgLevel m (s.core c)]?.getD []).length) then s
  else (s.setCore c { s.core c with hold := (s.core c).hold.erase m }).deliver c m

theorem State.unhold_eq (s : State) (c : Nat) : s.unhold c = (s.core c).hold.foldl (fun (u : State) m => u.unholdOne c m) s := rfl

theorem State.unhold_of_masked (s : State) (c : Nat) (h : ∀ q ∈ (s.core c).hold, (s.core c).masked q.cls = true) :
    s.unhold c = s := by
  rw [State.unhold_eq]
  generalize (s.core c).hold = l at h
  induction l with
  | nil => rfl
  | cons q l ih =>
    rw [List.foldl_cons, State.unholdOne, if_pos (by rw [h q (List.mem_cons_self ..)]; rfl)]
    exact ih fun m hm => h m (List.mem_cons_of_mem _ hm)

/-- The one held message, unmasked and with room in its queue, joins it. -/
theorem State.unhold_singleton (s : State) (c : Nat) (q : UMsg) (l : Fin 4) (hhold : (s.core c).hold = [q]) (hkind : q.kind = .msg)
    (hcls : q.cls ≠ 0) (hmask : (s.core c).masked q.cls = false) (hl : msgLevel q (s.core c) = l.val)
    (hroom : (s.core c).hq[l].length < 64) :
    ((s.unhold c).core c).hq[l] = (s.core c).hq[l] ++ [q] ∧ ((s.unhold c).core c).hold = [] := by
  have hsame : msgLevel q { s.core c with hold := [] } = l.val := hl
  rw [State.unhold_eq, hhold, List.foldl_cons, List.foldl_nil, State.unholdOne, hmask, hl, hhold, List.erase_cons_head,
    if_neg (by simpa using hroom)]
  unfold State.deliver
  rw [hkind]
  dsimp only
  rw [if_neg (fun h => hcls h.2.1)]
  simp [State.countRecv, State.core_setCore, hsame, Core.enqueue]

/-! ### Handlers (R56) -/

theorem Core.nextLevel_eq (k : Core) (l : Fin 4) (hl : k.lvl < l) (hq : k.hq[l] ≠ []) (habove : ∀ j : Fin 4, l < j → k.hq[j] = []) :
    k.nextLevel = some l := by
  have none : ∀ j : Fin 4, l < j → (decide (k.lvl < j) && !k.hq[j].isEmpty) = false := fun j hj => by simp [habove j hj]
  have here : (decide (k.lvl < l) && !k.hq[l].isEmpty) = true := by
    rw [decide_eq_true hl, Bool.true_and, Bool.not_eq_true', List.isEmpty_eq_false_iff]
    exact hq
  have hcases : l = 1 ∨ l = 2 ∨ l = 3 := by omega
  unfold Core.nextLevel
  rcases hcases with rfl | rfl | rfl
  · rw [List.find?_cons, none 3 (by decide), List.find?_cons, none 2 (by decide), List.find?_cons, here]
  · rw [List.find?_cons, none 3 (by decide), List.find?_cons, here]
  · rw [List.find?_cons, here]

/-- A core that enters the handler of message `m` at level `l`, with `r` left in the level's queue (R56). -/
def Core.handling (k : Core) (l : Fin 4) (m : UMsg) (r : List UMsg) : Core :=
  let code := entryCode (k.entry (entryIndex m))
  ((({ k with hq := k.hq.set l r, under := k.lvl :: k.under, lvl := l } : Core).setX l 8 (m.a[0]?.getD 0)).setX l 9
    (m.a[1]?.getD 0)).upLv l (fun v => { v with
      pc := code, entry := code, wait := none, prev := k.lv[k.lvl].pc
      msgSrc := BitVec.ofNat 64 (m.seq.toNat * 2 ^ 32 + m.src) })

theorem Core.handling_units (k : Core) (l : Fin 4) (m : UMsg) (r : List UMsg) : k.handling l m r =
    { k with hq := k.hq.set l r, under := k.lvl :: k.under, lvl := l, lv := (k.handling l m r).lv, xs := (k.handling l m r).xs } := by
  unfold Core.handling
  dsimp only
  rw [Core.setX_units, Core.setX_units]
  rfl

theorem Core.handling_lv (k : Core) (l : Fin 4) (m : UMsg) (r : List UMsg) :
    (k.handling l m r).lv[l].pc = BitVec.ofNat 64 ((k.entry (entryIndex m)).toNat % 2 ^ 48) ∧
    (k.handling l m r).lv[l].msgSrc = BitVec.ofNat 64 (m.seq.toNat * 2 ^ 32 + m.src) ∧
    ∀ j : Fin 4, j ≠ l → (k.handling l m r).lv[j] = k.lv[j] := by
  unfold Core.handling
  refine ⟨?_, ?_, fun j hj => ?_⟩
  · rw [Fin.getElem_fin, Core.upLv_lv, if_pos rfl]
    exact congrArg (BitVec.ofNat 64) (bits_low _ 48)
  · rw [Fin.getElem_fin, Core.upLv_lv, if_pos rfl]
  · exact ((Core.upLv_lv _ l j _).trans (if_neg hj.symm)).trans
      ((Core.setX_lv_ne _ l j 9 _ hj).trans (Core.setX_lv_ne _ l j 8 _ hj))

theorem Core.handling_getX (k : Core) (l : Fin 4) (m : UMsg) (r : List UMsg) :
    (k.handling l m r).getX l 8 = m.a[0]?.getD 0 ∧ (k.handling l m r).getX l 9 = m.a[1]?.getD 0 := by
  unfold Core.handling
  constructor <;> rw [Core.getX_upLv _ _ _ _ (by intro v; rfl), Core.getX_setX]
  · rw [if_neg (by decide), Core.getX_setX, if_pos (by decide)]
  · rw [if_pos (by decide)]

/-- The state in which a handler has started, before a held message takes the room that it made. -/
def State.handled (s : State) (c : Nat) (l : Fin 4) (m : UMsg) (r : List UMsg) : State :=
  (s.setCore c ((s.core c).handling l m r)).count c 5

theorem State.handled_core (s : State) (c : Nat) (l : Fin 4) (m : UMsg) (r : List UMsg) :
    ∃ e, (s.handled c l m r).core c = { (s.core c).handling l m r with evc := e } := by
  unfold State.handled State.count
  rw [State.core_upCore, if_pos rfl, State.core_setCore, if_pos rfl]
  exact ⟨_, rfl⟩

theorem State.handled_core_ne (s : State) (c : Nat) (l : Fin 4) (m : UMsg) (r : List UMsg) (c' : Nat) (h : c' ≠ c) :
    (s.handled c l m r).core c' = s.core c' := by
  unfold State.handled State.count
  rw [State.core_upCore, if_neg h.symm, State.core_setCore, if_neg h.symm]

theorem State.trace_off (s : State) (h : s.hub.trace.getLsbD 63 = false) (c kind cost : Nat) (entry val : Word) :
    s.trace c kind cost entry val = s := by
  unfold State.trace
  extract_lets
  rw [if_neg (by rw [h]; exact Bool.false_ne_true)]

theorem exec_handlerStart (c : Nat) (s : State) (l : Fin 4) (m : UMsg) (r : List UMsg) (hl : (s.core c).lvl < l)
    (hq : (s.core c).hq[l] = m :: r) (habove : ∀ j : Fin 4, l < j → (s.core c).hq[j] = []) (htrace : s.hub.trace.getLsbD 63 = false) :
    exec (.handlerStart c) s = .next ((s.handled c l m r).unhold c) := by
  have hnext := (s.core c).nextLevel_eq l hl (by rw [hq]; exact List.cons_ne_nil _ _) habove
  have hoff := (s.handled c l m r).trace_off htrace c 4 0 (entryCode ((s.core c).entry (entryIndex m))) 0
  change execHandlerStart c s = _
  unfold execHandlerStart
  dsimp only
  rw [hnext]
  dsimp only
  rw [hq]
  exact congrArg (fun t : State => Host.Outcome.next (t.unhold c)) hoff

/-- A held message without a mask joins the queue that its handler's start made room in (R232). -/
theorem State.handled_unhold (s : State) (c : Nat) (l : Fin 4) (m : UMsg) (r : List UMsg) (q : UMsg) (hhold : (s.core c).hold = [q])
    (hkind : q.kind = .msg) (hcls : q.cls ≠ 0) (hmask : (s.core c).cmask.getLsbD q.cls = false) (hl : msgLevel q (s.core c) = l.val)
    (hroom : r.length < 64) :
    (((s.handled c l m r).unhold c).core c).hq[l] = r ++ [q] ∧ (((s.handled c l m r).unhold c).core c).hold = [] := by
  obtain ⟨e, he⟩ := s.handled_core c l m r
  rw [Core.handling_units] at he
  have hqueue : ((s.handled c l m r).core c).hq[l] = r := by rw [he]; simp
  have := (s.handled c l m r).unhold_singleton c q l (by rw [he]; exact hhold) hkind hcls
    (by rw [he]; exact (congrArg _ hmask).trans (Bool.and_false _)) (by rw [he]; exact hl) (by rw [hqueue]; exact hroom)
  rwa [hqueue] at this

/-- Held messages that are all masked stay, and the handler's level is as its message says. -/
theorem State.handled_masked (s : State) (c : Nat) (l : Fin 4) (m : UMsg) (r : List UMsg)
    (hmask : ∀ q ∈ (s.core c).hold, q.cls ≠ 0 ∧ (s.core c).cmask.getLsbD q.cls = true) :
    (s.handled c l m r).unhold c = s.handled c l m r := by
  obtain ⟨e, he⟩ := s.handled_core c l m r
  rw [Core.handling_units] at he
  refine State.unhold_of_masked _ c fun q hq => ?_
  rw [he] at hq ⊢
  obtain ⟨hcls, hbit⟩ := hmask q hq
  simp [Core.masked, hcls, hbit]

/-! ### Ends of handlers (R231) -/

theorem runs_hret (h : Head) (s : State) (l : Fin 4) (r : List (Fin 4)) (hunder : s.me.under = l :: r) (hlvl : s.me.lvl ≠ 0) :
    Runs (.hret h) s fun t => t.me.lvl = l ∧ t.me.under = r ∧ t.me.lv[l].pc = s.me.lv[l].pc ∧ t.me.hq = s.me.hq ∧ Outside s t := by
  have hrun : exec (.hret h) s = .next ((s.upLev (fun v => { v with prev := v.pc, wait := none })).upMe
      (fun k => { k with lvl := l, under := r })) := by
    change execHret h s = _
    unfold execHret
    rw [hunder]
    dsimp only
    rw [if_neg hlvl]
  refine ⟨_, hrun, ?_, ?_, ?_, ?_, (Outside.upMe s _).trans (Outside.upMe _ _)⟩
  · rw [State.me_upMe]
  · rw [State.me_upMe]
  · rw [State.me_upMe, State.me_upLev]
    dsimp only
    rw [Fin.getElem_fin, Core.upLv_lv]
    split
    · next he => exact congrArg (fun i : Fin 4 => s.me.lv[i].pc) he
    · rfl
  · rw [State.me_upMe, State.me_upLev]
    rfl

theorem traps_hret (h : Head) (s : State) (hlvl : s.me.lvl = 0) : Traps (.hret h) s Code.ctxBad := by
  change execHret h s = _
  unfold execHret
  split
  · rfl
  · rw [if_pos hlvl]

/-! ### Tasks (R57, R230) -/

/-- A core that enters the task of message `m`, with `r` left in its queue (R57). -/
def Core.tasking (k : Core) (m : UMsg) (r : List UMsg) : Core :=
  (((((({ k with tq := r, taskLast := true, taskRet := k.lv[0].pc, intask := true } : Core).setX 0 4 (m.a[0]?.getD 0)).setX 0 5
    (m.a[1]?.getD 0)).setX 0 6 (m.a[2]?.getD 0)).setX 0 7 (m.a[3]?.getD 0)).upLv 0 (fun v => { v with
      pc := m.code, entry := m.code, wait := none, prev := v.pc
      msgSrc := BitVec.ofNat 64 (m.seq.toNat * 2 ^ 32 + m.src) }))

theorem exec_taskStart (c : Nat) (s : State) (m : UMsg) (r : List UMsg) (h : (s.core c).tq = m :: r) :
    exec (.taskStart c) s = .next (s.setCore c ((s.core c).tasking m r)) := by
  change execTaskStart c s = _
  unfold execTaskStart
  dsimp only
  rw [h]
  rfl

theorem Core.tasking_units (k : Core) (m : UMsg) (r : List UMsg) : k.tasking m r = { k with
    tq := r, taskLast := true, taskRet := k.lv[0].pc, intask := true, lv := (k.tasking m r).lv, xs := (k.tasking m r).xs } := by
  have hregs := Core.setX_units_trans (Core.setX_units_trans (Core.setX_units_trans (Core.setX_units
    { k with tq := r, taskLast := true, taskRet := k.lv[0].pc, intask := true } 0 4 (m.a[0]?.getD 0)) 0 5 (m.a[1]?.getD 0)) 0 6
    (m.a[2]?.getD 0)) 0 7 (m.a[3]?.getD 0)
  unfold Core.tasking
  generalize Core.setX (Core.setX _ _ _ _) _ _ _ = u at hregs ⊢
  rw [hregs]
  rfl

theorem Core.upLv_lv_zero (k : Core) (f : Level → Level) : (k.upLv 0 f).lv[0] = f k.lv[0] := (Core.upLv_lv k 0 0 f).trans (if_pos rfl)

theorem Core.tasking_pc (k : Core) (m : UMsg) (r : List UMsg) : (k.tasking m r).lv[0].pc = m.code := by
  unfold Core.tasking
  rw [Core.upLv_lv_zero]

/-- x4 to x7 of level 0 hold the message's operands, every other register what it held. -/
theorem Core.tasking_getX (k : Core) (m : UMsg) (r : List UMsg) (q : XReg) : (k.tasking m r).getX 0 q =
    if q = 7 then m.a[3]?.getD 0 else if q = 6 then m.a[2]?.getD 0 else if q = 5 then m.a[1]?.getD 0
    else if q = 4 then m.a[0]?.getD 0 else k.getX 0 q := by
  have nonzero : ∀ {r : XReg} {a b : Word}, r ≠ 0 → (if q = r ∧ r ≠ 0 then a else b) = if q = r then a else b := by
    intro r a b hr
    exact if_congr (and_iff_left hr) rfl rfl
  unfold Core.tasking
  rw [Core.getX_upLv _ _ _ _ (by intro v; rfl), Core.getX_setX, Core.getX_setX, Core.getX_setX, Core.getX_setX, nonzero (by decide),
    nonzero (by decide), nonzero (by decide), nonzero (by decide)]
  rfl

theorem Core.tasking_getX_operand (k : Core) (m : UMsg) (r : List UMsg) (j : Nat) (hj : j < 4) :
    (k.tasking m r).getX 0 (BitVec.ofNat 6 (4 + j)) = m.a[j]?.getD 0 := by
  rw [Core.tasking_getX]
  match j, hj with
  | 0, _ => rfl
  | 1, _ => rfl
  | 2, _ => rfl
  | 3, _ => rfl

theorem exec_mret (h : Head) (s : State) (hlvl : s.me.lvl = 0) (htask : s.me.intask = true) (hrel : s.releaseHold = false) :
    exec (.mret h) s = .next (
      let u := s.sendMsg (bits s.lev.msgSrc 0 9) 0 63 .reply [s.getX 4, BitVec.ofNat 64 (bits s.lev.msgSrc 32 32)] 0
      (u.upMe (fun k => { k with intask := false })).upLev (fun v => { v with prev := v.pc, pc := s.me.taskRet, wait := none })) := by
  change execMret h s = _
  unfold execMret
  rw [if_neg (by simp [hlvl, htask]), if_neg (by rw [hrel]; exact Bool.false_ne_true)]

theorem traps_mret (h : Head) (s : State) (hno : s.me.lvl ≠ 0 ∨ s.me.intask = false) : Traps (.mret h) s Code.ctxBad := by
  change execMret h s = _
  unfold execMret
  rw [if_pos (by simpa using hno)]

/-- The state in which a task has ended: its REPLY is on its way, and level 0 goes on where it was. -/
def State.taskEnded (s : State) : State :=
  ((s.sendMsg (bits s.lev.msgSrc 0 9) 0 63 .reply [s.getX 4, BitVec.ofNat 64 (bits s.lev.msgSrc 32 32)] 0).upMe
    (fun k => { k with intask := false })).upLev (fun v => { v with prev := v.pc, pc := s.me.taskRet, wait := none })

theorem State.taskEnded_me (s : State) : s.taskEnded.me =
    ({ s.me with seq := s.me.seq + 1, intask := false } : Core).upLv s.me.lvl
      (fun v => { v with prev := v.pc, pc := s.me.taskRet, wait := none }) := by
  unfold State.taskEnded State.sendMsg State.countSent
  rw [State.me_upLev, State.me_upMe, State.me_push, State.me_upCluster, State.me_upMe]

theorem State.taskEnded_registers (s : State) : Registers [] [] [] s s.taskEnded := by
  have hlvl : s.taskEnded.me.lvl = s.me.lvl := by rw [State.taskEnded_me]; rfl
  refine ⟨fun r _ => ?_, fun r _ => ?_, fun r _ => ?_⟩
  · unfold State.getX
    rw [hlvl, State.taskEnded_me, Core.getX_upLv _ _ _ _ (by intro v; rfl)]
    rfl
  · unfold State.getV
    rw [hlvl, State.taskEnded_me, Core.getV_upLv _ _ _ _ (by intro v; rfl)]
    rfl
  · unfold State.getK
    rw [State.taskEnded_me, Core.getK_upLv]
    rfl

theorem State.taskEnded_cores (s : State) : SameCores s s.taskEnded := by
  intro c hc
  unfold State.taskEnded
  rw [State.core_upLev_ne _ _ c (by exact hc), State.core_upMe_ne _ _ c (by exact hc)]
  exact State.core_upMe_ne s (fun k => { k with seq := s.me.seq + 1 }) c hc

theorem State.taskEnded_agenda (s : State) (hlvl : s.me.lvl = 0) : s.taskEnded.agenda =
    let tgt := s.lev.msgSrc.toNat % 512
    s.agenda ++ [⟨msgChan s.cur tgt 0, .msgArrive tgt ⟨s.cur, tgt, s.me.seq + 1, 0, 63, .reply,
      [s.getX 4, BitVec.ofNat 64 (s.lev.msgSrc.toNat / 2 ^ 32)], 0, 0, s.pc, s.routeOf s.cur tgt 0⟩⟩] := by
  have htgt : bits s.lev.msgSrc 0 9 = s.lev.msgSrc.toNat % 512 := bits_low _ 9
  have hseq : bits s.lev.msgSrc 32 32 = s.lev.msgSrc.toNat / 2 ^ 32 := by
    rw [bits]
    exact Nat.mod_eq_of_lt (by have := s.lev.msgSrc.isLt; omega)
  have hzero : s.me.lvl.val = 0 := by rw [hlvl]; rfl
  unfold State.taskEnded
  rw [htgt, hseq]
  unfold State.sendMsg
  rw [hzero]
  rfl

end Sys2Proof.Machine

namespace Sys2Proof.Proofs
open Sys2Proof.Machine

/-- Settles O25: the core that a handler or a task enters and the one it ends at, field by field; a held message joins the queue that a
handler's start made room in. -/
theorem handlersAndTasks : Obligations.HandlersAndTasks := by
  unfold Obligations.HandlersAndTasks
  refine ⟨?handlerStart, runs_hret, traps_hret, ?taskStart, ?mret, traps_mret⟩
  case handlerStart =>
    intro c s l m r
    dsimp only
    intro hl hq habove htrace
    have hrun := exec_handlerStart c s l m r hl hq habove htrace
    refine ⟨fun q hhold hkind hcls hmask hlevel hroom => ⟨_, hrun, s.handled_unhold c l m r q hhold hkind hcls hmask hlevel hroom⟩,
      fun hmask => ?_⟩
    rw [s.handled_masked c l m r hmask] at hrun
    obtain ⟨e, he⟩ := s.handled_core c l m r
    obtain ⟨hpc, hsrc, hothers⟩ := (s.core c).handling_lv l m r
    obtain ⟨hx8, hx9⟩ := (s.core c).handling_getX l m r
    refine ⟨_, hrun, ?_, ?_, ?_, ?_, ?_, ?_, ?_, ?_, ?_, s.handled_core_ne c l m r, rfl⟩ <;> rw [he]
    · rw [Core.handling_units]
    · rw [Core.handling_units]
    · rw [Core.handling_units]
    · rw [Core.handling_units]; simp
    · exact hpc
    · exact hx8
    · exact hx9
    · exact hsrc
    · exact hothers
  case taskStart =>
    intro c s m r
    dsimp only
    intro hq
    refine ⟨_, exec_taskStart c s m r hq, ?_, ?_, ?_, ?_, ?_, ?_, fun c' hc => by rw [State.core_setCore, if_neg hc.symm], rfl⟩ <;>
      rw [State.core_setCore, if_pos rfl]
    · rw [Core.tasking_units]
    · rw [Core.tasking_units]
    · exact Core.tasking_pc _ m r
    · rw [Core.tasking_units]
    · exact fun j hj => Core.tasking_getX_operand _ m r j hj
    · intro q h4 h5 h6 h7
      rw [Core.tasking_getX, if_neg h7, if_neg h6, if_neg h5, if_neg h4]
  case mret =>
    intro h s hlvl htask hrel
    refine ⟨_, exec_mret h s hlvl htask hrel, ?_, ?_, ?_, s.taskEnded_registers, s.taskEnded_cores, fun _ => rfl,
      s.taskEnded_agenda hlvl⟩
    · exact congrArg Core.intask s.taskEnded_me
    · exact congrArg Level.pc (State.lev_upLev _ _)
    · exact congrArg Core.seq s.taskEnded_me

end Sys2Proof.Proofs
end

section
/-! SUPPORT. Ponds that share their pairs, and twins that are compared (R48, R50, R412 to R414). -/

namespace Sys2Proof.Machine

/-! ### Request rounds (R50) -/

theorem runs_pondRequestRound_asks (cl : Nat) (s : State) (j : Job) (hj : s.jobAt cl = some j) (v : Nat) (r : List Nat)
    (hv : j.victims cl = v :: r) : Runs (.pondRequestRound cl) s fun t =>
      ((t.cluster cl).round = true ∧ (t.cluster cl).failed = false) ∧
      (∃ chan, t.agenda = s.agenda ++ [⟨chan, .pondWorkRequest v cl r⟩]) ∧ t = { s with
        clusters := t.clusters, agenda := t.agenda, ids := t.ids } := by
  refine ⟨_, rfl, ?_⟩
  rw [hj]
  dsimp only
  rw [hv]
  exact ⟨by simp [State.askPond], ⟨_, rfl⟩, rfl⟩

theorem runs_pondRequestRound_alone (cl : Nat) (s : State) (j : Job) (hj : s.jobAt cl = some j) (hv : j.victims cl = []) :
    Runs (.pondRequestRound cl) s fun t => (t.cluster cl).round = false ∧ (t.cluster cl).failed = true ∧ t.agenda = s.agenda := by
  refine ⟨_, rfl, ?_⟩
  rw [hj]
  dsimp only
  rw [hv]
  exact ⟨by simp [State.askPond], by simp [State.askPond], rfl⟩

theorem runs_pondWorkRequest_refuses (cl thief : Nat) (rest : List Nat) (s : State) (j : Job) (hj : s.jobAt cl = some j)
    (h : (s.cluster cl).pond.length ≤ (s.cluster cl).highm) : Runs (.pondWorkRequest cl thief rest) s fun t =>
      (t.cluster cl).pond = (s.cluster cl).pond ∧ ∃ chan, t.agenda = s.agenda ++ [⟨chan, .pondHandover thief cl [] rest⟩] := by
  refine ⟨_, rfl, ?_⟩
  rw [hj]
  dsimp only
  rw [if_neg (Nat.not_lt.2 h)]
  exact ⟨rfl, _, rfl⟩

/-- The state in which a victim's Pond has lost its `n` oldest pairs. -/
def State.pondGives (s : State) (j : Job) (cl n : Nat) : State :=
  ((s.setCluster cl { s.cluster cl with pond := (s.cluster cl).pond.drop n }).pondChanged cl).pondRefill j cl

theorem State.pondGives_pond (s : State) (j : Job) (cl n : Nat) (hs : (s.cluster cl).stalled = []) :
    ((s.pondGives j cl n).cluster cl).pond = (s.cluster cl).pond.drop n := by
  obtain ⟨pairs, stalled⟩ := (s.setCluster cl { s.cluster cl with pond := (s.cluster cl).pond.drop n }).pondChanged_pairs cl
  rw [State.cluster_setCluster, if_pos rfl] at pairs stalled
  unfold State.pondGives
  rw [State.pondRefill_of_stalled_nil _ _ _ (stalled.trans hs), pairs]

theorem exec_pondWorkRequest_surplus (cl thief : Nat) (rest : List Nat) (s : State) (j : Job) (hj : s.jobAt cl = some j)
    (h : (s.cluster cl).highm < (s.cluster cl).pond.length) : exec (.pondWorkRequest cl thief rest) s = .next (
      let k := s.cluster cl
      let n := (k.pond.length - k.highm) / 2
      if n = 0 then (s.pondGives j cl n).upCluster thief (fun q => { q with round := false })
      else (s.pondGives j cl n).pondAnswer thief cl (k.pond.take n) []) := by
  change execPondWorkRequest cl thief rest s = _
  unfold execPondWorkRequest
  dsimp only
  rw [hj]
  dsimp only
  rw [if_pos h]
  rfl

/-- A pair that the hardware has room for becomes the youngest of a Pond whose Weir does not stall (R48). -/
theorem State.pondPush_pond (s : State) (j : Job) (cl : Nat) (p : PondPair) (hs : (s.cluster cl).stalled = [])
    (hroom : (s.cluster cl).pond.length < 16384) : ((s.pondPush j cl p).cluster cl).pond = (s.cluster cl).pond ++ [p] := by
  have hfit : ((s.cluster cl).stalled.isEmpty && j.pondRoom (s.cluster cl)) = true := by
    rw [hs, Job.pondRoom, pondHeld, decide_eq_true (by omega)]
    rfl
  unfold State.pondPush
  dsimp only
  rw [if_pos hfit, (State.pondChanged_pairs _ cl).1]
  unfold State.pondIn
  dsimp only
  rw [if_pos (by exact hroom)]
  simp [State.touchCl]

theorem runs_pondHandover_pair (cl victim : Nat) (p : PondPair) (rest : List Nat) (s : State) (j : Job) (hj : s.jobAt cl = some j)
    (hs : (s.cluster cl).stalled = []) (hroom : (s.cluster cl).pond.length < 16384) :
    Runs (.pondHandover cl victim [p] rest) s fun t => (t.cluster cl).pond = (s.cluster cl).pond ++ [p] := by
  refine ⟨(s.upCluster cl (fun k => { k with round := false })).pondPush j cl p, ?_, ?_⟩
  · change execPondHandover cl victim [p] rest s = _
    unfold execPondHandover
    dsimp only
    rw [hj]
    rfl
  · exact State.pondPush_pond _ j cl p (by simpa using hs) (by simpa using hroom) |>.trans (by simp)

/-! ### Announcements (R50) -/

/-- The state in which a Pond no longer waits for an announcement. -/
def State.pondHeard (s : State) (cl : Nat) : State := s.setCluster cl { s.cluster cl with failed := false }

theorem exec_pondHighmAnnounce (cl other : Nat) (s : State) (hf : (s.cluster cl).failed = true) :
    exec (.pondHighmAnnounce cl other) s = .next (
      if decide ((s.cluster cl).pond.length < (s.cluster cl).lowm) && (s.cluster cl).steal && !(s.cluster cl).det then
        ((s.pondHeard cl).upCluster cl (fun k => { k with round := true })).pushFree (.pondRequestRound cl)
      else s.pondHeard cl) := by
  change execPondHighmAnnounce cl other s = _
  unfold execPondHighmAnnounce
  dsimp only
  rw [if_pos hf]
  rfl

theorem exec_pondHighmAnnounce_idle (cl other : Nat) (s : State) (hf : (s.cluster cl).failed = false) :
    exec (.pondHighmAnnounce cl other) s = .next s := by
  change execPondHighmAnnounce cl other s = _
  unfold execPondHighmAnnounce
  dsimp only
  rw [if_neg (by rw [hf]; exact Bool.false_ne_true)]

/-- What an announcement does: a Pond whose round failed and that is still low begins another. -/
theorem pondHighmAnnounce_cases (cl other : Nat) (s : State) :
    let k := s.cluster cl
    let low := k.pond.length < k.lowm ∧ k.steal = true ∧ k.det = false
    (k.failed = true → low → Runs (.pondHighmAnnounce cl other) s fun t => (t.cluster cl).round = true ∧
      (t.cluster cl).failed = false ∧ ∃ chan, t.agenda = s.agenda ++ [⟨chan, .pondRequestRound cl⟩]) ∧
    (k.failed = true → ¬low → Runs (.pondHighmAnnounce cl other) s fun t => t.agenda = s.agenda ∧
      t.cluster cl = { k with failed := false }) ∧
    (k.failed = false → exec (.pondHighmAnnounce cl other) s = .next s) := by
  dsimp only
  have hlow : (decide ((s.cluster cl).pond.length < (s.cluster cl).lowm) && (s.cluster cl).steal && !(s.cluster cl).det) = true ↔
      (s.cluster cl).pond.length < (s.cluster cl).lowm ∧ (s.cluster cl).steal = true ∧ (s.cluster cl).det = false := by
    simp [and_assoc]
  refine ⟨fun hf hl => ?_, fun hf hl => ?_, exec_pondHighmAnnounce_idle cl other s⟩
  · have hrun := exec_pondHighmAnnounce cl other s hf
    rw [if_pos (hlow.2 hl)] at hrun
    exact ⟨_, hrun, by simp [State.pondHeard], by simp [State.pondHeard], _, rfl⟩
  · have hrun := exec_pondHighmAnnounce cl other s hf
    rw [if_neg (mt hlow.1 hl)] at hrun
    exact ⟨_, hrun, rfl, by simp [State.pondHeard]⟩

/-! ### Twins (R412 to R414) -/

theorem exec_twinCompare_none (cl : Nat) (s : State) (h : ∀ q ∈ (s.cluster cl).twins, q.done.length ≠ q.cores.length) :
    exec (.twinCompare cl) s = .next s := by
  have hnone : (s.cluster cl).twins.find? (fun t => t.done.length == t.cores.length) = none := by
    rw [List.find?_eq_none]
    intro q hq
    rw [beq_iff_eq]
    exact h q hq
  change execTwinCompare cl s = _
  unfold execTwinCompare
  rw [hnone]
  cases s.jobAt cl <;> rfl

/-- The comparison of a run that is complete: two streams that agree, two that differ, a third that agrees with none and one
that settles it (R414). -/
theorem exec_twinCompare (cl : Nat) (s : State) (j : Job) (r : TwinRun) (hj : s.jobAt cl = some j)
    (hr : (s.cluster cl).twins.find? (fun t => t.done.length == t.cores.length) = some r) : exec (.twinCompare cl) s = .next (
      let hash (i : Nat) : Word := streamHash (r.streams[i]?.getD [])
      if r.cores.length = 2 then
        if hash 0 = hash 1 then s.endTwin j cl r (some 0)
        else match ((List.range 16).map (16 * cl + ·)).find? (fun c => s.twinEligible j c r.cores) with
          | none => s.twinFail j cl r
          | some c =>
            (s.upCluster cl (fun k => { k with twins := k.twins.map (fun t =>
              if t.id = r.id then { t with cores := t.cores ++ [c] } else t) })).upCore c (fun k =>
                { k with offer := k.offer ++ [(⟨cl, r.id, 2⟩, r.pair, r.entry)] })
      else if hash 2 ≠ hash 0 ∧ hash 2 ≠ hash 1 then s.twinFail j cl r
      else
        let dissent := r.cores[if hash 2 = hash 0 then 1 else 0]?.getD 0
        ((s.endTwin j cl r (some 2)).logRec (dieOfCluster cl)
          { code := Code.twinMismatch, core := 16 * cl, unit := unitWeir, colour := j.colour
            info := BitVec.ofNat 64 r.pair.wire }).raise1 none cl j.colour
          ⟨Code.twinMismatch, 0, BitVec.ofNat 64 r.pair.wire, BitVec.ofNat 64 dissent, false⟩) := by
  change execTwinCompare cl s = _
  unfold execTwinCompare
  rw [hj, hr] <;> rfl

/-- A stream of messages: each is sent from the primary's Weir, in order, and nothing else changes. -/
structure Performed (cl : Nat) (l : List TwinItem) (s t : State) : Prop where
  agenda : t.agenda = s.agenda ++ l.map (fun i => fromWeir cl i.event.1 i.event.2)
  cores : t.cores = s.cores
  mem : t.mem = s.mem
  acts : (t.cluster cl).acts = (s.cluster cl).acts
  twins : (t.cluster cl).twins = (s.cluster cl).twins

theorem State.perform_messages (s : State) (j : Job) (cl c : Nat) (l : List TwinItem) (h : ∀ i ∈ l, i.kind ≠ 7 ∧ i.kind ≠ 8) :
    Performed cl l s (s.perform j cl c l) := by
  induction l generalizing s with
  | nil => exact ⟨(List.append_nil _).symm, rfl, rfl, rfl, rfl⟩
  | cons i l ih =>
    obtain ⟨h7, h8⟩ := h i List.mem_cons_self
    have hstep : s.perform j cl c (i :: l) = (s.netSend (weirSrc cl) cl i).perform j cl c l := by
      unfold State.perform
      rw [List.foldl_cons, if_neg h8, if_neg h7]
    obtain ⟨agenda, cores, mem, acts, twins⟩ := ih (s.netSend (weirSrc cl) cl i) fun x hx => h x (List.mem_cons_of_mem _ hx)
    rw [hstep]
    refine ⟨agenda.trans ?_, cores, mem, acts.trans ?_, twins.trans ?_⟩
    · rw [List.map_cons, List.append_cons]
      rfl
    · simp [State.netSend, State.countSent]
    · simp [State.netSend, State.countSent]

theorem State.returnSlots_nil (s : State) (j : Job) (cl : Nat) (r : TwinRun) (kn kw : Nat) (h : r.slots = []) :
    s.returnSlots j cl r kn kw = s := by
  unfold State.returnSlots
  rw [h]
  simp

/-- Twins that agree: their run is over, the stream has been performed once, and the activation counts once (R414). -/
theorem State.endTwin_messages (s : State) (j : Job) (cl : Nat) (r : TwinRun) (i : Nat) (hslots : r.slots = [])
    (h : ∀ q ∈ r.streams[i]?.getD [], q.kind ≠ 7 ∧ q.kind ≠ 8) :
    let t := s.endTwin j cl r (some i)
    t.cores = s.cores ∧ t.mem = s.mem ∧
      t.agenda = s.agenda ++ (r.streams[i]?.getD []).map (fun i => fromWeir cl i.event.1 i.event.2) ∧
      (t.cluster cl).acts = ((s.cluster cl).acts + 1) % 2 ^ 48 ∧
      (t.cluster cl).twins = (s.cluster cl).twins.filter (·.id != r.id) := by
  have hperf := (s.upCluster cl (fun k => { k with twins := k.twins.filter (fun t => t.id != r.id) })).perform_messages j cl
    (r.cores.headD (16 * cl)) _ h
  unfold State.endTwin
  dsimp only
  rw [State.returnSlots_nil _ _ _ _ _ _ hslots]
  refine ⟨hperf.cores, hperf.mem, hperf.agenda, ?_, ?_⟩
  · rw [State.cluster_upCluster, if_pos rfl, hperf.acts]
    simp
  · rw [State.cluster_upCluster, if_pos rfl, hperf.twins]
    simp

end Sys2Proof.Machine

namespace Sys2Proof.Proofs
open Sys2Proof.Machine

/-- Settles O40: each event of a Pond by its watermarks, and the comparison of a complete twin run by its hashes. -/
theorem pondsAndTwins : Obligations.PondsAndTwins := by
  unfold Obligations.PondsAndTwins
  refine ⟨⟨?rounds, ?requests, fun cl victim v r s => ⟨_, rfl, rfl, _, rfl⟩,
    fun cl victim s => ⟨_, rfl, by simp [State.askPond], by simp [State.askPond], rfl⟩, ?handover, pondHighmAnnounce_cases⟩,
    exec_twinCompare_none, ?twins⟩
  case rounds =>
    exact fun cl s j hj => ⟨runs_pondRequestRound_asks cl s j hj, runs_pondRequestRound_alone cl s j hj⟩
  case requests =>
    intro cl thief rest s j hj
    dsimp only
    refine ⟨runs_pondWorkRequest_refuses cl thief rest s j hj, fun hh hn hs hne => ?_, fun hh hn hs => ?_⟩
    · have hrun := exec_pondWorkRequest_surplus cl thief rest s j hj hh
      dsimp only at hrun
      rw [if_pos hn] at hrun
      refine ⟨_, hrun, ?_, by simp⟩
      rw [State.cluster_upCluster, if_neg hne, State.pondGives_pond s j cl _ hs, hn, List.drop_zero]
    · have hrun := exec_pondWorkRequest_surplus cl thief rest s j hj hh
      dsimp only at hrun
      rw [if_neg hn] at hrun
      exact ⟨_, hrun, State.pondGives_pond s j cl _ hs, _, _, rfl⟩
  case handover =>
    exact fun cl victim p rest s j hj hs hroom => runs_pondHandover_pair cl victim p rest s j hj hs hroom
  case twins =>
    intro cl s j r hj hr
    dsimp only
    have hrun := exec_twinCompare cl s j r hj hr
    dsimp only at hrun
    refine ⟨fun hlen heq hkinds hslots => ?_, fun c hlen hne hc => ?_, fun hlen hne hc => ?_, fun hlen h0 h1 => ?_, fun hlen hor => ?_⟩
    · rw [if_pos hlen, if_pos heq] at hrun
      exact ⟨_, hrun, s.endTwin_messages j cl r 0 hslots hkinds⟩
    · rw [if_pos hlen, if_neg hne, hc] at hrun
      refine ⟨_, hrun, ?_, fun c' hc' => ?_, fun q hq hid => ?_, rfl, rfl⟩
      · rw [State.core_upCore, if_pos rfl]
        rfl
      · rw [State.core_upCore, if_neg hc'.symm]
        rfl
      · have htwins := List.mem_map_of_mem (f := fun t : TwinRun => if t.id = r.id then { t with cores := t.cores ++ [c] } else t) hq
        rw [if_pos hid] at htwins
        simpa using htwins
    · rw [if_pos hlen, if_neg hne, hc] at hrun
      exact hrun
    · rw [if_neg hlen, if_pos ⟨h0, h1⟩] at hrun
      exact hrun
    · rw [if_neg hlen, if_neg (fun h => hor.elim h.1 h.2)] at hrun
      exact hrun

end Sys2Proof.Proofs
end

section
/-! SUPPORT. Updates of the executing core that leave its registers, the instruction that waits, and maps. -/

namespace Sys2Proof.Machine

/-! ### Maps -/

@[simp] theorem NMap.find?_erase {α : Type} (m : NMap α) (k : Nat) : NMap.find? (NMap.erase m k) k = none := by
  unfold NMap.erase
  induction m with
  | nil => rfl
  | cons e r ih =>
    obtain ⟨j, v⟩ := e
    by_cases hj : j = k <;> simp [NMap.find?, hj, ih]

theorem NMap.set_set {α : Type} (m : NMap α) (k : Nat) (v w : α) : NMap.set (NMap.set m k v) k w = NMap.set m k w := by
  unfold NMap.set
  rw [List.filter_cons, if_neg (by simp), List.filter_filter]
  simp

theorem State.setCore_setCore (s : State) (c : Nat) (k k' : Core) : (s.setCore c k).setCore c k' = s.setCore c k' := by
  unfold State.setCore
  rw [NMap.set_set]

/-! ### The registers of a core -/

/-- Two cores whose registers are the same, at the same running level. -/
structure SameFile (k k' : Core) : Prop where
  lvl : k'.lvl = k.lvl
  xs : k'.xs = k.xs
  vs : k'.vs = k.vs
  ks : k'.k = k.k
  own : ∀ l : Fin 4, k'.lv[l].x = k.lv[l].x ∧ k'.lv[l].v = k.lv[l].v

theorem SameFile.refl (k : Core) : SameFile k k := ⟨rfl, rfl, rfl, rfl, fun _ => ⟨rfl, rfl⟩⟩

theorem SameFile.trans {k k' k'' : Core} (h : SameFile k k') (g : SameFile k' k'') : SameFile k k'' :=
  ⟨g.lvl.trans h.lvl, g.xs.trans h.xs, g.vs.trans h.vs, g.ks.trans h.ks,
    fun l => ⟨(g.own l).1.trans (h.own l).1, (g.own l).2.trans (h.own l).2⟩⟩

theorem SameFile.upLv (k : Core) (l : Fin 4) {f : Level → Level} (hx : ∀ v, (f v).x = v.x) (hv : ∀ v, (f v).v = v.v) :
    SameFile k (k.upLv l f) := by
  refine ⟨rfl, rfl, rfl, rfl, fun m => ?_⟩
  rw [Fin.getElem_fin, Core.upLv_lv]
  split
  · next h => subst h; exact ⟨hx _, hv _⟩
  · exact ⟨rfl, rfl⟩

/-- A core that keeps its levels and its shared registers keeps its registers. -/
theorem SameFile.of_eq {k k' : Core} (hl : k'.lvl = k.lvl) (hlv : k'.lv = k.lv) (hx : k'.xs = k.xs) (hv : k'.vs = k.vs)
    (hk : k'.k = k.k) : SameFile k k' := ⟨hl, hx, hv, hk, fun l => by rw [hlv]; exact ⟨rfl, rfl⟩⟩

theorem Registers.of_sameFile {s t : State} (h : SameFile s.me t.me) (xs : List XReg) (vs : List VReg) (ks : List KReg) :
    Registers xs vs ks s t := by
  refine ⟨fun r _ => ?_, fun r _ => ?_, fun r _ => ?_⟩
  · unfold State.getX Core.getX
    rw [h.lvl, h.xs, (h.own s.me.lvl).1]
  · unfold State.getV Core.getV
    rw [h.lvl, h.vs, (h.own s.me.lvl).2]
  · unfold State.getK Core.getK
    rw [h.ks]

theorem Registers.mono {xs xs' : List XReg} {vs : List VReg} {ks : List KReg} {s t : State} (h : Registers xs vs ks s t)
    (hxs : ∀ r, r ∈ xs → r ∈ xs') : Registers xs' vs ks s t :=
  ⟨fun r hr => h.general r fun hm => hr (hxs r hm), h.vector, h.mask⟩

theorem Registers.setX (vs : List VReg) (ks : List KReg) (s : State) (d : XReg) (w : Word) : Registers [d] vs ks s (s.setX d w) :=
  (Frame.setX vs ks s w (List.mem_singleton.2 rfl)).registers

/-! ### Waiting instructions -/

theorem Frame.block (s : State) (r : WaitReason) (a : Word) : Frame [] [] [] s (s.block r a) :=
  ⟨by unfold State.block State.upLev; exact Outside.upMe s _,
    Registers.of_sameFile (by
      unfold State.block
      rw [State.me_upLev]
      exact SameFile.upLv _ _ (fun _ => rfl) fun _ => rfl) _ _ _,
    by
      unfold State.block
      rw [State.me_upLev]
      exact Core.rest_upLv s.me _ (by intro v; rfl)⟩

theorem State.lev_block (s : State) (r : WaitReason) (a : Word) :
    (s.block r a).lev = { s.lev with wait := some { reason := r, pc := s.lev.pc, arg := a, stamp := s.changes s.cur } } := by
  unfold State.block
  rw [State.lev_upLev]

@[simp] theorem State.pc_block (s : State) (r : WaitReason) (a : Word) : (s.block r a).pc = s.pc := by
  unfold State.pc
  rw [State.lev_block]

/-- An instruction that waits keeps its place, and nothing else changes. -/
theorem Runs.of_block {i : Instr} {s : State} {r : WaitReason} {a : Word} (e : exec i s = .next (s.block r a)) :
    Runs i s fun t => t.pc = s.pc ∧ t.lev.wait.isSome = true ∧ Frame [] [] [] s t :=
  ⟨_, e, State.pc_block s r a, by rw [State.lev_block]; rfl, Frame.block s r a⟩

/-- An instruction that has nothing to do goes on behind itself. -/
theorem Runs.of_advance {i : Instr} {h : Head} {s : State} (e : exec i s = .next (s.advance h)) :
    Runs i s fun t => Past h s t ∧ Frame [] [] [] s t := ⟨_, e, State.pc_advance s h, Frame.advance _ _ _ s h⟩

end Sys2Proof.Machine
end

section
/-! SUPPORT. Barriers and group collectives, at the core that issues them and at the group's Weir (R61, R222 to R224, R396). -/

namespace Sys2Proof.Machine

/-! ### Barrier instructions (R222) -/

theorem State.barWait_of_none {s : State} (h : s.waiting = none) : s.barWait = none := by
  unfold State.barWait
  rw [h]

theorem State.barWait_of_some {s : State} {w : Wait} (h : s.waiting = some w) (hr : w.reason = .barrier) : s.barWait = some w := by
  unfold State.barWait
  rw [h]
  exact if_pos hr

theorem State.slotOf_eq (s : State) (a : XReg) : s.slotOf a = (s.getX a).toNat % 256 := bits_low _ 8

section
variable (h : Head) (d a : XReg) (s : State) (slot : Nat) (hslot : (s.getX a).toNat % 256 = slot)
include hslot

theorem exec_bar (hw : s.barWait = none) : exec (.bar h a) s = .next (
    if !s.me.memberOf slot then s.trap Code.barNonmember
    else if (s.me.arrived.find? slot).isSome then s.trap Code.barDouble
    else if s.releaseHold then s.block .awake
    else (s.arrive slot).block .barrier (BitVec.ofNat 64 (s.phase s.cur slot * 256 + slot))) := by
  rw [← hslot, ← State.slotOf_eq]
  change execBar h a s = _
  unfold execBar
  rw [hw]

theorem exec_bara : exec (.bara h d a) s = .next (
    if !s.me.memberOf slot then s.trap Code.barNonmember
    else if (s.me.arrived.find? slot).isSome then s.trap Code.barDouble
    else if s.releaseHold then s.block .awake
    else ((s.arrive slot).setX d (BitVec.ofNat 64 (s.phase s.cur slot))).advance h) := by
  rw [← hslot, ← State.slotOf_eq]
  rfl

theorem exec_barw (hw : s.barWait = none) : exec (.barw h d a) s = .next (
    if !s.me.memberOf slot then s.trap Code.barNonmember
    else if s.inPhase slot ((s.getX d).toNat % 2 ^ 32) then
      s.block .barrier (BitVec.ofNat 64 ((s.getX d).toNat % 2 ^ 32 * 256 + slot))
    else s.advance h) := by
  rw [← hslot, ← State.slotOf_eq, ← bits_low]
  change execBarw h d a s = _
  unfold execBarw
  rw [hw]

theorem exec_barq : exec (.barq h d a) s = .next (
    if !s.me.memberOf slot then s.trap Code.barNonmember
    else (s.setX d (BitVec.ofNat 64 (s.phase s.cur slot))).advance h) := by
  rw [← hslot, ← State.slotOf_eq]
  rfl

end

theorem State.inPhase_iff (s : State) (slot p : Nat) :
    s.inPhase slot p = true ↔ s.phase s.cur slot = p ∨ NMap.find? s.me.arrived slot = some p := by
  unfold State.inPhase
  rw [Bool.or_eq_true, decide_eq_true_iff, decide_eq_true_iff]

/-- What an arrival leaves: ARRIVED, and the message on its way to the group's Weir. -/
structure Arrived (s : State) (slot : Nat) (g : GroupDef) (t : State) : Prop where
  arrived : NMap.find? t.me.arrived slot = some (s.phase s.cur slot)
  agenda : t.agenda = s.agenda ++ [⟨groupChan s.cur g.home, .barrierArrival g.home slot s.cur⟩]
  bytes : SameBytes s t
  cores : SameCores s t

theorem State.arrive_spec (s : State) (slot : Nat) (g : GroupDef) (hg : s.group? s.me.colour slot = some g) :
    Arrived s slot g (s.arrive slot) ∧ (s.arrive slot).cur = s.cur ∧ (s.arrive slot).lev = s.lev ∧
      SameFile s.me (s.arrive slot).me := by
  have hme : (s.arrive slot).me = { s.me with arrived := s.me.arrived.set slot (s.phase s.cur slot) } := by
    unfold State.arrive
    rw [State.me_push, State.me_upMe]
  refine ⟨⟨?_, ?_, fun _ => rfl, fun c hc =>
    State.core_upMe_ne s (fun k => { k with arrived := k.arrived.set slot (s.phase s.cur slot) }) c hc⟩, rfl, ?_, ?_⟩
  · rw [hme, NMap.find?_set, if_pos rfl]
  · unfold State.arrive
    rw [hg]
    rfl
  · exact (congrArg (fun k : Core => k.lv[k.lvl]) hme).trans rfl
  · rw [hme]
    exact SameFile.of_eq rfl rfl rfl rfl rfl

/-- The core's next updates of its running level and registers keep an arrival. -/
theorem Arrived.upMe {s t : State} {slot : Nat} {g : GroupDef} (h : Arrived s slot g t) (hcur : t.cur = s.cur) (f : Core → Core)
    (hf : (f t.me).arrived = t.me.arrived) : Arrived s slot g (t.upMe f) := by
  refine ⟨?_, h.agenda, h.bytes, fun c hc => ?_⟩
  · rw [State.me_upMe, hf]
    exact h.arrived
  · rw [State.core_upMe_ne t f c (by rw [hcur]; exact hc)]
    exact h.cores c hc

theorem Arrived.upLev {s t : State} {slot : Nat} {g : GroupDef} (h : Arrived s slot g t) (hcur : t.cur = s.cur)
    (f : Level → Level) : Arrived s slot g (t.upLev f) := h.upMe hcur (fun k => k.upLv k.lvl f) rfl

theorem Arrived.setX {s t : State} {slot : Nat} {g : GroupDef} (h : Arrived s slot g t) (hcur : t.cur = s.cur) (d : XReg)
    (w : Word) : Arrived s slot g (t.setX d w) :=
  h.upMe hcur (fun k => k.setX k.lvl d w) (by rw [Core.setX_units])

theorem runs_bar (h : Head) (a : XReg) (s : State) (slot : Nat) (hslot : (s.getX a).toNat % 256 = slot) (hw : s.barWait = none)
    (g : GroupDef) (hg : s.group? s.me.colour slot = some g) (hm : s.me.memberOf slot = true)
    (hn : NMap.find? s.me.arrived slot = none) (hr : s.releaseHold = false) :
    Runs (.bar h a) s fun t => Arrived s slot g t ∧ t.pc = s.pc ∧ t.lev.wait.isSome = true ∧ Registers [] [] [] s t := by
  have hrun := exec_bar h a s slot hslot hw
  rw [hm, hn, hr, if_neg (by decide), if_neg (by decide), if_neg (by decide)] at hrun
  obtain ⟨harr, hcur, hlev, hfile⟩ := s.arrive_spec slot g hg
  refine ⟨_, hrun, harr.upLev hcur _, ?_, by rw [State.lev_block]; rfl,
    (Registers.of_sameFile hfile _ _ _).trans (Frame.block _ _ _).registers⟩
  rw [State.pc_block]
  exact congrArg Level.pc hlev

theorem runs_bara (h : Head) (d a : XReg) (s : State) (slot : Nat) (hslot : (s.getX a).toNat % 256 = slot)
    (g : GroupDef) (hg : s.group? s.me.colour slot = some g) (hm : s.me.memberOf slot = true)
    (hn : NMap.find? s.me.arrived slot = none) (hr : s.releaseHold = false) :
    Runs (.bara h d a) s fun t => Arrived s slot g t ∧ Past h s t ∧
      t.getX d = (if d = 0 then 0 else BitVec.ofNat 64 (s.phase s.cur slot)) ∧ Registers [d] [] [] s t := by
  have hrun := exec_bara h d a s slot hslot
  rw [hm, hn, hr, if_neg (by decide), if_neg (by decide), if_neg (by decide)] at hrun
  obtain ⟨harr, hcur, hlev, hfile⟩ := s.arrive_spec slot g hg
  refine ⟨_, hrun, (harr.setX hcur d _).upLev hcur _, ?_, State.getX_setX_advance _ _ _ _, ?_⟩
  · exact (State.past_setX_advance _ h d _).trans (congrArg (fun v : Level => v.pc + BitVec.ofNat 64 h.len) hlev)
  · exact (Registers.of_sameFile hfile _ _ _).trans (State.frame_setX_advance _ h d _).registers

/-! ### The barrier at its Weir (R61, R396) -/

@[simp] theorem State.groupAt_setGroup (s : State) (cl slot : Nat) (g : Group) : (s.setGroup cl slot g).groupAt cl slot = g := by
  simp [State.groupAt, State.setGroup]

/-- The Weir of a group tells each member of a list, in order. -/
def State.tellEach (s : State) (cl : Nat) (ms : List Nat) (ev : Nat → Instr) : State :=
  ms.foldl (fun (u : State) m => u.push (noticeChan cl m) (ev m)) s

theorem State.tellEach_units (s : State) (cl : Nat) (ms : List Nat) (ev : Nat → Instr) :
    s.tellEach cl ms ev = { s with agenda := (s.tellEach cl ms ev).agenda } :=
  List.foldlRecOn (motive := fun u : State => u = { s with agenda := u.agenda }) ms _ rfl fun _ hu _ _ => by rw [hu]; rfl

theorem State.tellEach_agenda (s : State) (cl : Nat) (ms : List Nat) (ev : Nat → Instr) :
    (s.tellEach cl ms ev).agenda.map (·.ev) = s.agenda.map (·.ev) ++ ms.map ev := by
  induction ms generalizing s with
  | nil => exact (List.append_nil _).symm
  | cons m ms ih =>
    refine (ih (s.push (noticeChan cl m) (ev m))).trans ?_
    rw [State.push_agenda, List.map_append, List.append_assoc]
    rfl

theorem runs_barrierArrival_last (cl slot c : Nat) (s : State)
    (hall : ∀ m ∈ s.membersAt cl slot, m ∈ (s.groupAt cl slot).here ∨ m = c) : Runs (.barrierArrival cl slot c) s fun t =>
      t.groupAt cl slot = { s.groupAt cl slot with phase := ((s.groupAt cl slot).phase + 1) % 2 ^ 32, here := [] } ∧
      t.agenda.map (·.ev) = s.agenda.map (·.ev) ++
        (s.membersAt cl slot).map (fun m => .barrierCompletionNotice m slot (s.groupAt cl slot).phase) ∧ t.mem = s.mem := by
  have hrun : exec (.barrierArrival cl slot c) s = .next (State.tellEach
      (s.setGroup cl slot { s.groupAt cl slot with phase := ((s.groupAt cl slot).phase + 1) % 2 ^ 32, here := [] })
      cl (s.membersAt cl slot) (fun m => .barrierCompletionNotice m slot (s.groupAt cl slot).phase)) := by
    change execBarrierArrival cl slot c s = _
    unfold execBarrierArrival
    dsimp only
    rw [if_pos (by simpa using hall)]
    rfl
  refine ⟨_, hrun, ?_, State.tellEach_agenda _ _ _ _, ?_⟩ <;> rw [State.tellEach_units]
  · exact State.groupAt_setGroup _ _ _ _
  · rfl

theorem runs_barrierArrival_more (cl slot c : Nat) (s : State)
    (hno : ¬∀ m ∈ s.membersAt cl slot, m ∈ (s.groupAt cl slot).here ∨ m = c) : Runs (.barrierArrival cl slot c) s fun t =>
      t.groupAt cl slot = { s.groupAt cl slot with here := (s.groupAt cl slot).here ++ [c] } ∧ t.agenda = s.agenda ∧
      t.mem = s.mem := by
  have hrun : exec (.barrierArrival cl slot c) s =
      .next (s.setGroup cl slot { s.groupAt cl slot with here := (s.groupAt cl slot).here ++ [c] }) := by
    change execBarrierArrival cl slot c s = _
    unfold execBarrierArrival
    dsimp only
    rw [if_neg (by simpa using hno)]
  exact ⟨_, hrun, State.groupAt_setGroup _ _ _ _, rfl, rfl⟩

theorem runs_barrierCompletionNotice (c slot phase : Nat) (s : State) (h : NMap.find? (s.core c).arrived slot = some phase) :
    Runs (.barrierCompletionNotice c slot phase) s fun t => NMap.find? (t.core c).arrived slot = none ∧
      t.core c = { s.core c with arrived := (t.core c).arrived } ∧ (∀ c', c' ≠ c → t.core c' = s.core c') ∧
      t = { s with cores := t.cores } := by
  have hrun : exec (.barrierCompletionNotice c slot phase) s =
      .next (s.setCore c { s.core c with arrived := (s.core c).arrived.erase slot }) := by
    change execBarrierCompletionNotice c slot phase s = _
    unfold execBarrierCompletionNotice State.upCore
    dsimp only
    rw [if_pos h]
  refine ⟨_, hrun, ?_, ?_, fun c' hc => ?_, rfl⟩
  · rw [State.core_setCore, if_pos rfl]
    exact NMap.find?_erase _ _
  · rw [State.core_setCore, if_pos rfl]
  · rw [State.core_setCore, if_neg hc.symm]

/-! ### Contributions (R223) -/

theorem State.lev_lockX (s : State) (d : XReg) :
    (s.lockX d).lev = { s.lev with locks := s.lev.locks ++ (if d = 0 then [] else [d]) } := by
  unfold State.lockX
  split
  · rw [List.append_nil]
  · rw [State.lev_upLev]

theorem State.lockX_sameFile (s : State) (d : XReg) : SameFile s.me (s.lockX d).me := by
  unfold State.lockX
  split
  · exact SameFile.refl _
  · rw [State.me_upLev]
    exact SameFile.upLv _ _ (fun _ => rfl) fun _ => rfl

theorem State.lockX_coll (s : State) (d : XReg) : (s.lockX d).me.coll = s.me.coll := by
  unfold State.lockX
  split
  · rfl
  · rw [State.me_upLev]
    rfl

theorem State.lockX_outside (s : State) (d : XReg) : Outside s (s.lockX d) := by
  unfold State.lockX
  split
  · exact Outside.refl s
  · exact Outside.upMe s _

/-- The state in which a core has a collective in flight. -/
def State.contributing (s : State) (slot : Nat) (d : XReg) : State :=
  (s.upMe (fun c => { c with coll := c.coll.set slot (c.lvl.val, s.pc, d) })).lockX d

/-- What a contribution that has been sent leaves (R223). -/
structure Contributed (h : Head) (d : XReg) (slot home : Nat) (k : Contribution) (s t : State) : Prop where
  past : Past h s t
  coll : NMap.find? t.me.coll slot = some (s.me.lvl.val, s.pc, d)
  locks : t.lev.locks = s.lev.locks ++ (if d = 0 then [] else [d])
  agenda : t.agenda = s.agenda ++ [⟨groupChan s.cur home, .collectiveContribution home slot k⟩]
  registers : Registers [] [] [] s t
  bytes : SameBytes s t
  cores : SameCores s t

theorem State.contributing_spec (s : State) (h : Head) (d : XReg) (slot home : Nat) (k : Contribution) :
    Contributed h d slot home k s
      (((s.contributing slot d).push (groupChan s.cur home) (.collectiveContribution home slot k)).advance h) := by
  have hme := s.me_upMe (fun c => { c with coll := c.coll.set slot (c.lvl.val, s.pc, d) })
  generalize hu : s.upMe (fun c => { c with coll := c.coll.set slot (c.lvl.val, s.pc, d) }) = u at hme
  have hout : Outside s u := hu ▸ Outside.upMe s _
  have hlev : u.lev = s.lev := (congrArg (fun k : Core => k.lv[k.lvl]) hme).trans rfl
  have hlock : (s.contributing slot d).lev = { s.lev with locks := s.lev.locks ++ (if d = 0 then [] else [d]) } := by
    unfold State.contributing
    rw [hu, State.lev_lockX, hlev]
  have hfile : SameFile s.me (s.contributing slot d).me := by
    unfold State.contributing
    rw [hu]
    refine SameFile.trans ?_ (u.lockX_sameFile d)
    rw [hme]
    exact SameFile.of_eq rfl rfl rfl rfl rfl
  have hrest : Outside s (s.contributing slot d) := by
    unfold State.contributing
    rw [hu]
    exact hout.trans (u.lockX_outside d)
  refine ⟨?_, ?_, ?_, ?_, ?_, ?_, ?_⟩
  · refine State.past_advance h ?_
    exact (congrArg Level.pc hlock).trans rfl
  · rw [State.me_advance, State.me_push, Core.upLv_coll]
    unfold State.contributing
    rw [hu, State.lockX_coll, hme, NMap.find?_set, if_pos rfl]
  · rw [State.lev_advance]
    exact congrArg Level.locks hlock
  · rw [State.advance_agenda, State.push_agenda, hrest.units]
  · exact (Registers.of_sameFile (t := (s.contributing slot d).push _ _) hfile _ _ _).trans (Registers.advance _ _ _ _ h)
  · exact hrest.bytes
  · intro c hc
    rw [State.core_advance_ne _ _ _ (by rw [hrest.units]; exact hc)]
    exact hrest.cores c hc

section
variable (s : State) (h : Head) (d a : XReg) (slot op root : Nat) (g : GroupDef) (hslot : (s.getX a).toNat % 256 = slot)
  (hop : (s.getX a).toNat / 2 ^ 8 % 16 = op) (hroot : (s.getX a).toNat / 2 ^ 16 % 2 ^ 10 = root)
  (hg : s.group? s.me.colour slot = some g) (hm : s.me.memberOf slot = true)
include hslot hop hroot hg hm

/-- A member's collective: an OP or a root that there is none of traps, one in flight makes it wait, else it is sent. -/
theorem State.collective_eq (gbc : Bool) : s.collective h d a gbc =
    if !gbc && decide (8 < op) then s.trap Code.collBad
    else if gbc && decide (g.members.length ≤ root) then s.trap Code.collBad
    else if (s.me.coll.find? slot).isSome ∨ s.releaseHold then s.block .awake
    else ((s.contributing slot d).push (groupChan s.cur g.home) (.collectiveContribution g.home slot
      ⟨s.cur, s.me.lvl.val, s.pc, gbc, if gbc then 0 else op, if gbc then root else 0, s.getX d⟩)).advance h := by
  have hslot' : bits (s.getX a) 0 8 = slot := (bits_low _ 8).trans hslot
  have hop' : bits (s.getX a) 8 4 = op := hop
  have hroot' : bits (s.getX a) 16 10 = root := hroot
  unfold State.collective
  dsimp only
  rw [hslot', hop', hroot', hg]
  dsimp only
  rw [hm, if_neg (by decide)]
  unfold State.contributing State.lockX
  by_cases hd : d = 0
  · simp only [if_pos hd]
    rfl
  · simp only [if_neg hd]
    rfl

theorem runs_gred (hn : NMap.find? s.me.coll slot = none) (hr : s.releaseHold = false) (hle : op ≤ 8) : Runs (.gred h d a) s
    (Contributed h d slot g.home ⟨s.cur, s.me.lvl.val, s.pc, false, op, 0, s.getX d⟩ s) := by
  have hcoll := s.collective_eq h d a slot op root g hslot hop hroot hg hm false
  rw [if_neg (by simpa using hle), if_neg (by simp), if_neg (by simp [hn, hr])] at hcoll
  exact ⟨_, congrArg Host.Outcome.next hcoll, s.contributing_spec h d slot g.home _⟩

theorem runs_gbc (hn : NMap.find? s.me.coll slot = none) (hr : s.releaseHold = false) (hlt : root < g.members.length) :
    Runs (.gbc h d a) s (Contributed h d slot g.home ⟨s.cur, s.me.lvl.val, s.pc, true, 0, root, s.getX d⟩ s) := by
  have hcoll := s.collective_eq h d a slot op root g hslot hop hroot hg hm true
  rw [if_neg (by simp), if_neg (by simpa using hlt), if_neg (by simp [hn, hr])] at hcoll
  exact ⟨_, congrArg Host.Outcome.next hcoll, s.contributing_spec h d slot g.home _⟩

theorem traps_gred (hlt : 8 < op) : Traps (.gred h d a) s Code.collBad := by
  have hcoll := s.collective_eq h d a slot op root g hslot hop hroot hg hm false
  rw [if_pos (by simpa using hlt)] at hcoll
  exact congrArg Host.Outcome.next hcoll

theorem traps_gbc (hle : g.members.length ≤ root) : Traps (.gbc h d a) s Code.collBad := by
  have hcoll := s.collective_eq h d a slot op root g hslot hop hroot hg hm true
  rw [if_neg (by simp), if_pos (by simpa using hle)] at hcoll
  exact congrArg Host.Outcome.next hcoll

end

/-! ### Collectives at their Weir (R223, R224) -/

/-- The contributions of a group's members in rank order, with one that has just come. -/
def State.rankedWith (s : State) (cl slot : Nat) (k : Contribution) : List Contribution :=
  (s.membersAt cl slot).filterMap (fun m => ((s.groupAt cl slot).contrib.map (·.2) ++ [k]).find? (fun c => c.c == m))

theorem runs_collectiveContribution_last (cl slot : Nat) (k : Contribution) (s : State)
    (hall : (s.rankedWith cl slot k).length = (s.membersAt cl slot).length) : Runs (.collectiveContribution cl slot k) s fun t =>
      t.agenda.map (·.ev) = s.agenda.map (·.ev) ++ (s.membersAt cl slot).map (fun m =>
        .collectiveResult m slot (collAgree (s.rankedWith cl slot k)) (collValue (s.rankedWith cl slot k))) ∧
      t.groupAt cl slot = { s.groupAt cl slot with contrib := [] } ∧ t.mem = s.mem := by
  have hrun : exec (.collectiveContribution cl slot k) s = .next (State.tellEach
      (s.setGroup cl slot { s.groupAt cl slot with contrib := [] }) cl (s.membersAt cl slot) (fun m =>
        .collectiveResult m slot (collAgree (s.rankedWith cl slot k)) (collValue (s.rankedWith cl slot k)))) := by
    change execCollectiveContribution cl slot k s = _
    unfold execCollectiveContribution
    dsimp only
    rw [if_pos (by exact hall)]
    rfl
  refine ⟨_, hrun, State.tellEach_agenda _ _ _ _, ?_, ?_⟩ <;> rw [State.tellEach_units]
  · exact State.groupAt_setGroup _ _ _ _
  · rfl

theorem runs_collectiveContribution_more (cl slot : Nat) (k : Contribution) (s : State)
    (hno : (s.rankedWith cl slot k).length ≠ (s.membersAt cl slot).length) : Runs (.collectiveContribution cl slot k) s fun t =>
      t.agenda = s.agenda ∧
      t.groupAt cl slot = { s.groupAt cl slot with contrib := (s.groupAt cl slot).contrib ++ [(k.c, k)] } ∧ t.mem = s.mem := by
  have hrun : exec (.collectiveContribution cl slot k) s =
      .next (s.setGroup cl slot { s.groupAt cl slot with contrib := (s.groupAt cl slot).contrib ++ [(k.c, k)] }) := by
    change execCollectiveContribution cl slot k s = _
    unfold execCollectiveContribution
    dsimp only
    rw [if_neg (by exact hno)]
  exact ⟨_, hrun, rfl, State.groupAt_setGroup _ _ _ _, rfl⟩

theorem runs_collectiveResult (c slot : Nat) (l : Fin 4) (pc : Word) (d : XReg) (v : Word) (s : State)
    (hc : NMap.find? (s.core c).coll slot = some (l.val, pc, d)) : Runs (.collectiveResult c slot true v) s fun t =>
      (t.core c).getX l d = (if d = 0 then 0 else v) ∧ NMap.find? (t.core c).coll slot = none ∧
      (∀ r, r ≠ d → (t.core c).getX l r = (s.core c).getX l r) ∧ (∀ c', c' ≠ c → t.core c' = s.core c') ∧ t.mem = s.mem := by
  have hrun : exec (.collectiveResult c slot true v) s = .next
      ((s.upCore c (fun k => { k with coll := k.coll.erase slot })).upCore c (fun k =>
        (k.setX l d v).upLv l (fun v => { v with locks := v.locks.erase d }))) := by
    change execCollectiveResult c slot true v s = _
    unfold execCollectiveResult
    rw [hc]
    dsimp only
    rw [if_pos rfl]
    exact congrArg Host.Outcome.next (dif_pos l.isLt)
  have hcore : ((s.upCore c (fun k => { k with coll := k.coll.erase slot })).upCore c (fun k =>
      (k.setX l d v).upLv l (fun v => { v with locks := v.locks.erase d }))).core c =
      (({ s.core c with coll := (s.core c).coll.erase slot } : Core).setX l d v).upLv l
        (fun v => { v with locks := v.locks.erase d }) := by
    rw [State.core_upCore, if_pos rfl, State.core_upCore, if_pos rfl]
  refine ⟨_, hrun, ?_, ?_, fun r hr => ?_, fun c' hne => ?_, rfl⟩
  · rw [hcore, Core.getX_upLv _ _ _ _ (by intro v; rfl), Core.getX_setX]
    by_cases hd : d = 0
    · subst hd; rfl
    · rw [if_pos ⟨rfl, hd⟩, if_neg hd]
  · rw [hcore, Core.upLv_coll, Core.setX_units]
    exact NMap.find?_erase _ _
  · rw [hcore, Core.getX_upLv _ _ _ _ (by intro v; rfl), Core.getX_setX, if_neg fun h => hr h.1]
    rfl
  · rw [State.core_upCore, if_neg hne.symm, State.core_upCore, if_neg hne.symm]

theorem exec_collectiveResult_mismatch (c slot : Nat) (l : Fin 4) (pc : Word) (d : XReg) (v : Word) (s : State)
    (hc : NMap.find? (s.core c).coll slot = some (l.val, pc, d)) : exec (.collectiveResult c slot false v) s =
      .next ((s.setCore c ({ s.core c with coll := (s.core c).coll.erase slot }.upLv l
        (fun u => { u with locks := u.locks.erase d }))).afterIssue c l.val Code.collMismatch pc 0 0) := by
  have hlocks : (s.upCore c (fun k => { k with coll := k.coll.erase slot })).upCore c (fun k => k.upLv l (fun u =>
      { u with locks := u.locks.erase d })) = s.setCore c ({ s.core c with coll := (s.core c).coll.erase slot }.upLv l
        (fun u => { u with locks := u.locks.erase d })) := by
    unfold State.upCore
    rw [State.setCore_setCore, State.core_setCore, if_pos rfl]
  change execCollectiveResult c slot false v s = _
  unfold execCollectiveResult
  rw [hc]
  dsimp only
  rw [if_neg Bool.false_ne_true, dif_pos l.isLt]
  exact congrArg (fun t : State => Host.Outcome.next (t.afterIssue c l.val Code.collMismatch pc 0 0)) hlocks

/-! ### Values of collectives (R223) -/

theorem collAgree_iff (ks : List Contribution) :
    collAgree ks = true ↔ ∀ a ∈ ks, ∀ b ∈ ks, a.gbc = b.gbc ∧ a.op = b.op ∧ a.root = b.root := by
  cases ks with
  | nil => simp [collAgree]
  | cons k r =>
    have hfirst : collAgree (k :: r) = true ↔ ∀ c ∈ r, c.gbc = k.gbc ∧ c.op = k.op ∧ c.root = k.root := by
      simp [collAgree, and_assoc]
    rw [hfirst]
    constructor
    · intro h
      have hall : ∀ c ∈ k :: r, c.gbc = k.gbc ∧ c.op = k.op ∧ c.root = k.root := List.forall_mem_cons.2 ⟨⟨rfl, rfl, rfl⟩, h⟩
      intro a ha b hb
      obtain ⟨ag, ao, ar⟩ := hall a ha
      obtain ⟨bg, bo, br⟩ := hall b hb
      exact ⟨ag.trans bg.symm, ao.trans bo.symm, ar.trans br.symm⟩
    · exact fun h c hc => h c (List.mem_cons_of_mem _ hc) k List.mem_cons_self

theorem gredOp_min (x y : Word) : gredOp 1 x y = BitVec.ofInt 64 (Min.min x.toInt y.toInt) := by
  change (if x.toInt ≤ y.toInt then x else y) = _
  rcases le_total x.toInt y.toInt with h | h
  · rw [if_pos h, min_eq_left h, BitVec.ofInt_toInt]
  · rw [min_eq_right h, BitVec.ofInt_toInt]
    split
    · next h' => exact BitVec.toInt_inj.1 (le_antisymm h' h)
    · rfl

theorem gredOp_max (x y : Word) : gredOp 2 x y = BitVec.ofInt 64 (Max.max x.toInt y.toInt) := by
  change (if x.toInt ≤ y.toInt then y else x) = _
  rcases le_total x.toInt y.toInt with h | h
  · rw [if_pos h, max_eq_right h, BitVec.ofInt_toInt]
  · rw [max_eq_left h, BitVec.ofInt_toInt]
    split
    · next h' => exact BitVec.toInt_inj.1 (le_antisymm h h')
    · rfl

theorem gredOp_minu (x y : Word) : gredOp 6 x y = BitVec.ofNat 64 (Min.min x.toNat y.toNat) := by
  change (if x.toNat ≤ y.toNat then x else y) = _
  rcases le_total x.toNat y.toNat with h | h
  · rw [if_pos h, min_eq_left h, BitVec.ofNat_toNat, BitVec.setWidth_eq]
  · rw [min_eq_right h, BitVec.ofNat_toNat, BitVec.setWidth_eq]
    split
    · next h' => exact BitVec.toNat_inj.1 (le_antisymm h' h)
    · rfl

theorem gredOp_maxu (x y : Word) : gredOp 7 x y = BitVec.ofNat 64 (Max.max x.toNat y.toNat) := by
  change (if x.toNat ≤ y.toNat then y else x) = _
  rcases le_total x.toNat y.toNat with h | h
  · rw [if_pos h, max_eq_right h, BitVec.ofNat_toNat, BitVec.setWidth_eq]
  · rw [max_eq_left h, BitVec.ofNat_toNat, BitVec.setWidth_eq]
    split
    · next h' => exact BitVec.toNat_inj.1 (le_antisymm h h')
    · rfl

/-- The fold of a GRED other than the FP32 sum. -/
theorem collValue_gred (op : Nat) (f : Word → Word → Word) (hop : op ≠ 8) (hf : ∀ x y, gredOp op x y = f x y) (k : Contribution)
    (r : List Contribution) (h : ∀ c ∈ k :: r, c.gbc = false ∧ c.op = op) : collValue (k :: r) = r.foldl (fun x c => f x c.v) k.v := by
  obtain ⟨hgbc, hk⟩ := h k List.mem_cons_self
  unfold collValue
  dsimp only
  rw [hgbc, if_neg Bool.false_ne_true, hk, if_neg hop]
  simp only [hf]

/-- The FP32 sum rounds after each addition; the first operand enters with its NaN canonical. -/
theorem collValue_fadd (k : Contribution) (r : List Contribution) (h : ∀ c ∈ k :: r, c.gbc = false ∧ c.op = 8) :
    collValue (k :: r) =
      (r.foldl (fun x c => (fadd32 .rne x (c.v.setWidth 32)).1) (canon32 (k.v.setWidth 32))).setWidth 64 := by
  obtain ⟨hgbc, hk⟩ := h k List.mem_cons_self
  have hfold : ∀ w : W32, r.foldl (fun v c => gredOp 8 v c.v) (w.setWidth 64) =
      (r.foldl (fun x c => (fadd32 .rne x (c.v.setWidth 32)).1) w).setWidth 64 := by
    clear h
    induction r with
    | nil => exact fun _ => rfl
    | cons c r ih =>
      intro w
      rw [List.foldl_cons, List.foldl_cons, ← ih]
      refine congrArg (fun x => List.foldl _ x r) ?_
      exact congrArg (fun x : W32 => ((fadd32 .rne x (c.v.setWidth 32)).1).setWidth 64) (by simp)
  unfold collValue
  dsimp only
  rw [hgbc, if_neg Bool.false_ne_true, hk, if_pos rfl]
  exact hfold _

theorem collValue_gbc (ks : List Contribution)
    (h : ∀ c ∈ ks, c.gbc = true ∧ c.root = (ks.headD ⟨0, 0, 0, true, 0, 0, 0⟩).root) (c : Contribution)
    (hc : ks[(ks.headD ⟨0, 0, 0, true, 0, 0, 0⟩).root]? = some c) : collValue ks = c.v := by
  cases ks with
  | nil => cases hc
  | cons k r =>
    unfold collValue
    dsimp only
    rw [(h k List.mem_cons_self).1, if_pos rfl]
    rw [List.headD_cons] at hc
    rw [hc]
    rfl

end Sys2Proof.Machine

namespace Sys2Proof.Proofs
open Sys2Proof.Machine

/-- Settles O23: each barrier instruction and collective by the branch that it takes, the Weir's events by whether the last member has
come, and the values by induction on the contributions. -/
theorem barriersAndCollectives : Obligations.BarriersAndCollectives := by
  unfold Obligations.BarriersAndCollectives
  refine ⟨⟨?issue, ?resume, ?arrival, runs_barrierCompletionNotice⟩, ?send, ?contribution, runs_collectiveResult,
    exec_collectiveResult_mismatch, collAgree_iff, ?folds, ?sum, collValue_gbc⟩
  case issue =>
    intro h d a s g
    dsimp only
    intro hwaiting hg
    have hw := State.barWait_of_none hwaiting
    have hbar := exec_bar h a s _ rfl hw
    have hbara := exec_bara h d a s _ rfl
    have hbarw := exec_barw h d a s _ rfl hw
    have hbarq := exec_barq h d a s _ rfl
    refine ⟨fun hm hn hr => ⟨?_, ?_⟩, fun hm hsome => ⟨?_, ?_⟩, fun hm => ⟨fun hp ha => ?_, fun hp => ?_, ?_⟩,
      fun hm => ⟨?_, ?_, ?_, ?_⟩⟩
    · obtain ⟨t, ht, harr, hpc, hwait, hregs⟩ := runs_bar h a s _ rfl hw g hg hm hn hr
      exact ⟨t, ht, ⟨harr.arrived, harr.agenda, harr.bytes, harr.cores⟩, hpc, hwait, hregs⟩
    · obtain ⟨t, ht, harr, hpast, hx, hregs⟩ := runs_bara h d a s _ rfl g hg hm hn hr
      exact ⟨t, ht, ⟨harr.arrived, harr.agenda, harr.bytes, harr.cores⟩, hpast, hx, hregs⟩
    · rw [hm, if_neg (by decide), if_pos hsome] at hbar
      exact hbar
    · rw [hm, if_neg (by decide), if_pos hsome] at hbara
      exact hbara
    · rw [hm, if_neg (by decide), if_neg (mt (State.inPhase_iff ..).1 (not_or.2 ⟨hp, ha⟩))] at hbarw
      exact Runs.of_advance hbarw
    · rw [hm, if_neg (by decide), if_pos ((State.inPhase_iff ..).2 hp)] at hbarw
      exact Runs.of_block hbarw
    · rw [hm, if_neg (by decide)] at hbarq
      exact Runs.of_setX hbarq
    · rw [hm, if_pos (by rfl)] at hbar
      exact hbar
    · rw [hm, if_pos (by rfl)] at hbara
      exact hbara
    · rw [hm, if_pos (by rfl)] at hbarw
      exact hbarw
    · rw [hm, if_pos (by rfl)] at hbarq
      exact hbarq
  case resume =>
    intro h d a s w hwaiting hreason
    have hw := State.barWait_of_some hwaiting hreason
    refine ⟨fun hno => Runs.of_advance ?_, fun hno hp => Runs.of_advance ?_⟩
    · change execBar h a s = _
      unfold execBar
      rw [hw]
      dsimp only
      rw [if_neg hno]
    · change execBarw h d a s = _
      unfold execBarw
      rw [hw]
      dsimp only
      rw [if_neg (mt (State.inPhase_iff ..).1 (not_or.2 ⟨hp, hno⟩))]
  case arrival =>
    exact fun cl slot c s => ⟨runs_barrierArrival_last cl slot c s, runs_barrierArrival_more cl slot c s⟩
  case send =>
    intro h d a s g
    dsimp only
    intro hg hm
    refine ⟨fun hn hr => ⟨fun hop => ?_, fun hroot => ?_⟩, traps_gred s h d a _ _ _ g rfl rfl rfl hg hm,
      traps_gbc s h d a _ _ _ g rfl rfl rfl hg hm⟩
    · obtain ⟨t, ht, hsent⟩ := runs_gred s h d a _ _ _ g rfl rfl rfl hg hm hn hr hop
      exact ⟨t, ht, hsent.past, hsent.coll, hsent.locks, hsent.agenda, hsent.registers, hsent.bytes, hsent.cores⟩
    · obtain ⟨t, ht, hsent⟩ := runs_gbc s h d a _ _ _ g rfl rfl rfl hg hm hn hr hroot
      exact ⟨t, ht, hsent.past, hsent.coll, hsent.locks, hsent.agenda, hsent.registers, hsent.bytes, hsent.cores⟩
  case contribution =>
    exact fun cl slot k s => ⟨runs_collectiveContribution_last cl slot k s, runs_collectiveContribution_more cl slot k s⟩
  case folds =>
    dsimp only
    exact ⟨collValue_gred 0 _ (by decide) fun _ _ => rfl, collValue_gred 1 _ (by decide) gredOp_min,
      collValue_gred 2 _ (by decide) gredOp_max, collValue_gred 3 _ (by decide) fun _ _ => rfl,
      collValue_gred 4 _ (by decide) fun _ _ => rfl, collValue_gred 5 _ (by decide) fun _ _ => rfl,
      collValue_gred 6 _ (by decide) gredOp_minu, collValue_gred 7 _ (by decide) gredOp_maxu⟩
  case sum =>
    intro k r h
    refine ⟨canon32 (k.v.setWidth 32), collValue_fadd k r h, fun hn => ?_, fun hn => ?_⟩
    · exact if_neg (by rw [hn]; exact Bool.false_ne_true)
    · exact (if_pos hn).trans rfl

end Sys2Proof.Proofs
end

section
/-! SUPPORT. Accesses of several elements whose translations are all there: the walks that they start and the words that they write
(R68, R78, R202). -/

namespace Sys2Proof.Machine

/-! ### Bytes and words of memory -/

/-- Bytes are the same where each of them reads the same. -/
theorem Memory.bytes_congr {m m' : Memory} (k n : Nat) (h : ∀ i, i < n → m'.read (k + i) = m.read (k + i)) :
    m'.bytes k n = m.bytes k n := by
  induction n generalizing k with
  | zero => rfl
  | succ n ih =>
    rw [Memory.bytes, Memory.bytes, ih (k + 1) fun i hi => by rw [Nat.add_right_comm, Nat.add_assoc]; exact h (i + 1) (by omega)]
    exact congrArg (· :: _) (h 0 (by omega))

theorem State.peek_congr {s t : State} (k n : Nat) (h : ∀ i, i < n → t.mem.read (k + i) = s.mem.read (k + i)) :
    t.peek k n = s.peek k n := congrArg leVal (Memory.bytes_congr k n h)

theorem State.peek64_of_mem {s t : State} (h : t.mem = s.mem) (k : Nat) : t.peek64 k = s.peek64 k := by
  unfold State.peek64 State.peek
  rw [h]

theorem ofNat_leVal_leBytes (w : Word) : BitVec.ofNat 64 (leVal (leBytes 8 w.toNat)) = w := by
  rw [leVal_leBytes, show (256 : Nat) ^ 8 = 2 ^ 64 from rfl, Nat.mod_eq_of_lt w.isLt, BitVec.ofNat_toNat, BitVec.setWidth_eq]

/-- A word reads back where it has been written. -/
theorem State.peek64_of_writeBytes {s t : State} {k : Nat} {w : Word} (wf : s.mem.wf = true)
    (h : t.mem = s.mem.writeBytes k (leBytes 8 w.toNat)) : t.peek64 k = w := by
  have hb := Memory.bytes_writeBytes k (leBytes 8 w.toNat) wf
  rw [leBytes_length] at hb
  unfold State.peek64 State.peek
  rw [h, hb, ofNat_leVal_leBytes]

/-! ### Stores that nothing holds back -/

/-- Only memory and what is known of its lines has changed. -/
def MemoryOnly (s t : State) : Prop :=
  t = { s with mem := t.mem, under := t.under, dirtyBy := t.dirtyBy, poison := t.poison, damage := t.damage }

theorem MemoryOnly.refl (s : State) : MemoryOnly s s := rfl

theorem MemoryOnly.trans {s t u : State} (h : MemoryOnly s t) (g : MemoryOnly t u) : MemoryOnly s u := by
  unfold MemoryOnly at *
  rw [g, h]

theorem MemoryOnly.core {s t : State} (h : MemoryOnly s t) (c : Nat) : t.core c = s.core c := by rw [h]; rfl
theorem MemoryOnly.cluster {s t : State} (h : MemoryOnly s t) (cl : Nat) : t.cluster cl = s.cluster cl := by rw [h]; rfl
theorem MemoryOnly.cur {s t : State} (h : MemoryOnly s t) : t.cur = s.cur := by rw [h]
theorem MemoryOnly.me {s t : State} (h : MemoryOnly s t) : t.me = s.me := by rw [h]; rfl
theorem MemoryOnly.heldSlot {s t : State} (h : MemoryOnly s t) (key n : Nat) : t.heldSlot key n = s.heldSlot key n := by
  unfold State.heldSlot; simp only [h.core]
theorem MemoryOnly.replaying {s t : State} (h : MemoryOnly s t) (colour : Nat) : t.replaying colour = s.replaying colour := by
  unfold State.replaying; rw [h]

theorem State.storeAt_free (s : State) (c key : Nat) (bs : List Byte) (cached ack : Bool) (hheld : s.heldSlot key bs.length = false)
    (hreplay : s.replaying (s.core c).colour = false) :
    (s.storeAt c key bs cached ack).mem = s.mem.writeBytes key bs ∧ MemoryOnly s (s.storeAt c key bs cached ack) := by
  obtain ⟨hfree, -, hhub, -, hunits⟩ := s.storeAt_spec c key bs cached ack
  have hidle := (s.capture_spec (s.core c).colour key).idle hreplay
  obtain ⟨hmem, hwrites⟩ := hfree hheld
  rw [hidle] at hmem hhub
  refine ⟨hmem, ?_⟩
  unfold MemoryOnly
  rw [hhub, hwrites] at hunits
  exact hunits

/-! ### Elements that all lie at keys -/

/-- Element `n` of an access lies at `key n`. -/
def Lies (es : List Elem) (key : Nat → Nat) : Prop :=
  ∀ n (h : n < es.length), es[n].lane = n ∧ ∃ own cached walk, es[n].plan = .go (key n) own cached walk

theorem Lies.plan_of_mem {es : List Elem} {key : Nat → Nat} (h : Lies es key) {e : Elem} (he : e ∈ es) :
    ∃ k own cached walk, e.plan = .go k own cached walk := by
  obtain ⟨n, hn, rfl⟩ := List.getElem_of_mem he
  obtain ⟨-, own, cached, walk, hp⟩ := h n hn
  exact ⟨_, own, cached, walk, hp⟩

theorem Lies.vecPlan {es : List Elem} {key : Nat → Nat} (h : Lies es key) : vecPlan es = .go := by
  have none : ∀ {α : Type} (f : Elem → Option α), (∀ e k own cached walk, e.plan = .go k own cached walk → f e = none) →
      es.findSome? f = none := by
    intro α f hf
    rw [List.findSome?_eq_none_iff]
    intro e he
    obtain ⟨k, own, cached, walk, hp⟩ := h.plan_of_mem he
    exact hf e k own cached walk hp
  have hwait : es.any (fun e => e.plan == .wait) = false := by
    rw [List.any_eq_false]
    intro e he
    obtain ⟨k, own, cached, walk, hp⟩ := h.plan_of_mem he
    rw [hp, beq_iff_eq]
    exact Plan.noConfusion
  unfold Machine.vecPlan
  rw [none _ fun e k own cached walk hp => by rw [hp], hwait, none _ fun e k own cached walk hp => by rw [hp],
    none _ fun e k own cached walk hp => by rw [hp]]
  rfl

theorem Lies.noteDiscards {es : List Elem} {key : Nat → Nat} (h : Lies es key) (s : State) : s.noteDiscards es = s := by
  unfold State.noteDiscards
  rw [List.findSome?_eq_none_iff.2]
  intro e he
  obtain ⟨k, own, cached, walk, hp⟩ := h.plan_of_mem he
  rw [hp]

/-- The key of an element, whatever numbers the elements begin with. -/
theorem findSome?_key {es : List Elem} {key : Nat → Nat} (o : Nat)
    (h : ∀ n (h : n < es.length), es[n].lane = o + n ∧ ∃ own cached walk, es[n].plan = .go (key n) own cached walk)
    (n : Nat) (hn : n < es.length) : ∃ cached, elemKey es (o + n) = some (key n, cached) := by
  induction es generalizing o n key with
  | nil => exact absurd hn (Nat.not_lt_zero _)
  | cons e es ih =>
    obtain ⟨hlane, own, cached, walk, hp⟩ := h 0 (Nat.zero_lt_succ _)
    rw [List.getElem_cons_zero] at hlane hp
    cases n with
    | zero =>
      refine ⟨cached, ?_⟩
      unfold elemKey
      rw [List.findSome?_cons, hp]
      dsimp only
      rw [if_pos hlane]
    | succ n =>
      have hskip : elemKey (e :: es) (o + (n + 1)) = elemKey es (o + 1 + n) := by
        unfold elemKey
        rw [List.findSome?_cons, hp]
        dsimp only
        rw [if_neg (by omega), show o + (n + 1) = o + 1 + n by omega]
      rw [hskip]
      refine ih (key := fun n => key (n + 1)) (o + 1) (fun m hm => ?_) n (Nat.lt_of_succ_lt_succ hn)
      obtain ⟨hl, hpl⟩ := h (m + 1) (Nat.succ_lt_succ hm)
      rw [List.getElem_cons_succ] at hl hpl
      exact ⟨by rw [hl]; omega, hpl⟩

theorem Lies.elemKey {es : List Elem} {key : Nat → Nat} (h : Lies es key) (n : Nat) (hn : n < es.length) :
    ∃ cached, elemKey es n = some (key n, cached) := by
  obtain ⟨cached, hk⟩ := findSome?_key 0 (fun m hm => by rw [Nat.zero_add]; exact h m hm) n hn
  exact ⟨cached, by rwa [Nat.zero_add] at hk⟩

theorem Lies.elemWord {es : List Elem} {key : Nat → Nat} (h : Lies es key) (s : State) (n : Nat) (hn : n < es.length) :
    s.elemWord es n = s.peek64 (key n) := by
  obtain ⟨cached, hk⟩ := h.elemKey n hn
  unfold State.elemWord
  rw [hk]

/-! ### The walks that an access starts (R78) -/

theorem Walked.trans {s t u : State} (h : Walked s t) (g : Walked t u) : Walked s u := by
  refine ⟨g.cur.trans h.cur, ?_, ?_, ?_, fun c hc => (g.cores c (by rw [h.cur]; exact hc)).trans (h.cores c hc)⟩
  · obtain ⟨p, hp, hpa⟩ := h.agenda
    obtain ⟨q, hq, hqa⟩ := g.agenda
    exact ⟨p ++ q, fun f hf => (List.mem_append.1 hf).elim (hp f) (hq f), by rw [hqa, hpa, List.append_assoc]⟩
  · obtain ⟨e, he⟩ := h.me
    obtain ⟨e', he'⟩ := g.me
    exact ⟨e', by rw [he', he]⟩
  · rw [g.units, h.units]

theorem State.startWalks_walked (s : State) (es : List Elem) (wr : Bool) : Walked s (s.startWalks es wr) := by
  unfold State.startWalks
  dsimp only
  refine List.foldlRecOn (motive := fun acc : List Nat × State => Walked s acc.2) _ _ (Walked.refl s) fun acc hacc p _ => ?_
  split
  · exact hacc
  · exact hacc.trans (acc.2.startWalk_spec true p.2 wr)

theorem Walked.heldSlot {s t : State} (h : Walked s t) (key n : Nat) : t.heldSlot key n = s.heldSlot key n := by
  have hring : ∀ c, (t.core c).ring = (s.core c).ring := by
    intro c
    by_cases hc : c = s.cur
    · obtain ⟨e, he⟩ := h.me
      have := congrArg Core.ring he
      unfold State.me at this
      rw [h.cur] at this
      rw [hc]
      exact this
    · rw [h.cores c hc]
  unfold State.heldSlot
  simp only [hring]

theorem Walked.replaying {s t : State} (h : Walked s t) (colour : Nat) : t.replaying colour = s.replaying colour := by
  unfold State.replaying; rw [h.units]
theorem Walked.cluster {s t : State} (h : Walked s t) (cl : Nat) : t.cluster cl = s.cluster cl := by rw [h.units]; rfl
theorem Walked.colour {s t : State} (h : Walked s t) : t.me.colour = s.me.colour := by obtain ⟨e, h⟩ := h.me; rw [h]; rfl

theorem State.access_of_lies (s : State) (h : Head) (wr : Bool) (slot : Option Nat) (es : List Elem) (go : State → State)
    {key : Nat → Nat} (hes : Lies es key) : s.access h wr slot es go = go (s.startWalks es wr) := by
  unfold State.access
  rw [hes.vecPlan]
  dsimp only
  rw [hes.noteDiscards]

/-! ### Words written by an access -/

/-- Words have been written at keys, and nothing else has changed but what is known of their lines. -/
structure Written (ws : List Word) (key : Nat → Nat) (s t : State) : Prop where
  only : MemoryOnly s t
  words : WordsWritten ws key s t
  wf : t.mem.wf = true

theorem WordsWritten.of_mem {ws : List Word} {key : Nat → Nat} {s t u : State} (h : WordsWritten ws key s t) (hu : u.mem = t.mem) :
    WordsWritten ws key s u :=
  ⟨fun n w hn => (State.peek64_of_mem hu _).trans (h.1 n w hn), fun a ha => by rw [hu]; exact h.2 a ha⟩

theorem WordsWritten.of_source {ws : List Word} {key : Nat → Nat} {r s t : State} (h : WordsWritten ws key s t) (hs : s.mem = r.mem) :
    WordsWritten ws key r t := ⟨h.1, fun a ha => by rw [← hs]; exact h.2 a ha⟩

/-- One more word behind those written so far. -/
theorem Written.snoc {ws : List Word} {key : Nat → Nat} {s t u : State} {w : Word} (h : Written ws key s t) (hu : MemoryOnly t u)
    (hm : u.mem = t.mem.writeBytes (key ws.length) (leBytes 8 w.toNat))
    (hapart : ∀ n, n < ws.length → key n + 8 ≤ key ws.length ∨ key ws.length + 8 ≤ key n) : Written (ws ++ [w]) key s u := by
  have hout : ∀ a, a < key ws.length ∨ key ws.length + 8 ≤ a → u.mem.read a = t.mem.read a := by
    intro a ha
    rw [hm]
    exact Memory.read_writeBytes_out _ _ _ h.wf (by rw [leBytes_length]; exact ha)
  refine ⟨h.only.trans hu, ⟨fun n v hv => ?_, fun a ha => ?_⟩, by rw [hm]; exact Memory.wf_writeBytes _ _ h.wf⟩
  · rcases Nat.lt_trichotomy n ws.length with hn | hn | hn
    · rw [List.getElem?_append_left hn] at hv
      rw [← h.words.1 n v hv]
      refine congrArg (BitVec.ofNat 64) (State.peek_congr _ _ fun i hi => hout _ ?_)
      have := hapart n hn
      omega
    · subst hn
      rw [List.getElem?_append_right le_rfl, Nat.sub_self] at hv
      obtain rfl : w = v := by simpa using hv
      exact State.peek64_of_writeBytes h.wf hm
    · rw [List.getElem?_eq_none (by simp; omega)] at hv
      cases hv
  · rw [List.length_append, List.length_singleton] at ha
    rw [hout a (ha ws.length (by omega))]
    exact h.words.2 a fun n hn => ha n (by omega)

theorem State.putElems_written (s : State) (es : List Elem) (ws : List Word) {key : Nat → Nat} (hes : Lies es key)
    (hlen : es.length = ws.length) (hapart : Apart s ws.length 8 key) (hwf : s.mem.wf = true)
    (hreplay : s.replaying s.me.colour = false) : Written ws key s (s.putElems es (ws.map (fun w => leBytes 8 w.toNat))) := by
  obtain ⟨hkeys, hheld⟩ := hapart
  have upto : ∀ m, m ≤ ws.length → Written (ws.take m) key s ((List.range m).foldl (fun (u : State) i => match elemKey es i with
      | some (k, cached) => u.storeAt s.cur k ((ws.map (fun w => leBytes 8 w.toNat))[i]?.getD []) cached
      | none => u) s) := by
    intro m
    induction m with
    | zero => exact fun _ => ⟨.refl s, ⟨fun n w hn => by simp at hn, fun _ _ => rfl⟩, hwf⟩
    | succ m ih =>
      intro hm
      have h := ih (by omega)
      obtain ⟨cached, hk⟩ := hes.elemKey m (by omega)
      rw [List.range_succ, List.foldl_append, List.foldl_cons, List.foldl_nil, hk]
      generalize List.foldl _ s (List.range m) = t at h
      dsimp only
      have hbs : (ws.map (fun w => leBytes 8 w.toNat))[m]?.getD [] = leBytes 8 (ws[m]'hm).toNat := by
        rw [List.getElem?_eq_getElem (by rw [List.length_map]; exact hm), List.getElem_map]
        rfl
      have hstore := t.storeAt_free s.cur (key m) (leBytes 8 (ws[m]'hm).toNat) cached false
        (by rw [leBytes_length, h.only.heldSlot]; exact hheld m hm) (by rw [h.only.core, h.only.replaying]; exact hreplay)
      rw [hbs, List.take_add_one, List.getElem?_eq_getElem hm]
      have htake : (ws.take m).length = m := List.length_take_of_le (by omega)
      exact h.snoc hstore.2 (by rw [htake]; exact hstore.1) fun n hn => by
        rw [htake] at hn ⊢
        exact hkeys n m (by omega) hm (by omega)
  have hall := upto ws.length le_rfl
  rw [List.take_length] at hall
  unfold State.putElems
  rw [List.length_map]
  exact hall

end Sys2Proof.Machine
end

section
/-! SUPPORT. Allocation from a Spring, and the record that an allocation writes (R36, R51, R52, R54, R284, R287). -/

namespace Sys2Proof.Machine

/-! ### What net instructions leave of a state -/

/-- An update that leaves the executing core as it is, but for its event counters, its Spring and its activation, and of the
other cores only the Spring of `home`. -/
structure NetFrame (home : Nat) (s u : State) : Prop where
  units : u = { s with
    cores := u.cores, agenda := u.agenda, ids := u.ids, mem := u.mem, under := u.under, dirtyBy := u.dirtyBy
    poison := u.poison, damage := u.damage }
  me : u.me = { s.me with
    evc := u.me.evc, nfree := u.me.nfree, wfree := u.me.wfree, ntop := u.me.ntop, wtop := u.me.wtop, nstock := u.me.nstock
    wstock := u.me.wstock, act := u.me.act }
  cores : ∀ c, c ≠ s.cur → c ≠ home → u.core c = s.core c

section
variable {home : Nat} {s t u : State}

theorem NetFrame.refl (home : Nat) (s : State) : NetFrame home s s := ⟨rfl, rfl, fun _ _ _ => rfl⟩

theorem NetFrame.cur (h : NetFrame home s u) : u.cur = s.cur := by rw [h.units]

theorem NetFrame.trans (h : NetFrame home s t) (g : NetFrame home t u) : NetFrame home s u := by
  refine ⟨?_, ?_, fun c hc hh => (g.cores c (by rw [h.cur]; exact hc) hh).trans (h.cores c hc hh)⟩
  · rw [g.units, h.units]
  · rw [g.me, h.me]

theorem NetFrame.of_walked (home : Nat) (h : Walked s u) : NetFrame home s u := by
  refine ⟨?_, ?_, fun c hc _ => h.cores c hc⟩
  · rw [h.units]
  · obtain ⟨e, he⟩ := h.me
    rw [he]

theorem NetFrame.of_memoryOnly (home : Nat) (h : MemoryOnly s u) : NetFrame home s u := by
  refine ⟨?_, ?_, fun c _ _ => h.core c⟩
  · rw [h]
  · rw [h.me]

theorem NetFrame.upAct (home : Nat) (s : State) (f : Activation → Activation) : NetFrame home s (s.upAct f) := by
  unfold State.upAct
  split
  · refine ⟨rfl, ?_, fun c hc _ => State.core_upMe_ne s _ c hc⟩
    rw [State.me_upMe]
  · exact .refl home s

theorem NetFrame.sameFile (h : NetFrame home s u) : SameFile s.me u.me := by
  rw [h.me]
  exact SameFile.of_eq rfl rfl rfl rfl rfl

theorem NetFrame.lev (h : NetFrame home s u) : u.lev = s.lev := (congrArg (fun k : Core => k.lv[k.lvl]) h.me).trans rfl
theorem NetFrame.pc (h : NetFrame home s u) : u.pc = s.pc := congrArg Level.pc h.lev
theorem NetFrame.inAct (h : NetFrame home s u) : u.inAct = s.inAct := by unfold State.inAct; rw [h.me]
theorem NetFrame.inTwin (h : NetFrame home s u) : u.inTwin = s.inTwin := by unfold State.inTwin; rw [h.me]
theorem NetFrame.cluster (h : NetFrame home s u) (cl : Nat) : u.cluster cl = s.cluster cl := by rw [h.units]; rfl

end

/-! ### Springs (R36, R284) -/

theorem Core.setSpring_freeList (k : Core) (t : Kind) (fl : List Nat) (top stock : Nat) :
    (k.setSpring t fl top stock).freeList t = fl := by cases t <;> rfl
theorem Core.setSpring_top (k : Core) (t : Kind) (fl : List Nat) (top stock : Nat) :
    (k.setSpring t fl top stock).top t = top := by cases t <;> rfl

/-- The free list and the top of a kind at a core are as before. -/
structure SameSpring (t : Kind) (c : Nat) (s u : State) : Prop where
  free : (u.core c).freeList t = (s.core c).freeList t
  top : (u.core c).top t = (s.core c).top t

theorem SameSpring.trans {t : Kind} {c : Nat} {s u v : State} (h : SameSpring t c s u) (g : SameSpring t c u v) : SameSpring t c s v :=
  ⟨g.free.trans h.free, g.top.trans h.top⟩

theorem SameSpring.of_core {t : Kind} {c : Nat} {s u : State} (h : u.core c = s.core c) : SameSpring t c s u :=
  ⟨by rw [h], by rw [h]⟩

/-- An update of the executing core that does not name its Spring. -/
theorem SameSpring.upMe {t : Kind} {c : Nat} (s : State) (f : Core → Core)
    (hf : ∀ k, (f k).nfree = k.nfree ∧ (f k).wfree = k.wfree ∧ (f k).ntop = k.ntop ∧ (f k).wtop = k.wtop) :
    SameSpring t c s (s.upMe f) := by
  by_cases hc : c = s.cur
  · have hcore : (s.upMe f).core c = f (s.core c) := by rw [State.core_upMe, if_pos hc.symm, hc]; rfl
    obtain ⟨hn, hw, hnt, hwt⟩ := hf (s.core c)
    cases t with
    | node => exact ⟨by rw [hcore]; exact hn, by rw [hcore]; exact hnt⟩
    | wire => exact ⟨by rw [hcore]; exact hw, by rw [hcore]; exact hwt⟩
  · exact .of_core (State.core_upMe_ne s f c hc)

theorem SameSpring.upAct {t : Kind} {c : Nat} (s : State) (f : Activation → Activation) : SameSpring t c s (s.upAct f) := by
  unfold State.upAct
  split
  · exact .upMe s _ fun _ => ⟨rfl, rfl, rfl, rfl⟩
  · exact .of_core rfl

theorem SameSpring.advance {t : Kind} {c : Nat} (s : State) (h : Head) : SameSpring t c s (s.advance h) := by
  unfold State.advance State.upLev
  exact .upMe s _ fun _ => ⟨rfl, rfl, rfl, rfl⟩

theorem SameSpring.setX {t : Kind} {c : Nat} (s : State) (d : XReg) (w : Word) : SameSpring t c s (s.setX d w) := by
  refine .upMe s _ fun k => ?_
  rw [Core.setX_units]
  exact ⟨rfl, rfl, rfl, rfl⟩

theorem SameSpring.of_walked {t : Kind} {c : Nat} {s u : State} (h : Walked s u) : SameSpring t c s u := by
  by_cases hc : c = s.cur
  · obtain ⟨e, he⟩ := h.me
    unfold State.me at he
    rw [h.cur, ← hc] at he
    exact ⟨by rw [he]; cases t <;> rfl, by rw [he]; cases t <;> rfl⟩
  · exact .of_core (h.cores c hc)

theorem SlotTaken.trans {t : Kind} {c x : Nat} {s u v w : State} (h : SameSpring t c s u) (g : SlotTaken t c x u v)
    (k : SameSpring t c v w) : SlotTaken t c x s w := by
  unfold SlotTaken at *
  rw [k.free, k.top, ← h.free, ← h.top]
  exact g

/-- The next slot by the free list, or the top when the list is empty (R36). -/
theorem Core.nextSlot_cases {k : Core} {t : Kind} {limit x : Nat} (h : ∃ k', k.nextSlot t limit = some (x, k')) :
    ∃ fl top stock, k.nextSlot t limit = some (x, k.setSpring t fl top stock) ∧
      ((k.freeList t = x :: fl ∧ top = k.top t) ∨ (k.freeList t = [] ∧ fl = [] ∧ x = k.top t ∧ top = x + 1)) := by
  obtain ⟨k', hk⟩ := h
  unfold Core.nextSlot at hk ⊢
  split at hk
  · next y r hl =>
    obtain ⟨rfl, -⟩ := Prod.mk.inj (Option.some.inj hk)
    exact ⟨r, _, _, rfl, .inl ⟨hl, rfl⟩⟩
  · next hl =>
    split at hk
    · next hle =>
      obtain ⟨rfl, -⟩ := Prod.mk.inj (Option.some.inj hk)
      exact ⟨[], _, _, if_pos hle, .inr ⟨hl, rfl, rfl, rfl⟩⟩
    · cases hk

theorem Core.nextSlot_of_full {k : Core} {t : Kind} {limit : Nat} (hf : k.freeList t = []) (ht : limit < k.top t) :
    k.nextSlot t limit = none := by
  unfold Core.nextSlot
  rw [hf]
  exact if_neg (Nat.not_le.2 ht)

/-- The slot that comes next depends on the Spring alone. -/
theorem SameSpring.nextSlot {t : Kind} {c : Nat} {s u : State} (h : SameSpring t c s u) {limit x : Nat}
    (hn : ∃ k, (s.core c).nextSlot t limit = some (x, k)) : ∃ k, (u.core c).nextSlot t limit = some (x, k) := by
  obtain ⟨fl, top, stock, hk, -⟩ := Core.nextSlot_cases hn
  unfold Core.nextSlot at hk ⊢
  rw [h.free, h.top]
  split at hk
  · exact ⟨_, congrArg (fun y => some (y, _)) (Prod.mk.inj (Option.some.inj hk)).1⟩
  · split at hk
    · next hle => exact ⟨_, (if_pos hle).trans (congrArg (fun y => some (y, _)) (Prod.mk.inj (Option.some.inj hk)).1)⟩
    · cases hk

/-- Takes the slot that core `c`'s Spring gives next. -/
def State.takeSlot (s : State) (t : Kind) (c limit : Nat) : State :=
  match (s.core c).nextSlot t limit with | some (_, k) => s.setCore c k | none => s

theorem State.takeSlot_spec (s : State) (t : Kind) (c limit x : Nat) (h : ∃ k, (s.core c).nextSlot t limit = some (x, k)) :
    SlotTaken t c x s (s.takeSlot t c limit) ∧ NetFrame c s (s.takeSlot t c limit) ∧ (s.takeSlot t c limit).me.act = s.me.act := by
  obtain ⟨fl, top, stock, hk, hcases⟩ := Core.nextSlot_cases h
  have heq : s.takeSlot t c limit = s.setCore c ((s.core c).setSpring t fl top stock) := by
    unfold State.takeSlot
    rw [hk]
  have hcore : (s.takeSlot t c limit).core c = (s.core c).setSpring t fl top stock := by
    rw [heq, State.core_setCore, if_pos rfl]
  have hme : (s.takeSlot t c limit).me = if c = s.cur then (s.core c).setSpring t fl top stock else s.me := by
    rw [heq]
    exact State.core_setCore s c s.cur _
  refine ⟨?_, ⟨by rw [heq]; rfl, ?_, fun c' _ hc => by rw [heq, State.core_setCore, if_neg hc.symm]⟩, ?_⟩
  · unfold SlotTaken
    rw [hcore, Core.setSpring_freeList, Core.setSpring_top]
    exact hcases
  · rw [hme]
    split
    · next hc =>
      rw [hc]
      cases t <;> rfl
    · rfl
  · rw [hme]
    split
    · next hc =>
      rw [hc]
      cases t <;> rfl
    · rfl

/-! ### Where an allocation goes (R54, R284) -/

/-- `after` counts an allocation of the executing core's activation; outside an activation nothing is counted. -/
def Counts (t : Kind) (det : Bool) (s : State) (after : State → State) : Prop :=
  (s.running? = none ∧ after = id) ∨ after = fun u => u.countAlloc t det

theorem State.takeFrom_eq (s : State) (j : Job) (t : Kind) (c x : Nat) (needStock : Bool) (after : State → State)
    (hn : ∃ k, (s.core c).nextSlot t j.heap = some (x, k)) (hs : needStock = false ∨ (s.core c).stock t ≠ 0) :
    s.takeFrom j t c needStock after = .ok (c * 2 ^ 23 + x) (fun u => after (u.takeSlot t c j.heap)) := by
  obtain ⟨k, hk⟩ := hn
  have hstock : ¬(needStock && (s.core c).stock t == 0) = true := by
    rcases hs with hs | hs <;> simp [hs]
  unfold State.takeFrom
  rw [hk]
  dsimp only
  rw [if_neg hstock]
  rfl

theorem State.takeFrom_full (s : State) (j : Job) (t : Kind) (c : Nat) (needStock : Bool) (after : State → State)
    (hn : (s.core c).nextSlot t j.heap = none) : s.takeFrom j t c needStock after = .full := by
  unfold State.takeFrom
  rw [hn]

theorem State.inAct_of_running {s : State} {a : Activation} (h : s.running? = some a) : s.inAct = true := by
  unfold State.running? at h
  by_contra hno
  rw [if_neg hno] at h
  cases h

/-- An allocation that no path places uses the core's own Spring. -/
theorem State.alloc_own (s : State) (j : Job) (t : Kind) (det : Bool) (htwin : s.inTwin = false)
    (hown : (j.det && det) = false ∨ s.inAct = false) :
    ∃ after, Counts t det s after ∧ s.alloc j t det = s.takeFrom j t s.cur true after := by
  unfold State.alloc
  rw [htwin]
  cases hr : s.running? with
  | none =>
    refine ⟨id, .inl ⟨hr, rfl⟩, ?_⟩
    cases s.me.twin <;> rfl
  | some a =>
    have hdet : ¬(j.det && det) = true := by
      rcases hown with h | h
      · rw [h]; exact Bool.false_ne_true
      · rw [State.inAct_of_running hr] at h; cases h
    refine ⟨_, .inr rfl, ?_⟩
    cases s.me.twin <;> exact if_neg hdet

/-- In deterministic mode an activation's path says whose Spring gives the slot (R54). -/
theorem State.alloc_det (s : State) (j : Job) (t : Kind) (q : Activation) (htwin : s.inTwin = false) (hdet : j.det = true)
    (hact : s.inAct = true) (hq : s.me.act = some q) :
    let c := j.allCores[(q.nextPath t).toNat % j.allCores.length]?.getD s.cur
    s.alloc j t true = if s.waiting.any (fun w => w.reason == .wire) then s.takeFrom j t c false (fun u => u.countAlloc t true)
      else .ask c := by
  have hr : s.running? = some q := by unfold State.running?; rw [hact, hq]; rfl
  unfold State.alloc
  rw [htwin, hr, hdet]
  cases s.me.twin <;> rfl

theorem NetFrame.countAlloc (home : Nat) (t : Kind) (det : Bool) (s : State) : NetFrame home s (s.countAlloc t det) :=
  .upAct home s _

theorem SameSpring.countAlloc {t : Kind} {c : Nat} (k : Kind) (det : Bool) (s : State) : SameSpring t c s (s.countAlloc k det) :=
  .upAct s _

theorem Counts.frame {t : Kind} {det : Bool} {s : State} {after : State → State} (h : Counts t det s after) (home : Nat) (u : State) :
    NetFrame home u (after u) := by
  obtain ⟨-, rfl⟩ | rfl := h
  · exact .refl home u
  · exact .countAlloc home t det u

theorem Counts.spring {t : Kind} {det : Bool} {s : State} {after : State → State} (h : Counts t det s after) (k : Kind) (c : Nat)
    (u : State) : SameSpring k c u (after u) := by
  obtain ⟨-, rfl⟩ | rfl := h
  · exact .of_core rfl
  · exact .countAlloc t det u

/-! ### Records that an allocation writes (R284) -/

/-- A slot of core `c` has been taken and its record's first words written. -/
structure Allocated (t : Kind) (c x : Nat) (ws : List Word) (key : Nat → Nat) (s u : State) : Prop where
  frame : NetFrame c s u
  taken : SlotTaken t c x s u
  words : WordsWritten ws key s u

theorem State.takeSlot_units (s : State) (t : Kind) (c limit : Nat) :
    s.takeSlot t c limit = { s with cores := (s.takeSlot t c limit).cores } := by
  unfold State.takeSlot
  split <;> rfl

theorem State.upAct_units (s : State) (f : Activation → Activation) : s.upAct f = { s with cores := (s.upAct f).cores } := by
  unfold State.upAct
  split <;> rfl

theorem Counts.units {t : Kind} {det : Bool} {s : State} {after : State → State} (h : Counts t det s after) (u : State) :
    after u = { u with cores := (after u).cores } := by
  obtain ⟨-, rfl⟩ | rfl := h
  · rfl
  · exact u.upAct_units _

/-- The state in which an access has written its words. -/
def State.accessed (s : State) (es : List Elem) (ws : List Word) : State :=
  (s.startWalks es true).putElems es (ws.map (fun w => leBytes 8 w.toNat))

theorem State.accessed_written (s : State) (es : List Elem) (ws : List Word) {key : Nat → Nat} (hes : Lies es key)
    (hlen : es.length = ws.length) (hapart : Apart s ws.length 8 key) (hwf : s.mem.wf = true)
    (hreplay : s.replaying s.me.colour = false) :
    Walked s (s.startWalks es true) ∧ Written ws key (s.startWalks es true) (s.accessed es ws) ∧
      WordsWritten ws key s (s.accessed es ws) := by
  have hwalk := s.startWalks_walked es true
  have hwritten := (s.startWalks es true).putElems_written es ws hes hlen
    ⟨hapart.1, fun n hn => (hwalk.heldSlot _ _).trans (hapart.2 n hn)⟩ (by rw [hwalk.mem]; exact hwf)
    (by rw [hwalk.replaying, hwalk.colour]; exact hreplay)
  exact ⟨hwalk, hwritten, hwritten.words.of_source hwalk.mem⟩

theorem Allocated.of_accessed {s : State} {j : Job} {t : Kind} {det : Bool} {c x : Nat} {ws : List Word} {key : Nat → Nat}
    {es : List Elem} {after : State → State} (hes : Lies es key) (hlen : es.length = ws.length) (hapart : Apart s ws.length 8 key)
    (hwf : s.mem.wf = true) (hreplay : s.replaying s.me.colour = false)
    (hn : ∃ k, (s.core c).nextSlot t j.heap = some (x, k)) (hafter : Counts t det s after) :
    Allocated t c x ws key s ((after ((s.accessed es ws).takeSlot t c j.heap)).soil) := by
  obtain ⟨hwalk, hwritten, hwords⟩ := s.accessed_written es ws hes hlen hapart hwf hreplay
  have hspring : SameSpring t c s (s.accessed es ws) := (SameSpring.of_walked hwalk).trans (.of_core (hwritten.only.core c))
  obtain ⟨htaken, htake, -⟩ := (s.accessed es ws).takeSlot_spec t c j.heap x (hspring.nextSlot hn)
  have hbefore : NetFrame c s (s.accessed es ws) := (NetFrame.of_walked c hwalk).trans (.of_memoryOnly c hwritten.only)
  refine ⟨((hbefore.trans htake).trans (hafter.frame c _)).trans (.upAct c _ _),
    htaken.trans hspring ((hafter.spring t c _).trans (.upAct _ _)), hwords.of_mem ?_⟩
  unfold State.soil
  rw [State.upAct_units, hafter.units, State.takeSlot_units]

/-- The record's words with their numbers. -/
def numbered (ws : List Word) : List (Nat × Word) := ws.zipIdx.map Prod.swap

theorem numbered_length (ws : List Word) : (numbered ws).length = ws.length := by
  unfold numbered
  rw [List.length_map, List.length_zipIdx]

theorem numbered_getElem? (ws : List Word) (n : Nat) (hn : n < ws.length) : (numbered ws)[n]? = some (n, ws[n]) := by
  unfold numbered
  rw [List.getElem?_map, List.getElem?_zipIdx, List.getElem?_eq_getElem hn]
  simp

theorem numbered_words (ws : List Word) : (numbered ws).map (fun w => leBytes 8 w.2.toNat) = ws.map (fun w => leBytes 8 w.toNat) := by
  refine List.ext_getElem? fun n => ?_
  rcases Nat.lt_or_ge n ws.length with hn | hn
  · rw [List.getElem?_map, numbered_getElem? ws n hn, List.getElem?_map, List.getElem?_eq_getElem hn]
    rfl
  · rw [List.getElem?_eq_none (by rw [List.length_map, numbered_length]; exact hn),
      List.getElem?_eq_none (by rw [List.length_map]; exact hn)]

/-- The elements of a record whose words lie at keys. -/
theorem Lies.record {s : State} {base : Word} {ws : List Word} {key : Nat → Nat}
    (h : ∀ n, n < ws.length → ∃ own cached walk, s.plan (base + BitVec.ofNat 64 (8 * n)) 8 true = .go (key n) own cached walk) :
    Lies ((List.range (numbered ws).length).map (fun n =>
      s.elem n (base + BitVec.ofNat 64 (8 * ((numbered ws)[n]?.getD (0, 0)).1)) 8 true)) key := by
  intro n hn
  rw [List.length_map, List.length_range, numbered_length] at hn
  rw [List.getElem_map, List.getElem_range]
  refine ⟨rfl, ?_⟩
  rw [numbered_getElem? ws n hn]
  exact h n hn

/-- VA of the record of an index. -/
def Job.recordVa (j : Job) (t : Kind) (i : Nat) : Word := match t with | .node => j.nodeVa i | .wire => j.wireVa i

/-- An allocation from the core's own Spring takes the slot, writes the record and ends as `fin` says. -/
theorem State.allocInto_own (s : State) (h : Head) (j : Job) (t : Kind) (x : Nat) (ws : List Word) {key : Nat → Nat}
    {words : Nat → List (Nat × Word)} (fin : State → Nat → State) (htwin : s.inTwin = false)
    (hown : j.det = false ∨ s.inAct = false) (hwf : s.mem.wf = true) (hreplay : s.replaying s.me.colour = false)
    (hwords : words (s.cur * 2 ^ 23 + x) = numbered ws)
    (hready : SlotReady s j t s.cur x (j.recordVa t (s.cur * 2 ^ 23 + x)) ws.length key) :
    ∃ u, s.allocInto h j t words fin = fin u (s.cur * 2 ^ 23 + x) ∧ Allocated t s.cur x ws key s u := by
  obtain ⟨hnext, hstock, hapart, hplan⟩ := hready
  obtain ⟨after, hafter, halloc⟩ := s.alloc_own j t true htwin (hown.imp_left fun hd => by rw [hd]; rfl)
  have hpath : (j.det && t == .node && s.inAct) = false := by
    rcases hown with h | h <;> simp [h]
  have hlies := Lies.record hplan
  refine ⟨_, ?_, Allocated.of_accessed hlies (by rw [List.length_map, List.length_range, numbered_length]) hapart hwf hreplay hnext
    hafter⟩
  unfold State.allocInto
  rw [halloc, s.takeFrom_eq j t s.cur x true after hnext (.inr hstock)]
  dsimp only
  rw [hwords, hpath, if_neg Bool.false_ne_true, if_neg Bool.false_ne_true, List.append_nil, List.append_nil, numbered_words]
  cases t <;> exact State.access_of_lies s h true none _ _ hlies

theorem State.net_of_job {s : State} {j : Job} (h : NetJob s j) (f : Job → State) : s.net f = f j := by
  obtain ⟨hj, hne⟩ := h
  unfold State.net
  rw [hj]
  exact if_neg hne

/-- A slot of the core's own Spring has been taken, and nothing else is done. -/
theorem State.take_own (s : State) (t : Kind) (c limit x : Nat) {det : Bool} {after : State → State} (hafter : Counts t det s after)
    (hn : ∃ k, (s.core c).nextSlot t limit = some (x, k)) :
    let u := after (s.takeSlot t c limit)
    NetFrame c s u ∧ SlotTaken t c x s u ∧ u = { s with cores := u.cores } := by
  obtain ⟨htaken, hframe, -⟩ := s.takeSlot_spec t c limit x hn
  refine ⟨hframe.trans (hafter.frame c _), htaken.trans (.of_core rfl) (hafter.spring t c _), ?_⟩
  rw [hafter.units, State.takeSlot_units]

/-! ### The end of an allocation -/

theorem Allocated.upAct {t : Kind} {c x : Nat} {ws : List Word} {key : Nat → Nat} {s u : State} (ha : Allocated t c x ws key s u)
    (f : Activation → Activation) : Allocated t c x ws key s (u.upAct f) :=
  ⟨ha.frame.trans (.upAct c u f), ha.taken.trans (.of_core rfl) (.upAct u f), ha.words.of_mem (by rw [State.upAct_units])⟩

/-- An allocation that ends with its index in a register. -/
theorem Allocated.placed {t : Kind} {c x : Nat} {ws : List Word} {key : Nat → Nat} {s u : State}
    (ha : Allocated t c x ws key s u) (h : Head) (d : XReg) (w : Word) :
    let v := (u.setX d w).advance h
    Past h s v ∧ SlotTaken t c x s v ∧ WordsWritten ws key s v :=
  ⟨(u.past_setX_advance h d w).trans (congrArg (· + BitVec.ofNat 64 h.len) ha.frame.pc),
    ha.taken.trans (.of_core rfl) ((SameSpring.setX u d w).trans (.advance _ h)), ha.words.of_mem rfl⟩

/-- An allocation of the core's own that ends with its index in a register. -/
theorem Allocated.setX_advance {t : Kind} {x : Nat} {ws : List Word} {key : Nat → Nat} {s u : State}
    (ha : Allocated t s.cur x ws key s u) (h : Head) (d : XReg) (w : Word) :
    let v := (u.setX d w).advance h
    Past h s v ∧ SlotTaken t s.cur x s v ∧ WordsWritten ws key s v ∧ SameCores s v ∧ Registers [d] [] [] s v ∧
      ∀ d', some d = some d' → d' ≠ 0 → v.getX d' = w := by
  obtain ⟨hpast, htaken, hwords⟩ := ha.placed h d w
  refine ⟨hpast, htaken, hwords, fun c hc => ?_,
    (Registers.of_sameFile ha.frame.sameFile _ _ _).trans (u.frame_setX_advance h d w).registers, fun d' hd hne => ?_⟩
  · have hcur : c ≠ u.cur := by rw [ha.frame.cur]; exact hc
    exact ((u.frame_setX_advance h d w).outside.cores c hcur).trans (ha.frame.cores c hc hc)
  · obtain rfl := Option.some.inj hd
    rw [State.getX_setX_advance, if_neg hne]

/-- Outside a twin a protocol message leaves the core at once (R39, R413). -/
theorem State.coreItem_eq (s : State) (i : TwinItem) (h : s.inTwin = false) : s.coreItem i = s.netSend s.cur s.cl i := by
  unfold State.coreItem
  rw [h]
  cases s.me.twin <;> rfl

theorem State.netSend_cluster (s : State) (src cl : Nat) (i : TwinItem) :
    ((s.netSend src cl i).cluster cl).sent = ((s.cluster cl).sent + 1) % 2 ^ 32 := by
  simp [State.netSend, State.countSent]

theorem State.cl_of_cur {s u : State} (h : u.cur = s.cur) : u.cl = s.cl := by
  unfold State.cl
  rw [h]

/-- An allocation that ends with a protocol message. -/
theorem Allocated.send_advance {t : Kind} {x : Nat} {ws : List Word} {key : Nat → Nat} {s u : State}
    (ha : Allocated t s.cur x ws key s u) (htwin : s.inTwin = false) (h : Head) (i : TwinItem) :
    let v := (u.coreItem i).advance h
    (Past h s v ∧ SlotTaken t s.cur x s v ∧ WordsWritten ws key s v ∧ SameCores s v ∧ Registers [] [] [] s v) ∧
      (∃ pre, v.agenda = pre ++ [⟨netChan s.cur i.event.1, i.event.2⟩]) ∧
      (v.cluster s.cl).sent = ((s.cluster s.cl).sent + 1) % 2 ^ 32 := by
  have hsend : u.coreItem i = u.netSend s.cur s.cl i := by
    rw [State.coreItem_eq u i (ha.frame.inTwin.trans htwin), ha.frame.cur, State.cl_of_cur ha.frame.cur]
  dsimp only
  rw [hsend]
  refine ⟨⟨?_, ha.taken.trans (.of_core rfl) ((SameSpring.of_core (s := u) (u := u.netSend s.cur s.cl i) rfl).trans (.advance _ h)),
    ha.words.of_mem rfl, fun c hc => ?_, ?_⟩,
    ⟨u.agenda, rfl⟩, ?_⟩
  · exact State.past_advance h ha.frame.pc
  · rw [State.core_advance_ne _ _ _ (by exact ha.frame.cur ▸ hc)]
    exact ha.frame.cores c hc hc
  · exact (Registers.of_sameFile (t := u.netSend s.cur s.cl i) ha.frame.sameFile _ _ _).trans (Registers.advance _ _ _ _ h)
  · rw [State.cluster_advance, State.netSend_cluster, ha.frame.cluster]

/-! ### The instructions that allocate -/

/-- Word 0 of a VAL node at a wire end (R27, R52). -/
theorem deviceNode_val {v : Nat} (h : v < 2 ^ 33) :
    deviceNode symVal (v % 2 ^ 32) (v / 2 ^ 32) = BitVec.ofNat 64 (0xF00 * 2 ^ 52 + 2 ^ 41 + v) := by
  have hport : portWord (v % 2 ^ 32) (v / 2 ^ 32) = BitVec.ofNat 64 v := by
    unfold portWord
    exact congrArg _ (by omega)
  have hsum : 0xF00 * 2 ^ 52 + 2 ^ 41 + v = (0xF00 * 2 ^ 52 + 2 ^ 41) ||| v :=
    Nat.two_pow_add_eq_or_of_lt (i := 41) (by omega) (0xF00 * 2 ^ 11 + 1)
  have hhigh : BitVec.ofNat 64 (symVal * 2 ^ 52) ||| nodeAlloc = BitVec.ofNat 64 (0xF00 * 2 ^ 52 + 2 ^ 41) := by decide
  unfold deviceNode
  rw [hport, hsum, hhigh, BitVec.ofNat_or]

section
variable {h : Head} {d a : XReg} {s : State} {j : Job} {x : Nat} {key : Nat → Nat}
  (hj : NetJob s j) (htwin : s.inTwin = false) (hwf : s.mem.wf = true) (hreplay : s.replaying s.me.colour = false)

include hj

theorem exec_nalloc (h : Head) (d : XReg) : exec (.nalloc h d) s = .next (s.allocInto h j .node (fun _ => [(0, nodeAlloc)])
    (fun u i => (u.setX d (BitVec.ofNat 64 i)).advance h)) := congrArg Host.Outcome.next (State.net_of_job hj _)

theorem exec_walloc (h : Head) (d : XReg) : exec (.walloc h d) s = .next (s.allocInto h j .wire
    (fun i => [(0, openEnd), (1, openEnd), (2, 1 <<< 62), (3, s.shuntWord j i)]) (fun u i =>
      ((u.upAct (fun a => { a with wires := i :: a.wires })).setX d (BitVec.ofNat 64 i)).advance h)) :=
  congrArg Host.Outcome.next (State.net_of_job hj _)

theorem exec_nval (h : Head) (d a : XReg) (htwin : s.inTwin = false) (hact : s.inAct = true) (hend : s.endOk (s.getX a) = true)
    (hhold : s.releaseHold = false) : exec (.nval h d a) s = .next (s.allocInto h j .node
      (fun _ => numbered [deviceNode symVal (bits (s.getX a) 0 32) (bits (s.getX a) 32 1), s.getX d])
      (fun u i => (u.coreItem ⟨2, s.getX a, BitVec.ofNat 64 i, 0⟩).advance h)) := by
  have hroom : s.twinRoom 3 = true := by
    unfold State.twinRoom
    rw [htwin]
    split <;> rfl
  change execNval h d a s = _
  unfold execNval
  dsimp only
  rw [State.net_of_job hj, hact, hend, hroom, hhold, htwin]
  rfl

include htwin hwf hreplay

theorem runs_nalloc (hown : j.det = false ∨ s.inAct = false)
    (hready : SlotReady s j .node s.cur x (j.nodeVa (s.cur * 2 ^ 23 + x)) 1 key) :
    ∃ u, Allocated .node s.cur x [1 <<< 41] key s u ∧
      exec (.nalloc h d) s = .next ((u.setX d (BitVec.ofNat 64 (s.cur * 2 ^ 23 + x))).advance h) := by
  obtain ⟨u, he, ha⟩ := s.allocInto_own h j .node x [1 <<< 41] (words := fun _ => [(0, nodeAlloc)])
    (fun u i => (u.setX d (BitVec.ofNat 64 i)).advance h) htwin hown hwf hreplay rfl hready
  exact ⟨u, ha, (exec_nalloc hj h d).trans (congrArg _ he)⟩

theorem runs_walloc (hown : j.det = false ∨ s.inAct = false)
    (hready : SlotReady s j .wire s.cur x (j.wireVa (s.cur * 2 ^ 23 + x)) 4 key) :
    ∃ u, Allocated .wire s.cur x [3 <<< 62, 3 <<< 62, 1 <<< 62, s.peek64 (key 3) &&& 0x1FFFFFFFF] key s u ∧
      exec (.walloc h d) s = .next ((u.setX d (BitVec.ofNat 64 (s.cur * 2 ^ 23 + x))).advance h) := by
  have hshunt : s.shuntWord j (s.cur * 2 ^ 23 + x) = s.peek64 (key 3) &&& 0x1FFFFFFFF := by
    obtain ⟨-, -, -, hplan⟩ := hready
    obtain ⟨own, cached, walk, hp⟩ := hplan 3 (by decide)
    unfold State.shuntWord
    rw [show j.wireVa (s.cur * 2 ^ 23 + x) + 24 = j.wireVa (s.cur * 2 ^ 23 + x) + BitVec.ofNat 64 (8 * 3) from rfl, hp]
  obtain ⟨u, he, ha⟩ := s.allocInto_own h j .wire x [3 <<< 62, 3 <<< 62, 1 <<< 62, s.peek64 (key 3) &&& 0x1FFFFFFFF]
    (words := fun i => [(0, openEnd), (1, openEnd), (2, 1 <<< 62), (3, s.shuntWord j i)])
    (fun u i => ((u.upAct (fun a => { a with wires := i :: a.wires })).setX d (BitVec.ofNat 64 i)).advance h) htwin hown hwf hreplay
    (by rw [hshunt]; rfl) hready
  exact ⟨_, ha.upAct _, (exec_walloc hj h d).trans (congrArg _ he)⟩

theorem runs_nval (hdet : j.det = false) (hact : s.inAct = true) (hend : s.endOk (s.getX a) = true) (hlt : (s.getX a).toNat < 2 ^ 33)
    (hhold : s.releaseHold = false) (hready : SlotReady s j .node s.cur x (j.nodeVa (s.cur * 2 ^ 23 + x)) 2 key) :
    ∃ u, Allocated .node s.cur x [BitVec.ofNat 64 (0xF00 * 2 ^ 52 + 2 ^ 41 + (s.getX a).toNat), s.getX d] key s u ∧
      exec (.nval h d a) s = .next ((u.coreItem ⟨2, s.getX a, BitVec.ofNat 64 (s.cur * 2 ^ 23 + x), 0⟩).advance h) := by
  have hbits : bits (s.getX a) 32 1 = (s.getX a).toNat / 2 ^ 32 := Nat.mod_eq_of_lt (by omega)
  obtain ⟨u, he, ha⟩ := s.allocInto_own h j .node x [BitVec.ofNat 64 (0xF00 * 2 ^ 52 + 2 ^ 41 + (s.getX a).toNat), s.getX d]
    (words := fun _ => numbered [deviceNode symVal (bits (s.getX a) 0 32) (bits (s.getX a) 32 1), s.getX d])
    (fun u i => (u.coreItem ⟨2, s.getX a, BitVec.ofNat 64 i, 0⟩).advance h) htwin (.inl hdet) hwf hreplay
    (by rw [bits_low, hbits, deviceNode_val hlt]) hready
  exact ⟨u, ha, (exec_nval hj h d a htwin hact hend hhold).trans (congrArg _ he)⟩

end

theorem State.endOk_of {s : State} {v : Word} (hlt : v.toNat < 2 ^ 33) (hslot : v.toNat % 2 ^ 23 ≠ 0)
    (hpart : s.inPartition (ownerOf (v.toNat % 2 ^ 32)) = true) : s.endOk v = true := by
  unfold State.endOk
  rw [bits_low, bits_low, hpart, decide_eq_true hlt, bne_iff_ne.2 hslot]
  rfl

/-- The two fields of a wire end (R26). -/
theorem wireEnd_fields {v : Word} (hlt : v.toNat < 2 ^ 33) : bits v 0 32 = v.toNat % 2 ^ 32 ∧ bits v 32 1 = v.toNat / 2 ^ 32 :=
  ⟨bits_low v 32, Nat.mod_eq_of_lt (by omega)⟩

/-- The message with which a VAL node replaces a wire end (R40). -/
theorem TwinItem.replace_event {v : Word} (p : Word) (hlt : v.toNat < 2 ^ 33) :
    (⟨2, v, p, 0⟩ : TwinItem).event = (weirOf (v.toNat % 2 ^ 32),
      .replace (weirOf (v.toNat % 2 ^ 32)) (v.toNat % 2 ^ 32) (v.toNat / 2 ^ 32) p) := by
  obtain ⟨hw, he⟩ := wireEnd_fields hlt
  unfold TwinItem.event
  dsimp only
  rw [hw, he]
  rfl

/-! ### Nodes of completions (R51, R52) -/

section
variable {h : Head} {d a : XReg} {s : State} {j : Job} {x : Nat} (hj : NetJob s j) (hact : s.inAct = true)
  (hend : s.endOk (s.getX a) = true) (htwin : s.inTwin = false) (hnext : ∃ k, s.me.nextSlot .node j.heap = some (x, k))
  (hstock : s.me.nstock ≠ 0)

include htwin hnext hstock

/-- A completion's node comes from the core's own Spring, in every mode (log 53). -/
theorem State.alloc_completion : ∃ u, NetFrame s.cur s u ∧ SlotTaken .node s.cur x s u ∧ u = { s with cores := u.cores } ∧
    ∃ take, s.alloc j .node false = .ok (s.cur * 2 ^ 23 + x) take ∧ take s = u := by
  obtain ⟨after, hafter, halloc⟩ := s.alloc_own j .node false htwin (.inl (Bool.and_false _))
  rw [s.takeFrom_eq j .node s.cur x true after hnext (.inr hstock)] at halloc
  obtain ⟨hframe, htaken, hunits⟩ := s.take_own .node s.cur j.heap x hafter hnext
  exact ⟨_, hframe, htaken, hunits, _, halloc, rfl⟩

include hj hact hend

theorem runs_engw (hbind : s.me.bind = none) : ∃ u, NetFrame s.cur s u ∧ SlotTaken .node s.cur x s u ∧
    u = { s with cores := u.cores } ∧ exec (.engw h a) s = .next ((((u.upMe (fun k => { k with
      bind := some ⟨bits (s.getX a) 0 32, bits (s.getX a) 32 1, s.cur * 2 ^ 23 + x⟩ })).countSent s.cl).soil).advance h) := by
  obtain ⟨u, hframe, htaken, hunits, take, halloc, htake⟩ := State.alloc_completion htwin hnext hstock
  refine ⟨u, hframe, htaken, hunits, ?_⟩
  change execEngw h a s = _
  unfold execEngw
  dsimp only
  rw [State.net_of_job hj, hact, htwin, hbind, hend, halloc, ← htake]
  rfl

theorem runs_nrdm : ∃ u, NetFrame s.cur s u ∧ SlotTaken .node s.cur x s u ∧ u = { s with cores := u.cores } ∧
    exec (.nrdm h d a) s = .next (((u.nrdmSend s.cur s.me.lvl.val s.pc (s.getX a) (s.cur * 2 ^ 23 + x) (s.getX d)).soil).advance h) := by
  obtain ⟨u, hframe, htaken, hunits, take, halloc, htake⟩ := State.alloc_completion htwin hnext hstock
  have hroom : s.twinRoom = true := by
    unfold State.twinRoom
    rw [htwin]
    split <;> rfl
  refine ⟨u, hframe, htaken, hunits, ?_⟩
  change execNrdm h d a s = _
  unfold execNrdm
  dsimp only
  rw [State.net_of_job hj, hact, htwin, hend, hroom, halloc, ← htake]
  rfl

end

/-- An instruction that ends by noting that its activation has run a net instruction: what it leaves of the state `b` before. -/
structure Soiled (h : Head) (b t : State) : Prop where
  past : Past h b t
  file : SameFile b.me t.me
  cores : SameCores b t
  spring : ∀ k c, SameSpring k c b t
  units : t = { b with cores := t.cores }
  bind : t.me.bind = b.me.bind

theorem State.soil_advance (b : State) (h : Head) : Soiled h b ((b.soil).advance h) := by
  have hsoil : NetFrame b.cur b b.soil := .upAct b.cur b _
  have hadv : ((b.soil).advance h).me = b.soil.me.upLv b.soil.me.lvl (fun v =>
      { v with prev := v.pc, pc := v.pc + BitVec.ofNat 64 h.len, wait := none }) :=
    State.me_upLev _ _
  refine ⟨State.past_advance h hsoil.pc, ?_, fun c hc => ?_, fun k c => (SameSpring.upAct b _).trans (.advance _ h), ?_, ?_⟩
  · rw [hadv]
    exact hsoil.sameFile.trans (.upLv _ _ (fun _ => rfl) fun _ => rfl)
  · rw [State.core_advance_ne _ _ _ (by rw [hsoil.cur]; exact hc)]
    exact hsoil.cores c hc hc
  · unfold State.soil
    rw [State.upAct_units]
    rfl
  · rw [hadv, Core.upLv_bind, hsoil.me]

/-- The core's own Spring has given slot `x`, and of the core's registers nothing has changed. -/
structure NodeTaken (x : Nat) (s b : State) : Prop where
  file : SameFile s.me b.me
  pc : b.pc = s.pc
  taken : SlotTaken .node s.cur x s b
  cores : ∀ c, c ≠ s.cur → b.core c = s.core c
  cur : b.cur = s.cur
  mem : b.mem = s.mem

section
variable {x : Nat} {s u b t : State}

theorem NodeTaken.of_frame (hframe : NetFrame s.cur s u) (htaken : SlotTaken .node s.cur x s u) (hunits : u = { s with cores := u.cores }) :
    NodeTaken x s u :=
  ⟨hframe.sameFile, hframe.pc, htaken, fun c hc => hframe.cores c hc hc, hframe.cur, by rw [hunits]⟩

theorem NodeTaken.of_cores (g : NodeTaken x s u) (hc : b.cores = u.cores) (hcur : b.cur = u.cur) (hm : b.mem = u.mem) :
    NodeTaken x s b := by
  have hcore : ∀ c, b.core c = u.core c := fun c => by unfold State.core; rw [hc]
  have hme : b.me = u.me := by unfold State.me; rw [hcore, hcur]
  have hlev : b.lev = u.lev := congrArg (fun k : Core => k.lv[k.lvl]) hme
  exact ⟨by rw [hme]; exact g.file, (congrArg Level.pc hlev).trans g.pc, g.taken.trans (.of_core rfl) (.of_core (hcore _)),
    fun c h => (hcore c).trans (g.cores c h), hcur.trans g.cur, hm.trans g.mem⟩

/-- The binding that an ENGW leaves (R51). -/
theorem NodeTaken.bind (g : NodeTaken x s u) (d : Option Binding) : NodeTaken x s (u.upMe (fun k => { k with bind := d })) := by
  have hme : (u.upMe (fun k => { k with bind := d })).me = { u.me with bind := d } := State.me_upMe _ _
  have hlev : (u.upMe (fun k => { k with bind := d })).lev = u.lev := (congrArg (fun k : Core => k.lv[k.lvl]) hme).trans rfl
  exact ⟨by rw [hme]; exact g.file.trans (.of_eq rfl rfl rfl rfl rfl), (congrArg Level.pc hlev).trans g.pc,
    g.taken.trans (.of_core rfl) (.upMe u _ fun _ => ⟨rfl, rfl, rfl, rfl⟩),
    fun c hc => (State.core_upMe_ne u _ c (by rw [g.cur]; exact hc)).trans (g.cores c hc), g.cur, g.mem⟩

theorem State.bind_bound (u : State) (d : Option Binding) (cl : Nat) :
    ((u.upMe (fun k => { k with bind := d })).countSent cl).me.bind = d :=
  congrArg Core.bind (State.me_upMe u (fun k => { k with bind := d }))

/-- What an instruction leaves that has taken a node and then notes that its activation has run a net instruction. -/
theorem NodeTaken.soiled {h : Head} (g : NodeTaken x s b) (e : Soiled h b t) :
    Past h s t ∧ SlotTaken .node s.cur x s t ∧ Registers [] [] [] s t ∧ SameBytes s t ∧ SameCores s t :=
  ⟨e.past.trans (congrArg (· + BitVec.ofNat 64 h.len) g.pc), g.taken.trans (.of_core rfl) (e.spring _ _),
    Registers.of_sameFile (g.file.trans e.file) _ _ _, fun a => by rw [e.units, ← g.mem],
    fun c hc => (e.cores c (by rw [g.cur]; exact hc)).trans (g.cores c hc)⟩

theorem Soiled.cluster {h : Head} (e : Soiled h b t) (cl : Nat) : t.cluster cl = b.cluster cl := by
  rw [e.units]
  rfl

end

theorem State.cluster_countSent (s : State) (cl : Nat) : ((s.countSent cl).cluster cl).sent = ((s.cluster cl).sent + 1) % 2 ^ 32 := by
  unfold State.countSent
  rw [State.cluster_upCluster, if_pos rfl]

theorem traps_outside_activation {s : State} {j : Job} (hj : NetJob s j) (hact : s.inAct = false) (h : Head) (d a : XReg) :
    Traps (.engw h a) s Code.ctxBad ∧ Traps (.nrdm h d a) s Code.ctxBad ∧ Traps (.nval h d a) s Code.ctxBad := by
  refine ⟨?_, ?_, ?_⟩
  · change execEngw h a s = _
    unfold execEngw
    dsimp only
    rw [State.net_of_job hj, hact]
    rfl
  · change execNrdm h d a s = _
    unfold execNrdm
    dsimp only
    rw [State.net_of_job hj, hact]
    rfl
  · change execNval h d a s = _
    unfold execNval
    dsimp only
    rw [State.net_of_job hj, hact]
    rfl

/-- A shard that is used up (R36, R284). -/
theorem traps_heapFull {s : State} {j : Job} (hj : NetJob s j) (htwin : s.inTwin = false) (hown : j.det = false ∨ s.inAct = false)
    (hfree : (s.core s.cur).freeList .node = []) (htop : j.heap < (s.core s.cur).top .node) (h : Head) (d : XReg) :
    Traps (.nalloc h d) s Code.heapFull := by
  obtain ⟨after, -, halloc⟩ := s.alloc_own j .node true htwin (hown.imp_left fun hd => by rw [hd]; rfl)
  unfold Traps
  rw [exec_nalloc hj]
  unfold State.allocInto
  rw [halloc, State.takeFrom_full _ _ _ _ _ _ (Core.nextSlot_of_full hfree htop)]

/-! ### Deterministic mode (R54) -/

theorem State.act_upAct {s : State} (hact : s.inAct = true) (f : Activation → Activation) : (s.upAct f).me.act = s.me.act.map f := by
  unfold State.upAct
  rw [if_pos hact, State.me_upMe]

theorem Walked.act {s t : State} (h : Walked s t) : t.me.act = s.me.act := by
  obtain ⟨e, he⟩ := h.me
  rw [he]

/-- An activation's allocation of a node counts up its number. -/
theorem State.kn_after {s : State} {es : List Elem} {ws : List Word} {key : Nat → Nat} {q : Activation} {c limit x : Nat}
    (hes : Lies es key) (hlen : es.length = ws.length) (hapart : Apart s ws.length 8 key) (hwf : s.mem.wf = true)
    (hreplay : s.replaying s.me.colour = false) (hact : s.inAct = true) (hq : s.me.act = some q)
    (hn : ∃ k, (s.core c).nextSlot .node limit = some (x, k)) :
    (((((s.accessed es ws).takeSlot .node c limit).countAlloc .node true).soil).me.act).map (·.kn) = some (q.kn + 1) := by
  obtain ⟨hwalk, hwritten, -⟩ := s.accessed_written es ws hes hlen hapart hwf hreplay
  have hspring : SameSpring .node c s (s.accessed es ws) := (SameSpring.of_walked hwalk).trans (.of_core (hwritten.only.core c))
  obtain ⟨-, htake, hkeep⟩ := (s.accessed es ws).takeSlot_spec .node c limit x (hspring.nextSlot hn)
  have hframe := ((NetFrame.of_walked c hwalk).trans (.of_memoryOnly c hwritten.only)).trans htake
  have hact' := hframe.inAct.trans hact
  have hcount : State.inAct (((s.accessed es ws).takeSlot .node c limit).countAlloc .node true) = true :=
    (NetFrame.countAlloc c .node true _).inAct.trans hact'
  unfold State.soil
  rw [State.act_upAct hcount]
  unfold State.countAlloc
  rw [State.act_upAct hact', hkeep, hwritten.only.me, hwalk.act, hq]
  rfl

section
variable {h : Head} {d : XReg} {s : State} {j : Job} {q : Activation} (hj : NetJob s j) (htwin : s.inTwin = false)
  (hdet : j.det = true) (hact : s.inAct = true) (hq : s.me.act = some q)
include hj htwin hdet hact hq

/-- NALLOC asks the Weir of the core that the path names, and sleeps. -/
theorem exec_nalloc_asks (hfirst : s.waiting.any (fun w => w.reason == .wire) = false) :
    exec (.nalloc h d) s = .next ((s.pushFree (.springStockRefill
      (j.allCores[(q.nextPath .node).toNat % j.allCores.length]?.getD s.cur))).block .wire) := by
  have halloc := s.alloc_det j .node q htwin hdet hact hq
  dsimp only at halloc
  rw [hfirst, if_neg Bool.false_ne_true] at halloc
  rw [exec_nalloc hj]
  unfold State.allocInto
  rw [halloc]

/-- Then it takes the slot there and writes the node's first word and its path. -/
theorem runs_nalloc_placed (hagain : s.waiting.any (fun w => w.reason == .wire) = true) (hwf : s.mem.wf = true)
    (hreplay : s.replaying s.me.colour = false) {c x : Nat} {key : Nat → Nat}
    (hc : c = j.allCores[(q.nextPath .node).toNat % j.allCores.length]?.getD s.cur)
    (hnext : ∃ k, (s.core c).nextSlot .node j.heap = some (x, k)) (hapart : Apart s 2 8 key)
    (hnode : ∃ own cached walk, s.plan (j.nodeVa (c * 2 ^ 23 + x)) 8 true = .go (key 0) own cached walk)
    (hpath : ∃ own cached walk, s.plan (j.pathVa (c * 2 ^ 23 + x)) 8 true = .go (key 1) own cached walk) :
    ∃ u, Allocated .node c x [1 <<< 41, q.nextPath .node] key s u ∧ u.me.act.map (·.kn) = some (q.kn + 1) ∧
      exec (.nalloc h d) s = .next ((u.setX d (BitVec.ofNat 64 (c * 2 ^ 23 + x))).advance h) := by
  have halloc := s.alloc_det j .node q htwin hdet hact hq
  dsimp only at halloc
  rw [hagain, if_pos rfl, ← hc, s.takeFrom_eq j .node c x false _ hnext (.inl rfl)] at halloc
  have hrun : s.running? = some q := by unfold State.running?; rw [hact, hq]; rfl
  have hlies : Lies [s.elem 0 (j.nodeVa (c * 2 ^ 23 + x) + BitVec.ofNat 64 0) 8 true, s.elem 1 (j.pathVa (c * 2 ^ 23 + x)) 8 true] key := by
    rintro (_ | _ | n) hn
    · exact ⟨rfl, by rw [List.getElem_cons_zero]; unfold State.elem; rw [BitVec.add_zero]; exact hnode⟩
    · exact ⟨rfl, hpath⟩
    · exact absurd hn (by simp)
  have hallocated := Allocated.of_accessed (det := true) (ws := [1 <<< 41, q.nextPath .node]) hlies rfl hapart hwf hreplay hnext (.inr rfl)
  refine ⟨_, hallocated, ?_, ?_⟩
  · exact State.kn_after hlies rfl hapart hwf hreplay hact hq hnext
  · rw [exec_nalloc hj]
    unfold State.allocInto
    rw [halloc]
    dsimp only
    rw [hdet, hact, hrun]
    exact congrArg _ (State.access_of_lies s h true none _ _ hlies)

end

end Sys2Proof.Machine

namespace Sys2Proof.Proofs
open Sys2Proof.Machine

/-- Settles O38: an allocation takes the Spring's next slot and writes the record over elements that lie at their keys; in
deterministic mode the path's core gives the slot. -/
theorem netAllocation : Obligations.NetAllocation := by
  unfold Obligations.NetAllocation
  refine ⟨fun h d a s j x hj htwin hwf hreplay => ?_, fun h d s j x q key pk hj htwin hwf hreplay hdet hact hq => ?_,
    fun c s j hj => ?_⟩
  · dsimp only
    refine ⟨fun hown key hready => ?_, fun hown key hready => ?_, fun hfree htop hown => ?_, fun hact hend hdet hhold key hready => ?_,
      fun hact hend hnext hstock => ⟨fun hbind => ?_, ?_⟩, fun hact => traps_outside_activation hj hact h d a⟩
    · obtain ⟨u, ha, he⟩ := runs_nalloc hj htwin hwf hreplay (h := h) (d := d) hown hready
      exact ⟨_, he, ha.setX_advance h d _⟩
    · obtain ⟨u, ha, he⟩ := runs_walloc hj htwin hwf hreplay (h := h) (d := d) hown hready
      exact ⟨_, he, ha.setX_advance h d _⟩
    · exact traps_heapFull hj htwin hown hfree htop h d
    · obtain ⟨hlt, hslot, hpart⟩ := hend
      obtain ⟨u, ha, he⟩ := runs_nval hj htwin hwf hreplay (h := h) (d := d) hdet hact (State.endOk_of hlt hslot hpart) hlt hhold hready
      obtain ⟨⟨hpast, htaken, hwords, hcores, hregs⟩, hsent, hcount⟩ :=
        ha.send_advance htwin h ⟨2, s.getX a, BitVec.ofNat 64 (s.cur * 2 ^ 23 + x), 0⟩
      rw [TwinItem.replace_event _ hlt] at hsent
      obtain ⟨pre, hpre⟩ := hsent
      exact ⟨_, he, ⟨hpast, htaken, hwords, hcores, hregs, nofun⟩, pre, hpre, hcount⟩
    · obtain ⟨hlt, hslot, hpart⟩ := hend
      obtain ⟨u, hframe, htaken, hunits, he⟩ :=
        runs_engw (h := h) hj hact (State.endOk_of hlt hslot hpart) htwin hnext hstock hbind
      obtain ⟨hw, hee⟩ := wireEnd_fields hlt
      rw [hw, hee] at he
      have hsoil := State.soil_advance ((u.upMe (fun k => { k with
        bind := some ⟨(s.getX a).toNat % 2 ^ 32, (s.getX a).toNat / 2 ^ 32, s.cur * 2 ^ 23 + x⟩ })).countSent s.cl) h
      obtain ⟨hpast, hslot', hregs, hbytes, hcores⟩ :=
        (((NodeTaken.of_frame hframe htaken hunits).bind _).of_cores (b := (u.upMe _).countSent s.cl) rfl rfl rfl).soiled hsoil
      refine ⟨_, he, hpast, hslot', ?_, ?_, hregs, hbytes, hcores, ?_⟩
      · exact hsoil.bind.trans (State.bind_bound u _ s.cl)
      · rw [hsoil.cluster, State.cluster_countSent, ← hframe.cluster]
        rfl
      · rw [hsoil.units, hunits]
        rfl
    · obtain ⟨hlt, hslot, hpart⟩ := hend
      obtain ⟨u, hframe, htaken, hunits, he⟩ := runs_nrdm (h := h) (d := d) hj hact (State.endOk_of hlt hslot hpart) htwin hnext hstock
      obtain ⟨hw, hee⟩ := wireEnd_fields hlt
      have hsoil := State.soil_advance (u.nrdmSend s.cur s.me.lvl.val s.pc (s.getX a) (s.cur * 2 ^ 23 + x) (s.getX d)) h
      obtain ⟨hpast, hslot', hregs, hbytes, hcores⟩ :=
        ((NodeTaken.of_frame hframe htaken hunits).of_cores (b := u.nrdmSend _ _ _ _ _ _) rfl rfl rfl).soiled hsoil
      have hcolour : (u.core s.cur).colour = s.me.colour := by
        have hme := hframe.me
        unfold State.me at hme
        rw [hframe.cur] at hme
        rw [hme]
        rfl
      refine ⟨_, he, hpast, hslot', hregs, hbytes, hcores, ?_, sliceChan s.cur (tkSlice (s.getX d)), ?_⟩
      · rw [hsoil.cluster, ← hframe.cluster]
        exact State.cluster_countSent u.fresh s.cl
      · rw [hsoil.units]
        unfold State.nrdmSend
        rw [hw, hee, hcolour, hunits]
        rfl
  · intro path c i hnext hapart hnode hpath
    refine ⟨fun hfirst => ?_, fun hagain => ?_⟩
    · refine ⟨_, exec_nalloc_asks hj htwin hdet hact hq hfirst, State.pc_block _ _ _,
        (Registers.of_sameFile (t := s.pushFree _) (.refl s.me) _ _ _).trans (Frame.block _ _ _).registers,
        fun _ => rfl, by rw [State.lev_block]; rfl, _, rfl⟩
    · obtain ⟨u, ha, hkn, he⟩ :=
        runs_nalloc_placed (h := h) (d := d) hj htwin hdet hact hq hagain hwf hreplay (c := c) rfl hnext hapart hnode hpath
      obtain ⟨hpast, htaken, hwords⟩ := ha.placed h d (BitVec.ofNat 64 i)
      refine ⟨_, he, hpast, htaken, State.getX_setX_advance _ _ _ _, hwords, ?_⟩
      rw [← hkn]
      exact congrArg (fun k : Core => k.act.map (·.kn)) (State.frame_setX_advance u h d (BitVec.ofNat 64 i)).rest
  · refine ⟨s.upCore c (fun k => { k with nstock := k.stockable .node j.heap, wstock := k.stockable .wire j.heap }), ?_, rfl,
      fun c' hc => by rw [State.core_upCore, if_neg hc.symm], by rw [State.core_upCore, if_pos rfl]; rfl⟩
    change execSpringStockRefill c s = _
    unfold execSpringStockRefill
    rw [hj]

end Sys2Proof.Proofs

end

section
/-! SUPPORT. An activation: the pair that it takes, what it enters with, and how it ends (R33, R34, R41, R282, R283, R288). -/

namespace Sys2Proof.Machine

/-! ### Several results on their way (R183, R184) -/

/-- The running level owes the results `outs`, which are on their way as `fs`; nothing else has changed. -/
structure Sends (s t : State) (outs : List Out) (fs : List Flight) : Prop where
  me : t.me = { s.me with lv := t.me.lv }
  file : SameFile s.me t.me
  lev : t.lev = { s.lev with out := s.lev.out ++ outs }
  agenda : t.agenda = s.agenda ++ fs
  ids : t.ids = s.ids + outs.length
  units : t = { s with cores := t.cores, agenda := t.agenda, ids := t.ids }
  cores : SameCores s t

theorem Sends.refl (s : State) : Sends s s [] [] :=
  ⟨rfl, .refl _, by simp, by simp, rfl, rfl, fun _ _ => rfl⟩

/-- One more result for x[d]. -/
theorem Sends.sendX {s t : State} {outs : List Out} {fs : List Flight} (g : Sends s t outs fs) (d : XReg) (w : Word) (hd : d ≠ 0) :
    Sends s (t.sendX d w) (outs ++ [⟨s.ids + outs.length, d.toNat, false⟩])
      (fs ++ [⟨landChan s.cur s.me.lvl.val d.toNat, .resultLand s.cur s.me.lvl.val (s.ids + outs.length) s.pc (.regs [(d, w)])⟩]) := by
  have hsend : t.sendX d w = (t.owe d.toNat).push (landChan t.cur t.me.lvl.val d.toNat)
      (.resultLand t.cur t.me.lvl.val t.ids t.pc (.regs [(d, w)])) := by
    unfold State.sendX
    rw [if_neg hd, State.send_eq]
  have hme : (t.sendX d w).me = t.me.upLv t.me.lvl (fun v => { v with out := v.out ++ [⟨t.ids, d.toNat, false⟩] }) := by
    rw [hsend]
    exact t.owe_me _ _
  have hlev : (t.sendX d w).lev = { t.lev with out := t.lev.out ++ [⟨t.ids, d.toNat, false⟩] } := by
    rw [hsend]
    exact State.lev_upLev t _
  have hcur : t.cur = s.cur := by rw [g.units]
  have hpc : t.pc = s.pc := (congrArg Level.pc g.lev).trans rfl
  refine ⟨?_, ?_, ?_, ?_, ?_, ?_, fun c hc => ?_⟩
  · rw [hme, Core.upLv, g.me]
  · rw [hme]
    exact g.file.trans (.upLv _ _ (fun _ => rfl) fun _ => rfl)
  · rw [hlev, g.lev, g.ids, List.append_assoc]
  · rw [hsend, State.push_agenda, hcur, hpc, g.ids, g.file.lvl, ← List.append_assoc, ← g.agenda]
    rfl
  · rw [hsend, List.length_append, List.length_singleton]
    exact congrArg (· + 1) g.ids
  · rw [hsend]
    unfold State.owe
    rw [show ∀ f, t.upLev f = { t with cores := (t.upLev f).cores } from fun _ => rfl, g.units]
    rfl
  · rw [hsend]
    exact (State.core_upLev_ne t (fun v => { v with out := v.out ++ [⟨t.ids, d.toNat, false⟩] }) c (by rw [hcur]; exact hc)).trans
      (g.cores c hc)

/-- x10 to x13 await the four words of a pair. -/
def State.sendPair (s : State) (wire a b entry : Word) : State := (((s.sendX 10 wire).sendX 11 a).sendX 12 b).sendX 13 entry

theorem State.sendPair_spec (s : State) (wire a b entry : Word) :
    let land (r id : Nat) (w : Word) : Flight :=
      ⟨landChan s.cur s.me.lvl.val r, .resultLand s.cur s.me.lvl.val id s.pc (.regs [(BitVec.ofNat 6 r, w)])⟩
    Sends s (s.sendPair wire a b entry)
      [⟨s.ids, 10, false⟩, ⟨s.ids + 1, 11, false⟩, ⟨s.ids + 2, 12, false⟩, ⟨s.ids + 3, 13, false⟩]
      [land 10 s.ids wire, land 11 (s.ids + 1) a, land 12 (s.ids + 2) b, land 13 (s.ids + 3) entry] :=
  ((((Sends.refl s).sendX 10 wire (by decide)).sendX 11 a (by decide)).sendX 12 b (by decide)).sendX 13 entry (by decide)

/-! ### Taking a pair out of a Pond (R48, R50) -/

/-- Only what is known of Ponds, and what is on its way, has changed. -/
def PondOnly (s t : State) : Prop := t = { s with clusters := t.clusters, agenda := t.agenda, ids := t.ids }

theorem PondOnly.trans {s t u : State} (h : PondOnly s t) (g : PondOnly t u) : PondOnly s u := by
  unfold PondOnly at *
  rw [g, h]

theorem State.pushEach_only (s : State) (l : List Nat) (ev : Nat → Instr) : PondOnly s (l.foldl (fun u o => u.pushFree (ev o)) s) :=
  List.foldlRecOn (motive := fun t : State => PondOnly s t) l _ rfl fun _ hu _ _ => hu.trans rfl

theorem State.pondChanged_only (s : State) (cl : Nat) : PondOnly s (s.pondChanged cl) := by
  unfold State.pondChanged
  extract_lets k n high low rise s₁ others s₂
  have told : PondOnly s s₂ :=
    iteInduction (motive := fun u : State => PondOnly s u) 
      (fun _ => (show PondOnly s s₁ from rfl).trans (State.pushEach_only s₁ _ _)) (fun _ => rfl)
  split
  · exact told.trans rfl
  · exact told

theorem State.pondChanged_rules (s : State) (cl : Nat) : ((s.pondChanged cl).cluster cl).rules = (s.cluster cl).rules := by
  unfold State.pondChanged
  extract_lets k n high low rise s₁ others s₂
  have told : s₂.cluster cl = s₁.cluster cl :=
    iteInduction (motive := fun u : State => u.cluster cl = s₁.cluster cl) (fun _ => State.pushEach_cluster s₁ _ _ cl)
      (fun _ => rfl)
  split <;> simp [told, s₁, k]

theorem State.pondTake_spec (s : State) (j : Job) (cl : Nat) (p : PondPair) (hs : (s.cluster cl).stalled = []) :
    PondOnly s (s.pondTake j cl p) ∧ ((s.pondTake j cl p).cluster cl).pond = (s.cluster cl).pond.erase p ∧
      ((s.pondTake j cl p).cluster cl).rules = (s.cluster cl).rules := by
  have hcl : (s.upCluster cl (fun k => { k with pond := k.pond.erase p })).cluster cl =
      { s.cluster cl with pond := (s.cluster cl).pond.erase p } := by rw [State.cluster_upCluster, if_pos rfl]
  obtain ⟨pairs, stalled⟩ := (s.upCluster cl (fun k => { k with pond := k.pond.erase p })).pondChanged_pairs cl
  have hrules := (s.upCluster cl (fun k => { k with pond := k.pond.erase p })).pondChanged_rules cl
  rw [hcl] at pairs stalled hrules
  unfold State.pondTake
  rw [State.pondRefill_of_stalled_nil _ _ _ (stalled.trans hs)]
  exact ⟨(show PondOnly s (s.upCluster cl _) from rfl).trans (State.pondChanged_only _ cl), pairs, hrules⟩

/-- A pair that the hardware has room for enters a Pond whose Weir does not stall, and no memory is written. -/
theorem State.pondPush_only (s : State) (j : Job) (cl : Nat) (p : PondPair) (hs : (s.cluster cl).stalled = [])
    (hroom : (s.cluster cl).pond.length < 16384) : PondOnly s (s.pondPush j cl p) := by
  have hfit : ((s.cluster cl).stalled.isEmpty && j.pondRoom (s.cluster cl)) = true := by
    rw [hs, Job.pondRoom, pondHeld, decide_eq_true (by omega)]
    rfl
  unfold State.pondPush
  dsimp only
  rw [if_pos hfit]
  refine PondOnly.trans ?_ (State.pondChanged_only _ cl)
  unfold State.pondIn
  dsimp only
  rw [if_pos (by exact hroom)]
  rfl

/-! ### Entering an activation (R33, R282) -/

/-- Is the pair's first node the first of its activation (R33)? The lower symbol comes first, unless the entry swaps them. -/
def pairFirst (p : PondPair) (wa wb entry : Word) : Bool :=
  if entry.getLsbD 61 && nodeSym wa != nodeSym wb then !(decide (nodeSym wa < nodeSym wb) || (nodeSym wa == nodeSym wb && decide (p.n0 ≤ p.n1)))
  else decide (nodeSym wa < nodeSym wb) || (nodeSym wa == nodeSym wb && decide (p.n0 ≤ p.n1))

theorem pairFirst_iff (p : PondPair) (wa wb entry : Word) :
    let low := nodeSym wa < nodeSym wb ∨ (nodeSym wa = nodeSym wb ∧ p.n0 ≤ p.n1)
    pairFirst p wa wb entry = true ↔ if entry.getLsbD 61 = true ∧ nodeSym wa ≠ nodeSym wb then ¬low else low := by
  unfold pairFirst
  dsimp only
  by_cases hswap : entry.getLsbD 61 = true ∧ nodeSym wa ≠ nodeSym wb
  · rw [if_pos hswap, if_pos (by simp [hswap.1, hswap.2])]
    simp [hswap.2]
  · rw [if_neg hswap, if_neg (by simpa using hswap)]
    simp

/-- The activation of a pair under an entry: its nodes in the rule's order, with the wires that word 0 of each names. -/
def pairAct (p : PondPair) (wa wb entry path : Word) (pond : Nat) : Activation :=
  if pairFirst p wa wb entry then ⟨p.n0, p.n1, p.wire, bits wa 0 32, bits wb 0 32, false, [], pond, p, entry, path, 0, 0, 0⟩
  else ⟨p.n1, p.n0, p.wire, bits wb 0 32, bits wa 0 32, false, [], pond, p, entry, path, 0, 0, 0⟩

theorem pairAct_entry (p : PondPair) (wa wb entry path : Word) (pond : Nat) : (pairAct p wa wb entry path pond).entry = entry := by
  unfold pairAct
  split <;> rfl

theorem pairAct_wire (p : PondPair) (wa wb entry path : Word) (pond : Nat) : (pairAct p wa wb entry path pond).wire = p.wire := by
  unfold pairAct
  split <;> rfl

/-- A core inside an activation. -/
def Core.enter (k : Core) (a : Activation) (role : Option TwinRole) : Core :=
  { k with inact := true, act := some a, kept := none, twin := role, taskLast := false }

/-- The state in which the executing core has entered an activation. -/
def State.entered (s : State) (a : Activation) (role : Option TwinRole) : State :=
  (s.upMe (·.enter a role)).upLev
    (fun v => { v with entry := BitVec.ofNat 64 (bits a.entry 0 48) })

theorem State.note_idle (s : State) (c : Nat) (w : Word) (h : s.replaying (s.core c).colour = false) : s.note c w = s := by
  unfold State.note
  rw [if_neg (by rw [h]; exact Bool.false_ne_true)]

theorem State.entered_me (s : State) (a : Activation) (role : Option TwinRole) : (s.entered a role).me =
    (s.me.enter a role).upLv s.me.lvl
      (fun v => { v with entry := BitVec.ofNat 64 (bits a.entry 0 48) }) := by
  unfold State.entered
  rw [State.me_upLev, State.me_upMe]
  rfl

theorem State.enterPair_eq (s : State) (j : Job) (h : Head) (p : PondPair) (wa wb entry path : Word) (pond : Nat) (role : Option TwinRole)
    (htrace : s.hub.trace.getLsbD 63 = false) (hreplay : s.replaying s.me.colour = false) :
    let a := pairAct p wa wb entry path pond
    s.enterPair j h p wa wb entry path pond role =
      ((s.entered a role).sendPair (BitVec.ofNat 64 p.wire) (BitVec.ofNat 64 a.a) (BitVec.ofNat 64 a.b) entry).advance h := by
  intro a
  have hidle : (s.entered a role).replaying ((s.entered a role).core s.cur).colour = false := by
    have hme : ((s.entered a role).core s.cur).colour = s.me.colour :=
      (congrArg Core.colour (s.entered_me a role)).trans rfl
    rw [hme]
    exact hreplay
  have hnote := (s.entered a role).note_idle s.cur (BitVec.ofNat 64 (bits entry 0 48)) hidle
  have htr := (s.entered a role).trace_off htrace s.cur 1 (bits entry 56 5) (BitVec.ofNat 64 (bits entry 0 48)) 0
  have hlow : s.enterPair j h p wa wb entry path pond role =
      ((((s.entered a role).note s.cur (BitVec.ofNat 64 (bits entry 0 48))).trace s.cur 1 (bits entry 56 5)
        (BitVec.ofNat 64 (bits entry 0 48)) 0).sendPair (BitVec.ofNat 64 p.wire) (BitVec.ofNat 64 a.a) (BitVec.ofNat 64 a.b) entry).advance h := by
    unfold State.enterPair a pairAct
    dsimp only
    rw [← pairFirst]
    cases pairFirst p wa wb entry <;> rfl
  rw [hlow, hnote, htr]

/-- The activation runs: the level has gone on, and x10 to x13 await the wire, the nodes and the rule. -/
structure Entered (h : Head) (a : Activation) (s t : State) : Prop where
  past : Past h s t
  registers : Registers [] [] [] s t
  cores : SameCores s t
  inact : t.me.inact = true
  act : t.me.act = some a
  units : t = { s with cores := t.cores, agenda := t.agenda, ids := t.ids }
  owed : let n (v : Nat) : Word := BitVec.ofNat 64 v
    let land (r id : Nat) (w : Word) : Flight :=
      ⟨landChan s.cur s.me.lvl.val r, .resultLand s.cur s.me.lvl.val id s.pc (.regs [(BitVec.ofNat 6 r, w)])⟩
    t.agenda = s.agenda ++ [land 10 s.ids (n a.wire), land 11 (s.ids + 1) (n a.a), land 12 (s.ids + 2) (n a.b), land 13 (s.ids + 3) a.entry] ∧
    t.lev.out = s.lev.out ++ [⟨s.ids, 10, false⟩, ⟨s.ids + 1, 11, false⟩, ⟨s.ids + 2, 12, false⟩, ⟨s.ids + 3, 13, false⟩]

theorem State.entered_lev (s : State) (a : Activation) (role : Option TwinRole) :
    (s.entered a role).lev = { s.lev with entry := BitVec.ofNat 64 (bits a.entry 0 48) } := by
  have hlev : (s.upMe (·.enter a role)).lev = s.lev :=
    (congrArg (fun k : Core => k.lv[k.lvl]) (State.me_upMe s _)).trans rfl
  unfold State.entered
  rw [State.lev_upLev, hlev]

theorem State.enterPair_entered (s : State) (j : Job) (h : Head) (p : PondPair) (wa wb entry path : Word) (pond : Nat)
    (role : Option TwinRole) (htrace : s.hub.trace.getLsbD 63 = false) (hreplay : s.replaying s.me.colour = false) :
    Entered h (pairAct p wa wb entry path pond) s (s.enterPair j h p wa wb entry path pond role) := by
  rw [s.enterPair_eq j h p wa wb entry path pond role htrace hreplay]
  have hsent := (s.entered (pairAct p wa wb entry path pond) role).sendPair_spec (BitVec.ofNat 64 p.wire)
    (BitVec.ofNat 64 (pairAct p wa wb entry path pond).a) (BitVec.ofNat 64 (pairAct p wa wb entry path pond).b) entry
  generalize ha : pairAct p wa wb entry path pond = a at hsent ⊢
  generalize (s.entered a role).sendPair (BitVec.ofNat 64 p.wire) (BitVec.ofNat 64 a.a) (BitVec.ofNat 64 a.b) entry = u at hsent ⊢
  have hme := s.entered_me a role
  have hlev := s.entered_lev a role
  have hpc : (s.entered a role).pc = s.pc := (congrArg Level.pc hlev).trans rfl
  have hlvl : (s.entered a role).me.lvl = s.me.lvl := by rw [hme]; rfl
  have hfile : SameFile s.me (s.entered a role).me := by
    rw [hme]
    refine (SameFile.of_eq (k := s.me) (k' := s.me.enter a role) rfl rfl rfl rfl rfl).trans (SameFile.upLv _ _ ?_ ?_)
    · exact fun _ => rfl
    · exact fun _ => rfl
  have hadv := State.me_advance u h
  refine ⟨State.past_advance h ((congrArg Level.pc hsent.lev).trans hpc),
    (Registers.of_sameFile (hfile.trans hsent.file) _ _ _).trans (Registers.advance _ _ _ u h), fun c hc => ?_, ?_, ?_, ?_, ?_, ?_⟩
  · rw [State.core_advance_ne u h c (by rw [hsent.units]; exact hc), hsent.cores c hc]
    exact (State.core_upLev_ne (s.upMe (·.enter a role)) _ c hc).trans (State.core_upMe_ne s _ c hc)
  · rw [hadv, Core.upLv_inact, hsent.me, hme]
    rfl
  · rw [hadv, Core.upLv_act, hsent.me, hme]
    rfl
  · rw [show u.advance h = { u with cores := (u.advance h).cores } from rfl, hsent.units]
    rfl
  · have hwire : a.wire = p.wire := by rw [← ha]; exact pairAct_wire p wa wb entry path pond
    have hentry : a.entry = entry := by rw [← ha]; exact pairAct_entry p wa wb entry path pond
    rw [State.advance_agenda, hsent.agenda, hlvl, hpc, hwire, hentry]
    rfl
  · rw [State.lev_advance, hsent.lev, hlev]
    rfl

/-! ### The oldest pair and its nodes (R33, R282) -/

/-- The elements of word 0 of a pair's two nodes, which lie at two keys. -/
theorem Lies.nodes {s : State} {j : Job} {n0 n1 k0 k1 : Nat}
    (h0 : ∃ own cached walk, s.plan (j.nodeVa n0) 8 true = .go k0 own cached walk)
    (h1 : ∃ own cached walk, s.plan (j.nodeVa n1) 8 true = .go k1 own cached walk) :
    Lies [s.elem 0 (j.nodeVa n0) 8 true, s.elem 1 (j.nodeVa n1) 8 true] (fun n => if n = 0 then k0 else k1) := by
  rintro (_ | _ | n) hn
  · exact ⟨rfl, h0⟩
  · exact ⟨rfl, h1⟩
  · exact absurd hn (by simp)

/-- The state in which a pair has left the Pond and both its nodes are marked BUSY. -/
def State.pairMarked (s : State) (j : Job) (p : PondPair) (es : List Elem) : State :=
  ((s.startWalks es true).pondTake j s.cl p).putElems es
    [leBytes 8 (s.elemWord es 0 ||| nodeBusy).toNat, leBytes 8 (s.elemWord es 1 ||| nodeBusy).toNat]

/-- A core that has only walked, changed Ponds or written memory: its registers and its level are as before. -/
structure CoreKept (s u : State) : Prop where
  cur : u.cur = s.cur
  me : ∃ e, u.me = { s.me with evc := e }
  cores : SameCores s u
  hub : u.hub = s.hub

theorem CoreKept.sameFile {s u : State} (g : CoreKept s u) : SameFile s.me u.me := by
  obtain ⟨e, he⟩ := g.me
  rw [he]
  exact .of_eq rfl rfl rfl rfl rfl

theorem CoreKept.lev {s u : State} (g : CoreKept s u) : u.lev = s.lev := by
  obtain ⟨e, he⟩ := g.me
  exact (congrArg (fun k : Core => k.lv[k.lvl]) he).trans rfl

theorem CoreKept.pc {s u : State} (g : CoreKept s u) : u.pc = s.pc := congrArg Level.pc g.lev

theorem CoreKept.replaying {s u : State} (g : CoreKept s u) (h : s.replaying s.me.colour = false) : u.replaying u.me.colour = false := by
  obtain ⟨e, he⟩ := g.me
  have hcolour : u.me.colour = s.me.colour := by rw [he]; rfl
  unfold State.replaying at h ⊢
  rw [hcolour, g.hub]
  exact h

theorem PondOnly.core {s t : State} (h : PondOnly s t) (c : Nat) : t.core c = s.core c := by rw [h]; rfl
theorem PondOnly.me {s t : State} (h : PondOnly s t) : t.me = s.me := by rw [h]; rfl
theorem PondOnly.heldSlot {s t : State} (h : PondOnly s t) (key n : Nat) : t.heldSlot key n = s.heldSlot key n := by
  unfold State.heldSlot; simp only [h.core]
theorem PondOnly.replaying {s t : State} (h : PondOnly s t) (colour : Nat) : t.replaying colour = s.replaying colour := by
  unfold State.replaying; rw [h]

theorem State.pairMarked_spec (s : State) (j : Job) (p : PondPair) (es : List Elem) {key : Nat → Nat} (hes : Lies es key)
    (hlen : es.length = 2) (hapart : Apart s 2 8 key) (hwf : s.mem.wf = true) (hreplay : s.replaying s.me.colour = false)
    (hstalled : (s.cluster s.cl).stalled = []) : let u := s.pairMarked j p es
    CoreKept s u ∧ WordsWritten [s.peek64 (key 0) ||| 1 <<< 40, s.peek64 (key 1) ||| 1 <<< 40] key s u ∧
      (u.cluster s.cl).pond = (s.cluster s.cl).pond.erase p ∧ (u.cluster s.cl).rules = (s.cluster s.cl).rules := by
  have hwalk := s.startWalks_walked es true
  obtain ⟨honly, hpond, hrules⟩ := (s.startWalks es true).pondTake_spec j s.cl p (by rw [hwalk.cluster]; exact hstalled)
  have hwritten : Written [s.elemWord es 0 ||| nodeBusy, s.elemWord es 1 ||| nodeBusy] key _ (s.pairMarked j p es) :=
    ((s.startWalks es true).pondTake j s.cl p).putElems_written es _ hes hlen
    ⟨hapart.1, fun n hn => ((honly.heldSlot _ _).trans (hwalk.heldSlot _ _)).trans (hapart.2 n hn)⟩
    (by rw [honly, hwalk.mem]; exact hwf) (by rw [honly.replaying, honly.me, hwalk.replaying, hwalk.colour]; exact hreplay)
  have hmem : ((s.startWalks es true).pondTake j s.cl p).mem = s.mem := by rw [honly]; exact hwalk.mem
  rw [hes.elemWord s 0 (by omega), hes.elemWord s 1 (by omega)] at hwritten
  refine ⟨⟨?_, ?_, fun c hc => ?_, ?_⟩, hwritten.words.of_source hmem, ?_, ?_⟩
  · rw [hwritten.only.cur, honly]
    exact hwalk.cur
  · rw [hwritten.only.me, honly.me]
    exact hwalk.me
  · rw [hwritten.only.core, honly.core, hwalk.cores c hc]
  · rw [hwritten.only, honly, hwalk.units]
  · rw [hwritten.only.cluster, hpond, hwalk.cluster]
  · rw [hwritten.only.cluster, hrules, hwalk.cluster]

/-- A rule that the cluster's cache holds (R32). -/
theorem State.lookup_cached (s : State) (j : Job) (lo hi : Nat) {r : Nat × Nat × Word} (hhi : hi < 0xF07)
    (hr : (s.cluster s.cl).rules.find? (fun r => r.1 == lo && r.2.1 == hi) = some r) (hvalid : r.2.2.getLsbD 63 = true) :
    s.lookup j lo hi = .rule r.2.2 s := by
  unfold State.lookup
  rw [if_neg (Nat.not_le.2 hhi), hr]
  exact if_pos hvalid

/-- A node that is allocated, not busy and whose reserved bits are 0 (R26). -/
theorem node_idle {w : Word} (halloc : w.getLsbD 41 = true) (hbusy : w.getLsbD 40 = false) (hreserved : w &&& nodeReserved = 0) :
    (w &&& nodeAlloc == 0 || w &&& nodeBusy != 0 || w &&& nodeReserved != 0) = false := by
  have hset : w &&& nodeAlloc = nodeAlloc := by
    rw [show nodeAlloc = BitVec.twoPow 64 41 from rfl, BitVec.and_twoPow, halloc, if_pos rfl]
  have hclear : w &&& nodeBusy = 0 := by
    rw [show nodeBusy = BitVec.twoPow 64 40 from rfl, BitVec.and_twoPow, hbusy, if_neg Bool.false_ne_true]
    rfl
  rw [hset, hclear, hreserved]
  rfl

/-- PAIR and PAIRN with a pair that may run (R33, R282). -/
theorem State.pairStep_ready {s : State} {j : Job} {p : PondPair} {k0 k1 : Nat} {entry : Word} (g : PairReady s j p k0 k1 entry)
    (hentry : entry.getLsbD 62 = false) (h : Head) (idle : State → State) :
    s.pairStep h idle = (s.pairMarked j p (s.pairElems j p)).enterPair j h p (s.peek64 k0) (s.peek64 k1) entry 0 s.cl none := by
  obtain ⟨hjob, ⟨hpre, hending, hdet⟩, ⟨hlvl, hinact, hkept, hoffer⟩, hroom, ⟨hpond, hstalled⟩, ⟨hne, hapart, hplan0, hplan1⟩, hidle, hrule,
    hwf, hreplay, -⟩ := g
  obtain ⟨hhi, hvalid, r, hr, rfl⟩ := hrule
  have hes : s.pairElems j p = [s.elem 0 (j.nodeVa p.n0) 8 true, s.elem 1 (j.nodeVa p.n1) 8 true] := by
    unfold State.pairElems
    rw [hdet]
    rfl
  unfold State.pairStep
  rw [State.net_of_job hjob, if_neg (by simp [hlvl, hinact]), hroom, if_neg (by simp), if_neg (by simp [hpre, hending]), hkept]
  dsimp only
  unfold State.nextPair
  rw [hoffer]
  dsimp only
  rw [State.popPairs.eq_2, hpond]
  dsimp only
  generalize s.pairElems j p = es at hes ⊢
  have hlies : Lies es (fun n => if n = 0 then k0 else k1) := hes ▸ Lies.nodes hplan0 hplan1
  have hlen : es.length = 2 := by rw [hes]; rfl
  obtain ⟨hkept', -, -, hrules⟩ := s.pairMarked_spec j p es hlies hlen hapart hwf hreplay hstalled
  have hw0 : s.elemWord es 0 = s.peek64 k0 := hlies.elemWord s 0 (by omega)
  have hw1 : s.elemWord es 1 = s.peek64 k1 := hlies.elemWord s 1 (by omega)
  have hcl : (s.pairMarked j p es).cl = s.cl := State.cl_of_cur hkept'.cur
  have hfound : (s.pairMarked j p es).lookup j (Nat.min (nodeSym (s.peek64 k0)) (nodeSym (s.peek64 k1)))
      (Nat.max (nodeSym (s.peek64 k0)) (nodeSym (s.peek64 k1))) = .rule r.2.2 (s.pairMarked j p es) :=
    State.lookup_cached _ j _ _ hhi (by rw [hcl, hrules]; exact hr) hvalid
  have hpath : s.pairPath j es = 0 := by unfold State.pairPath; rw [hdet]; rfl
  have hclear : ∀ k ∈ [k0, k1], (s.peek64 k &&& nodeAlloc == 0 || s.peek64 k &&& nodeBusy != 0 || s.peek64 k &&& nodeReserved != 0) = false := by
    intro k hk
    obtain ⟨halloc, hbusy, hres⟩ := hidle k hk
    exact node_idle halloc hbusy hres
  have hmarked : ((s.startWalks es true).pondTake j s.cl p).putElems es
      [leBytes 8 (s.peek64 k0 ||| nodeBusy).toNat, leBytes 8 (s.peek64 k1 ||| nodeBusy).toNat] = s.pairMarked j p es := by
    unfold State.pairMarked
    rw [hw0, hw1]
  rw [hlies.vecPlan]
  dsimp only
  rw [hw0, hw1, if_neg (ne_true_of_eq_false (hclear k0 (List.mem_cons_self ..))), if_neg (ne_true_of_eq_false
    (Bool.or_eq_false_iff.2 ⟨hclear k1 (List.mem_cons_of_mem _ (List.mem_singleton_self _)), beq_false_of_ne hne⟩)), hmarked,
    hfound, hpath]
  dsimp only
  unfold State.runPair
  rw [hentry, hcl]
  rfl

/-- PAIR and PAIRN without a pair (R282). -/
theorem State.pairStep_empty {s : State} {j : Job} (hj : NetJob s j) (hlvl : s.me.lvl = 0) (hinact : s.me.inact = false)
    (hkept : s.me.kept = none) (hoffer : s.me.offer = []) (hroom : s.roomFor 4 = true) (hpond : s.pondFor j s.cur = none)
    (h : Head) (idle : State → State) : s.pairStep h idle = idle s := by
  unfold State.pairStep
  rw [State.net_of_job hj, if_neg (by simp [hlvl, hinact]), hroom, if_neg (by simp), hkept]
  split
  · rfl
  · dsimp only
    unfold State.nextPair
    rw [hoffer]
    dsimp only
    rw [State.popPairs.eq_2, hpond]

theorem State.pairStep_inside {s : State} {j : Job} (hj : NetJob s j) (hin : s.me.lvl ≠ 0 ∨ s.me.inact = true) (h : Head)
    (idle : State → State) : s.pairStep h idle = s.trap Code.ctxBad := by
  unfold State.pairStep
  rw [State.net_of_job hj, if_pos hin]

/-- Nothing but the core's results has changed once x10 to x13 await words. -/
theorem State.sendPair_advance (s : State) (h : Head) (wire a b entry : Word) : let t := (s.sendPair wire a b entry).advance h
    Past h s t ∧ Registers [] [] [] s t ∧ SameBytes s t ∧ SameCores s t := by
  have g := s.sendPair_spec wire a b entry
  intro t
  refine ⟨State.past_advance h ((congrArg Level.pc g.lev).trans rfl),
    (Registers.of_sameFile g.file _ _ _).trans (Registers.advance _ _ _ _ h), fun x => ?_, fun c hc => ?_⟩
  · have hmem : (s.sendPair wire a b entry).mem = s.mem := by rw [g.units]
    exact congrArg (·.read x) hmem
  · exact (State.core_advance_ne _ h c (by rw [g.units]; exact hc)).trans (g.cores c hc)

/-! ### RETIRE (R34, R288) -/

/-- The message that frees the wire, and those that release the shunts that the nodes were read through (R34, R41). -/
def retireItems (q : Activation) (w : Nat) : List TwinItem :=
  ⟨5, BitVec.ofNat 64 w, 0, 0⟩ :: ((if q.wa ≠ w then [⟨6, BitVec.ofNat 64 q.wa, 0, 0⟩] else []) ++
    (if q.wb ≠ w then [⟨6, BitVec.ofNat 64 q.wb, 0, 0⟩] else []))

/-- The flight of a message of the executing core. -/
def TwinItem.flight (i : TwinItem) (src : Nat) : Flight := ⟨netChan src i.event.1, i.event.2⟩

theorem wfree_flight {w : Nat} (h : w < 2 ^ 32) (src : Nat) :
    (⟨5, BitVec.ofNat 64 w, 0, 0⟩ : TwinItem).flight src = ⟨netChan src (weirOf w), .wfreeMessage (weirOf w) w⟩ := by
  have hw : bits (BitVec.ofNat 64 w) 0 32 = w := by rw [bits_low, BitVec.toNat_ofNat]; omega
  unfold TwinItem.flight TwinItem.event
  dsimp only
  rw [hw]
  rfl

theorem unref_flight {w : Nat} (h : w < 2 ^ 32) (src : Nat) :
    (⟨6, BitVec.ofNat 64 w, 0, 0⟩ : TwinItem).flight src = ⟨netChan src (weirOf w), .unref (weirOf w) w 0⟩ := by
  have hw : bits (BitVec.ofNat 64 w) 0 32 = w := by rw [bits_low, BitVec.toNat_ofNat]; omega
  unfold TwinItem.flight TwinItem.event
  dsimp only
  rw [hw]
  rfl

theorem State.netSend_acts (s : State) (src cl k : Nat) (i : TwinItem) :
    ((s.netSend src cl i).cluster k).acts = (s.cluster k).acts := by
  unfold State.netSend State.countSent
  rw [State.cluster_upCluster]
  split
  · next hk => rw [hk]; rfl
  · rfl

/-- No shunt is released where the node was read through the pair's own wire. -/
theorem unref_flights {v : Nat} (w : Nat) (hv : v < 2 ^ 32) (src : Nat) :
    (if v ≠ w then [(⟨6, BitVec.ofNat 64 v, 0, 0⟩ : TwinItem)] else []).map (·.flight src) =
      if v = w then [] else [⟨netChan src (weirOf v), .unref (weirOf v) v 0⟩] := by
  by_cases h : v = w
  · rw [if_neg (not_not_intro h), if_pos h, List.map_nil]
  · rw [if_pos h, if_neg h, List.map_singleton, unref_flight hv]

theorem retireItems_flights {q : Activation} {w : Nat} (hw : w < 2 ^ 32) (hwa : q.wa < 2 ^ 32) (hwb : q.wb < 2 ^ 32) (src : Nat) :
    (retireItems q w).map (·.flight src) = [⟨netChan src (weirOf w), .wfreeMessage (weirOf w) w⟩] ++
      (if q.wa = w then [] else [⟨netChan src (weirOf q.wa), .unref (weirOf q.wa) q.wa 0⟩]) ++
      (if q.wb = w then [] else [⟨netChan src (weirOf q.wb), .unref (weirOf q.wb) q.wb 0⟩]) := by
  unfold retireItems
  rw [List.map_cons, List.map_append, wfree_flight hw, unref_flights w hwa, unref_flights w hwb]
  rfl

/-- Messages that a core sends, one after the other (R39). -/
theorem State.sendItems (s : State) (l : List TwinItem) (htwin : s.me.twin = none) :
    let u := l.foldl (fun (u : State) i => u.coreItem i) s
    u.agenda = s.agenda ++ l.map (·.flight s.cur) ∧ u = { s with clusters := u.clusters, agenda := u.agenda } ∧
      (u.cluster s.cl).acts = (s.cluster s.cl).acts := by
  induction l generalizing s with
  | nil => exact ⟨by simp, rfl, rfl⟩
  | cons i l ih =>
    have hsend : s.coreItem i = s.netSend s.cur s.cl i := s.coreItem_eq i (by unfold State.inTwin; rw [htwin]; rfl)
    obtain ⟨hagenda, hunits, hacts⟩ := ih (s.netSend s.cur s.cl i) htwin
    rw [List.foldl_cons, hsend, List.map_cons]
    refine ⟨?_, hunits.trans rfl, hacts.trans ?_⟩
    · rw [hagenda, ← List.singleton_append, ← List.append_assoc]
      rfl
    · exact State.netSend_acts s s.cur s.cl s.cl i

theorem traps_retire {s : State} {j : Job} (hj : NetJob s j) (h : Head) (hbad : s.inAct = false ∨ s.me.bind.isSome = true) :
    Traps (.retire h) s Code.ctxBad := by
  have hnot : (!s.inAct) = true ∨ s.me.bind.isSome = true := hbad.imp_left fun h => by rw [h]; rfl
  change execRetire h s = _
  unfold execRetire
  rw [State.net_of_job hj]
  dsimp only
  cases s.me.act with
  | none => rfl
  | some q => exact congrArg _ (if_pos hnot)

theorem State.count_core (s : State) (c ev n : Nat) : ∃ e, (s.count c ev n).core c = { s.core c with evc := e } := by
  unfold State.count
  rw [State.core_upCore, if_pos rfl]
  exact ⟨_, rfl⟩

theorem State.count_core_ne (s : State) (c ev n c' : Nat) (h : c' ≠ c) : (s.count c ev n).core c' = s.core c' := by
  unfold State.count
  rw [State.core_upCore, if_neg h.symm]

/-- A core outside its activation. -/
def Core.left (k : Core) (role : Option TwinRole) : Core := { k with inact := false, act := none, twin := role }

/-- What is left of a core that leaves its activation and goes on. -/
theorem CoreKept.left {s v w : State} (g : CoreKept s v) (role : Option TwinRole) (hw : w.cores = (v.upMe (·.left role)).cores)
    (hcur : w.cur = v.cur) (h : Head) : let t := w.advance h
    Past h s t ∧ Registers [] [] [] s t ∧ SameCores s t ∧ t.me.inact = false ∧ t.me.act = none := by
  have hcore : ∀ c, w.core c = (v.upMe (·.left role)).core c := fun c => by unfold State.core; rw [hw]
  have hme : w.me = v.me.left role := by
    unfold State.me
    rw [hcur, hcore]
    exact State.me_upMe v _
  have hlev : w.lev = v.lev := (congrArg (fun k : Core => k.lv[k.lvl]) hme).trans rfl
  have hadv := State.me_advance w h
  refine ⟨State.past_advance h ((congrArg Level.pc hlev).trans g.pc), ?_, fun c hc => ?_, ?_, ?_⟩
  · refine (Registers.of_sameFile (g.sameFile.trans ?_) _ _ _).trans (Registers.advance _ _ _ w h)
    rw [hme]
    exact .of_eq rfl rfl rfl rfl rfl
  · rw [State.core_advance_ne w h c (by rw [hcur, g.cur]; exact hc), hcore, State.core_upMe_ne v _ c (by rw [g.cur]; exact hc)]
    exact g.cores c hc
  · rw [hadv, Core.upLv_inact, hme]
    rfl
  · rw [hadv, Core.upLv_act, hme]
    rfl

/-- The state in which the executing core has left its activation by RETIRE. -/
def State.retired (s : State) (l : List TwinItem) : State :=
  (((l.foldl (fun (u : State) i => u.coreItem i) s).count s.cur 4).upCluster s.cl (fun k => { k with acts := (k.acts + 1) % 2 ^ 48 })).upMe
    (·.left none)

theorem State.retired_spec (s : State) (h : Head) (l : List TwinItem) (htwin : s.me.twin = none) :
    let t := (s.retired l).advance h
    Past h s t ∧ Registers [] [] [] s t ∧ SameBytes s t ∧ SameCores s t ∧ t.me.inact = false ∧ t.me.act = none ∧
      (t.cluster s.cl).acts = ((s.cluster s.cl).acts + 1) % 2 ^ 48 ∧ t.agenda = s.agenda ++ l.map (·.flight s.cur) := by
  obtain ⟨hagenda, hunits, hacts⟩ := s.sendItems l htwin
  unfold State.retired
  generalize l.foldl (fun (u : State) i => u.coreItem i) s = u at hagenda hunits hacts ⊢
  have hcur : u.cur = s.cur := by rw [hunits]
  have hcore : ∀ c, u.core c = s.core c := fun c => by unfold State.core; rw [hunits]
  have hkept : CoreKept s ((u.count s.cur 4).upCluster s.cl (fun k => { k with acts := (k.acts + 1) % 2 ^ 48 })) := by
    refine ⟨hcur, ?_, fun c hc => ?_, ?_⟩
    · obtain ⟨e, he⟩ := u.count_core s.cur 4 1
      rw [hcore] at he
      exact ⟨e, (congrArg (u.count s.cur 4).core hcur).trans he⟩
    · exact (u.count_core_ne s.cur 4 1 c hc).trans (hcore c)
    · rw [show ((u.count s.cur 4).upCluster s.cl _).hub = u.hub from rfl, hunits]
  obtain ⟨hpast, hregs, hcores, hinact, hact⟩ := hkept.left none (w := (State.upCluster _ s.cl _).upMe (·.left none)) rfl rfl h
  refine ⟨hpast, hregs, fun a => ?_, hcores, hinact, hact, ?_, ?_⟩
  · exact congrArg (·.read a) (show u.mem = s.mem by rw [hunits])
  · have hcl := (State.cluster_upCluster (u.count s.cur 4) s.cl s.cl (fun k => { k with acts := (k.acts + 1) % 2 ^ 48 })).trans (if_pos rfl)
    exact (congrArg Cluster.acts hcl).trans (congrArg (fun n => (n + 1) % 2 ^ 48) hacts)
  · exact hagenda

section
variable {s : State} {j : Job} {q : Activation} (hj : NetJob s j) (hact : s.inAct = true) (hq : s.me.act = some q)
  (hbind : s.me.bind = none) (htwin : s.me.twin = none)
include hj hact hq hbind htwin

theorem exec_retire (h : Head) (htrace : s.hub.trace.getLsbD 63 = false) : exec (.retire h) s =
    .next (if 8 < s.backedUp s.cur then s.block .wire else
      (s.retired (retireItems q ((s.getX 10).toNat % 2 ^ 32))).advance h) := by
  have hroom : s.twinRoom (retireItems q (bits (s.getX 10) 0 32)).length = true := by
    unfold State.twinRoom
    rw [htwin]
  obtain ⟨-, hunits, -⟩ := s.sendItems (retireItems q (bits (s.getX 10) 0 32)) htwin
  have htr := State.trace_off (((retireItems q (bits (s.getX 10) 0 32)).foldl (fun (u : State) i => u.coreItem i) s).count s.cur 4)
    (by rw [hunits]; exact htrace) s.cur 2 (bits q.entry 56 5) (BitVec.ofNat 64 (bits q.entry 0 48)) 0
  rw [← bits_low]
  change execRetire h s = _
  unfold execRetire
  dsimp only
  rw [State.net_of_job hj, hq]
  dsimp only
  rw [if_neg (by simp [hact, hbind])]
  unfold retireItems at htr hroom ⊢
  rw [hroom, if_neg (by simp), htr, htwin]
  rfl

end

/-! ### YIELDP (R283) -/

theorem traps_yieldp {s : State} {j : Job} {q : Activation} (hj : NetJob s j) (hq : s.me.act = some q) (h : Head)
    (hbad : s.inAct = false ∨ q.dirty = true ∨ s.inTwin = true) : Traps (.yieldp h) s Code.ctxBad := by
  have hnot : (!s.inAct) = true ∨ q.dirty = true ∨ s.inTwin = true := hbad.imp_left fun h => by rw [h]; rfl
  change execYieldp h s = _
  unfold execYieldp
  rw [State.net_of_job hj, hq]
  exact congrArg _ (if_pos hnot)

/-- The state in which the executing core has left its activation and given the pair back. -/
def State.yielded (s : State) (j : Job) (q : Activation) (es : List Elem) : State :=
  (((s.startWalks es true).putElems es [leBytes 8 (s.elemWord es 0 &&& ~~~nodeBusy).toNat, leBytes 8 (s.elemWord es 1 &&& ~~~nodeBusy).toNat]).upMe
    (fun k => k.left k.twin)).pondPush j q.pond q.pair

theorem exec_yieldp {s : State} {j : Job} {q : Activation} {k0 k1 : Nat} (hj : NetJob s j) (hq : s.me.act = some q) (hact : s.inAct = true)
    (htwin : s.inTwin = false) (hdirty : q.dirty = false) (hroom : (s.cluster q.pond).pond.length < 16384)
    (hlies : Lies [s.elem 0 (j.nodeVa q.pair.n0) 8 true, s.elem 1 (j.nodeVa q.pair.n1) 8 true] (fun n => if n = 0 then k0 else k1)) (h : Head) :
    exec (.yieldp h) s = .next ((s.yielded j q [s.elem 0 (j.nodeVa q.pair.n0) 8 true, s.elem 1 (j.nodeVa q.pair.n1) 8 true]).advance h) := by
  have hwait : s.spillWaits j q.pond 1 = false := by
    unfold State.spillWaits pondHeld
    dsimp only
    rw [decide_eq_false (by omega)]
    rfl
  change execYieldp h s = _
  unfold execYieldp
  rw [State.net_of_job hj, hq]
  dsimp only
  rw [if_neg (by simp [hact, htwin, hdirty]), hwait, if_neg Bool.false_ne_true, State.access_of_lies s h true none _ _ hlies]
  rfl

theorem State.yielded_spec {s : State} (j : Job) (q : Activation) {es : List Elem} {key : Nat → Nat} (hes : Lies es key)
    (hlen : es.length = 2) (hapart : Apart s 2 8 key) (hwf : s.mem.wf = true) (hreplay : s.replaying s.me.colour = false)
    (hstalled : (s.cluster q.pond).stalled = []) (hroom : (s.cluster q.pond).pond.length < 16384) (h : Head) :
    let t := (s.yielded j q es).advance h
    Past h s t ∧ Registers [] [] [] s t ∧ SameCores s t ∧ t.me.inact = false ∧ t.me.act = none ∧
      WordsWritten [s.peek64 (key 0) &&& ~~~((1 : Word) <<< 40), s.peek64 (key 1) &&& ~~~((1 : Word) <<< 40)] key s t ∧
      (t.cluster q.pond).pond = (s.cluster q.pond).pond ++ [q.pair] := by
  obtain ⟨hwalk, hwritten, hwords⟩ := s.accessed_written es
    [s.elemWord es 0 &&& ~~~nodeBusy, s.elemWord es 1 &&& ~~~nodeBusy] hes hlen hapart hwf hreplay
  rw [hes.elemWord s 0 (by omega), hes.elemWord s 1 (by omega)] at hwritten hwords
  have hyield : s.yielded j q es = ((s.accessed es [s.peek64 (key 0) &&& ~~~nodeBusy, s.peek64 (key 1) &&& ~~~nodeBusy]).upMe
      (fun k => k.left k.twin)).pondPush j q.pond q.pair := by
    unfold State.yielded State.accessed
    rw [hes.elemWord s 0 (by omega), hes.elemWord s 1 (by omega)]
    rfl
  generalize s.accessed es [s.peek64 (key 0) &&& ~~~nodeBusy, s.peek64 (key 1) &&& ~~~nodeBusy] = u at hwritten hwords hyield
  have hcluster : (u.upMe (fun k => k.left k.twin)).cluster q.pond = s.cluster q.pond :=
    (hwritten.only.cluster q.pond).trans (hwalk.cluster q.pond)
  have hkept : CoreKept s u := by
    refine ⟨hwritten.only.cur.trans hwalk.cur, ?_, fun c hc => (hwritten.only.core c).trans (hwalk.cores c hc), ?_⟩
    · rw [hwritten.only.me]
      exact hwalk.me
    · rw [hwritten.only, hwalk.units]
  have honly := State.pondPush_only (u.upMe (fun k => k.left k.twin)) j q.pond q.pair (by rw [hcluster]; exact hstalled)
    (by rw [hcluster]; exact hroom)
  have hpond := State.pondPush_pond (u.upMe (fun k => k.left k.twin)) j q.pond q.pair (by rw [hcluster]; exact hstalled)
    (by rw [hcluster]; exact hroom)
  rw [hcluster] at hpond
  rw [hyield]
  generalize (u.upMe (fun k => k.left k.twin)).pondPush j q.pond q.pair = w at honly hpond
  obtain ⟨hpast, hregs, hcores, hinact, hact⟩ := hkept.left u.me.twin (w := w) (by rw [honly]; rfl) (by rw [honly]; rfl) h
  exact ⟨hpast, hregs, hcores, hinact, hact, hwords.of_mem (by rw [show (w.advance h).mem = w.mem from rfl, honly]; rfl), hpond⟩

/-- A pair that may run is taken, and the core enters its activation (R33, R282). -/
theorem PairReady.entered {s : State} {j : Job} {p : PondPair} {k0 k1 : Nat} {entry : Word} (g : PairReady s j p k0 k1 entry)
    (hentry : entry.getLsbD 62 = false) (h : Head) : ∃ u t, CoreKept s u ∧
      WordsWritten [s.peek64 k0 ||| 1 <<< 40, s.peek64 k1 ||| 1 <<< 40] (fun n => if n = 0 then k0 else k1) s u ∧
      (u.cluster s.cl).pond = (s.cluster s.cl).pond.erase p ∧
      Entered h (pairAct p (s.peek64 k0) (s.peek64 k1) entry 0 s.cl) u t ∧ ∀ idle, s.pairStep h idle = t := by
  have heq := State.pairStep_ready g hentry h
  obtain ⟨-, ⟨-, -, hdet⟩, -, -, ⟨-, hstalled⟩, ⟨-, hapart, hplan0, hplan1⟩, -, -, hwf, hreplay, htrace⟩ := g
  have hes : s.pairElems j p = [s.elem 0 (j.nodeVa p.n0) 8 true, s.elem 1 (j.nodeVa p.n1) 8 true] := by
    unfold State.pairElems
    rw [hdet]
    rfl
  obtain ⟨hkept, hwords, hpond, -⟩ := s.pairMarked_spec j p (s.pairElems j p) (hes ▸ Lies.nodes hplan0 hplan1) (by rw [hes]; rfl) hapart hwf
    hreplay hstalled
  exact ⟨_, _, hkept, hwords, hpond, State.enterPair_entered _ j h p _ _ entry 0 s.cl none (by rw [hkept.hub]; exact htrace)
    (hkept.replaying hreplay), heq⟩

end Sys2Proof.Machine

namespace Sys2Proof.Proofs
open Sys2Proof.Machine

/-- Settles O39: a pair is taken by marking its nodes and entering its activation; RETIRE sends what the activation leaves behind
and YIELDP undoes the marks. -/
theorem activationsRun : Obligations.ActivationsRun := by
  unfold Obligations.ActivationsRun
  refine ⟨⟨fun h s j p k0 k1 entry g hentry => ?_, fun h s j hj hlvl hinact hkept hoffer hroom hpond => ?_, fun h s j hj hin => ?_⟩,
    fun h s j q hj hact hq hbind htwin htrace => ⟨fun hback => ?_, fun hback hwa hwb => ?_⟩, fun h s j hj hbad => traps_retire hj h hbad,
    fun h s j q k0 k1 hj hact htwin hq hdirty hwf hreplay hapart hplan0 hplan1 hstalled hroom => ?_,
    fun h s j q hj hq hbad => traps_yieldp hj hq h hbad⟩
  · obtain ⟨u, t, hkept, hwords, hpond, he, hstep⟩ := g.entered hentry h
    intro wa wb sa sb low first Taken
    have hfirst : pairFirst p wa wb entry = true ↔ first := pairFirst_iff p wa wb entry
    have htaken : Taken t := by
      refine ⟨he.past.trans (congrArg (· + BitVec.ofNat 64 h.len) hkept.pc),
        (Registers.of_sameFile hkept.sameFile _ _ _).trans he.registers,
        fun c hc => (he.cores c (by rw [hkept.cur]; exact hc)).trans (hkept.cores c hc), he.inact, fun hf => ?_, fun hf => ?_, ?_, ?_,
        u.agenda, u.ids, ?_⟩
      · rw [he.act, pairAct, if_pos (hfirst.2 hf), bits_low, bits_low]
      · rw [he.act, pairAct, if_neg (fun h => hf (hfirst.1 h)), bits_low, bits_low]
      · exact hwords.of_mem (by rw [he.units])
      · rw [he.units]
        exact hpond
      · obtain ⟨hagenda, hout⟩ := he.owed
        rw [hkept.cur, hkept.sameFile.lvl, hkept.pc, pairAct_wire, pairAct_entry] at hagenda
        rw [hkept.lev] at hout
        rw [he.act]
        exact ⟨hagenda, hout⟩
    exact ⟨⟨t, congrArg Host.Outcome.next (hstep _), htaken⟩, ⟨t, congrArg Host.Outcome.next (hstep _), htaken⟩⟩
  · refine ⟨Runs.of_block (congrArg Host.Outcome.next (State.pairStep_empty hj hlvl hinact hkept hoffer hroom hpond h _)),
      _, congrArg Host.Outcome.next (State.pairStep_empty hj hlvl hinact hkept hoffer hroom hpond h _), ?_⟩
    have g := s.sendPair_spec 0 0 0 0
    obtain ⟨hpast, hregs, hbytes, hcores⟩ := s.sendPair_advance h 0 0 0 0
    exact ⟨hpast, hregs, hbytes, hcores, g.agenda, (congrArg Level.out (State.lev_advance _ h)).trans (congrArg Level.out g.lev)⟩
  · exact ⟨congrArg Host.Outcome.next (State.pairStep_inside hj hin h _), congrArg Host.Outcome.next (State.pairStep_inside hj hin h _)⟩
  · exact ⟨_, (exec_retire hj hact hq hbind htwin h htrace).trans (congrArg _ (if_pos hback)), State.pc_block _ _ _,
      by rw [State.lev_block]; rfl, Frame.block _ _ _⟩
  · obtain ⟨hpast, hregs, hbytes, hcores, hin, hnone, hacts, hagenda⟩ := s.retired_spec h (retireItems q ((s.getX 10).toNat % 2 ^ 32)) htwin
    refine ⟨_, (exec_retire hj hact hq hbind htwin h htrace).trans (congrArg _ (if_neg (Nat.not_lt.2 hback))), hpast, hregs, hbytes, hcores,
      hin, hnone, hacts, hagenda.trans ?_⟩
    rw [retireItems_flights (Nat.mod_lt _ (by decide)) hwa hwb, ← List.append_assoc, ← List.append_assoc]
  · have hlies := Lies.nodes (s := s) hplan0 hplan1
    exact ⟨_, exec_yieldp hj hq hact htwin hdirty hroom hlies h, State.yielded_spec j q hlies rfl hapart hwf hreplay hstalled hroom h⟩

end Sys2Proof.Proofs

end

section
/-! SUPPORT. Accesses of a unit to records whose translation the cluster's TLB holds, with nothing in the way (R39, R79). -/

namespace Sys2Proof.Machine

/-! ### Nothing in the way -/

theorem State.settle_undamaged {s : State} (h : s.damage = []) (key n : Nat) : s.settle key n = s := by
  unfold State.settle State.badStripes
  rw [h]
  rfl

theorem State.settleBlock_undamaged {s : State} (h : s.damage = []) (colour key : Nat) : s.settleBlock colour key = s := by
  unfold State.settleBlock
  split
  · exact s.settle_undamaged h _ _
  · rfl

/-- What a translation needs of a state: the TLB of the cluster and the hub. -/
structure SameSight (cl : Nat) (s u : State) : Prop where
  tlb : (u.cluster cl).tlb = (s.cluster cl).tlb
  hub : u.hub = s.hub

theorem SameSight.refl (cl : Nat) (s : State) : SameSight cl s s := ⟨rfl, rfl⟩

theorem SameSight.trans {cl : Nat} {s t u : State} (h : SameSight cl s t) (g : SameSight cl t u) : SameSight cl s u :=
  ⟨g.tlb.trans h.tlb, g.hub.trans h.hub⟩

/-- A hit of the TLB is a hit in every state with the same TLB (R79). -/
theorem SameSight.translate {cl : Nat} {s u : State} (h : SameSight cl s u) {root va : Word} {sup wr : Bool} {p : Phys}
    (hp : s.translate cl root sup va wr = (.ok p, false)) : u.translate cl root sup va wr = (.ok p, false) := by
  have hnot : ∀ {x : Except Nat Phys}, (x, true) ≠ (Except.ok (ε := Nat) p, false) := fun e => Bool.noConfusion (Prod.mk.inj e).2
  unfold State.translate at hp ⊢
  dsimp only at hp ⊢
  rw [h.tlb]
  split at hp
  · split at hp
    · split at hp <;> exact absurd hp hnot
    · next hd => rw [if_neg hd]; exact hp
  · split at hp <;> exact absurd hp hnot

theorem UnitSees.of_sight {s u : State} {j : Job} {cl : Nat} {va : Word} {key : Nat} (g : UnitSees s j cl va key) (h : SameSight cl s u) :
    UnitSees u j cl va key := by
  obtain ⟨hplace, hkey, htr⟩ := g
  refine ⟨hplace, hkey, fun wr => ?_⟩
  obtain ⟨p, hp, hpa⟩ := htr wr
  exact ⟨p, h.translate hp, hpa⟩

/-- The address of a record that a unit sees is no sign of an access that waits. -/
theorem UnitSees.ne_netWait {s : State} {j : Job} {cl : Nat} {va : Word} {key : Nat} (g : UnitSees s j cl va key) : va ≠ netWait := by
  rintro rfl
  exact absurd g.1 (by decide)

theorem State.unitAt_sees {s : State} {j : Job} {cl : Nat} {va : Word} {key : Nat} (g : UnitSees s j cl va key)
    (hu : Undisturbed s (j.root.toNat % 4096)) (n : Nat) (wr : Bool) : ∃ cached, s.unitAt (j.ctx cl) va n wr = .ok (s, key, cached) := by
  obtain ⟨hplace, hkey, htr⟩ := g
  obtain ⟨-, hdamage, hpoison, -⟩ := hu
  obtain ⟨p, hp, rfl⟩ := htr wr
  have hlow : decide (2 ^ 47 ≤ p.pa) = false := decide_eq_false (by omega)
  have hwaits : s.hostWaits p.pa = false := by unfold State.hostWaits; rw [hlow]; rfl
  have hlost : s.hostLost p.pa = false := by unfold State.hostLost; rw [hlow]; rfl
  have hclean : s.poisoned p.pa n = false := by unfold State.poisoned; rw [hpoison]; rfl
  refine ⟨p.mt == 0, ?_⟩
  unfold State.unitAt Job.ctx
  rw [hplace]
  dsimp only
  rw [hp]
  dsimp only
  rw [hwaits, if_neg Bool.false_ne_true, if_neg Bool.false_ne_true, s.settle_undamaged hdamage]
  cases wr <;> simp only [if_true, Bool.false_eq_true, if_false, hlost, hclean, Bool.false_and]

theorem State.unitLoad_sees {s : State} {j : Job} {cl : Nat} {va : Word} {key : Nat} (g : UnitSees s j cl va key)
    (hu : Undisturbed s (j.root.toNat % 4096)) (n : Nat) : s.unitLoad (j.ctx cl) va n = .ok (s, s.peek key n) := by
  obtain ⟨cached, hat⟩ := State.unitAt_sees g hu n false
  unfold State.unitLoad
  rw [hat]

/-- Bytes stand at a key, and of the rest of the state only what is known of memory's lines has changed. -/
structure UnitStored (key : Nat) (bs : List Byte) (s t : State) : Prop where
  only : MemoryOnly s t
  mem : t.mem = s.mem.writeBytes key bs
  damage : s.damage = [] → t.damage = []
  poison : s.poison = [] → t.poison = []

theorem State.unitStore_sees {s : State} {j : Job} {cl : Nat} {va : Word} {key : Nat} (g : UnitSees s j cl va key)
    (hu : Undisturbed s (j.root.toNat % 4096)) (bs : List Byte) : ∃ t, s.unitStore (j.ctx cl) va bs = .ok t ∧ UnitStored key bs s t := by
  obtain ⟨cached, hat⟩ := State.unitAt_sees g hu bs.length true
  obtain ⟨-, hkey, -⟩ := g
  obtain ⟨-, hdamage, -, hreplay⟩ := hu
  have hlost : s.hostLost key = false := by unfold State.hostLost; rw [decide_eq_false (by omega)]; rfl
  have hidle : s.capture (j.root.toNat % 4096) key = s := (s.capture_spec _ key).idle hreplay
  refine ⟨s.poke key bs cached, ?_, rfl, rfl, fun h => ?_, fun h => ?_⟩
  · unfold State.unitStore
    rw [hat]
    dsimp only
    rw [hlost, if_neg Bool.false_ne_true, s.settleBlock_undamaged hdamage]
    exact congrArg (fun u : State => Except.ok (u.poke key bs cached)) hidle
  · change clearDamage s.damage key bs.length = []
    rw [h]
    rfl
  · change (if s.poison.isEmpty then s.poison else _) = []
    rw [h]
    rfl

end Sys2Proof.Machine
end

section
/-! SUPPORT. What a Weir does with the messages about wires and nodes (R36, R41 to R43, R64, R284). -/

namespace Sys2Proof.Machine

/-! ### Records in memory (R26, R28) -/

theorem leVal_append (a b : List Byte) : leVal (a ++ b) = leVal a + 256 ^ a.length * leVal b := by
  induction a with
  | nil => simp [leVal]
  | cons x a ih => rw [List.cons_append, leVal, leVal, ih, List.length_cons, Nat.pow_succ]; ring

/-- A word below others in a record. -/
theorem leVal_word (w : Word) (b : List Byte) : leVal (leBytes 8 w.toNat ++ b) = w.toNat + 2 ^ 64 * leVal b := by
  rw [leVal_append, leBytes_length, leVal_leBytes, show (256 : Nat) ^ 8 = 2 ^ 64 from rfl, Nat.mod_eq_of_lt w.isLt]

theorem ofNat_low (w : Word) (n : Nat) : BitVec.ofNat 64 (w.toNat + 2 ^ 64 * n) = w := by
  apply BitVec.eq_of_toNat_eq
  rw [BitVec.toNat_ofNat, Nat.add_mul_mod_self_left, Nat.mod_eq_of_lt w.isLt]

theorem high_of_word (w : Word) (n : Nat) : (w.toNat + 2 ^ 64 * n) / 2 ^ 64 = n := by
  rw [Nat.add_mul_div_left _ _ (by decide), Nat.div_eq_of_lt w.isLt, Nat.zero_add]

theorem WireRec.ofNat_bytes (r : WireRec) : WireRec.ofNat (leVal r.bytes) = r := by
  have hlast : leVal (leBytes 8 r.w3.toNat) = r.w3.toNat + 2 ^ 64 * 0 := by
    rw [← List.append_nil (leBytes 8 r.w3.toNat), leVal_word]
    rfl
  unfold WireRec.bytes
  rw [List.append_assoc, List.append_assoc, leVal_word, leVal_word, leVal_word, hlast]
  unfold WireRec.ofNat
  rw [show (2 : Nat) ^ 128 = 2 ^ 64 * 2 ^ 64 from rfl, show (2 : Nat) ^ 192 = 2 ^ 64 * 2 ^ 64 * 2 ^ 64 from rfl,
    ← Nat.div_div_eq_div_mul, ← Nat.div_div_eq_div_mul, ← Nat.div_div_eq_div_mul, high_of_word, high_of_word, high_of_word, ofNat_low,
    ofNat_low, ofNat_low, ofNat_low]

theorem WireRec.bytes_length (r : WireRec) : r.bytes.length = 32 := by
  unfold WireRec.bytes
  rw [List.length_append, List.length_append, List.length_append, leBytes_length, leBytes_length, leBytes_length, leBytes_length]

/-- A record reads back where it has been written. -/
theorem record_of_writeBytes {s t : State} {key : Nat} {r : WireRec} (hwf : s.mem.wf = true) (h : t.mem = s.mem.writeBytes key r.bytes) :
    WireRec.ofNat (t.peek key 32) = r := by
  have hb := Memory.bytes_writeBytes key r.bytes hwf
  rw [WireRec.bytes_length] at hb
  unfold State.peek
  rw [h, hb, WireRec.ofNat_bytes]

/-- No byte but those written has changed. -/
theorem SameBut.of_writeBytes {s t : State} {key : Nat} {bs : List Byte} (hwf : s.mem.wf = true)
    (h : t.mem = s.mem.writeBytes key bs) : SameBut key bs.length s t := fun a ha => by
  rw [h]
  exact Memory.read_writeBytes_out _ _ _ hwf ha

/-! ### Accesses of a Weir -/

/-- The state `u`, reached from `s`, in which the Weir of `cl` sees what it saw in `s`, with nothing in its way. -/
structure Calm (j : Job) (cl : Nat) (s u : State) : Prop where
  sight : SameSight cl s u
  still : Undisturbed u (j.root.toNat % 4096)

theorem Calm.stored {j : Job} {cl key : Nat} {bs : List Byte} {s u t : State} (c : Calm j cl s u) (h : UnitStored key bs u t) :
    Calm j cl s t := by
  obtain ⟨hwf, hdamage, hpoison, hreplay⟩ := c.still
  refine ⟨c.sight.trans ⟨by rw [h.only.cluster], by rw [h.only]⟩, ?_, h.damage hdamage, h.poison hpoison,
    (h.only.replaying _).trans hreplay⟩
  rw [h.mem]
  exact Memory.wf_writeBytes _ _ hwf

section
variable {j : Job} {cl : Nat} {s u : State} (c : Calm j cl s u)
include c

theorem Calm.loadWire {w key : Nat} (g : UnitSees s j cl (j.wireVa w) key) (hgood : (WireRec.ofNat (u.peek key 32)).good = true) :
    u.loadWire j cl w = .ok (u, WireRec.ofNat (u.peek key 32)) := by
  unfold State.loadWire
  rw [State.unitLoad_sees (g.of_sight c.sight) c.still 32]
  exact if_pos hgood

theorem Calm.loadWire_bad {w key : Nat} (g : UnitSees s j cl (j.wireVa w) key) (hbad : (WireRec.ofNat (u.peek key 32)).good = false) :
    u.loadWire j cl w = .error (j.wireVa w) := by
  unfold State.loadWire
  rw [State.unitLoad_sees (g.of_sight c.sight) c.still 32]
  exact if_neg (by rw [hbad]; exact Bool.false_ne_true)

theorem Calm.storeWire {w key : Nat} (g : UnitSees s j cl (j.wireVa w) key) (r : WireRec) :
    ∃ t, u.storeWire j cl w r = .ok t ∧ UnitStored key r.bytes u t := by
  obtain ⟨t, ht, hs⟩ := State.unitStore_sees (g.of_sight c.sight) c.still r.bytes
  refine ⟨t, ?_, hs⟩
  unfold State.storeWire
  rw [ht]

theorem Calm.loadNode {n k key : Nat} (g : UnitSees s j cl (j.nodeVa n k) key) : u.loadNode j cl n k = .ok (u, u.peek64 key) := by
  unfold State.loadNode
  rw [State.unitLoad_sees (g.of_sight c.sight) c.still 8]
  rfl

theorem Calm.storeNode {n k key : Nat} (g : UnitSees s j cl (j.nodeVa n k) key) (v : Word) :
    ∃ t, u.storeNode j cl n k v = .ok t ∧ UnitStored key (leBytes 8 v.toNat) u t := by
  obtain ⟨t, ht, hs⟩ := State.unitStore_sees (g.of_sight c.sight) c.still (leBytes 8 v.toNat)
  refine ⟨t, ?_, hs⟩
  unfold State.storeNode
  rw [ht]

end

/-! ### Messages that a Weir handles (R41, R63) -/

/-- The state in which a Weir has counted a message. -/
def State.counted (s : State) (cl : Nat) : State := (s.countRecv cl).upCluster cl (fun k => { k with msgs := k.msgs + 1 })

theorem State.counted_cluster (s : State) (cl : Nat) : (s.counted cl).cluster cl =
    { s.cluster cl with recv := ((s.cluster cl).recv + 1) % 2 ^ 32, msgs := (s.cluster cl).msgs + 1 } := by
  unfold State.counted State.countRecv
  rw [State.cluster_upCluster, if_pos rfl, State.cluster_upCluster, if_pos rfl]

theorem State.counted_calm {s : State} {j : Job} (cl : Nat) (hu : Undisturbed s (j.root.toNat % 4096)) : Calm j cl s (s.counted cl) :=
  ⟨⟨by rw [State.counted_cluster], rfl⟩, hu⟩

theorem State.counted_jobAt (s : State) (cl : Nat) : (s.counted cl).jobAt cl = s.jobAt cl := by
  unfold State.jobAt
  rw [State.counted_cluster]
  rfl

theorem State.weir_ok {s t : State} {j : Job} {cl i : Nat} {f : Job → State → Except Word State} (hj : s.jobAt cl = some j)
    (h : f j (s.counted cl) = .ok t) : s.weir cl i f = t := by
  have hjob := (s.counted_jobAt cl).trans hj
  unfold State.counted at h hjob
  unfold State.weir
  dsimp only
  rw [hjob]
  dsimp only
  rw [h]

theorem State.weir_error {s : State} {j : Job} {cl i : Nat} {va : Word} {f : Job → State → Except Word State} (hj : s.jobAt cl = some j)
    (h : f j (s.counted cl) = .error va) (hva : va ≠ netWait) : s.weir cl i f = (s.counted cl).corrupt j cl unitWeir (16 * cl) va i := by
  have hjob := (s.counted_jobAt cl).trans hj
  unfold State.counted at h hjob
  unfold State.weir
  dsimp only
  rw [hjob]
  dsimp only
  rw [h]
  exact if_neg hva

theorem State.counted_spent (s : State) (cl w e : Nat) : (s.counted cl).spent cl w e = s.spent cl w e := by
  unfold State.spent
  rw [State.counted_cluster]

/-! ### Records that fail the check of a message (R41, R398) -/

section
variable {s : State} {j : Job} {cl w key : Nat} (hj : s.jobAt cl = some j) (g : UnitSees s j cl (j.wireVa w) key)
  (hu : Undisturbed s (j.root.toNat % 4096))

include g hu

theorem load_counted (hgood : (WireRec.ofNat (s.peek key 32)).good = true) :
    (s.counted cl).loadWire j cl w = .ok (s.counted cl, WireRec.ofNat (s.peek key 32)) := (State.counted_calm cl hu).loadWire g hgood

theorem load_counted_bad (hbad : (WireRec.ofNat (s.peek key 32)).good = false) :
    (s.counted cl).loadWire j cl w = .error (j.wireVa w) := (State.counted_calm cl hu).loadWire_bad g hbad

include hj

/-- A message about a wire whose record is good, as the message handles it (`k`). -/
theorem exec_of_record {i : Instr} {t : State} {k : Job → State × WireRec → Except Word State}
    (hgood : (WireRec.ofNat (s.peek key 32)).good = true)
    (hi : exec i s = .next (s.weir cl w fun j s => s.loadWire j cl w >>= k j))
    (hk : k j (s.counted cl, WireRec.ofNat (s.peek key 32)) = .ok t) : exec i s = .next t := by
  refine hi.trans (congrArg Host.Outcome.next (State.weir_ok hj ?_))
  rw [load_counted g hu hgood]
  exact hk

/-- A record that the message refuses, or that is not good itself. -/
theorem recordBad_of_record {i : Instr} {k : Job → State × WireRec → Except Word State}
    (hi : exec i s = .next (s.weir cl w fun j s => s.loadWire j cl w >>= k j))
    (hk : (WireRec.ofNat (s.peek key 32)).good = true →
      k j (s.counted cl, WireRec.ofNat (s.peek key 32)) = .error (j.wireVa w)) : RecordBad i j cl w s := by
  refine hi.trans (congrArg Host.Outcome.next (State.weir_error hj ?_ g.ne_netWait))
  cases hgood : (WireRec.ofNat (s.peek key 32)).good with
  | false =>
    rw [load_counted_bad g hu hgood]
    rfl
  | true =>
    rw [load_counted g hu hgood]
    exact hk hgood

/-- A message that a free wire refuses, and a shunt for the end that its SPLICE consumed. -/
def refused (s : State) (cl w e : Nat) (r : WireRec) : Prop := r.st = 0 ∨ (r.st = 2 ∧ s.spent cl w e = true)

theorem recordBad_setend {e : Nat} {p : Word} (h : (WireRec.ofNat (s.peek key 32)).good = false ∨ (WireRec.ofNat (s.peek key 32)).st ≠ 1 ∨
    isOpen ((WireRec.ofNat (s.peek key 32)).ends e) = false) : RecordBad (.setend cl w e p) j cl w s := by
  refine recordBad_of_record hj g hu rfl fun hgood => ?_
  dsimp only [bind, Except.bind]
  rw [if_pos ((h.resolve_left (by rw [hgood]; nofun)).imp_right fun h => by rw [h]; rfl)]
  rfl

theorem recordBad_replace {e : Nat} {p : Word} (h : (WireRec.ofNat (s.peek key 32)).good = false ∨
    refused s cl w e (WireRec.ofNat (s.peek key 32))) : RecordBad (.replace cl w e p) j cl w s := by
  refine recordBad_of_record hj g hu rfl fun hgood => ?_
  dsimp only [bind, Except.bind]
  rw [State.counted_spent]
  obtain h | ⟨h, hs⟩ := h.resolve_left (by rw [hgood]; nofun)
  · rw [h, if_neg (by decide), if_neg (by simp)]; rfl
  · rw [h, hs, if_neg (by decide), if_neg (by decide)]; rfl

theorem recordBad_adopt {e : Nat} {p : Word} (h : (WireRec.ofNat (s.peek key 32)).good = false ∨
    refused s cl w e (WireRec.ofNat (s.peek key 32))) : RecordBad (.adopt cl w e p) j cl w s := by
  refine recordBad_of_record hj g hu rfl fun hgood => ?_
  dsimp only [bind, Except.bind]
  rw [State.counted_spent]
  obtain h | ⟨h, hs⟩ := h.resolve_left (by rw [hgood]; nofun)
  · rw [h, if_neg (by decide), if_neg (by simp)]; rfl
  · rw [h, hs, if_neg (by decide), if_neg (by decide)]; rfl

theorem recordBad_splice {e w2 e2 : Nat} (h : (WireRec.ofNat (s.peek key 32)).good = false ∨
    refused s cl w e (WireRec.ofNat (s.peek key 32))) : RecordBad (.splice cl w e w2 e2) j cl w s := by
  refine recordBad_of_record hj g hu rfl fun hgood => ?_
  dsimp only [bind, Except.bind]
  rw [State.counted_spent]
  obtain h | ⟨h, hs⟩ := h.resolve_left (by rw [hgood]; nofun)
  · rw [h, if_neg (by decide), if_pos (by decide)]; rfl
  · rw [h, if_pos rfl, if_pos hs]; rfl

theorem recordBad_unref {d : Nat} (h : (WireRec.ofNat (s.peek key 32)).good = false ∨ (WireRec.ofNat (s.peek key 32)).st ≠ 2) :
    RecordBad (.unref cl w d) j cl w s := by
  refine recordBad_of_record hj g hu rfl fun hgood => ?_
  dsimp only [bind, Except.bind]
  rw [if_pos (h.resolve_left (by rw [hgood]; nofun))]
  rfl

theorem recordBad_wfree (h : (WireRec.ofNat (s.peek key 32)).good = false ∨ (WireRec.ofNat (s.peek key 32)).st = 0) :
    RecordBad (.wfreeMessage cl w) j cl w s := by
  refine recordBad_of_record hj g hu rfl fun hgood => ?_
  dsimp only [bind, Except.bind]
  rw [if_pos (h.resolve_left (by rw [hgood]; nofun))]
  rfl

end

/-! ### What a Weir sends and frees -/

/-- A Weir has sent messages, which it counts (R39, R63). -/
structure Told (cl : Nat) (fs : List Flight) (u t : State) : Prop where
  units : t = { u with clusters := t.clusters, agenda := u.agenda ++ fs }
  cluster : t.cluster cl = { u.cluster cl with sent := (t.cluster cl).sent }

theorem Told.trans {cl : Nat} {fs gs : List Flight} {s t u : State} (h : Told cl fs s t) (g : Told cl gs t u) : Told cl (fs ++ gs) s u := by
  refine ⟨?_, ?_⟩
  · have ht := h.units
    have hu := g.units
    rw [ht] at hu
    rw [← List.append_assoc]
    exact hu
  · rw [g.cluster, h.cluster]

theorem Told.push_count (cl dst : Nat) (ev : Instr) (u : State) :
    Told cl [fromWeir cl dst ev] u ((u.push (netChan (weirSrc cl) dst) ev).countSent cl) := by
  refine ⟨rfl, ?_⟩
  unfold State.countSent
  rw [State.cluster_upCluster, if_pos rfl]
  rfl

theorem Told.sendAdopt (cl w e : Nat) (p : Word) (u : State) :
    Told cl [fromWeir cl (weirOf w) (.adopt (weirOf w) w e p)] u (u.sendAdopt cl w e p) := .push_count cl _ _ u

theorem Told.sendResolve (cl : Nat) (p : Word) (ow oe nw ne : Nat) (u : State) :
    Told cl [fromWeir cl (weirOf (endNode p)) (.resolve (weirOf (endNode p)) p ow oe nw ne)] u (u.sendResolve cl p ow oe nw ne) :=
  .push_count cl _ _ u

theorem Told.weirSend (cl : Nat) (i : TwinItem) (u : State) : Told cl [fromWeir cl i.event.1 i.event.2] u (u.weirSend cl i) :=
  .push_count cl _ _ u

/-- The fields of the port word of a wire end (R26). -/
theorem portWord_fields {w e : Nat} (hw : w < 2 ^ 32) (he : e < 2) : bits (portWord w e) 0 32 = w ∧ bits (portWord w e) 32 1 = e := by
  have hn : (portWord w e).toNat = e * 2 ^ 32 + w := by
    unfold portWord
    rw [BitVec.toNat_ofNat]
    omega
  unfold bits
  rw [hn]
  omega

theorem WireRec.fwd_lt (r : WireRec) : r.fwd.1 < 2 ^ 32 ∧ r.fwd.2 < 2 :=
  ⟨Nat.mod_lt _ (by decide), Nat.mod_lt _ (by decide)⟩

theorem replace_event {w e : Nat} (hw : w < 2 ^ 32) (he : e < 2) (p : Word) :
    (⟨2, portWord w e, p, 0⟩ : TwinItem).event = (weirOf w, .replace (weirOf w) w e p) := by
  obtain ⟨h0, h1⟩ := portWord_fields hw he
  unfold TwinItem.event
  dsimp only
  rw [h0, h1]
  rfl

theorem splice_event {w e w2 e2 : Nat} (hw : w < 2 ^ 32) (he : e < 2) (hw2 : w2 < 2 ^ 32) (he2 : e2 < 2) :
    (⟨3, portWord w e, portWord w2 e2, 0⟩ : TwinItem).event = (weirOf w, .splice (weirOf w) w e w2 e2) := by
  obtain ⟨h0, h1⟩ := portWord_fields hw he
  obtain ⟨h2, h3⟩ := portWord_fields hw2 he2
  unfold TwinItem.event
  dsimp only
  rw [h0, h1, h2, h3]
  rfl

theorem unref_event {w : Nat} (hw : w < 2 ^ 32) (d : Word) :
    (⟨6, portWord w 0, d, 0⟩ : TwinItem).event = (weirOf w, .unref (weirOf w) w d.toNat) := by
  obtain ⟨h0, -⟩ := portWord_fields hw (show 0 < 2 by decide)
  unfold TwinItem.event
  dsimp only
  rw [h0]
  rfl

/-- A record's slot has returned to its Spring (R36, R284). -/
theorem State.springPush_spec (s : State) (t : Kind) (i : Nat) :
    ((s.springPush t i).core (ownerOf i)).freeList t = i % 2 ^ 23 :: (s.core (ownerOf i)).freeList t ∧
      (∀ c, c ≠ ownerOf i → (s.springPush t i).core c = s.core c) ∧ s.springPush t i = { s with cores := (s.springPush t i).cores } := by
  unfold State.springPush
  refine ⟨?_, fun c hc => ?_, rfl⟩
  · rw [State.core_upCore, if_pos rfl, Core.setSpring_freeList]
  · rw [State.core_upCore, if_neg hc.symm]

/-- The record of a wire that has been reclaimed: it is free, and END0 holds the link (R36; log 102). -/
def WireRec.freed (r : WireRec) (link : Word) : WireRec := { r with e0 := link, w2 := 0 }

/-- A Weir has reclaimed a wire (R41). -/
structure Reclaimed (cl w key : Nat) (r : WireRec) (u t : State) : Prop where
  mem : t.mem = u.mem.writeBytes key (r.freed (u.springHead .wire w)).bytes
  spring : (t.core (ownerOf w)).wfree = w % 2 ^ 23 :: (u.core (ownerOf w)).wfree
  cores : ∀ c, c ≠ ownerOf w → t.core c = u.core c
  cluster : t.cluster cl = { u.cluster cl with shunts := (u.cluster cl).shunts.erase w }
  agenda : t.agenda = u.agenda
  jobs : t.jobs = u.jobs

theorem Calm.reclaim {j : Job} {cl w key : Nat} {s u : State} (c : Calm j cl s u) (g : UnitSees s j cl (j.wireVa w) key) (r : WireRec) :
    ∃ t, u.reclaim j cl w r = .ok t ∧ Reclaimed cl w key r u t := by
  obtain ⟨v, hv, hs⟩ := c.storeWire g (r.freed (u.springHead .wire w))
  obtain ⟨hfree, hcores, hunits⟩ :=
    (v.upCluster cl (fun k => { k with shunts := k.shunts.erase w })).springPush_spec .wire w
  refine ⟨(v.upCluster cl (fun k => { k with shunts := k.shunts.erase w })).springPush .wire w, ?_, ?_, ?_, ?_, ?_, ?_, ?_⟩
  · unfold State.reclaim
    unfold WireRec.freed at hv
    rw [hv]
    rfl
  · rw [hunits, ← hs.mem]
    rfl
  · exact hfree.trans (congrArg (fun k : Core => w % 2 ^ 23 :: k.wfree) (hs.only.core (ownerOf w)))
  · exact fun c hc => (hcores c hc).trans (hs.only.core c)
  · have hcl := (State.cluster_upCluster v cl cl (fun k => { k with shunts := k.shunts.erase w })).trans (if_pos rfl)
    rw [hs.only.cluster] at hcl
    exact hcl
  · rw [hunits, ← show v.agenda = u.agenda by rw [hs.only]]
    rfl
  · rw [hunits, ← show v.jobs = u.jobs by rw [hs.only]]
    rfl

theorem State.counted_mem (s : State) (cl : Nat) : (s.counted cl).mem = s.mem := rfl

theorem WireBecomes.of_mem {cl key : Nat} {s v : State} {r : WireRec} (hwf : s.mem.wf = true)
    (hmem : v.mem = s.mem.writeBytes key r.bytes) (hrecv : (v.cluster cl).recv = ((s.cluster cl).recv + 1) % 2 ^ 32)
    (hcores : v.cores = s.cores) : WireBecomes cl key r s v := by
  have hsame := SameBut.of_writeBytes hwf hmem
  rw [WireRec.bytes_length] at hsame
  exact ⟨record_of_writeBytes hwf hmem, hsame, hrecv, hcores⟩

/-- The record stands, and the Weir has told others (R41). -/
theorem WireBecomes.of_stored {cl key : Nat} {s t v : State} {r : WireRec} {fs : List Flight} (hwf : s.mem.wf = true)
    (h : UnitStored key r.bytes (s.counted cl) t) (ht : Told cl fs t v) :
    WireBecomes cl key r s v ∧ v.agenda = s.agenda ++ fs := by
  have hmem : v.mem = s.mem.writeBytes key r.bytes := by
    rw [ht.units]
    exact h.mem
  have hagenda : t.agenda = s.agenda := by rw [h.only]; rfl
  refine ⟨.of_mem hwf hmem ?_ ?_, ?_⟩
  · rw [ht.cluster, h.only.cluster, State.counted_cluster]
  · rw [ht.units]
    rw [h.only]
    rfl
  · rw [ht.units, ← hagenda]

theorem Told.refl (cl : Nat) (u : State) : Told cl [] u u := ⟨by rw [List.append_nil], rfl⟩

/-- A wire that is reclaimed after its record may have been written (R36, R41). -/
theorem Reclaimed.wireFreed {cl w key : Nat} {r : WireRec} {s u t : State} (h : Reclaimed cl w key r u t) (hcores : u.cores = s.cores)
    (hmem : SameBut key 32 s u) (hwf : u.mem.wf = true) (hrecv : (u.cluster cl).recv = ((s.cluster cl).recv + 1) % 2 ^ 32) :
    WireFreed cl w key s t := by
  have hcore : ∀ c, u.core c = s.core c := fun c => by unfold State.core; rw [hcores]
  have hlink : u.springHead .wire w = s.springHead .wire w := by unfold State.springHead; rw [hcore]
  have hrec := record_of_writeBytes hwf h.mem
  have hsame := SameBut.of_writeBytes hwf h.mem
  rw [WireRec.bytes_length] at hsame
  refine ⟨?_, ?_, fun a ha => (hsame a ha).trans (hmem a ha), ?_, ?_, fun c hc => (h.cores c hc).trans (hcore c)⟩
  · rw [hrec]
    exact show bits 0 62 2 = 0 by decide
  · rw [hrec, ← hlink]
    rfl
  · rw [h.cluster, ← hrecv]
  · rw [h.spring, hcore]

/-- A wire's record is reclaimed at once. -/
theorem WireFreed.of_counted {cl w key : Nat} {r : WireRec} {s t : State} (hwf : s.mem.wf = true)
    (h : Reclaimed cl w key r (s.counted cl) t) : WireFreed cl w key s t :=
  h.wireFreed rfl (fun _ _ => rfl) hwf (by rw [State.counted_cluster])

/-- A wire's record is written, others are told, and then it is reclaimed. -/
theorem WireFreed.of_stored {cl w key : Nat} {r a : WireRec} {s t v u : State} {fs : List Flight} (hwf : s.mem.wf = true)
    (hs : UnitStored key a.bytes (s.counted cl) t) (ht : Told cl fs t v) (h : Reclaimed cl w key r v u) :
    WireFreed cl w key s u ∧ u.agenda = s.agenda ++ fs := by
  obtain ⟨hb, hagenda⟩ := WireBecomes.of_stored hwf hs ht
  refine ⟨h.wireFreed hb.cores hb.others ?_ hb.counted, h.agenda.trans hagenda⟩
  rw [ht.units, hs.mem]
  exact Memory.wf_writeBytes _ _ hwf

/-- A live wire has become a shunt (R41): its record names the other wire's end, the end that was consumed is remembered, the
other end's port is handed on, and a node's port is told to move. -/
theorem Told.spliced {cl w e key : Nat} {r : WireRec} {q : Word} {s t : State} (hs : UnitStored key r.bytes (s.counted cl) t)
    (hwf : s.mem.wf = true) (w2 e2 : Nat) :
    let v := (t.upCluster cl (fun k => { k with shunts := k.shunts.set w e })).sendAdopt cl w2 e2 q
    let u := if isPort q then v.sendResolve cl q w (1 - e) w2 e2 else v
    WireBecomes cl key r s u ∧ u.spent cl w e = true ∧ u.agenda = s.agenda ++ fromWeir cl (weirOf w2) (.adopt (weirOf w2) w2 e2 q) ::
      (if isPort q = true then [fromWeir cl (weirOf (endNode q)) (.resolve (weirOf (endNode q)) q w (1 - e) w2 e2)] else []) := by
  intro v u
  have hcl : (t.upCluster cl (fun k => { k with shunts := k.shunts.set w e })).cluster cl =
      { (s.counted cl).cluster cl with shunts := ((s.counted cl).cluster cl).shunts.set w e } := by
    rw [State.cluster_upCluster, if_pos rfl, hs.only.cluster]
  have hadopt := Told.sendAdopt cl w2 e2 q (t.upCluster cl (fun k => { k with shunts := k.shunts.set w e }))
  have htold : Told cl (fromWeir cl (weirOf w2) (.adopt (weirOf w2) w2 e2 q) :: (if isPort q = true then
      [fromWeir cl (weirOf (endNode q)) (.resolve (weirOf (endNode q)) q w (1 - e) w2 e2)] else []))
      (t.upCluster cl (fun k => { k with shunts := k.shunts.set w e })) u := by
    unfold u
    split
    · exact hadopt.trans (.sendResolve cl q w (1 - e) w2 e2 v)
    · exact hadopt
  have hagenda : t.agenda = s.agenda := by rw [hs.only]; rfl
  refine ⟨.of_mem hwf ?_ ?_ ?_, ?_, ?_⟩
  · rw [htold.units]
    exact hs.mem
  · rw [htold.cluster, hcl, State.counted_cluster]
  · rw [htold.units]
    exact (show t.cores = s.cores by rw [hs.only]; rfl)
  · unfold State.spent
    rw [htold.cluster, hcl]
    simp
  · rw [htold.units]
    exact congrArg (· ++ _) hagenda

/-! ### Live wires and shunts (R41) -/

theorem testPair_unpaired {u : State} {j : Job} {cl w : Nat} {r : WireRec} (h : isPrincipal r.e0 = false ∨ isPrincipal r.e1 = false) :
    u.testPair j cl w r = .ok u := by
  have hnot : (!(isPrincipal r.e0 && isPrincipal r.e1)) = true := by rcases h with h | h <;> simp [h]
  unfold State.testPair
  rw [if_pos hnot]
  rfl

section
variable {s : State} {j : Job} {cl w key : Nat} (hj : s.jobAt cl = some j) (g : UnitSees s j cl (j.wireVa w) key)
  (hu : Undisturbed s (j.root.toNat % 4096)) (hgood : (WireRec.ofNat (s.peek key 32)).good = true)
include hj g hu hgood

/-- SETEND at a live wire with that end open writes the end, and then tests the pair. -/
theorem exec_setend_live {e : Nat} {p : Word} (hst : (WireRec.ofNat (s.peek key 32)).st = 1)
    (hopen : isOpen ((WireRec.ofNat (s.peek key 32)).ends e) = true) : let r := WireRec.ofNat (s.peek key 32)
    let a := (r.setEnd e p).put 1 (r.refs + 1)
    ∃ t, UnitStored key a.bytes (s.counted cl) t ∧ ∀ v, t.testPair j cl w a = .ok v → exec (.setend cl w e p) s = .next v := by
  intro r a
  obtain ⟨t, ht, hs⟩ := (State.counted_calm cl hu).storeWire g a
  refine ⟨t, hs, fun v hv => exec_of_record hj g hu hgood rfl ?_⟩
  dsimp only [bind, Except.bind]
  rw [if_neg (by simp [hst, hopen]), ht]
  exact hv

theorem exec_replace_live {e : Nat} {p : Word} (hst : (WireRec.ofNat (s.peek key 32)).st = 1) : let r := WireRec.ofNat (s.peek key 32)
    let a := (r.setEnd e p).put 1 (r.refs + if isOpen (r.ends e) = true then 1 else 0)
    ∃ t, UnitStored key a.bytes (s.counted cl) t ∧ ∀ v, t.testPair j cl w a = .ok v → exec (.replace cl w e p) s = .next v := by
  intro r a
  obtain ⟨t, ht, hs⟩ := (State.counted_calm cl hu).storeWire g a
  refine ⟨t, hs, fun v hv => exec_of_record hj g hu hgood rfl ?_⟩
  dsimp only [bind, Except.bind]
  rw [if_pos hst, ht]
  exact hv

theorem exec_adopt_live {e : Nat} {p : Word} (hst : (WireRec.ofNat (s.peek key 32)).st = 1) : let r := WireRec.ofNat (s.peek key 32)
    let a := (r.setEnd e p).put 1 (r.refs + if isOpen p = true then 65535 else 0)
    ∃ t, UnitStored key a.bytes (s.counted cl) t ∧ ∀ v, t.testPair j cl w a = .ok v → exec (.adopt cl w e p) s = .next v := by
  intro r a
  obtain ⟨t, ht, hs⟩ := (State.counted_calm cl hu).storeWire g a
  refine ⟨t, hs, fun v hv => exec_of_record hj g hu hgood rfl ?_⟩
  dsimp only [bind, Except.bind]
  rw [if_pos hst, ht]
  exact hv

/-- REPLACE at a shunt goes on along the forwarded end, and the node is told to point there (R41, R42). -/
theorem exec_replace_shunt {e : Nat} {p : Word} (hst : (WireRec.ofNat (s.peek key 32)).st = 2) (hspent : ¬s.spent cl w e = true) :
    let r := WireRec.ofNat (s.peek key 32)
    ∃ t, UnitStored key (r.put 2 (r.refs + 1)).bytes (s.counted cl) t ∧ exec (.replace cl w e p) s =
      .next ((t.sendResolve cl p w e r.fwd.1 r.fwd.2).weirSend cl ⟨2, portWord r.fwd.1 r.fwd.2, p, 0⟩) := by
  intro r
  obtain ⟨t, ht, hs⟩ := (State.counted_calm cl hu).storeWire g (r.put 2 (r.refs + 1))
  refine ⟨t, hs, exec_of_record hj g hu hgood rfl ?_⟩
  dsimp only [bind, Except.bind]
  rw [State.counted_spent, if_neg (by rw [hst]; decide), if_pos (by simp [hst, hspent]), ht]
  rfl

theorem exec_adopt_shunt {e : Nat} {p : Word} (hst : (WireRec.ofNat (s.peek key 32)).st = 2) (hspent : ¬s.spent cl w e = true) :
    let r := WireRec.ofNat (s.peek key 32)
    exec (.adopt cl w e p) s = .next ((s.counted cl).sendAdopt cl r.fwd.1 r.fwd.2 p) := by
  intro r
  refine exec_of_record hj g hu hgood rfl ?_
  dsimp only [bind, Except.bind]
  rw [State.counted_spent, if_neg (by rw [hst]; decide), if_pos (by simp [hst, hspent])]
  rfl

/-- SPLICE makes a live wire a shunt to the other wire's end (R41). -/
theorem exec_splice_live {e w2 e2 : Nat} (hst : (WireRec.ofNat (s.peek key 32)).st = 1) (hne : w2 ≠ w) :
    let r := WireRec.ofNat (s.peek key 32)
    let q := r.ends (1 - e)
    ∃ t, UnitStored key ({ r.put 2 r.refs with w3 := portWord w2 e2 } : WireRec).bytes (s.counted cl) t ∧ exec (.splice cl w e w2 e2) s =
      .next (let v := (t.upCluster cl (fun k => { k with shunts := k.shunts.set w e })).sendAdopt cl w2 e2 q
        if isPort q then v.sendResolve cl q w (1 - e) w2 e2 else v) := by
  intro r q
  obtain ⟨t, ht, hs⟩ := (State.counted_calm cl hu).storeWire g { r.put 2 r.refs with w3 := portWord w2 e2 }
  refine ⟨t, hs, exec_of_record hj g hu hgood rfl ?_⟩
  dsimp only [bind, Except.bind]
  rw [if_neg (by rw [hst]; decide), if_neg (by rw [hst]; decide), if_neg (fun h => hne h.1), if_neg hne, ht]
  rfl

/-- SPLICE of a wire's two ends with each other leaves nothing of it but the count of loops (R41). -/
theorem exec_splice_loop {e : Nat} (hst : (WireRec.ofNat (s.peek key 32)).st = 1) : let r := WireRec.ofNat (s.peek key 32)
    ∃ t, Reclaimed cl w key (r.put 1 0) ((s.counted cl).upCluster cl (fun k => { k with loops := Nat.min (k.loops + 1) 0xFFFF })) t ∧
      exec (.splice cl w e w (1 - e)) s = .next t := by
  intro r
  have hcalm : Calm j cl s ((s.counted cl).upCluster cl (fun k => { k with loops := Nat.min (k.loops + 1) 0xFFFF })) := by
    refine ⟨(State.counted_calm cl hu).sight.trans ⟨?_, rfl⟩, hu⟩
    rw [State.cluster_upCluster, if_pos rfl]
  obtain ⟨t, ht, hr⟩ := hcalm.reclaim g (r.put 1 0)
  refine ⟨t, hr, exec_of_record hj g hu hgood rfl ?_⟩
  dsimp only [bind, Except.bind]
  rw [if_neg (by rw [hst]; decide), if_neg (by rw [hst]; decide), if_pos ⟨rfl, rfl⟩]
  exact ht

/-- SPLICE at a shunt goes on along the forwarded end, and takes its reference along (R41). -/
theorem exec_splice_shunt {e w2 e2 : Nat} (hst : (WireRec.ofNat (s.peek key 32)).st = 2) (hspent : ¬s.spent cl w e = true) :
    let r := WireRec.ofNat (s.peek key 32)
    let a := r.put 2 (r.refs + 65535)
    let told (t : State) : State := t.weirSend cl ⟨3, portWord r.fwd.1 r.fwd.2, portWord w2 e2, 0⟩
    ∃ t, UnitStored key a.bytes (s.counted cl) t ∧ (a.refs ≠ 0 → exec (.splice cl w e w2 e2) s = .next (told t)) ∧
      (a.refs = 0 → ∃ v, Reclaimed cl w key a (told t) v ∧ exec (.splice cl w e w2 e2) s = .next v) := by
  intro r a told
  obtain ⟨t, ht, hs⟩ := (State.counted_calm cl hu).storeWire g a
  have hbody : ∀ {v : State}, (if a.refs = 0 then (told t).reclaim j cl w a else .ok (told t)) = .ok v →
      exec (.splice cl w e w2 e2) s = .next v := by
    intro v hv
    refine exec_of_record hj g hu hgood rfl ?_
    dsimp only [bind, Except.bind]
    rw [State.counted_spent, if_pos hst, if_neg hspent, ht]
    exact hv
  refine ⟨t, hs, fun hn => hbody (if_neg hn), fun hn => ?_⟩
  have hcalm := (State.counted_calm cl hu).stored hs
  have htold : Calm j cl s (told t) := by
    have h := Told.weirSend cl ⟨3, portWord r.fwd.1 r.fwd.2, portWord w2 e2, 0⟩ t
    exact ⟨hcalm.sight.trans ⟨by rw [h.cluster], rfl⟩, hcalm.still⟩
  obtain ⟨v, hv, hr⟩ := htold.reclaim g a
  exact ⟨v, hr, hbody ((if_pos hn).trans hv)⟩

/-- UNREF takes references of a shunt away, and with the last of them the wire is reclaimed (R41). -/
theorem exec_unref_shunt {d : Nat} (hst : (WireRec.ofNat (s.peek key 32)).st = 2) : let r := WireRec.ofNat (s.peek key 32)
    let a := r.put 2 (r.refs + 2 * 65536 - 1 - d)
    ∃ t, UnitStored key a.bytes (s.counted cl) t ∧ (a.refs ≠ 0 → exec (.unref cl w d) s = .next t) ∧
      (a.refs = 0 → ∃ v, Reclaimed cl w key a t v ∧ exec (.unref cl w d) s = .next v) := by
  intro r a
  obtain ⟨t, ht, hs⟩ := (State.counted_calm cl hu).storeWire g a
  have hbody : ∀ {v : State}, (if a.refs = 0 then t.reclaim j cl w a else .ok t) = .ok v → exec (.unref cl w d) s = .next v := by
    intro v hv
    refine exec_of_record hj g hu hgood rfl ?_
    dsimp only [bind, Except.bind]
    rw [if_neg (not_not_intro hst), ht]
    exact hv
  refine ⟨t, hs, fun hn => hbody (if_neg hn), fun hn => ?_⟩
  obtain ⟨v, hv, hr⟩ := ((State.counted_calm cl hu).stored hs).reclaim g a
  exact ⟨v, hr, hbody ((if_pos hn).trans hv)⟩

theorem exec_wfree (hst : (WireRec.ofNat (s.peek key 32)).st ≠ 0) :
    ∃ v, Reclaimed cl w key (WireRec.ofNat (s.peek key 32)) (s.counted cl) v ∧ exec (.wfreeMessage cl w) s = .next v := by
  obtain ⟨v, hv, hr⟩ := (State.counted_calm cl hu).reclaim g (WireRec.ofNat (s.peek key 32))
  refine ⟨v, hr, exec_of_record hj g hu hgood rfl ?_⟩
  dsimp only [bind, Except.bind]
  rw [if_neg hst]
  exact hv

end

/-! ### Nodes at a Weir (R36, R42) -/

/-- A word that lies apart from the bytes written reads as before. -/
theorem UnitStored.peek64_apart {key k : Nat} {bs : List Byte} {u t : State} (h : UnitStored key bs u t) (hwf : u.mem.wf = true)
    (hk : k + 8 ≤ key ∨ key + bs.length ≤ k) : t.peek64 k = u.peek64 k :=
  congrArg (BitVec.ofNat 64) (State.peek_congr k 8 fun i hi => SameBut.of_writeBytes hwf h.mem _ (by omega))

theorem UnitStored.peek64_same {key : Nat} {w : Word} {u t : State} (h : UnitStored key (leBytes 8 w.toNat) u t) (hwf : u.mem.wf = true) :
    t.peek64 key = w := State.peek64_of_writeBytes hwf h.mem

theorem UnitStored.wf {key : Nat} {bs : List Byte} {u t : State} (h : UnitStored key bs u t) (hwf : u.mem.wf = true) : t.mem.wf = true := by
  rw [h.mem]
  exact Memory.wf_writeBytes _ _ hwf

/-- A node has been freed (R36): word 0 is 0, word 1 the link, and its slot is the head of its Spring. -/
structure NodeFreed (n k0 k1 : Nat) (u t : State) : Prop where
  word0 : t.peek64 k0 = 0
  link : t.peek64 k1 = u.springHead .node n
  apart : ∀ k, (k + 8 ≤ k0 ∨ k0 + 8 ≤ k) → (k + 8 ≤ k1 ∨ k1 + 8 ≤ k) → t.peek64 k = u.peek64 k
  spring : (t.core (ownerOf n)).nfree = n % 2 ^ 23 :: (u.core (ownerOf n)).nfree
  units : t = { u with
    cores := t.cores, mem := t.mem, under := t.under, dirtyBy := t.dirtyBy, poison := t.poison, damage := t.damage }

theorem Calm.freeNode {j : Job} {cl n k0 k1 : Nat} {s u : State} (c : Calm j cl s u) (g0 : UnitSees s j cl (j.nodeVa n 0) k0)
    (g1 : UnitSees s j cl (j.nodeVa n 1) k1) (hapart : k0 + 8 ≤ k1 ∨ k1 + 8 ≤ k0) :
    ∃ t, u.freeNode j cl n = .ok t ∧ NodeFreed n k0 k1 u t ∧ Calm j cl s t := by
  obtain ⟨v, hv, hsv⟩ := c.storeNode g0 0
  have hlink : v.springHead .node n = u.springHead .node n := by unfold State.springHead; rw [hsv.only.core]
  obtain ⟨x, hx, hsx⟩ := (c.stored hsv).storeNode g1 (v.springHead .node n)
  obtain ⟨hfree, -, hunits⟩ := x.springPush_spec .node n
  have hwf := c.still.1
  have hwv := hsv.wf hwf
  have hsame : ∀ k, (x.springPush .node n).peek64 k = x.peek64 k := fun k => State.peek64_of_mem (by rw [hunits]) k
  refine ⟨x.springPush .node n, ?_, ⟨?_, ?_, fun k h0 h1 => ?_, ?_, ?_⟩, ?_⟩
  · unfold State.freeNode
    rw [hv]
    dsimp only [bind, Except.bind]
    rw [hx]
    rfl
  · rw [hsame, hsx.peek64_apart hwv (by rw [leBytes_length]; omega), hsv.peek64_same hwf]
  · rw [hsame, hsx.peek64_same hwv, hlink]
  · rw [hsame, hsx.peek64_apart hwv (by rw [leBytes_length]; omega), hsv.peek64_apart hwf (by rw [leBytes_length]; omega)]
  · exact hfree.trans (congrArg (fun k : Core => n % 2 ^ 23 :: k.nfree) ((hsx.only.core _).trans (hsv.only.core _)))
  · rw [hunits, hsx.only, hsv.only]
  · have hcalm := (c.stored hsv).stored hsx
    exact ⟨hcalm.sight.trans ⟨by rw [hunits]; rfl, by rw [hunits]⟩, by rw [hunits]; exact hcalm.still⟩

section
variable {s : State} {j : Job} {cl : Nat} (hj : s.jobAt cl = some j) (hu : Undisturbed s (j.root.toNat % 4096))
include hj hu

/-- RESOLVE moves the port of a node that still refers to the shunt (R42). -/
theorem exec_resolve {p : Word} {ow oe nw ne k0 kk : Nat} (g0 : UnitSees s j cl (j.nodeVa (endNode p) 0) k0)
    (gk : UnitSees s j cl (j.nodeVa (endNode p) (bits p 32 2)) kk) : let w0 := s.peek64 k0
    let pw := s.peek64 kk
    let moves := w0 &&& nodeAlloc ≠ 0 ∧ w0 &&& nodeBusy = 0 ∧ pw &&& 0x1FFFFFFFF = portWord ow oe
    let dirty := w0 &&& nodeReserved ≠ 0 ∨ (bits p 32 2 ≠ 0 ∧ pw >>> 33 ≠ 0)
    (moves → dirty → exec (.resolve cl p ow oe nw ne) s = .next ((s.counted cl).corrupt j cl unitWeir (16 * cl) (j.nodeVa (endNode p)) ow)) ∧
    (moves → ¬dirty → ∃ t, UnitStored kk (leBytes 8 ((pw &&& ~~~0x1FFFFFFFF) ||| portWord nw ne).toNat) (s.counted cl) t ∧
      exec (.resolve cl p ow oe nw ne) s = .next (t.weirSend cl ⟨6, portWord ow 0, 1, 0⟩)) ∧
    (¬moves → exec (.resolve cl p ow oe nw ne) s = .next ((s.counted cl).weirSend cl ⟨6, portWord ow 0, 0, 0⟩)) := by
  intro w0 pw moves dirty
  have hl0 : (s.counted cl).loadNode j cl (endNode p) 0 = .ok (s.counted cl, w0) := (State.counted_calm cl hu).loadNode g0
  have hlk : (s.counted cl).loadNode j cl (endNode p) (bits p 32 2) = .ok (s.counted cl, pw) := (State.counted_calm cl hu).loadNode gk
  refine ⟨fun hm hd => congrArg Host.Outcome.next (State.weir_error hj ?_ g0.ne_netWait), fun hm hd => ?_,
    fun hm => congrArg Host.Outcome.next (State.weir_ok hj ?_)⟩
  · dsimp only
    rw [hl0]
    dsimp only [bind, Except.bind]
    rw [hlk]
    dsimp only
    rw [if_pos hm, if_pos hd]
    rfl
  · obtain ⟨t, ht, hs⟩ := (State.counted_calm cl hu).storeNode gk ((pw &&& ~~~0x1FFFFFFFF) ||| portWord nw ne)
    refine ⟨t, hs, congrArg Host.Outcome.next (State.weir_ok hj ?_)⟩
    dsimp only
    rw [hl0]
    dsimp only [bind, Except.bind]
    rw [hlk]
    dsimp only
    rw [if_pos hm, if_neg hd, ht]
    rfl
  · dsimp only
    rw [hl0]
    dsimp only [bind, Except.bind]
    rw [hlk]
    dsimp only
    rw [if_neg hm]
    rfl

/-- NFREE frees a node that is allocated and whose reserved bits are 0 (R36, R398). -/
theorem exec_nfree {n k0 k1 : Nat} (g0 : UnitSees s j cl (j.nodeVa n 0) k0) (g1 : UnitSees s j cl (j.nodeVa n 1) k1)
    (hapart : k0 + 8 ≤ k1 ∨ k1 + 8 ≤ k0) : let bad := s.peek64 k0 &&& nodeAlloc = 0 ∨ s.peek64 k0 &&& nodeReserved ≠ 0
    (bad → exec (.nfreeMessage cl n) s = .next ((s.counted cl).corrupt j cl unitWeir (16 * cl) (j.nodeVa n) n)) ∧
    (¬bad → ∃ t, NodeFreed n k0 k1 (s.counted cl) t ∧ exec (.nfreeMessage cl n) s = .next t) := by
  intro bad
  have hl0 : (s.counted cl).loadNode j cl n 0 = .ok (s.counted cl, s.peek64 k0) := (State.counted_calm cl hu).loadNode g0
  refine ⟨fun hb => congrArg Host.Outcome.next (State.weir_error hj ?_ g0.ne_netWait), fun hb => ?_⟩
  · dsimp only
    rw [hl0]
    dsimp only [bind, Except.bind]
    rw [if_pos hb]
    rfl
  · obtain ⟨t, ht, hf, -⟩ := (State.counted_calm cl hu).freeNode g0 g1 hapart
    refine ⟨t, hf, congrArg Host.Outcome.next (State.weir_ok hj ?_)⟩
    dsimp only
    rw [hl0]
    dsimp only [bind, Except.bind]
    rw [if_neg hb]
    exact ht

end

/-! ### Pairs (R41, R43, R64) -/

/-- What the test of a pair reads: both nodes, with their reserved bits 0. -/
structure PairSeen (j : Job) (cl : Nat) (u : State) (n0 n1 : Nat) (a b : Word) : Prop where
  first : u.loadNode j cl n0 0 = .ok (u, a)
  second : u.loadNode j cl n1 0 = .ok (u, b)
  clean : a &&& nodeReserved = 0 ∧ b &&& nodeReserved = 0

/-- Two principal ports give their pair to the Pond (R43, R48). -/
theorem testPair_active {u : State} {j : Job} {cl w : Nat} {r : WireRec} {a b : Word} (h0 : isPrincipal r.e0 = true)
    (h1 : isPrincipal r.e1 = true) (hseen : PairSeen j cl u (endNode r.e0) (endNode r.e1) a b)
    (hnot : ¬((nodeSym a = symRoot ∧ nodeSym b = symVal) ∨ (nodeSym a = symVal ∧ nodeSym b = symRoot)))
    (hroom : (u.cluster cl).pond.length < 16384) : u.testPair j cl w r =
      .ok ((u.upJob j.colour (fun q => { q with hung := false })).pondPush j cl ⟨w, endNode r.e0, endNode r.e1, nodeSym a, nodeSym b⟩) := by
  have hwait : u.spillWaits j cl 1 = false := by
    unfold State.spillWaits pondHeld
    dsimp only
    rw [decide_eq_false (by omega)]
    rfl
  unfold State.testPair
  rw [h0, h1, if_neg (by decide)]
  dsimp only [bind, Except.bind]
  rw [hseen.first]
  dsimp only
  rw [hseen.second]
  dsimp only
  rw [if_neg (not_not_intro hseen.clean.1), if_neg (not_not_intro hseen.clean.2), if_neg hnot, hwait, if_neg Bool.false_ne_true]
  rfl

/-- ROOT⋈VAL (R64): the test of the pair from the accesses that it makes. -/
theorem testPair_joins {u u1 u2 u3 u4 : State} {j : Job} {cl w root val : Nat} {r : WireRec} {v held a b : Word}
    (hp0 : isPrincipal r.e0 = true) (hp1 : isPrincipal r.e1 = true) (hseen : PairSeen j cl u (endNode r.e0) (endNode r.e1) a b)
    (hsyms : (nodeSym a = symRoot ∧ nodeSym b = symVal) ∨ (nodeSym a = symVal ∧ nodeSym b = symRoot))
    (hwhich : (if nodeSym a = symRoot then (endNode r.e0, endNode r.e1) else (endNode r.e1, endNode r.e0)) = (root, val))
    (hv : u.loadNode j cl val 1 = .ok (u, v)) (h1 : u.storeNode j cl root 1 v = .ok u1) (hh : u1.loadNode j cl root 2 = .ok (u1, held))
    (h2 : u1.storeNode j cl root 2 (held ||| 1) = .ok u2) (h3 : u2.freeNode j cl val = .ok u3) (h4 : u3.reclaim j cl w r = .ok u4) :
    u.testPair j cl w r = .ok ((u4.upCluster cl (fun k => { k with acts := (k.acts + 1) % 2 ^ 48 })).upJob j.colour (fun q =>
      { q with rootNode := some root })) := by
  unfold State.testPair
  rw [hp0, hp1, if_neg (by decide)]
  dsimp only [bind, Except.bind]
  rw [hseen.first]
  dsimp only
  rw [hseen.second]
  dsimp only
  rw [if_neg (not_not_intro hseen.clean.1), if_neg (not_not_intro hseen.clean.2), if_pos hsyms, hwhich]
  dsimp only
  rw [hv]
  dsimp only
  rw [h1]
  dsimp only
  rw [hh]
  dsimp only
  rw [h2]
  dsimp only
  rw [h3]
  dsimp only
  rw [h4]
  rfl

theorem Reclaimed.peek64_apart {cl w key k : Nat} {r : WireRec} {u t : State} (h : Reclaimed cl w key r u t) (hwf : u.mem.wf = true)
    (hk : k + 8 ≤ key ∨ key + 32 ≤ k) : t.peek64 k = u.peek64 k :=
  congrArg (BitVec.ofNat 64) (State.peek_congr k 8 fun i hi => SameBut.of_writeBytes hwf h.mem _ (by rw [WireRec.bytes_length]; omega))

/-- The result's node has taken the value, and the value's node and the wire are free (R64; log 79). -/
structure Joined (cl key r1 r2 v0 v1 : Nat) (u t : State) : Prop where
  value : t.peek64 r1 = u.peek64 v1
  held : t.peek64 r2 = u.peek64 r2 ||| 1
  gone : t.peek64 v0 = 0
  free : (WireRec.ofNat (t.peek key 32)).st = 0
  cluster : ∃ sh, t.cluster cl = { u.cluster cl with shunts := sh }
  agenda : t.agenda = u.agenda
  jobs : t.jobs = u.jobs

/-- The accesses of ROOT⋈VAL, whose records lie apart. -/
theorem Calm.joins {j : Job} {cl w root val key r1 r2 v0 v1 : Nat} {s u : State} (c : Calm j cl s u) (r : WireRec)
    (gw : UnitSees s j cl (j.wireVa w) key) (g1 : UnitSees s j cl (j.nodeVa root 1) r1) (g2 : UnitSees s j cl (j.nodeVa root 2) r2)
    (gv0 : UnitSees s j cl (j.nodeVa val 0) v0) (gv1 : UnitSees s j cl (j.nodeVa val 1) v1)
    (hapart : ([(key, 32), (r1, 8), (r2, 8), (v0, 8), (v1, 8)] : List (Nat × Nat)).Pairwise
      (fun x y => x.1 + x.2 ≤ y.1 ∨ y.1 + y.2 ≤ x.1)) : ∃ u1 u2 u3 u4, u.loadNode j cl val 1 = .ok (u, u.peek64 v1) ∧
      u.storeNode j cl root 1 (u.peek64 v1) = .ok u1 ∧ u1.loadNode j cl root 2 = .ok (u1, u.peek64 r2) ∧
      u1.storeNode j cl root 2 (u.peek64 r2 ||| 1) = .ok u2 ∧ u2.freeNode j cl val = .ok u3 ∧ u3.reclaim j cl w r = .ok u4 ∧
      Joined cl key r1 r2 v0 v1 u u4 := by
  simp only [List.pairwise_cons, List.mem_cons, List.not_mem_nil, or_false, forall_eq_or_imp, forall_eq, false_implies, implies_true,
    List.Pairwise.nil, and_true] at hapart
  obtain ⟨⟨hk1, hk2, hkv0, -⟩, ⟨h12, h1v0, h1v1⟩, ⟨h2v0, h2v1⟩, hv01⟩ := hapart
  have hwf := c.still.1
  obtain ⟨u1, hu1, hs1⟩ := c.storeNode g1 (u.peek64 v1)
  have c1 := c.stored hs1
  have hload2 : u1.peek64 r2 = u.peek64 r2 := hs1.peek64_apart hwf (by rw [leBytes_length]; omega)
  obtain ⟨u2, hu2, hs2⟩ := c1.storeNode g2 (u.peek64 r2 ||| 1)
  have c2 := c1.stored hs2
  obtain ⟨u3, hu3, hf, c3⟩ := c2.freeNode gv0 gv1 (by omega)
  obtain ⟨u4, hu4, hr⟩ := c3.reclaim gw r
  have hwf3 := c3.still.1
  have hrec := record_of_writeBytes hwf3 hr.mem
  refine ⟨u1, u2, u3, u4, c.loadNode gv1, hu1, hload2 ▸ c1.loadNode g2, hu2, hu3, hu4, ?_, ?_, ?_, ?_, ?_, ?_, ?_⟩
  · rw [hr.peek64_apart hwf3 (by omega), hf.apart r1 (by omega) (by omega), hs2.peek64_apart c1.still.1 (by rw [leBytes_length]; omega),
      hs1.peek64_same hwf]
  · rw [hr.peek64_apart hwf3 (by omega), hf.apart r2 (by omega) (by omega), hs2.peek64_same c1.still.1]
  · rw [hr.peek64_apart hwf3 (by omega), hf.word0]
  · rw [hrec]
    exact show bits 0 62 2 = 0 by decide
  · have hcl : u3.cluster cl = u.cluster cl := by
      rw [show u3.cluster cl = u2.cluster cl by rw [hf.units]; rfl, hs2.only.cluster, hs1.only.cluster]
    exact ⟨_, hcl ▸ hr.cluster⟩
  · rw [hr.agenda, hf.units, hs2.only, hs1.only]
  · rw [hr.jobs, hf.units, hs2.only, hs1.only]

theorem WireRec.put_refs (r : WireRec) (st n : Nat) : (r.put st n).refs = n % 65536 := by
  unfold WireRec.put WireRec.refs
  rw [bits_low, BitVec.toNat_ofNat]
  omega

theorem WireRec.refs_lt (r : WireRec) : r.refs < 65536 := Nat.mod_lt _ (by decide)

/-! ### Fields of words of nodes and wires (R26) -/

theorem bit_of_and_eq_zero {w : Word} {i : Nat} (hi : i < 64) : w &&& BitVec.twoPow 64 i = 0 ↔ w.getLsbD i = false := by
  rw [BitVec.and_twoPow]
  cases w.getLsbD i with
  | false => simp
  | true =>
    rw [if_pos rfl]
    refine ⟨fun h => ?_, nofun⟩
    have hbit := congrArg (fun v : Word => v.getLsbD i) h
    simp [hi] at hbit

/-- The port field of a word of a node: wire and end (R26). -/
def portMask : Word := 0x1FFFFFFFF

theorem portMask_getLsbD (i : Nat) : portMask.getLsbD i = decide (i < 33) := by
  rw [BitVec.getLsbD, show portMask.toNat = 2 ^ 33 - 1 from rfl, Nat.testBit_two_pow_sub_one]

theorem portWord_getLsbD_high (w e i : Nat) : (portWord w e).getLsbD (33 + i) = false := by
  have hlt : (portWord w e).toNat < 2 ^ 33 := by
    unfold portWord
    rw [BitVec.toNat_ofNat]
    omega
  rw [BitVec.getLsbD]
  exact Nat.testBit_lt_two_pow (hlt.trans_le (Nat.pow_le_pow_right (by decide) (by omega)))

/-- A word whose port field is a wire end's (R42). -/
theorem portField_eq_iff {w : Word} {x e : Nat} :
    w &&& portMask = portWord x e ↔ w.extractLsb' 0 33 = (portWord x e).extractLsb' 0 33 := by
  refine ⟨fun h => ?_, fun h => BitVec.eq_of_getLsbD_eq fun i _ => ?_⟩
  · rw [← h]
    refine BitVec.eq_of_getLsbD_eq fun i hi => ?_
    rw [BitVec.getLsbD_extractLsb', BitVec.getLsbD_extractLsb', Nat.zero_add, BitVec.getLsbD_and, portMask_getLsbD, decide_eq_true hi,
      Bool.and_true]
  · rw [BitVec.getLsbD_and, portMask_getLsbD]
    by_cases h33 : i < 33
    · have hbit := congrArg (fun v : BitVec 33 => v.getLsbD i) h
      rw [BitVec.getLsbD_extractLsb', BitVec.getLsbD_extractLsb', Nat.zero_add, decide_eq_true h33, Bool.true_and, Bool.true_and] at hbit
      rw [hbit, decide_eq_true h33, Bool.and_true]
    · obtain ⟨n, rfl⟩ : ∃ n, i = 33 + n := ⟨i - 33, by omega⟩
      rw [portWord_getLsbD_high, decide_eq_false h33, Bool.and_false]

/-- The port field has been replaced, and the other bits are as before (R42). -/
theorem portField_replaced (w : Word) (x e : Nat) : let v := (w &&& ~~~portMask) ||| portWord x e
    v.extractLsb' 0 33 = (portWord x e).extractLsb' 0 33 ∧ v.extractLsb' 33 31 = w.extractLsb' 33 31 := by
  refine ⟨BitVec.eq_of_getLsbD_eq fun i hi => ?_, BitVec.eq_of_getLsbD_eq fun i hi => ?_⟩
  · rw [BitVec.getLsbD_extractLsb', BitVec.getLsbD_extractLsb', Nat.zero_add, BitVec.getLsbD_or, BitVec.getLsbD_and, BitVec.getLsbD_not,
      portMask_getLsbD, decide_eq_true hi]
    simp
  · rw [BitVec.getLsbD_extractLsb', BitVec.getLsbD_extractLsb', BitVec.getLsbD_or, BitVec.getLsbD_and, BitVec.getLsbD_not,
      portMask_getLsbD, portWord_getLsbD_high, decide_eq_false (show ¬33 + i < 33 by omega),
      decide_eq_true (show 33 + i < 64 by omega)]
    simp

/-- The end words of a wire one of whose ends has been set. -/
theorem WireRec.setEnd_put_ends (r : WireRec) {e : Nat} (he : e < 2) (p : Word) (st n : Nat) : let a := (r.setEnd e p).put st n
    (a.e0 = p ∧ a.e1 = r.ends (1 - e)) ∨ (a.e0 = r.ends (1 - e) ∧ a.e1 = p) := by
  unfold WireRec.put WireRec.setEnd WireRec.ends
  obtain rfl | rfl : e = 0 ∨ e = 1 := by omega
  · exact .inl ⟨rfl, rfl⟩
  · exact .inr ⟨rfl, rfl⟩

/-! ### RESOLVE and NFREE as the spec states them (R36, R42) -/

section
variable {s : State} {j : Job} {cl : Nat} (hj : s.jobAt cl = some j) (hu : Undisturbed s (j.root.toNat % 4096))
include hj hu

theorem runs_resolve {p : Word} {ow oe nw ne k0 kk : Nat} (g0 : UnitSees s j cl (j.nodeVa (endNode p) 0) k0)
    (gk : UnitSees s j cl (j.nodeVa (endNode p) (p.extractLsb' 32 2).toNat) kk) (how : ow < 2 ^ 32) :
    let w0 := s.peek64 k0
    let pw := s.peek64 kk
    let moves := w0.getLsbD 41 = true ∧ w0.getLsbD 40 = false ∧ pw.extractLsb' 0 33 = (portWord ow oe).extractLsb' 0 33
    let clean := w0 &&& nodeReserved = 0 ∧ ((p.extractLsb' 32 2).toNat = 0 ∨ pw >>> 33 = 0)
    let answer (d : Nat) (t : State) : Prop := t.agenda = s.agenda ++ [fromWeir cl (weirOf ow) (.unref (weirOf ow) ow d)]
    (moves → ¬clean → exec (.resolve cl p ow oe nw ne) s =
      .next ((s.counted cl).corrupt j cl unitWeir (16 * cl) (j.nodeVa (endNode p)) ow)) ∧
    (moves → clean → Runs (.resolve cl p ow oe nw ne) s fun t => answer 1 t ∧ SameBut kk 8 s t ∧
      (t.peek64 kk).extractLsb' 0 33 = (portWord nw ne).extractLsb' 0 33 ∧ (t.peek64 kk).extractLsb' 33 31 = pw.extractLsb' 33 31) ∧
    (¬moves → Runs (.resolve cl p ow oe nw ne) s fun t => answer 0 t ∧ SameBytes s t) := by
  intro w0 pw moves clean answer
  have hk : bits p 32 2 = (p.extractLsb' 32 2).toNat := bits_eq_extractLsb' p 32 2
  obtain ⟨hbad, hmove, hstay⟩ := exec_resolve hj hu g0 (hk ▸ gk) (ow := ow) (oe := oe) (nw := nw) (ne := ne)
  have hmoves : moves → w0 &&& nodeAlloc ≠ 0 ∧ w0 &&& nodeBusy = 0 ∧ pw &&& 0x1FFFFFFFF = portWord ow oe := fun ⟨ha, hb, hp⟩ =>
    ⟨fun h => absurd ((bit_of_and_eq_zero (by decide)).1 h) (by rw [ha]; nofun), (bit_of_and_eq_zero (by decide)).2 hb,
      portField_eq_iff.2 hp⟩
  have hback : (w0 &&& nodeAlloc ≠ 0 ∧ w0 &&& nodeBusy = 0 ∧ pw &&& 0x1FFFFFFFF = portWord ow oe) → moves := fun ⟨ha, hb, hp⟩ =>
    ⟨by
      by_contra h
      exact ha ((bit_of_and_eq_zero (by decide)).2 (Bool.eq_false_iff.2 h)), (bit_of_and_eq_zero (by decide)).1 hb, portField_eq_iff.1 hp⟩
  have hclean : (w0 &&& nodeReserved ≠ 0 ∨ (bits p 32 2 ≠ 0 ∧ pw >>> 33 ≠ 0)) ↔ ¬clean := by
    rw [hk, not_and_or, not_or]
  refine ⟨fun hm hc => hbad (hmoves hm) (hclean.2 hc), fun hm hc => ?_, fun hm => ?_⟩
  · obtain ⟨t, hs, hv⟩ := hmove (hmoves hm) (fun h => hclean.1 h hc)
    have ht := Told.weirSend cl ⟨6, portWord ow 0, 1, 0⟩ t
    rw [unref_event how] at ht
    obtain ⟨hlow, hhigh⟩ := portField_replaced pw nw ne
    have hword : (t.weirSend cl ⟨6, portWord ow 0, 1, 0⟩).peek64 kk = (pw &&& ~~~portMask) ||| portWord nw ne := hs.peek64_same hu.1
    have hsame := SameBut.of_writeBytes hu.1 hs.mem
    rw [leBytes_length] at hsame
    refine ⟨_, hv, ?_, hsame, by rw [hword]; exact hlow, by rw [hword]; exact hhigh⟩
    have hagenda : t.agenda = s.agenda := by rw [hs.only]; rfl
    rw [ht.units]
    exact congrArg (· ++ _) hagenda
  · have ht := Told.weirSend cl ⟨6, portWord ow 0, 0, 0⟩ (s.counted cl)
    rw [unref_event how] at ht
    exact ⟨_, hstay (fun h => hm (hback h)), by rw [ht.units]; rfl, fun a => rfl⟩

theorem runs_nfree {n k0 k1 : Nat} (g0 : UnitSees s j cl (j.nodeVa n 0) k0) (g1 : UnitSees s j cl (j.nodeVa n 1) k1)
    (hapart : k0 + 8 ≤ k1 ∨ k1 + 8 ≤ k0) :
    let sound := (s.peek64 k0).getLsbD 41 = true ∧ s.peek64 k0 &&& nodeReserved = 0
    (sound → Runs (.nfreeMessage cl n) s fun t => t.peek64 k0 = 0 ∧ t.peek64 k1 = s.springHead .node n ∧
      (t.core (ownerOf n)).nfree = n % 2 ^ 23 :: (s.core (ownerOf n)).nfree ∧ t.agenda = s.agenda) ∧
    (¬sound → exec (.nfreeMessage cl n) s = .next ((s.counted cl).corrupt j cl unitWeir (16 * cl) (j.nodeVa n) n)) := by
  intro sound
  obtain ⟨hbad, hfree⟩ := exec_nfree hj hu g0 g1 hapart
  have hsound : (s.peek64 k0 &&& nodeAlloc = 0 ∨ s.peek64 k0 &&& nodeReserved ≠ 0) ↔ ¬sound := by
    rw [show nodeAlloc = BitVec.twoPow 64 41 from rfl, bit_of_and_eq_zero (by decide), ← Bool.not_eq_true, not_and_or]
  refine ⟨fun h => ?_, fun h => hbad (hsound.2 h)⟩
  obtain ⟨t, hf, hv⟩ := hfree (fun hb => hsound.1 hb h)
  exact ⟨t, hv, hf.word0, hf.link, hf.spring, by rw [hf.units]; rfl⟩

/-- SETEND that closes a pair of two agents gives the pair to the Pond (R41, R43). -/
theorem runs_setend_active {w e key k0 k1 : Nat} {p : Word} (g : UnitSees s j cl (j.wireVa w) key)
    (hgood : (WireRec.ofNat (s.peek key 32)).good = true) (hst : (WireRec.ofNat (s.peek key 32)).st = 1)
    (hopen : isOpen ((WireRec.ofNat (s.peek key 32)).ends e) = true) : let r := WireRec.ofNat (s.peek key 32)
    let r' := (r.setEnd e p).put 1 (r.refs + 1)
    let n0 := endNode r'.e0
    let n1 := endNode r'.e1
    isPrincipal r'.e0 = true → isPrincipal r'.e1 = true → UnitSees s j cl (j.nodeVa n0 0) k0 → UnitSees s j cl (j.nodeVa n1 0) k1 →
    (∀ k ∈ [k0, k1], key + 32 ≤ k ∨ k + 8 ≤ key) → (∀ k ∈ [k0, k1], s.peek64 k &&& nodeReserved = 0) →
    let sa := nodeSym (s.peek64 k0)
    let sb := nodeSym (s.peek64 k1)
    ¬(sa = symRoot ∧ sb = symVal) → ¬(sa = symVal ∧ sb = symRoot) → (s.cluster cl).stalled = [] → (s.cluster cl).pond.length < 16384 →
    Runs (.setend cl w e p) s fun t => (t.cluster cl).pond = (s.cluster cl).pond ++ [⟨w, n0, n1, sa, sb⟩] ∧
      WireRec.ofNat (t.peek key 32) = r' ∧ SameBut key 32 s t := by
  intro r r' n0 n1 hp0 hp1 g0 g1 hapart hclean sa sb hnot1 hnot2 hstalled hroom
  obtain ⟨t, hs, hv⟩ := exec_setend_live hj g hu hgood hst hopen (p := p)
  have hcalm := (State.counted_calm cl hu).stored hs
  have hk : ∀ k ∈ [k0, k1], t.peek64 k = s.peek64 k := fun k hk => by
    have := hapart k hk
    exact hs.peek64_apart hu.1 (by rw [WireRec.bytes_length]; omega)
  have hk0 := hk k0 (List.mem_cons_self ..)
  have hk1 := hk k1 (List.mem_cons_of_mem _ (List.mem_singleton_self _))
  have hseen : PairSeen j cl t n0 n1 (s.peek64 k0) (s.peek64 k1) :=
    ⟨hk0 ▸ hcalm.loadNode g0, hk1 ▸ hcalm.loadNode g1, hclean k0 (List.mem_cons_self ..),
      hclean k1 (List.mem_cons_of_mem _ (List.mem_singleton_self _))⟩
  have hcl : (t.upJob j.colour (fun q => { q with hung := false })).cluster cl = (s.counted cl).cluster cl := hs.only.cluster cl
  have hpond : (t.cluster cl).pond = (s.cluster cl).pond := by rw [hs.only.cluster, State.counted_cluster]
  have hst' : ((t.upJob j.colour (fun q => { q with hung := false })).cluster cl).stalled = [] := by
    rw [hcl, State.counted_cluster]
    exact hstalled
  have hroom' : ((t.upJob j.colour (fun q => { q with hung := false })).cluster cl).pond.length < 16384 := by
    rw [hcl, State.counted_cluster]
    exact hroom
  refine ⟨_, hv _ (testPair_active hp0 hp1 hseen (not_or.2 ⟨hnot1, hnot2⟩) (by rw [hpond]; exact hroom)), ?_⟩
  have hpush := State.pondPush_pond _ j cl ⟨w, n0, n1, sa, sb⟩ hst' hroom'
  have honly := State.pondPush_only _ j cl ⟨w, n0, n1, sa, sb⟩ hst' hroom'
  have hb := WireBecomes.of_stored hu.1 hs (.refl cl t)
  generalize (t.upJob j.colour (fun q => { q with hung := false })).pondPush j cl ⟨w, n0, n1, sa, sb⟩ = x at hpush honly ⊢
  have hmem : x.mem = t.mem := by
    rw [honly]
    rfl
  refine ⟨?_, ?_, fun a ha => ?_⟩
  · rw [hpush, hcl, State.counted_cluster]
  · have hpeek : x.peek key 32 = t.peek key 32 := congrArg (fun m : Memory => leVal (m.bytes key 32)) hmem
    rw [hpeek]
    exact hb.1.record
  · rw [hmem]
    exact hb.1.others a ha

/-- SETEND that joins the job's result with its value (R64). -/
theorem runs_setend_root {w e key root val r0 r1 r2 v0 v1 : Nat} {p : Word} (he : e < 2) (g : UnitSees s j cl (j.wireVa w) key)
    (hgood : (WireRec.ofNat (s.peek key 32)).good = true) (hst : (WireRec.ofNat (s.peek key 32)).st = 1)
    (hopen : isOpen ((WireRec.ofNat (s.peek key 32)).ends e) = true) : let r := WireRec.ofNat (s.peek key 32)
    isPrincipal p = true → isPrincipal (r.ends (1 - e)) = true →
    (endNode p, endNode (r.ends (1 - e))) = (root, val) ∨ (endNode p, endNode (r.ends (1 - e))) = (val, root) →
    UnitSees s j cl (j.nodeVa root 0) r0 → UnitSees s j cl (j.nodeVa root 1) r1 → UnitSees s j cl (j.nodeVa root 2) r2 →
    UnitSees s j cl (j.nodeVa val 0) v0 → UnitSees s j cl (j.nodeVa val 1) v1 →
    ([(key, 32), (r0, 8), (r1, 8), (r2, 8), (v0, 8), (v1, 8)] : List (Nat × Nat)).Pairwise
      (fun x y => x.1 + x.2 ≤ y.1 ∨ y.1 + y.2 ≤ x.1) →
    s.peek64 r0 &&& nodeReserved = 0 → s.peek64 v0 &&& nodeReserved = 0 →
    nodeSym (s.peek64 r0) = symRoot → nodeSym (s.peek64 v0) = symVal → s.job? j.colour = some j →
    Runs (.setend cl w e p) s fun t => t.peek64 r1 = s.peek64 v1 ∧ t.peek64 r2 = s.peek64 r2 ||| 1 ∧ t.peek64 v0 = 0 ∧
      (WireRec.ofNat (t.peek key 32)).st = 0 ∧ (t.job? j.colour).map (·.rootNode) = some (some root) ∧
      (t.cluster cl).acts = ((s.cluster cl).acts + 1) % 2 ^ 48 ∧ (t.cluster cl).pond = (s.cluster cl).pond ∧ t.agenda = s.agenda := by
  intro r hp hother hwhich gr0 gr1 gr2 gv0 gv1 hapart hclean0 hclean1 hroot hval hjob
  obtain ⟨t, hs, hv⟩ := exec_setend_live hj g hu hgood hst hopen (p := p)
  have hcalm := (State.counted_calm cl hu).stored hs
  have hall := hapart
  simp only [List.pairwise_cons, List.mem_cons, List.not_mem_nil, or_false, forall_eq_or_imp, forall_eq, false_implies, implies_true,
    List.Pairwise.nil, and_true] at hall
  obtain ⟨⟨hk0, -, hk2, hkv0, hkv1⟩, -⟩ := hall
  have hkeep : ∀ k, key + 32 ≤ k ∨ k + 8 ≤ key → t.peek64 k = s.peek64 k := fun k hk =>
    hs.peek64_apart hu.1 (by rw [WireRec.bytes_length]; omega)
  have hends := r.setEnd_put_ends he p 1 (r.refs + 1)
  generalize ha : (r.setEnd e p).put 1 (r.refs + 1) = a at hs hv hends
  have hprincipal : isPrincipal a.e0 = true ∧ isPrincipal a.e1 = true := by
    obtain ⟨h0, h1⟩ | ⟨h0, h1⟩ := hends <;> rw [h0, h1]
    · exact ⟨hp, hother⟩
    · exact ⟨hother, hp⟩
  have hnodes : (endNode a.e0 = root ∧ endNode a.e1 = val) ∨ (endNode a.e0 = val ∧ endNode a.e1 = root) := by
    rw [Prod.mk.injEq, Prod.mk.injEq] at hwhich
    obtain ⟨h0, h1⟩ | ⟨h0, h1⟩ := hends <;> rw [h0, h1]
    · exact hwhich
    · exact hwhich.symm.imp And.symm And.symm
  have hr0 : t.loadNode j cl root 0 = .ok (t, s.peek64 r0) := hkeep r0 hk0 ▸ hcalm.loadNode gr0
  have hv0 : t.loadNode j cl val 0 = .ok (t, s.peek64 v0) := hkeep v0 hkv0 ▸ hcalm.loadNode gv0
  obtain ⟨x, y, hseen, hsyms, hpick⟩ : ∃ x y, PairSeen j cl t (endNode a.e0) (endNode a.e1) x y ∧
      ((nodeSym x = symRoot ∧ nodeSym y = symVal) ∨ (nodeSym x = symVal ∧ nodeSym y = symRoot)) ∧
      (if nodeSym x = symRoot then (endNode a.e0, endNode a.e1) else (endNode a.e1, endNode a.e0)) = (root, val) := by
    obtain ⟨h0, h1⟩ | ⟨h0, h1⟩ := hnodes <;> rw [h0, h1]
    · exact ⟨_, _, ⟨hr0, hv0, hclean0, hclean1⟩, .inl ⟨hroot, hval⟩, if_pos hroot⟩
    · exact ⟨_, _, ⟨hv0, hr0, hclean1, hclean0⟩, .inr ⟨hval, hroot⟩, if_neg (by rw [hval]; decide)⟩
  obtain ⟨u1, u2, u3, u4, hload, h1, hh, h2, h3, h4, hjoin⟩ :=
    hcalm.joins a g gr1 gr2 gv0 gv1 (hapart.sublist (.cons_cons _ (.cons _ (.refl _))))
  refine ⟨_, hv _ (testPair_joins hprincipal.1 hprincipal.2 hseen hsyms hpick hload h1 hh h2 h3 h4), ?_⟩
  obtain ⟨sh, hcl⟩ := hjoin.cluster
  rw [hs.only.cluster, State.counted_cluster] at hcl
  have hacts := (State.cluster_upCluster u4 cl cl (fun k => { k with acts := (k.acts + 1) % 2 ^ 48 })).trans (if_pos rfl)
  rw [hcl] at hacts
  have hjobs : u4.job? j.colour = some j := (State.job?_of_jobs (by rw [hjoin.jobs, hs.only]; rfl) _).trans hjob
  refine ⟨hjoin.value.trans (hkeep v1 hkv1), hjoin.held.trans (by rw [hkeep r2 hk2]), hjoin.gone, hjoin.free, ?_,
    (congrArg Cluster.acts hacts :), (congrArg Cluster.pond hacts :), hjoin.agenda.trans (by rw [hs.only]; rfl)⟩
  have hup := State.job?_upJob_same (u4.upCluster cl (fun k => { k with acts := (k.acts + 1) % 2 ^ 48 })) j.colour
    (f := fun q => { q with rootNode := some root }) (fun _ => rfl)
  rw [hup, show State.job? (u4.upCluster cl _) j.colour = some j from hjobs]
  rfl

end

end Sys2Proof.Machine

namespace Sys2Proof.Proofs
open Sys2Proof.Machine

/-- Settles O36: the Weir's accesses meet a record that it sees, each message branches on its state, and what it stores, sends and
frees follows. -/
theorem weirsServeMessages : Obligations.WeirsServeMessages := by
  unfold Obligations.WeirsServeMessages
  refine ⟨fun cl w e w2 e2 key p d j s hj g hu he => ?_, fun cl j s hj hu => ⟨?_, ?_, ?_, ?_⟩⟩
  · intro r spent unpaired fw fe attached replaced adopted q owner
    obtain ⟨hfw, hfe⟩ := r.fwd_lt
    refine ⟨fun h => ⟨recordBad_setend hj g hu (.inl h), recordBad_replace hj g hu (.inl h), recordBad_adopt hj g hu (.inl h),
        recordBad_splice hj g hu (.inl h), recordBad_unref hj g hu (.inl h), recordBad_wfree hj g hu (.inl h)⟩,
      fun hgood hst hopen hun => ?_, fun h => recordBad_setend hj g hu (.inr h), fun hgood hst hun => ?_, fun hgood hst hsp => ?_,
      fun hgood hst hun => ?_, fun hgood hst hsp => ?_, fun h => ⟨recordBad_replace hj g hu (.inr h), recordBad_adopt hj g hu (.inr h),
        recordBad_splice hj g hu (.inr h)⟩, fun hgood hst hne => ?_, fun hgood hst => ?_, fun hgood hst hsp hw2 he2 => ?_,
      fun hgood hst hd => ?_, fun h => recordBad_unref hj g hu (.inr h), fun hgood hst => ?_, fun h => recordBad_wfree hj g hu (.inr h)⟩
    · obtain ⟨t, hs, hv⟩ := exec_setend_live hj g hu hgood hst hopen (p := p)
      have hb := WireBecomes.of_stored hu.1 hs (.refl cl t)
      rw [List.append_nil] at hb
      exact ⟨t, hv t (testPair_unpaired hun), hb⟩
    · obtain ⟨t, hs, hv⟩ := exec_replace_live hj g hu hgood hst (e := e) (p := p)
      have hb := WireBecomes.of_stored hu.1 hs (.refl cl t)
      rw [List.append_nil] at hb
      exact ⟨t, hv t (testPair_unpaired hun), hb⟩
    · obtain ⟨t, hs, hv⟩ := exec_replace_shunt hj g hu hgood hst hsp (p := p)
      have hb := WireBecomes.of_stored hu.1 hs ((Told.sendResolve cl p w e fw fe t).trans (.weirSend cl ⟨2, portWord fw fe, p, 0⟩ _))
      rw [replace_event hfw hfe] at hb
      exact ⟨_, hv, hb⟩
    · obtain ⟨t, hs, hv⟩ := exec_adopt_live hj g hu hgood hst (e := e) (p := p)
      have hb := WireBecomes.of_stored hu.1 hs (.refl cl t)
      rw [List.append_nil] at hb
      exact ⟨t, hv t (testPair_unpaired hun), hb⟩
    · have ht := Told.sendAdopt cl fw fe p (s.counted cl)
      refine ⟨_, exec_adopt_shunt hj g hu hgood hst hsp, ⟨?_, fun a _ => ?_, ?_, ?_⟩, ?_⟩
      · rfl
      · rfl
      · rw [ht.cluster, State.counted_cluster]
      · rfl
      · rfl
    · obtain ⟨t, hs, hv⟩ := exec_splice_live hj g hu hgood hst hne (e := e) (e2 := e2)
      exact ⟨_, hv, Told.spliced hs hu.1 w2 e2⟩
    · obtain ⟨t, hr, hv⟩ := exec_splice_loop hj g hu hgood hst (e := e)
      have hcl : ((s.counted cl).upCluster cl (fun k => { k with loops := Nat.min (k.loops + 1) 0xFFFF })).cluster cl =
          { (s.counted cl).cluster cl with loops := Nat.min (((s.counted cl).cluster cl).loops + 1) 0xFFFF } := by
        rw [State.cluster_upCluster, if_pos rfl]
      refine ⟨t, hv, hr.wireFreed rfl (fun _ _ => rfl) hu.1 (by rw [hcl, State.counted_cluster]), hr.agenda, ?_⟩
      rw [hr.cluster, hcl, State.counted_cluster]
    · obtain ⟨t, hs, hkeep, hfree⟩ := exec_splice_shunt hj g hu hgood hst hsp (w2 := w2) (e2 := e2)
      have ht := Told.weirSend cl ⟨3, portWord fw fe, portWord w2 e2, 0⟩ t
      rw [splice_event hfw hfe hw2 he2] at ht
      have hrefs : (r.put 2 (r.refs + 65535)).refs = 0 ↔ r.refs = 1 := by
        have := r.refs_lt
        rw [WireRec.put_refs]
        omega
      obtain ⟨hb, hagenda⟩ := WireBecomes.of_stored hu.1 hs ht
      by_cases h1 : r.refs = 1
      · obtain ⟨v, hr, hv⟩ := hfree (hrefs.2 h1)
        obtain ⟨hf, hag⟩ := WireFreed.of_stored hu.1 hs ht hr
        exact ⟨v, hv, hag, fun hn => absurd h1 hn, fun _ => hf⟩
      · exact ⟨_, hkeep (fun h => h1 (hrefs.1 h)), hagenda, fun _ => hb, fun h => absurd h h1⟩
    · obtain ⟨t, hs, hkeep, hfree⟩ := exec_unref_shunt hj g hu hgood hst (d := d)
      have hput : r.put 2 (r.refs + 2 * 65536 - 1 - d) = r.put 2 (r.refs - 1 - d) := by
        unfold WireRec.put
        rw [show (r.refs + 2 * 65536 - 1 - d) % 65536 = (r.refs - 1 - d) % 65536 by omega]
      have hrefs : (r.put 2 (r.refs - 1 - d)).refs = 0 ↔ d + 1 = r.refs := by
        have := r.refs_lt
        rw [WireRec.put_refs]
        omega
      rw [hput] at hs hkeep hfree
      obtain ⟨hb, hagenda⟩ := WireBecomes.of_stored hu.1 hs (.refl cl t)
      rw [List.append_nil] at hagenda
      by_cases h1 : d + 1 = r.refs
      · obtain ⟨v, hr, hv⟩ := hfree (hrefs.2 h1)
        obtain ⟨hf, hag⟩ := WireFreed.of_stored hu.1 hs (.refl cl t) hr
        rw [List.append_nil] at hag
        exact ⟨v, hv, hag, fun hn => absurd h1 hn, fun _ => hf⟩
      · exact ⟨_, hkeep (fun h => h1 (hrefs.1 h)), hagenda, fun _ => hb, fun h => absurd h h1⟩
    · obtain ⟨t, hr, hv⟩ := exec_wfree hj g hu hgood hst
      exact ⟨t, hv, .of_counted hu.1 hr, hr.agenda⟩
  · exact fun p ow oe nw ne k0 kk g0 gk how => runs_resolve hj hu g0 gk how
  · exact fun n k0 k1 g0 g1 hapart => runs_nfree hj hu g0 g1 hapart
  · exact fun w e p key k0 k1 _ g => runs_setend_active hj hu g
  · exact fun w e p key root val r0 r1 r2 v0 v1 he g => runs_setend_root hj hu he g

end Sys2Proof.Proofs

end

section
/-! SUPPORT. What a job that leaves its partition leaves behind: the record that is published, clusters that return or reset
together, and what the Dispatcher's books and the owners of clusters keep (R94, R314, R319, R389). -/

namespace Sys2Proof.Machine

/-! ### Memory in ranges -/

/-- A key that is dropped reads 0, every other as before. -/
theorem Memory.read_filter (m : Memory) (p : Nat → Bool) (k : Nat) :
    Memory.read (m.filter fun e => p e.1) k = if p k then m.read k else 0 := by
  induction m with
  | nil => exact (ite_self _).symm
  | cons e r ih =>
    obtain ⟨i, b⟩ := e
    rw [List.filter_cons]
    by_cases hi : i = k
    · subst hi
      cases hp : p i <;> simp_all [Memory.read]
    · have hr : Memory.read ((i, b) :: r) k = Memory.read r k := if_neg hi
      rw [hr, ← ih]
      split
      · exact if_neg hi
      · rfl

theorem Memory.writeBytes_append (m : Memory) (k : Nat) (a b : List Byte) :
    m.writeBytes k (a ++ b) = (m.writeBytes k a).writeBytes (k + a.length) b := by
  induction a generalizing m k with
  | nil => rfl
  | cons x a ih =>
    rw [List.cons_append, Memory.writeBytes, Memory.writeBytes, ih, List.length_cons, Nat.add_assoc, Nat.add_comm 1]

theorem Memory.bytes_writeBytes_low {m : Memory} (k : Nat) (a b : List Byte) (w : m.wf = true) :
    (m.writeBytes k (a ++ b)).bytes k a.length = a := by
  rw [Memory.writeBytes_append, Memory.bytes_congr k a.length fun i hi =>
    Memory.read_writeBytes_out _ b _ (Memory.wf_writeBytes k a w) (.inl (by omega)), Memory.bytes_writeBytes k a w]

theorem Memory.bytes_writeBytes_high {m : Memory} (k : Nat) (a b : List Byte) (w : m.wf = true) :
    (m.writeBytes k (a ++ b)).bytes (k + a.length) b.length = b := by
  rw [Memory.writeBytes_append, Memory.bytes_writeBytes _ b (Memory.wf_writeBytes k a w)]

/-! ### Publication while nothing waits (R314, R320) -/

theorem State.latch_empty {s : State} (h : s.hub.table = []) : s.latch = s := by
  have e (f : Launch → Launch) : s.hub.table.map f = s.hub.table := by rw [h]; rfl
  unfold State.latch State.upHub State.setHub
  dsimp only
  rw [e]

/-- A publication decides nothing where no entry waits. -/
theorem State.settleTable_empty {s : State} (h : s.hub.table = []) (n : Nat) : State.settleTable n s = s := by
  cases n with
  | zero => rfl
  | succ n =>
    unfold State.settleTable
    dsimp only
    rw [State.latch_empty h, h]
    rfl

/-- The bytes of a completion record (R314). -/
def recordBytes (w0 : Nat) (value : Word) (acts time : Nat) : List Byte :=
  leBytes 8 w0 ++ leBytes 8 value.toNat ++ leBytes 8 (acts % 2 ^ 48) ++ leBytes 8 time

/-- What recording a completion leaves as it is, and the bytes that it places. -/
structure Recorded (pa : Nat) (bs : List Byte) (s t : State) : Prop where
  units : t = { s with mem := t.mem, under := t.under, poison := t.poison, damage := t.damage, queues := t.queues, agenda := t.agenda }
  mem : populated pa = true → t.mem = s.mem.writeBytes pa bs

theorem Recorded.booked {pa : Nat} {bs : List Byte} {s u t : State} (h : Recorded pa bs s u)
    (e : t = { u with queues := t.queues, agenda := t.agenda }) : Recorded pa bs s t := by
  have hmem : t.mem = u.mem := by rw [e]
  exact ⟨by rw [e, h.units], fun hp => hmem.trans (h.mem hp)⟩

theorem State.record_spec (s : State) (q seq status detail : Nat) (value : Word) (acts : Nat) :
    Recorded (s.recordPa q seq) (recordBytes (seq * 2 ^ 32 + q * 2 ^ 16 + detail * 2 ^ 8 + status) value acts s.hub.time.toNat) s
      (s.record q seq status detail value acts) := by
  unfold State.record State.recordPa
  extract_lets k w0 pa u stats done v
  have poked (bs : List Byte) : Recorded pa bs s (if populated pa = true then s.poke pa bs false else s) :=
    iteInduction (motive := Recorded pa bs s) (fun _ => ⟨s.poke_units _ _ _, fun _ => s.poke_mem _ _ _⟩)
      (fun h => ⟨rfl, fun hp => absurd hp h⟩)
  have hu : Recorded pa (recordBytes w0 value acts s.hub.time.toNat) s u := poked _
  clear_value u
  exact iteInduction (motive := Recorded pa (recordBytes w0 value acts s.hub.time.toNat) s) (fun _ => hu.booked rfl)
    (fun _ => hu.booked rfl)

/-- With no entry waiting, a publication is its record. -/
theorem State.publish_of_empty {s : State} (h : s.hub.table = []) (q seq status detail : Nat) (value : Word) (acts : Nat) :
    s.publish q seq status detail value acts = s.record q seq status detail value acts := by
  have ht : (s.record q seq status detail value acts).hub.table = [] := by
    rw [(s.record_spec q seq status detail value acts).units]
    exact h
  exact State.settleTable_empty ht _

theorem Recorded.published {q seq status detail acts : Nat} {value : Word} {s t : State} (hwf : s.mem.wf = true)
    (h : Recorded (s.recordPa q seq) (recordBytes (seq * 2 ^ 32 + q * 2 ^ 16 + detail * 2 ^ 8 + status) value acts s.hub.time.toNat) s t) :
    Published q seq status detail s t := by
  intro hp
  unfold State.peek
  rw [h.mem hp]
  unfold recordBytes
  constructor
  · rw [List.append_assoc, List.append_assoc]
    have := Memory.bytes_writeBytes_low (s.recordPa q seq) (leBytes 8 (seq * 2 ^ 32 + q * 2 ^ 16 + detail * 2 ^ 8 + status))
      (leBytes 8 value.toNat ++ (leBytes 8 (acts % 2 ^ 48) ++ leBytes 8 s.hub.time.toNat)) hwf
    rw [leBytes_length] at this
    rw [this, leVal_leBytes, show (256 : Nat) ^ 8 = 2 ^ 64 from rfl]
  · have := Memory.bytes_writeBytes_high (s.recordPa q seq) (leBytes 8 (seq * 2 ^ 32 + q * 2 ^ 16 + detail * 2 ^ 8 + status) ++
      leBytes 8 value.toNat ++ leBytes 8 (acts % 2 ^ 48)) (leBytes 8 s.hub.time.toNat) hwf
    simp only [List.length_append, leBytes_length] at this
    rw [this, leVal_leBytes, show (256 : Nat) ^ 8 = 2 ^ 64 from rfl, Nat.mod_eq_of_lt s.hub.time.isLt]

end Sys2Proof.Machine
end

section
/-! SUPPORT. What the Dispatcher's books and the owners of clusters keep while lines are evicted, clusters reset together or
return, and a job is unloaded (R94, R319, R389, R410). -/

namespace Sys2Proof.Machine

/-! ### The Dispatcher's books -/

/-- What publication rests on, and who owns which cluster, is as before. -/
structure BooksKept (s t : State) : Prop where
  queues : t.queues = s.queues
  table : t.hub.table = s.hub.table
  time : t.hub.time = s.hub.time
  wf : s.mem.wf = true → t.mem.wf = true
  owners : ∀ cl, (t.cluster cl).job = (s.cluster cl).job

theorem BooksKept.refl (s : State) : BooksKept s s := ⟨rfl, rfl, rfl, id, fun _ => rfl⟩

theorem BooksKept.trans {s t u : State} (h : BooksKept s t) (g : BooksKept t u) : BooksKept s u :=
  ⟨g.queues.trans h.queues, g.table.trans h.table, g.time.trans h.time, fun w => g.wf (h.wf w),
    fun cl => (g.owners cl).trans (h.owners cl)⟩

/-- A report changes none of them. -/
theorem BooksKept.of_reported {s t : State} (h : Reported s t) : BooksKept s t := by
  refine ⟨?_, ?_, ?_, fun w => ?_, fun cl => by rw [h.cluster]⟩
  · rw [h.units]
  · rw [h.units]
  · rw [h.units]
  · rw [h.mem]; exact w

theorem BooksKept.poke (s : State) (key : Nat) (bs : List Byte) (cached : Bool) : BooksKept s (s.poke key bs cached) :=
  ⟨rfl, rfl, rfl, fun w => Memory.wf_writeBytes key bs w, fun _ => rfl⟩

theorem BooksKept.eventWord (s : State) (w : Nat) : BooksKept s (s.eventWord w) := by
  unfold State.eventWord
  split
  · exact .poke _ _ _ _
  · exact .refl s

theorem BooksKept.contain (s : State) (n : Nat) : BooksKept s (s.contain n) := by
  unfold State.contain
  dsimp only
  split
  · exact .refl s
  · exact ⟨rfl, rfl, rfl, id, fun _ => rfl⟩

theorem BooksKept.containJob (s : State) (colour cl code : Nat) : BooksKept s (s.containJob colour cl code) := by
  have ended (f : Job → Job) : BooksKept s ((s.endJob colour 6 code).upJob colour f) :=
    .of_reported (((Reported.refl s).endJob colour 6 code 0).upJob colour f)
  unfold State.containJob
  dsimp only
  split
  · exact (ended _).trans (.contain _ _)
  · exact ended _

theorem BooksKept.machineCheck (s : State) (die cl : Nat) (i : LogInfo) : BooksKept s (s.machineCheck die cl i) := by
  have logged : BooksKept s (s.logRec die i) := .of_reported ((Reported.refl s).logRec die i)
  have told : ∀ u, BooksKept s u → BooksKept s (if i.colour = 0 then u else u.containJob i.colour cl i.code) := by
    intro u hu
    split
    · exact hu
    · exact hu.trans (.containJob _ _ _ _)
  unfold State.machineCheck
  refine told _ ?_
  split
  · exact logged.trans (.eventWord _ _)
  · exact logged.trans ⟨rfl, rfl, rfl, id, fun _ => rfl⟩

theorem BooksKept.xorWord (s : State) (w : Nat) (m : Word) : BooksKept s (s.xorWord w m) := by
  unfold State.xorWord
  dsimp only
  split
  · exact ⟨rfl, rfl, rfl, fun h => Memory.wf_writeBytes _ _ h, fun _ => rfl⟩
  · split
    · exact ⟨rfl, rfl, rfl, id, fun _ => rfl⟩
    · split <;> exact ⟨rfl, rfl, rfl, id, fun _ => rfl⟩

theorem BooksKept.xorWords (s : State) (l : List (Nat × Word)) : BooksKept s (l.foldl (fun u e => u.xorWord e.1 e.2) s) :=
  List.foldlRecOn (motive := BooksKept s) l _ (.refl s) fun u hu e _ => hu.trans (.xorWord u e.1 e.2)

/-- What is known of damaged and poisoned words may change. -/
theorem BooksKept.of_flaws {s t : State} (h : BooksKept s t) (damage : NMap Word) (poison : List Nat) :
    BooksKept s { t with damage := damage, poison := poison } := ⟨h.queues, h.table, h.time, h.wf, h.owners⟩

theorem BooksKept.recover (s : State) (stripe : Nat) : BooksKept s (s.recover stripe) := by
  unfold State.recover
  dsimp only
  split
  · exact .refl s
  · exact (BooksKept.xorWord s _ _).of_flaws _ _
  · split
    · have fetched (l : List (Nat × Word)) (damage : NMap Word) (poison : List Nat) :
          BooksKept s { l.foldl (fun u e => u.xorWord e.1 e.2) s with damage := damage, poison := poison } :=
        (BooksKept.xorWords s l).of_flaws damage poison
      split
      · exact fetched _ _ _
      · exact (fetched _ _ _).trans (.machineCheck _ _ _ _)
    · split
      · exact .refl s
      · exact ((BooksKept.refl s).of_flaws _ _).trans (.machineCheck _ _ _ _)

theorem BooksKept.settle (s : State) (key n : Nat) : BooksKept s (s.settle key n) :=
  List.foldlRecOn (motive := BooksKept s) _ _ (.refl s) fun _ hu st _ => hu.trans (.recover _ st)

theorem BooksKept.evict (s : State) (sel : Nat → Bool) : BooksKept s (s.evict sel) := by
  unfold State.evict
  dsimp only
  refine List.foldlRecOn (motive := BooksKept s) _ _ ?_ fun _ hu _ _ => hu.trans (.machineCheck _ _ _ _)
  have fetched (l : List (Nat × Word)) : BooksKept s (l.foldl (fun (u : State) e =>
      if u.dirtyLine (e.1 / 8) then u.settle (e.1 * 8) 8 else u.xorWord e.1 e.2) s) := by
    refine List.foldlRecOn (motive := BooksKept s) _ _ (.refl s) fun u hu e _ => ?_
    split
    · exact hu.trans (.settle _ _ _)
    · exact hu.trans (.xorWord _ _ _)
  obtain ⟨hq, ht, htime, hwf, ho⟩ := fetched (s.damage.filter fun e => isGlobal (e.1 * 8) && sel (e.1 * 8))
  exact ⟨hq, ht, htime, hwf, ho⟩

/-- With nothing damaged or poisoned lines leave L2 without a trace. -/
theorem State.evict_undamaged {s : State} (hd : s.damage = []) (hp : s.poison = []) (sel : Nat → Bool) :
    s.evict sel = { s with under := s.under.filter fun e => !sel e.1 } := by
  unfold State.evict
  simp only [hd, hp, List.filter_nil, List.foldl_nil]

/-! ### Lists of units -/

theorem mem_coresOf {cls : List Nat} {c : Nat} : c ∈ cls.flatMap coresIn ↔ clusterOf c ∈ cls := by
  unfold coresIn clusterOf
  rw [List.mem_flatMap]
  constructor
  · rintro ⟨cl, hcl, hc⟩
    obtain ⟨i, hi, rfl⟩ := List.mem_map.1 hc
    have := List.mem_range.1 hi
    rwa [show (cl * 16 + i) / 16 = cl by omega]
  · intro h
    exact ⟨_, h, List.mem_map.2 ⟨c % 16, List.mem_range.2 (by omega), by omega⟩⟩

/-- What every step keeps and the step of an element brings about holds of each element in the end. -/
theorem foldl_brings {α β : Type} {f : β → α → β} {P : α → β → Prop} (brings : ∀ b a, P a (f b a))
    (keeps : ∀ b a x, P x b → P x (f b a)) (l : List α) (b : β) : ∀ x ∈ l, P x (l.foldl f b) := by
  induction l generalizing b with
  | nil => exact fun _ hx => nomatch hx
  | cons a l ih =>
    intro x hx
    rw [List.foldl_cons]
    rcases List.mem_cons.1 hx with rfl | hx
    · exact List.foldlRecOn (motive := P x) l _ (brings b x) fun u hu a _ => keeps u a x hu
    · exact ih _ x hx

theorem State.core_setCores (l : List Nat) (f : Nat → Core) (s : State) (x : Nat) :
    (l.foldl (fun (u : State) c => u.setCore c (f c)) s).core x = if x ∈ l then f x else s.core x := by
  induction l generalizing s with
  | nil => rfl
  | cons c l ih =>
    rw [List.foldl_cons, ih, State.core_setCore]
    by_cases hx : x = c
    · subst hx; simp
    · simp [hx, Ne.symm hx]

theorem State.setCores_units (l : List Nat) (f : Nat → Core) (s : State) :
    l.foldl (fun (u : State) c => u.setCore c (f c)) s =
      { s with cores := (l.foldl (fun (u : State) c => u.setCore c (f c)) s).cores } :=
  List.foldlRecOn (motive := fun u : State => u = { s with cores := u.cores }) l _ rfl fun u hu c _ => by
    rw [hu]; rfl

end Sys2Proof.Machine
end

section
/-! SUPPORT. Clusters that reset together or return, and a job that is unloaded and leaves its partition (R94, R319, R389). -/

namespace Sys2Proof.Machine

/-! ### Clusters that reset together (R389) -/

theorem State.zeroKeys_read (s : State) (lo hi k : Nat) :
    (s.zeroKeys lo hi).mem.read k = if lo ≤ k ∧ k < hi then 0 else s.mem.read k := by
  unfold State.zeroKeys
  rw [Memory.read_filter s.mem (fun k => !(decide (lo ≤ k) && decide (k < hi)))]
  rw [← Bool.decide_and]
  by_cases h : lo ≤ k ∧ k < hi
  · rw [if_pos h, decide_eq_true h]; rfl
  · rw [if_neg h, decide_eq_false h]; rfl

/-- A byte of a scratchpad is zeroed with the cluster of its core, and with no other. -/
theorem State.zeroCluster_read (s : State) (cl c i : Nat) (hc : c < 512) (hi : i < 2 ^ 18) :
    (s.zeroCluster cl).mem.read (padKey c i) = if clusterOf c = cl then 0 else s.mem.read (padKey c i) := by
  have hlane : ¬(laneKey (16 * cl) 0 ≤ padKey c i ∧ padKey c i < laneKey (16 * cl + 16) 0) := by
    unfold laneKey padKey; omega
  have hpad : (padKey (16 * cl) 0 ≤ padKey c i ∧ padKey c i < padKey (16 * cl + 16) 0) ↔ clusterOf c = cl := by
    unfold padKey clusterOf; omega
  unfold State.zeroCluster
  rw [State.zeroKeys_read, if_neg hlane, State.zeroKeys_read]
  exact if_congr hpad rfl rfl

/-- Clusters whose cores are at their reset values, with scratchpads of 0, and what else a reset changes. -/
structure ResetTogether (cls : List Nat) (s t : State) : Prop where
  units : t = { s with mem := t.mem, damage := t.damage, clusters := t.clusters, mus := t.mus, cores := t.cores }
  wf : s.mem.wf = true → t.mem.wf = true
  damage : s.damage = [] → t.damage = []
  owners : ∀ cl, (t.cluster cl).job = (s.cluster cl).job
  cores : ∀ c, t.core c = if clusterOf c ∈ cls then Core.initial c else s.core c
  pads : ∀ c, c < 512 → ∀ i, i < 2 ^ 18 →
    t.mem.read (padKey c i) = if clusterOf c ∈ cls then 0 else s.mem.read (padKey c i)

/-- A cluster takes its reset values but those of its part and its owner. -/
structure ClusterReset (cl : Nat) (s t : State) : Prop where
  units : t = { s with mem := t.mem, damage := t.damage, clusters := t.clusters, mus := t.mus }
  mem : t.mem = (s.zeroCluster cl).mem
  damage : s.damage = [] → t.damage = []
  owners : ∀ x, (t.cluster x).job = (s.cluster x).job

theorem ClusterReset.of_updates (s : State) (cl a b : Nat) {f : Cluster → Cluster} (g h : Mu → Mu) (hf : ∀ k, (f k).job = k.job) :
    ClusterReset cl s ((((s.zeroCluster cl).upCluster cl f).upMu a g).upMu b h) := by
  refine ⟨rfl, rfl, fun h => ?_, fun x => ?_⟩
  · change List.filter _ (List.filter _ s.damage) = []
    rw [h]
    rfl
  · rw [State.cluster_upMu, State.cluster_upMu, State.cluster_upCluster]
    split
    · next e => subst e; exact hf _
    · rfl

theorem ClusterReset.wf {cl : Nat} {s t : State} (h : ClusterReset cl s t) (w : s.mem.wf = true) : t.mem.wf = true := by
  rw [h.mem]
  exact Memory.wf_filter _ (Memory.wf_filter _ w)

theorem ClusterReset.read {cl : Nat} {s t : State} (h : ClusterReset cl s t) {c i : Nat} (hc : c < 512) (hi : i < 2 ^ 18) :
    t.mem.read (padKey c i) = if clusterOf c = cl then 0 else s.mem.read (padKey c i) := by
  rw [h.mem]
  exact s.zeroCluster_read cl c i hc hi

/-- One cluster after the other: nothing but their state has changed. -/
theorem ResetTogether.of_clusters {f : State → Nat → State} (hf : ∀ u cl, ClusterReset cl u (f u cl)) (cls : List Nat) (s : State) :
    ResetTogether cls s ((cls.flatMap coresIn).foldl (fun (u : State) c => u.setCore c (Core.initial c)) (cls.foldl f s)) := by
  have hcores := State.setCores_units (cls.flatMap coresIn) Core.initial (cls.foldl f s)
  have hunits : cls.foldl f s = { s with
      mem := (cls.foldl f s).mem, damage := (cls.foldl f s).damage
      clusters := (cls.foldl f s).clusters, mus := (cls.foldl f s).mus } :=
    List.foldlRecOn (motive := fun u : State => u = { s with mem := u.mem, damage := u.damage, clusters := u.clusters, mus := u.mus })
      cls _ rfl fun u hu cl _ => by rw [(hf u cl).units, hu]
  refine ⟨?_, fun w => ?_, fun hd => ?_, fun cl => ?_, fun c => ?_, fun c hc i hi => ?_⟩
  · rw [hcores, hunits]
  · rw [hcores]
    exact List.foldlRecOn (motive := fun u : State => u.mem.wf = true) cls _ w fun u hu cl _ => (hf u cl).wf hu
  · rw [hcores]
    exact List.foldlRecOn (motive := fun u : State => u.damage = []) cls _ hd fun u hu cl _ => (hf u cl).damage hu
  · rw [hcores]
    exact List.foldlRecOn (motive := fun u : State => (u.cluster cl).job = (s.cluster cl).job) cls _ rfl fun u hu x _ =>
      ((hf u x).owners cl).trans hu
  · rw [State.core_setCores]
    refine if_congr mem_coresOf rfl ?_
    rw [hunits]
    rfl
  · rw [hcores]
    change (cls.foldl f s).mem.read (padKey c i) = _
    split
    · next hin =>
      refine foldl_brings (P := fun cl (u : State) => clusterOf c = cl → u.mem.read (padKey c i) = 0) (fun u cl h => ?_)
        (fun u cl x hu h => ?_) cls s _ hin rfl
      · rw [(hf u cl).read hc hi, if_pos h]
      · rw [(hf u cl).read hc hi, hu h, ite_self]
    · next hout =>
      refine List.foldlRecOn (motive := fun u : State => u.mem.read (padKey c i) = s.mem.read (padKey c i)) cls _ rfl
        fun u hu cl hcl => ?_
      rw [(hf u cl).read hc hi, if_neg fun (e : clusterOf c = cl) => hout (e ▸ hcl), hu]

/-- Dirty lines leave L2, then the clusters reset together. -/
theorem State.resetClusters_spec (s : State) (cls : List Nat) : ∃ sel, ResetTogether cls (s.evict sel) (s.resetClusters cls) := by
  refine ⟨_, ResetTogether.of_clusters (fun u cl => ?_) cls _⟩
  dsimp only [List.foldl_cons, List.foldl_nil]
  refine ClusterReset.of_updates u cl (2 * cl) (2 * cl + 1) _ _ ?_
  exact fun _ => rfl

theorem State.resetClusters_undamaged {s : State} (hd : s.damage = []) (hp : s.poison = []) (cls : List Nat) :
    ∃ u : List (Nat × Byte), ResetTogether cls { s with under := u } (s.resetClusters cls) := by
  obtain ⟨sel, h⟩ := s.resetClusters_spec cls
  rw [State.evict_undamaged hd hp] at h
  exact ⟨_, h⟩

theorem BooksKept.resetClusters (s : State) (cls : List Nat) : BooksKept s (s.resetClusters cls) := by
  obtain ⟨sel, h⟩ := s.resetClusters_spec cls
  refine (BooksKept.evict s sel).trans ⟨?_, ?_, ?_, h.wf, h.owners⟩
  · rw [h.units]
  · rw [h.units]
  · rw [h.units]

/-! ### Clusters that return (R65) -/

theorem State.returnPartition_units (s : State) (cls : List Nat) : s.returnPartition cls = { s with
    clusters := (s.returnPartition cls).clusters, mus := (s.returnPartition cls).mus, cores := (s.returnPartition cls).cores } := by
  unfold State.returnPartition
  refine List.foldlRecOn (motive := fun u : State => u = { s with clusters := u.clusters, mus := u.mus, cores := u.cores }) _ _ ?_
    fun u hu c _ => by rw [hu]; rfl
  exact List.foldlRecOn (motive := fun u : State => u = { s with clusters := u.clusters, mus := u.mus, cores := u.cores }) _ _ rfl
    fun u hu c _ => by rw [hu]; rfl

/-- A core outside stays as it is. -/
theorem State.returnPartition_core (s : State) (cls : List Nat) {c : Nat} (hc : clusterOf c ∉ cls) :
    (s.returnPartition cls).core c = s.core c := by
  unfold State.returnPartition
  refine List.foldlRecOn (motive := fun u : State => u.core c = s.core c) _ _ ?_ fun u hu x hx => ?_
  · exact List.foldlRecOn (motive := fun u : State => u.core c = s.core c) _ _ rfl fun u hu x _ => hu
  · rw [State.core_upCore, if_neg fun (e : x = c) => hc (mem_coresOf.1 (e ▸ hx)), hu]

/-- What a cleared cluster always holds, a returned one holds; the others are as before. -/
theorem State.returnPartition_cluster {α : Type} (f : Cluster → α) {z : α} (hf : ∀ k : Cluster, f k.cleared = z) (s : State)
    (cls : List Nat) (x : Nat) : f ((s.returnPartition cls).cluster x) = if x ∈ cls then z else f (s.cluster x) := by
  have step (u : State) (cl : Nat) : f ((((u.upCluster cl Cluster.cleared).upMu (2 * cl) (·.cleared (2 * cl))).upMu (2 * cl + 1)
      (·.cleared (2 * cl + 1))).cluster x) = if cl = x then z else f (u.cluster x) := by
    rw [State.cluster_upMu, State.cluster_upMu, State.cluster_upCluster]
    split
    · exact hf _
    · rfl
  unfold State.returnPartition
  refine List.foldlRecOn (motive := fun u : State => f (u.cluster x) = if x ∈ cls then z else f (s.cluster x)) _ _ ?_ fun u hu c _ => hu
  split
  · next hx =>
    exact foldl_brings (P := fun cl (u : State) => cl = x → f (u.cluster x) = z) (fun u cl h => (step u cl).trans (if_pos h))
      (fun u cl _ hu h => (step u cl).trans (by rw [hu h, ite_self])) cls s x hx rfl
  · next hx =>
    exact List.foldlRecOn (motive := fun u : State => f (u.cluster x) = f (s.cluster x)) cls _ rfl fun u hu cl hcl =>
      (step u cl).trans ((if_neg fun (e : cl = x) => hx (e ▸ hcl)).trans hu)

theorem State.returnPartition_job (s : State) (cls : List Nat) (x : Nat) :
    ((s.returnPartition cls).cluster x).job = if x ∈ cls then none else (s.cluster x).job :=
  s.returnPartition_cluster (·.job) (fun _ => rfl) cls x

/-! ### A job that is unloaded (R94, R118, R319) -/

/-- Held stores perform, tickets end and traffic is dropped: jobs, clusters and cores stay as they are. -/
structure Unloaded (s t : State) : Prop where
  units : t = { s with
    mem := t.mem, under := t.under, poison := t.poison, damage := t.damage, heldWrites := t.heldWrites, slices := t.slices
    hub := t.hub, agenda := t.agenda, dies := t.dies, ports := t.ports }
  hub : t.hub = { s.hub with replays := t.hub.replays, dsigs := t.hub.dsigs }
  wf : s.mem.wf = true → t.mem.wf = true
  damage : s.damage = [] → t.damage = []
  poison : s.poison = [] → t.poison = []

theorem Unloaded.refl (s : State) : Unloaded s s := ⟨rfl, rfl, id, id, id⟩

theorem Unloaded.trans {s t u : State} (h : Unloaded s t) (g : Unloaded t u) : Unloaded s u :=
  ⟨by rw [g.units, h.units], by rw [g.hub, h.hub], fun w => g.wf (h.wf w), fun d => g.damage (h.damage d),
    fun p => g.poison (h.poison p)⟩

theorem Unloaded.cluster {s t : State} (h : Unloaded s t) (cl : Nat) : t.cluster cl = s.cluster cl := by rw [h.units]; rfl
theorem Unloaded.jobs {s t : State} (h : Unloaded s t) : t.jobs = s.jobs := by rw [h.units]

theorem Unloaded.books {s t : State} (h : Unloaded s t) : BooksKept s t := by
  refine ⟨?_, ?_, ?_, h.wf, fun cl => by rw [h.cluster]⟩
  · rw [h.units]
  · rw [h.hub]
  · rw [h.hub]

theorem Unloaded.poke (s : State) (key : Nat) (bs : List Byte) (cached : Bool) : Unloaded s (s.poke key bs cached) := by
  refine ⟨s.poke_units _ _ _, rfl, fun w => Memory.wf_writeBytes key bs w, fun h => ?_, fun h => ?_⟩
  · change clearDamage s.damage key bs.length = []
    rw [h]
    rfl
  · change (if s.poison.isEmpty then s.poison else _) = []
    rw [h]
    rfl

theorem State.performHeld_unloads (s : State) (j : Job) : Unloaded s (s.performHeld j) :=
  List.foldlRecOn (motive := Unloaded s) _ _ ⟨rfl, rfl, id, id, id⟩ fun u hu w _ => hu.trans (.poke u w.key w.bytes true)

theorem State.endTickets_unloads (s : State) (colour : Nat) : Unloaded s (s.endTickets colour) := ⟨rfl, rfl, id, id, id⟩

theorem State.upSession_unloads (s : State) (colour : Nat) (f : Replay → Replay) : Unloaded s (s.upSession colour f) :=
  ⟨rfl, rfl, id, id, id⟩

theorem Unloaded.upDies (s : State) (l : List Nat) (f : Die → Die) : Unloaded s (l.foldl (fun (u : State) d => u.upDie d f) s) :=
  List.foldlRecOn (motive := Unloaded s) _ _ (.refl s) fun _ hu _ _ => hu.trans ⟨rfl, rfl, id, id, id⟩

theorem Unloaded.upPorts (s : State) (l : List Nat) (f : Port → Port) : Unloaded s (l.foldl (fun (u : State) p => u.upPort p f) s) :=
  List.foldlRecOn (motive := Unloaded s) _ _ (.refl s) fun _ hu _ _ => hu.trans ⟨rfl, rfl, id, id, id⟩

theorem State.dropMsgs_unloads (s : State) (colour : Nat) : Unloaded s (s.dropMsgs colour) := .upDies s _ _

theorem State.dropTraffic_unloads (s : State) (j : Job) (cls : List Nat) : Unloaded s (s.dropTraffic j cls) := by
  unfold State.dropTraffic
  extract_lets here u v keep w
  have hu : Unloaded s u := ⟨rfl, rfl, id, id, id⟩
  have hv : Unloaded u v := .upDies u _ _
  have hw : Unloaded v w := .upPorts v _ _
  exact (((hu.trans hv).trans hw).trans (w.dropMsgs_unloads j.colour)).trans ⟨rfl, rfl, id, id, id⟩

/-- Clusters of a job that are its own now. -/
def State.ownedBy (s : State) (j : Job) : List Nat := j.clusters.filter fun cl => (s.cluster cl).job == some j.colour

theorem State.mem_ownedBy {s : State} {j : Job} {cl : Nat} : cl ∈ s.ownedBy j ↔ cl ∈ j.clusters ∧ (s.cluster cl).job = some j.colour := by
  unfold State.ownedBy
  rw [List.mem_filter, beq_iff_eq]

/-- A job leaves its partition: it is unloaded, its clusters reset together if it is contained, and they return. -/
theorem State.leave_spec (s : State) (j : Job) : ∃ v f, Unloaded s v ∧
    (∀ q : Job, (f q).colour = q.colour ∧ (f q).ending = q.ending ∧ (f q).contain = false) ∧
    s.leave j = ((if (j.contain && !j.out) = true then v.resetClusters (s.ownedBy j) else v).returnPartition (s.ownedBy j)).upJob j.colour f := by
  unfold State.leave
  extract_lets u w sig x acts cls v y
  have hu : Unloaded s u := s.performHeld_unloads j
  have hw : Unloaded s w := hu.trans (u.endTickets_unloads j.colour)
  have hx : Unloaded s x := iteInduction (motive := Unloaded s) (fun _ => hw.trans (w.upSession_unloads _ _)) (fun _ => hw)
  have hcls : cls = s.ownedBy j := by
    unfold State.ownedBy
    exact List.filter_congr fun cl _ => by rw [hx.cluster]
  refine ⟨v, _, hx.trans (x.dropTraffic_unloads j cls), fun q => ?_, by rw [← hcls]⟩
  exact ⟨rfl, rfl, rfl⟩

end Sys2Proof.Machine
end

section
/-! SUPPORT. Pre-emption, resumption, the end of a job, and the containment of a rectangle (R65, R319, R326 to R329, R388, R389). -/

namespace Sys2Proof.Machine

/-! ### What filling the save area changes (R327; log 105) -/

/-- Bytes have been stored by a unit while nothing is damaged: of cores, jobs and clusters only TLBs can have changed. -/
structure UnitWrote (s t : State) : Prop where
  units : t = { s with
    mem := t.mem, under := t.under, poison := t.poison, damage := t.damage, hub := t.hub, dies := t.dies, clusters := t.clusters
    free := t.free }
  clusters : ∀ cl, ∃ tlb, t.cluster cl = { s.cluster cl with tlb := tlb }
  damage : s.damage = [] → t.damage = []

theorem UnitWrote.refl (s : State) : UnitWrote s s := ⟨rfl, fun _ => ⟨_, rfl⟩, id⟩

theorem UnitWrote.trans {s t u : State} (h : UnitWrote s t) (g : UnitWrote t u) : UnitWrote s u := by
  refine ⟨by rw [g.units, h.units], fun cl => ?_, fun d => g.damage (h.damage d)⟩
  obtain ⟨a, ha⟩ := h.clusters cl
  obtain ⟨b, hb⟩ := g.clusters cl
  exact ⟨b, by rw [hb, ha]⟩

theorem UnitWrote.core {s t : State} (h : UnitWrote s t) (c : Nat) : t.core c = s.core c := by rw [h.units]; rfl
theorem UnitWrote.jobs {s t : State} (h : UnitWrote s t) : t.jobs = s.jobs := by rw [h.units]
theorem UnitWrote.heldWrites {s t : State} (h : UnitWrote s t) : t.heldWrites = s.heldWrites := by rw [h.units]

theorem UnitWrote.poke (s : State) (key : Nat) (bs : List Byte) (cached : Bool) : UnitWrote s (s.poke key bs cached) :=
  ⟨s.poke_units _ _ _, fun _ => ⟨_, rfl⟩, (Unloaded.poke s key bs cached).damage⟩

theorem UnitWrote.upHub (s : State) (f : Hub → Hub) : UnitWrote s (s.upHub f) := ⟨rfl, fun _ => ⟨_, rfl⟩, id⟩
theorem UnitWrote.upDie (s : State) (d : Nat) (f : Die → Die) : UnitWrote s (s.upDie d f) := ⟨rfl, fun _ => ⟨_, rfl⟩, id⟩

theorem UnitWrote.capture (s : State) (colour key : Nat) : UnitWrote s (s.capture colour key) := by
  unfold State.capture
  split
  · exact .refl s
  · split
    · split
      · exact .upHub s _
      · exact .refl s
    · split
      · exact .refl s
      · dsimp only
        split
        · exact .upHub s _
        · exact ((UnitWrote.upHub s _).trans (.poke _ _ _ _)).trans (.poke _ _ _ _)

theorem UnitWrote.tlb (s : State) (cl : Nat) (f : Cluster → List TlbEntry) :
    UnitWrote s (s.upCluster cl fun k => { k with tlb := f k }) := by
  refine ⟨rfl, fun x => ?_, id⟩
  rw [State.cluster_upCluster]
  split
  · next e => subst e; exact ⟨_, rfl⟩
  · exact ⟨_, rfl⟩

theorem UnitWrote.doWalk {s : State} (hd : s.damage = []) (w : Walk) : UnitWrote s (s.doWalk w) := by
  have hsettle : s.settleWalk w.root w.va = s := by
    unfold State.settleWalk
    rw [hd]
    rfl
  unfold State.doWalk
  rw [hsettle]
  dsimp only
  split
  · exact .upDie s _ _
  · exact ((UnitWrote.upDie s _ _).trans (.poke _ _ _ _)).trans (.tlb _ _ _)

theorem State.unitAt_writes {s u : State} (hd : s.damage = []) {x : Ctx} {va : Word} {n key : Nat} {cached : Bool}
    (h : s.unitAt x va n true = .ok (u, key, cached)) : UnitWrote s u := by
  unfold State.unitAt at h
  split at h
  · dsimp only at h
    split at h
    · cases h
    · split at h
      · cases h
      · simp only [if_true, Bool.not_true, Bool.and_false, Bool.false_eq_true, if_false] at h
        have hv : UnitWrote s (if (s.translate x.cl x.root x.sup va true).2 = true then s.doWalk ⟨x.cl, x.root, va, true⟩ else s) :=
          iteInduction (motive := UnitWrote s) (fun _ => .doWalk hd _) (fun _ => .refl s)
        generalize (if (s.translate x.cl x.root x.sup va true).2 = true then s.doWalk ⟨x.cl, x.root, va, true⟩ else s) = v at h hv
        split at h
        · cases h
        · simp only [Except.ok.injEq, Prod.mk.injEq] at h
          obtain ⟨rfl, -, -⟩ := h
          exact hv
  · cases h
  · cases h

theorem State.unitStore_writes {s u : State} (hd : s.damage = []) {x : Ctx} {va : Word} {bs : List Byte}
    (h : s.unitStore x va bs = .ok u) : UnitWrote s u := by
  unfold State.unitStore at h
  split at h
  · cases h
  · next v key cached hat =>
    have hv : UnitWrote s v := State.unitAt_writes hd hat
    rw [State.settleBlock_undamaged (hv.damage hd)] at h
    split at h
    · cases h
      exact hv.trans (.upDie _ _ _)
    · cases h
      exact (hv.trans (.capture _ _ _)).trans (.poke _ _ _ _)

/-- A fold that may fail reaches only what its steps reach. -/
theorem foldlM_reaches {α β ε : Type} {f : β → α → Except ε β} {P : β → Prop} (step : ∀ b a c, P b → f b a = .ok c → P c)
    (l : List α) : ∀ b c, P b → l.foldlM f b = .ok c → P c := by
  induction l with
  | nil => intro b c hb h; cases h; exact hb
  | cons a l ih =>
    intro b c hb h
    rw [List.foldlM_cons] at h
    cases hf : f b a with
    | error e => rw [hf] at h; cases h
    | ok d => rw [hf] at h; exact ih d c (step b a d hb hf) h

theorem State.dialWrite_writes {s u : State} (hd : s.damage = []) {j : Job} {va : Word} {bs : List Byte}
    (h : s.dialWrite j va bs = .ok u) : UnitWrote s u := by
  unfold State.dialWrite at h
  dsimp only at h
  generalize hr : List.foldlM (m := Except (Nat × Word)) _ _ _ = r at h
  cases r with
  | error e => cases h
  | ok v =>
    obtain rfl : v.1 = u := Except.ok.inj h
    refine (foldlM_reaches (P := fun v : State × List Byte => UnitWrote s v.1) (fun v p w hv hw => ?_) _ _ _ (.refl s) hr)
    split at hw
    · cases hw
    · next t ht =>
      cases hw
      exact hv.trans (State.unitStore_writes (hv.damage hd) ht)

theorem State.fillSaveArea_writes {s : State} (hd : s.damage = []) (j : Job) : UnitWrote s (s.fillSaveArea j) := by
  unfold State.fillSaveArea
  dsimp only
  split
  · next u hu =>
    obtain ⟨hunits, hclusters, hdamage⟩ := State.dialWrite_writes hd hu
    exact ⟨by rw [hunits], hclusters, hdamage⟩
  · exact .refl s

/-! ### Pre-emption (R326, R397) -/

theorem State.upJob_congr (s : State) (n : Nat) {f g : Job → Job} (h : ∀ q : Job, q.colour = n → f q = g q) : s.upJob n f = s.upJob n g := by
  unfold State.upJob
  rw [List.map_congr_left fun q _ => ?_]
  split
  · next hq => exact h q (eq_of_beq hq)
  · rfl

/-- A job replaced by another of its colour. -/
theorem State.job?_replaced {s : State} {n : Nat} {j q : Job} (hj : s.job? n = some j) (hq : q.colour = n) :
    (s.upJob n fun _ => q).job? n = some q := by
  rw [s.upJob_congr n (f := fun _ => q) (g := fun r => { q with colour := r.colour }) fun r hr => by rw [hr, ← hq],
    s.job?_upJob_same, hj, Option.map_some, State.colour_of_job? hj, ← hq]
  exact fun _ => rfl

theorem State.dropMsgs_units (s : State) (colour : Nat) : s.dropMsgs colour = { s with dies := (s.dropMsgs colour).dies } :=
  List.foldlRecOn (motive := fun u : State => u = { s with dies := u.dies }) _ _ rfl fun u hu d _ => by rw [hu]; rfl

theorem State.recoverSaved_undamaged {s : State} (hd : s.damage = []) (cls : List Nat) : s.recoverSaved cls = s := by
  unfold State.recoverSaved
  rw [hd]
  rfl

/-- What emptying rule caches does to the cluster `cl`. -/
theorem State.emptyRuleCaches_cluster (s : State) {cls : List Nat} (hn : cls.Nodup) {cl : Nat} (hcl : cl ∈ cls) :
    ((s.emptyRuleCaches cls).cluster cl).rules = [] ∧ ((s.emptyRuleCaches cls).cluster cl).noticed = false := by
  have e : (s.emptyRuleCaches cls).cluster cl = { s.cluster cl with rules := [], noticed := false } :=
    (State.cluster_upClusters cls hn (fun _ k => { k with rules := [], noticed := false }) s cl).trans (if_pos hcl)
  rw [e]
  exact ⟨rfl, rfl⟩

theorem State.emptyRuleCaches_units (s : State) (cls : List Nat) :
    s.emptyRuleCaches cls = { s with clusters := (s.emptyRuleCaches cls).clusters } :=
  State.upClusters_units cls (fun _ k => { k with rules := [], noticed := false }) s

/-- The state in which the save area of a job has been filled (R326, R327). -/
def State.saved (s : State) (j : Job) : State := ((s.freeze j.colour true).emptyRuleCaches j.clusters).fillSaveArea j

/-- What saving a job leaves as it is. -/
structure Saves (j : Job) (s u : State) : Prop where
  cores : ∀ c, u.core c = s.core c
  jobs : u.jobs = s.jobs
  heldWrites : u.heldWrites = s.heldWrites
  clusters : ∀ cl ∈ j.clusters, (u.cluster cl).rules = [] ∧ (u.cluster cl).noticed = false

theorem State.saved_spec {s : State} (hd : s.damage = []) (j : Job) : Saves j s (s.saved j) := by
  have hempty := (s.freeze j.colour true).emptyRuleCaches_units j.clusters
  have hw : UnitWrote ((s.freeze j.colour true).emptyRuleCaches j.clusters) (s.saved j) :=
    State.fillSaveArea_writes (by rw [hempty]; exact hd) j
  refine ⟨fun c => ?_, ?_, ?_, fun cl hcl => ?_⟩
  · rw [hw.core, hempty]
    rfl
  · rw [hw.jobs, hempty]
    rfl
  · rw [hw.heldWrites, hempty]
    rfl
  · obtain ⟨tlb, htlb⟩ := hw.clusters cl
    rw [htlb]
    exact State.emptyRuleCaches_cluster _ j.clusters_nodup hcl

/-- Resetting the banks of MUs changes MUs only. -/
theorem State.upMus_units (l : List Nat) (f : Mu → Mu) (s : State) :
    l.foldl (fun (u : State) cl => (u.upMu (2 * cl) f).upMu (2 * cl + 1) f) s =
      { s with mus := (l.foldl (fun (u : State) cl => (u.upMu (2 * cl) f).upMu (2 * cl + 1) f) s).mus } :=
  List.foldlRecOn (motive := fun u : State => u = { s with mus := u.mus }) l _ rfl fun u hu _ _ => by rw [hu]; rfl

/-- A job that has come to rest is switched out of its taken clusters. -/
structure SwitchedOut (j : Job) (s u t : State) : Prop where
  job : ∃ q, t.job? j.colour = some q ∧ q.out = true ∧ q.preempting = false ∧ q.saved = j.saved ∧
    q.savedCores = (j.allCores.filter (fun c => j.saved.contains (clusterOf c))).map (fun c => (c, s.core c))
  caches : ∀ cl ∈ j.clusters, (t.cluster cl).rules = [] ∧ (t.cluster cl).noticed = false
  heldWrites : t.heldWrites = s.heldWrites
  free : ∀ cl ∈ j.saved, (t.cluster cl).job = none
  others : ∀ c, clusterOf c ∉ j.saved → t.core c = s.core c
  mem : ∀ key, (∀ cl ∈ j.saved, clusterKey cl key = false) → t.mem.read key = u.mem.read key

/-- The record of a job that is switched out, when `u` has been saved. -/
structure KeptAside (j q : Job) (u : State) : Prop where
  colour : q.colour = j.colour
  out : q.out = true
  preempting : q.preempting = false
  saved : q.saved = j.saved
  savedCores : q.savedCores = (j.allCores.filter (fun c => j.saved.contains (clusterOf c))).map (fun c => (c, u.core c))

/-- The job is kept aside, its memory is dropped, and the taken clusters return. -/
theorem SwitchedOut.of_returned {j q : Job} {s u r t : State} (hj : s.job? j.colour = some j) (hu : Saves j s u) (hq : KeptAside j q u)
    (hr : r = { u.upJob j.colour (fun _ => q) with
      dies := r.dies, agenda := r.agenda, mem := u.mem.filter fun e => !j.saved.any fun cl => clusterKey cl e.1 })
    (ht : t = { r.returnPartition j.saved with mus := t.mus }) : SwitchedOut j s u t := by
  have hx := r.returnPartition_units j.saved
  have htc (cl : Nat) : t.cluster cl = (r.returnPartition j.saved).cluster cl := by rw [ht]; rfl
  have hrc (cl : Nat) : r.cluster cl = u.cluster cl := by rw [hr]; rfl
  refine ⟨⟨q, ?_, hq.out, hq.preempting, hq.saved, ?_⟩, fun cl hcl => ?_, ?_, fun cl hcl => ?_, fun c hc => ?_, fun key hkey => ?_⟩
  · have hjobs : t.jobs = (u.upJob j.colour fun _ => q).jobs := by rw [ht, hx, hr]
    rw [State.job?_of_jobs hjobs]
    exact State.job?_replaced (by rw [State.job?_of_jobs hu.jobs, hj]) hq.colour
  · rw [hq.savedCores]
    exact List.map_congr_left fun c _ => by rw [hu.cores]
  · obtain ⟨hrules, hnoticed⟩ := hu.clusters cl hcl
    rw [htc, r.returnPartition_cluster (·.rules) (fun _ => rfl), r.returnPartition_cluster (·.noticed) (fun _ => rfl), hrc, hrules,
      hnoticed, ite_self, ite_self]
    exact ⟨rfl, rfl⟩
  · rw [ht, hx, hr]
    exact hu.heldWrites
  · rw [htc, State.returnPartition_job, if_pos hcl]
  · have htcore : t.core c = (r.returnPartition j.saved).core c := by rw [ht]; rfl
    rw [htcore, r.returnPartition_core j.saved hc, ← hu.cores c, hr]
    rfl
  · have hmem : t.mem = u.mem.filter fun e => !j.saved.any fun cl => clusterKey cl e.1 := by rw [ht, hx, hr]
    have hkept : (!j.saved.any fun cl => clusterKey cl key) = true := by
      rw [List.any_eq_false.2 fun cl hcl => by rw [hkey cl hcl]; exact Bool.false_ne_true]
      rfl
    rw [hmem]
    exact (Memory.read_filter u.mem (fun k => !j.saved.any fun cl => clusterKey cl k) key).trans (if_pos hkept)

theorem State.switchOut_spec {s : State} {j : Job} (hj : s.job? j.colour = some j) (hend : j.ending = none) (hd : s.damage = []) :
    SwitchedOut j s (s.saved j) (s.switchOut j) := by
  have hu := State.saved_spec hd j
  have hrecover := State.recoverSaved_undamaged hd j.saved
  unfold State.switchOut
  extract_lets v
  rw [show v = s from hrecover, hj]
  dsimp -zeta only
  rw [hend, if_neg (by exact Bool.false_ne_true)]
  extract_lets u taken q w r x
  have hq : KeptAside j q u := ⟨rfl, rfl, rfl, rfl, rfl⟩
  have hw : w = { u.upJob j.colour (fun _ => q) with dies := w.dies } := State.dropMsgs_units _ _
  have hr : r = { w with
      agenda := r.agenda, mem := w.mem.filter fun e => !j.saved.any fun cl => clusterKey cl e.1 } := rfl
  refine .of_returned hj hu hq (r := r) ?_ (State.upMus_units _ _ _)
  clear_value r w q
  rw [hr, hw]
  rfl

/-! ### When a pre-emption comes about (R326, R388, R397) -/

theorem State.preemptionDue_iff {s : State} {j : Job} : s.preemptionDue j = true ↔
    (j.preempting = true ∧ j.out = false ∧ j.ending = none ∧ j.contain = false ∧ s.rectBusy j = false) ∧
      ((j.missed = true ∧ s.activationsDone j = true) ∨ s.drainedJob j = true) := by
  simp only [State.preemptionDue, Bool.and_eq_true, Bool.or_eq_true, Bool.not_eq_true', Option.isNone_iff_eq_none, and_assoc]

theorem exec_preemption {s : State} {colour : Nat} {j : Job} (hj : s.job? colour = some j) : exec (.preemption colour) s = .next (
    if !s.preemptionDue j then s
    else if j.missed && s.activationsDone j then s.endJob colour 6 Code.tickMiss
    else (s.switchOut j).grantHeir j) := by
  change execPreemption colour s = _
  unfold execPreemption
  rw [hj]

theorem exec_preemption_idle {s : State} {colour : Nat} {j : Job} (hj : s.job? colour = some j) (h : s.preemptionDue j = false) :
    exec (.preemption colour) s = .next s := by
  rw [exec_preemption hj, h]
  rfl

theorem exec_preemption_rests {s : State} {colour : Nat} {j : Job} (hj : s.job? colour = some j) (h : s.preemptionDue j = true)
    (hmissed : ¬(j.missed = true ∧ s.activationsDone j = true)) :
    exec (.preemption colour) s = .next ((s.switchOut j).grantHeir j) := by
  rw [exec_preemption hj, h, Bool.not_true, if_neg Bool.false_ne_true, if_neg (by rwa [Bool.and_eq_true])]

/-- Ending a job of which no core is left running changes no memory. -/
theorem State.endJob_stops {s : State} {colour : Nat} {j : Job} (hj : s.job? colour = some j) (hend : j.ending = none)
    (hout : j.out = false) (status detail : Nat) (value : Word) : (s.endJob colour status detail value).mem = s.mem ∧
      ∀ c ∈ j.allCores, ((s.endJob colour status detail value).core c).status ≠ .running := by
  rw [State.endJob_eq hj hend, hout, if_neg Bool.false_ne_true]
  constructor
  · rw [State.pushFree_mem, State.upCores_units]
    rfl
  · intro c hc
    rw [State.core_pushFree]
    refine foldl_brings (P := fun c (u : State) => (u.core c).status ≠ .running) (fun u a => ?_) (fun u a x hu => ?_) _ _ c hc
    · rw [State.core_upCore, if_pos rfl]
      exact Core.stopped_status _
    · rw [State.core_upCore]
      split
      · exact Core.stopped_status _
      · exact hu

theorem runs_preemption_missed {s : State} {colour : Nat} {j : Job} (hj : s.job? colour = some j) (h : s.preemptionDue j = true)
    (hmissed : j.missed = true ∧ s.activationsDone j = true) : Runs (.preemption colour) s fun t =>
      (∃ q, t.job? colour = some q ∧ q.ending = some ⟨6, Code.tickMiss, 0⟩ ∧ q.out = false) ∧
      (∃ chan, t.agenda = s.agenda ++ [⟨chan, .jobEnd colour⟩]) ∧ t.mem = s.mem ∧ ∀ c ∈ j.allCores, (t.core c).status ≠ .running := by
  obtain ⟨⟨-, hout, hend, -⟩, -⟩ := State.preemptionDue_iff.1 h
  obtain ⟨hm, ha⟩ := hmissed
  refine ⟨s.endJob colour 6 Code.tickMiss, ?_, ⟨_, State.endJob_job? hj hend _ _ _, rfl, hout⟩, State.endJob_agenda hj hend _ _ _,
    State.endJob_stops hj hend hout _ _ _⟩
  rw [exec_preemption hj, h, hm, ha]
  rfl

/-- The launch that pre-empted finds all that it takes free (log 66). -/
theorem State.grantHeir_dispatch {u : State} {j : Job} {l : Launch} {cx cy : Nat} (hj : j.heir = some (l, cx, cy)) (ht : u.hub.table = [l])
    (hr : u.ready l = true) (hs : 7 ≤ u.hub.step) (hl : u.hub.link = .up) (hf : ∀ cl ∈ rectOf cx cy l.w l.h, u.clusterFree cl = true) :
    u.grantHeir j = u.dispatch l cx cy := by
  have hfind : u.hub.table.find? (fun e : Launch => e.q == l.q && e.seq == l.seq) = some l := by
    rw [ht, List.find?_cons, beq_self_eq_true, beq_self_eq_true]
    rfl
  unfold State.grantHeir
  rw [hj]
  dsimp only
  rw [hfind]
  dsimp only
  rw [if_pos]
  rw [hr, List.all_eq_true.2 hf, decide_eq_true hs, hl]
  rfl

/-! ### Resumption (R326, R329) -/

theorem State.core_setPairs {l : List (Nat × Core)} (hl : (l.map (·.1)).Nodup) (s : State) :
    ∀ e ∈ l, (l.foldl (fun (u : State) e => u.setCore e.1 e.2) s).core e.1 = e.2 := by
  induction l generalizing s with
  | nil => exact fun _ he => nomatch he
  | cons d l ih =>
    obtain ⟨hd, hl⟩ := List.nodup_cons.1 hl
    intro e he
    rw [List.foldl_cons]
    rcases List.mem_cons.1 he with rfl | he
    · refine List.foldlRecOn (motive := fun u : State => u.core e.1 = e.2) l _ ?_ fun u hu x hx => ?_
      · rw [State.core_setCore, if_pos rfl]
      · rw [State.core_setCore, if_neg fun (h : x.1 = e.1) => hd (List.mem_map.2 ⟨x, hx, h⟩), hu]
    · exact ih hl _ e he

theorem State.core_setPairs_out {l : List (Nat × Core)} {c : Nat} (hc : c ∉ l.map (·.1)) (s : State) :
    (l.foldl (fun (u : State) e => u.setCore e.1 e.2) s).core c = s.core c :=
  List.foldlRecOn (motive := fun u : State => u.core c = s.core c) l _ rfl fun u hu x hx => by
    rw [State.core_setCore, if_neg fun (h : x.1 = c) => hc (List.mem_map.2 ⟨x, hx, h⟩), hu]

theorem State.freshScratch_units (s : State) (j : Job) :
    s.freshScratch j = { s with mem := (s.freshScratch j).mem, free := (s.freshScratch j).free } :=
  List.foldlRecOn (motive := fun u : State => u = { s with mem := u.mem, free := u.free }) _ _ rfl fun u hu _ _ => by rw [hu]

/-- A job that runs in its clusters again, with nothing kept aside. -/
def Job.backIn (q : Job) : Job := { q with
  out := false, saved := [], savedMem := [], savedCores := [], savedClusters := [], savedMus := [], savedMsgs := []
  savedFlights := [], scrAt := [] }

/-- A job that resumes: its cores come back, and its events are on their way again. -/
structure SwitchedIn (j : Job) (s t : State) : Prop where
  agenda : t.agenda = s.agenda ++ j.savedFlights
  cores : ∃ u : State, (∀ c, u.core c = s.core c) ∧
    ∀ c, t.core c = (j.savedCores.foldl (fun (u : State) e => u.setCore e.1 e.2) u).core c
  jobs : t.jobs = (s.upJob j.colour Job.backIn).jobs

theorem State.switchIn_spec (s : State) (j : Job) : SwitchedIn j s (s.switchIn j) := by
  unfold State.switchIn
  extract_lets back mem u v w x y z
  have hu : u = { s with mem := u.mem, damage := u.damage, agenda := s.agenda ++ j.savedFlights } := rfl
  have hv : v = { u with mem := v.mem, free := v.free } := u.freshScratch_units j
  have hw : w = { v with clusters := w.clusters } :=
    List.foldlRecOn (motive := fun a : State => a = { v with clusters := a.clusters }) _ _ rfl fun a ha _ _ => by rw [ha]; rfl
  have hx : ∃ k, x = { w with cores := k } ∧ x.cores = (j.savedCores.foldl (fun (u : State) e => u.setCore e.1 e.2) w).cores :=
    ⟨_, List.foldlRecOn (motive := fun a : State => a = { w with cores := a.cores }) _ _ rfl fun a ha _ _ => by rw [ha]; rfl, rfl⟩
  have hy : y = { x with mus := y.mus } :=
    List.foldlRecOn (motive := fun a : State => a = { x with mus := a.mus }) _ _ rfl fun a ha _ _ => by rw [ha]; rfl
  have hz : z = { y with dies := z.dies } :=
    List.foldlRecOn (motive := fun a : State => a = { y with dies := a.dies }) _ _ rfl fun a ha _ _ => by rw [ha]; rfl
  clear_value z y x w v u
  obtain ⟨k, hx, hcores⟩ := hx
  refine ⟨?_, ⟨w, fun c => ?_, fun c => ?_⟩, ?_⟩
  · change z.agenda = _
    rw [hz, hy, hx, hw, hv, hu]
  · rw [hw, hv, hu]
    rfl
  · change NMap.get z.cores (Core.initial c) c = NMap.get _ (Core.initial c) c
    rw [hz, hy, ← hcores]
  · change (z.upJob j.colour Job.backIn).jobs = _
    rw [hz, hy, hx, hw, hv, hu]
    rfl

theorem runs_resumption {s : State} {colour : Nat} {j : Job} (hj : s.job? colour = some j) (hch : s.choice = some (.resume colour))
    (hn : (j.savedCores.map (·.1)).Nodup) : Runs (.resumption colour) s fun t =>
      (∀ e ∈ j.savedCores, t.core e.1 = e.2) ∧ (∀ c, c ∉ j.savedCores.map (·.1) → t.core c = s.core c) ∧
      (∃ q, t.job? colour = some q ∧ q.out = false ∧ q.savedMem = [] ∧ q.saved = []) ∧ t.agenda = s.agenda ++ j.savedFlights := by
  have hexec : exec (.resumption colour) s = .next (s.switchIn j) := by
    change execResumption colour s = _
    unfold execResumption
    rw [hch, hj]
    exact congrArg Host.Outcome.next (if_pos rfl)
  obtain ⟨hagenda, ⟨u, hu, hcores⟩, hjobs⟩ := s.switchIn_spec j
  refine ⟨_, hexec, fun e he => ?_, fun c hc => ?_, ⟨j.backIn, ?_, rfl, rfl, rfl⟩, hagenda⟩
  · rw [hcores, State.core_setPairs hn u e he]
  · rw [hcores, State.core_setPairs_out hc, hu]
  · rw [State.job?_of_jobs hjobs, State.colour_of_job? hj, s.job?_upJob_same, hj]
    · rfl
    · exact fun _ => rfl

/-! ### The end of a job (R65, R319) -/

/-- Where a record is published, and when, rests on the Dispatcher's books. -/
theorem Published.of_books {q seq status detail : Nat} {s u t : State} (hq : u.queues = s.queues) (ht : u.hub.time = s.hub.time)
    (h : Published q seq status detail u t) : Published q seq status detail s t := by
  have hpa : u.recordPa q seq = s.recordPa q seq := by unfold State.recordPa State.queue; rw [hq]
  unfold Published at h
  rw [hpa, ht] at h
  exact h

/-- A job that leaves gives back its clusters, and the Dispatcher's books stay as they are. -/
structure Left (j : Job) (s t : State) : Prop where
  queues : t.queues = s.queues
  table : t.hub.table = s.hub.table
  time : t.hub.time = s.hub.time
  wf : s.mem.wf = true → t.mem.wf = true
  clusters : ∀ cl ∈ j.clusters, (s.cluster cl).job = some j.colour → (t.cluster cl).job = none

theorem State.leave_left (s : State) (j : Job) : Left j s (s.leave j) := by
  obtain ⟨v, f, hv, -, e⟩ := s.leave_spec j
  have hx : BooksKept s (if (j.contain && !j.out) = true then v.resetClusters (s.ownedBy j) else v) :=
    iteInduction (motive := BooksKept s) (fun _ => hv.books.trans (.resetClusters _ _)) (fun _ => hv.books)
  generalize (if (j.contain && !j.out) = true then v.resetClusters (s.ownedBy j) else v) = x at e hx
  have hret := x.returnPartition_units (s.ownedBy j)
  rw [e]
  refine ⟨?_, ?_, ?_, fun w => ?_, fun cl hcl hjob => ?_⟩
  · change (x.returnPartition _).queues = _
    rw [hret]
    exact hx.queues
  · change (x.returnPartition _).hub.table = _
    rw [hret]
    exact hx.table
  · change (x.returnPartition _).hub.time = _
    rw [hret]
    exact hx.time
  · change (x.returnPartition _).mem.wf = true
    rw [hret]
    exact hx.wf w
  · exact (x.returnPartition_job _ cl).trans (if_pos (State.mem_ownedBy.2 ⟨hcl, hjob⟩))

theorem runs_jobEnd {s : State} {colour : Nat} {j : Job} {e : Ending} (hj : s.job? colour = some j) (he : j.ending = some e)
    (hen : s.enabled (.jobEnd colour) = true) (ht : s.hub.table = []) (hwf : s.mem.wf = true) : Runs (.jobEnd colour) s fun t =>
      t.job? colour = none ∧ (∀ cl ∈ j.clusters, (s.cluster cl).job = some colour → (t.cluster cl).job = none) ∧
      Published j.launch.q j.launch.seq e.status e.detail s t := by
  obtain ⟨hqueues, htable, htime, hmem, hclusters⟩ := s.leave_left j
  obtain rfl := State.colour_of_job? hj
  have hexec : exec (.jobEnd j.colour) s = .next (s.finishJob j e) := by
    change execJobEnd j.colour s = _
    unfold execJobEnd
    rw [hj]
    dsimp only
    rw [he]
    exact congrArg Host.Outcome.next (if_pos hen)
  refine ⟨_, hexec, ?_⟩
  unfold State.finishJob
  extract_lets u acts
  rw [State.publish_of_empty (by exact htable.trans ht)]
  generalize hv : ({ u with jobs := u.jobs.filter fun q => q.colour != j.colour } : State) = v
  have hrec := v.record_spec j.launch.q j.launch.seq e.status e.detail (if e.status = 0 then e.value else 0) acts
  generalize v.record j.launch.q j.launch.seq e.status e.detail (if e.status = 0 then e.value else 0) acts = t at hrec ⊢
  refine ⟨?_, fun cl hcl hjob => ?_, .of_books (u := v) (by rw [← hv]; exact hqueues) (by rw [← hv]; exact htime)
    (hrec.published (by rw [← hv]; exact hmem hwf))⟩
  · have hjobs : t.jobs = u.jobs.filter fun q => q.colour != j.colour := by rw [hrec.units, ← hv]
    unfold State.job?
    rw [hjobs, List.find?_eq_none]
    intro q hq
    have hne := (List.mem_filter.1 hq).2
    rw [bne, Bool.not_eq_true'] at hne
    rw [hne]
    exact Bool.false_ne_true
  · have hcluster : t.cluster cl = u.cluster cl := by rw [hrec.units, ← hv]; rfl
    rw [hcluster]
    exact hclusters cl hcl hjob

/-! ### Containment rectangles (R388) -/

theorem exec_contRectDefine (n : Nat) (v : Word) (s : State) : exec (.contRectDefine n v) s = .next (
    if (NMap.get s.hub.rect 0 n).getLsbD 62 || s.hub.fail then s else s.upHub (fun h => { h with rect := h.rect.set n (s.rectValue n v) })) :=
  rfl

theorem exec_contRectGo (n : Nat) (s : State) : exec (.contRectGo n) s = .next (
    if (NMap.get s.hub.rect 0 n).getLsbD 63 && !s.hub.fail then s.contain n else s) := rfl

theorem exec_contRectDefine_idle {n : Nat} {s : State} (v : Word) (h : (NMap.get s.hub.rect 0 n).getLsbD 62 = true ∨ s.hub.fail = true) :
    exec (.contRectDefine n v) s = .next s := by
  rw [exec_contRectDefine, if_pos ((Bool.or_eq_true _ _).mpr h)]

theorem exec_contRectGo_idle {n : Nat} {s : State} (h : (NMap.get s.hub.rect 0 n).getLsbD 63 = false ∨
    (NMap.get s.hub.rect 0 n).getLsbD 62 = true ∨ s.hub.fail = true) : exec (.contRectGo n) s = .next s := by
  rw [exec_contRectGo]
  rcases h with h | h | h
  · rw [h, Bool.false_and, if_neg Bool.false_ne_true]
  · have hin : s.contain n = s := by
      unfold State.contain
      exact if_pos h
    rw [hin, ite_self]
  · rw [h, Bool.not_true, Bool.and_false, if_neg Bool.false_ne_true]

/-- A rectangle whose corners are crossed: it is not valid (R388). -/
def rectTwisted (v : Word) : Prop :=
  (v.extractLsb' 5 3).toNat < (v.extractLsb' 0 3).toNat ∨ (v.extractLsb' 8 2).toNat < (v.extractLsb' 3 2).toNat

theorem State.rectValue_twisted (s : State) (n : Nat) {v : Word} (h : rectTwisted v) : s.rectValue n v = v &&& 0x3FF := by
  have hbad : (decide (bits v 5 3 < bits v 0 3) || decide (bits v 8 2 < bits v 3 2)) = true := by
    rw [Bool.or_eq_true, decide_eq_true_eq, decide_eq_true_eq, bits_eq_extractLsb', bits_eq_extractLsb', bits_eq_extractLsb',
      bits_eq_extractLsb']
    exact h
  unfold State.rectValue
  dsimp only
  rw [hbad, Bool.true_or, Bool.and_true]
  split
  · rw [BitVec.and_assoc]
    rfl
  · next hv =>
    have hmask : ∀ i : Fin 64, i.val ≠ 63 → (0x80000000000003FF : Word).getLsbD i = (0x3FF : Word).getLsbD i := by decide
    refine BitVec.eq_of_getLsbD_eq fun i hi => ?_
    rw [BitVec.getLsbD_and, BitVec.getLsbD_and]
    by_cases h63 : i = 63
    · subst h63
      rw [BitVec.getLsbD_and, show (0x80000000000003FF : Word).getLsbD 63 = true by decide, Bool.and_true,
        Bool.not_eq_true] at hv
      rw [hv, Bool.false_and, Bool.false_and]
    · rw [hmask ⟨i, hi⟩ h63]

theorem State.rectValue_valid (s : State) (n : Nat) {v : Word} (h : ¬rectTwisted v)
    (hapart : ∀ e ∈ s.hub.rect, e.1 ≠ n → rectsMeet (v &&& 0x80000000000003FF) e.2 = false) :
    s.rectValue n v = v &&& 0x80000000000003FF := by
  have hgood : (decide (bits v 5 3 < bits v 0 3) || decide (bits v 8 2 < bits v 3 2)) = false := by
    rw [Bool.or_eq_false_iff, decide_eq_false_iff_not, decide_eq_false_iff_not, bits_eq_extractLsb', bits_eq_extractLsb',
      bits_eq_extractLsb', bits_eq_extractLsb']
    exact not_or.1 h
  have hnone : s.hub.rect.any (fun e => e.1 != n && rectsMeet (v &&& 0x80000000000003FF) e.2) = false := by
    refine List.any_eq_false.2 fun e he => ?_
    rw [Bool.and_eq_true, bne_iff_ne]
    rintro ⟨hne, hmeet⟩
    rw [hapart e he hne] at hmeet
    exact Bool.false_ne_true hmeet
  unfold State.rectValue
  dsimp only
  rw [hgood, hnone, Bool.or_false, Bool.and_false, if_neg Bool.false_ne_true]

theorem runs_contRectDefine {n : Nat} {s : State} (v : Word) (hidle : (NMap.get s.hub.rect 0 n).getLsbD 62 = false)
    (hfail : s.hub.fail = false) : Runs (.contRectDefine n v) s fun t => t = { s with hub := t.hub } ∧
      (rectTwisted v → NMap.get t.hub.rect 0 n = v &&& 0x3FF) ∧
      (¬rectTwisted v → (∀ e ∈ s.hub.rect, e.1 ≠ n → rectsMeet (v &&& 0x80000000000003FF) e.2 = false) →
        NMap.get t.hub.rect 0 n = v &&& 0x80000000000003FF) := by
  have hget : NMap.get (NMap.set s.hub.rect n (s.rectValue n v)) 0 n = s.rectValue n v := by rw [NMap.get_set, if_pos rfl]
  refine ⟨s.upHub fun h => { h with rect := h.rect.set n (s.rectValue n v) }, ?_, rfl, fun h => ?_, fun h hapart => ?_⟩
  · rw [exec_contRectDefine, hidle, hfail]
    rfl
  · exact hget.trans (s.rectValue_twisted n h)
  · exact hget.trans (s.rectValue_valid n h hapart)

theorem bits_or_of_zero (v : Word) {m : Word} {lo n : Nat} (h : m.extractLsb' lo n = 0) : bits (v ||| m) lo n = bits v lo n := by
  rw [bits_eq_extractLsb', bits_eq_extractLsb', BitVec.extractLsb'_or, h, show (0 : BitVec n) = 0#n from rfl, BitVec.or_zero]

/-- BUSY is no part of where a rectangle lies. -/
theorem inRect_busy (v : Word) (cl : Nat) : inRect (v ||| (1 : Word) <<< 62) cl = inRect v cl := by
  have hvalid : (v ||| (1 : Word) <<< 62).getLsbD 63 = v.getLsbD 63 := by
    rw [BitVec.getLsbD_or, show ((1 : Word) <<< 62).getLsbD 63 = false by decide, Bool.or_false]
  unfold inRect
  rw [hvalid, bits_or_of_zero v (by decide), bits_or_of_zero v (by decide), bits_or_of_zero v (by decide),
    bits_or_of_zero v (by decide)]

theorem runs_contRectGo {n : Nat} {s : State} (hvalid : (NMap.get s.hub.rect 0 n).getLsbD 63 = true)
    (hidle : (NMap.get s.hub.rect 0 n).getLsbD 62 = false) (hfail : s.hub.fail = false) : Runs (.contRectGo n) s fun t =>
      NMap.get t.hub.rect 0 n = NMap.get s.hub.rect 0 n ||| 1 <<< 62 ∧ (∃ chan, t.agenda = s.agenda ++ [⟨chan, .containment n⟩]) ∧
      ∀ c, inRect (NMap.get s.hub.rect 0 n) (clusterOf c) = true → t.contained c = true := by
  refine ⟨s.contain n, ?_, ?_⟩
  · rw [exec_contRectGo, hvalid, hfail]
    rfl
  have hbusy : (NMap.get s.hub.rect 0 n ||| (1 : Word) <<< 62).getLsbD 62 = true := by
    rw [BitVec.getLsbD_or, show ((1 : Word) <<< 62).getLsbD 62 = true by decide, Bool.or_true]
  unfold State.contain
  dsimp only
  rw [hidle, if_neg Bool.false_ne_true]
  refine ⟨?_, ⟨_, rfl⟩, fun c hc => ?_⟩
  · change NMap.get (NMap.set s.hub.rect n _) 0 n = _
    rw [NMap.get_set, if_pos rfl]
  · unfold State.contained
    rw [Bool.or_eq_true]
    refine .inl (List.any_eq_true.2 ⟨(n, NMap.get s.hub.rect 0 n ||| (1 : Word) <<< 62), List.mem_cons_self, ?_⟩)
    rw [hbusy, inRect_busy, hc]
    rfl

/-! ### Containment (R388, R389, R420) -/

/-- Clusters inside a rectangle. -/
theorem mem_inside {v : Word} {cl : Nat} : cl ∈ (List.range 32).filter (inRect v) ↔ cl < 32 ∧ inRect v cl = true := by
  rw [List.mem_filter, List.mem_range]

theorem exec_containment_idle {n : Nat} {s : State} (h : (NMap.get s.hub.rect 0 n).getLsbD 62 = false) :
    exec (.containment n) s = .next s := by
  change execContainment n s = _
  unfold execContainment
  dsimp only
  rw [h]
  rfl

/-- BUSY is 0 again. -/
theorem getLsbD_idle (v : Word) : (v &&& ~~~((1 : Word) <<< 62)).getLsbD 62 = false := by
  rw [BitVec.getLsbD_and, show (~~~((1 : Word) <<< 62)).getLsbD 62 = false by decide, Bool.and_false]

/-- The containment of a rectangle is over. -/
def State.rectDone (s : State) (n : Nat) : State :=
  s.upHub fun k => { k with rect := k.rect.set n (NMap.get s.hub.rect 0 n &&& ~~~((1 : Word) <<< 62)) }

theorem State.rectDone_rect (s : State) (n : Nat) :
    NMap.get (s.rectDone n).hub.rect 0 n = NMap.get s.hub.rect 0 n &&& ~~~((1 : Word) <<< 62) := by
  change NMap.get (NMap.set s.hub.rect n _) 0 n = _
  rw [NMap.get_set, if_pos rfl]

theorem runs_containment_empty {n : Nat} {s : State} (h : (NMap.get s.hub.rect 0 n).getLsbD 62 = true) (hjobs : s.jobs = [])
    (hfree : ∀ cl, cl < 32 → (s.cluster cl).job = none) (hd : s.damage = []) (hp : s.poison = []) :
    let v := NMap.get s.hub.rect 0 n
    Runs (.containment n) s fun t => NMap.get t.hub.rect 0 n = v &&& ~~~((1 : Word) <<< 62) ∧
      ∀ c, c < 512 → (inRect v (clusterOf c) = true → t.core c = Core.initial c ∧ ∀ i, i < 2 ^ 18 → t.mem.read (padKey c i) = 0) ∧
        (inRect v (clusterOf c) = false → t.core c = s.core c ∧ ∀ i, i < 2 ^ 18 → t.mem.read (padKey c i) = s.mem.read (padKey c i)) := by
  intro v
  have hcls : ((List.range 32).filter (inRect v)).filter (fun cl => (s.cluster cl).job.isNone) = (List.range 32).filter (inRect v) :=
    List.filter_eq_self.2 fun cl hcl => by rw [hfree cl (mem_inside.1 hcl).1]; rfl
  have hexec : exec (.containment n) s = .next ((s.rectDone n).resetClusters ((List.range 32).filter (inRect v))) := by
    rw [← hcls]
    change execContainment n s = _
    unfold execContainment
    dsimp only
    rw [h, hjobs]
    rfl
  obtain ⟨under, g⟩ := State.resetClusters_undamaged (s := s.rectDone n) hd hp ((List.range 32).filter (inRect v))
  refine ⟨_, hexec, ?_, fun c hc => ?_⟩
  · rw [g.units]
    exact s.rectDone_rect n
  · have hcl : clusterOf c < 32 := by unfold clusterOf; omega
    refine ⟨fun hin => ⟨?_, fun i hi => ?_⟩, fun hout => ⟨?_, fun i hi => ?_⟩⟩
    · rw [g.cores, if_pos (mem_inside.2 ⟨hcl, hin⟩)]
    · rw [g.pads c hc i hi, if_pos (mem_inside.2 ⟨hcl, hin⟩)]
    · rw [g.cores, if_neg fun hm => ne_true_of_eq_false hout (mem_inside.1 hm).2]
      rfl
    · rw [g.pads c hc i hi, if_neg fun hm => ne_true_of_eq_false hout (mem_inside.1 hm).2]
      rfl

/-- A job that has left: it keeps its colour and its end, and waits for its record (R420). -/
structure LeftBehind (j : Job) (v : Word) (n : Nat) (s t : State) : Prop where
  rect : NMap.get t.hub.rect 0 n = v
  job : ∃ q, t.jobs = [q] ∧ q.colour = j.colour ∧ q.ending = j.ending ∧ q.contain = false
  clusters : ∀ x ∈ j.clusters, (s.cluster x).job = some j.colour → (t.cluster x).job = none
  damage : t.damage = []
  poison : t.poison = []

theorem State.leave_leftBehind {s : State} {j : Job} (hjobs : s.jobs = [j]) (hd : s.damage = []) (hp : s.poison = []) (n : Nat) :
    LeftBehind j (NMap.get s.hub.rect 0 n) n s (s.leave j) := by
  obtain ⟨v, f, hv, hf, e⟩ := s.leave_spec j
  have hvd := hv.damage hd
  have hvp := hv.poison hp
  obtain ⟨under, g⟩ := State.resetClusters_undamaged hvd hvp (s.ownedBy j)
  have hx : (if (j.contain && !j.out) = true then v.resetClusters (s.ownedBy j) else v) = v ∨
      (if (j.contain && !j.out) = true then v.resetClusters (s.ownedBy j) else v) = v.resetClusters (s.ownedBy j) :=
    (ite_eq_or_eq _ _ _).symm
  generalize (if (j.contain && !j.out) = true then v.resetClusters (s.ownedBy j) else v) = x at e hx
  have hkept : x.hub.rect = s.hub.rect ∧ x.jobs = s.jobs ∧ x.damage = [] ∧ x.poison = [] := by
    rcases hx with rfl | rfl
    · exact ⟨by rw [hv.hub], hv.jobs, hvd, hvp⟩
    · refine ⟨?_, ?_, g.damage hvd, ?_⟩
      · rw [g.units]
        change v.hub.rect = _
        rw [hv.hub]
      · rw [g.units]
        exact hv.jobs
      · rw [g.units]
        exact hvp
  obtain ⟨hrect, hxjobs, hxd, hxp⟩ := hkept
  have hret := x.returnPartition_units (s.ownedBy j)
  obtain ⟨hcolour, hending, hcontain⟩ := hf j
  rw [e]
  refine ⟨?_, ⟨f j, ?_, hcolour, hending, hcontain⟩, fun cl hcl hjob => ?_, ?_, ?_⟩
  · change NMap.get (x.returnPartition _).hub.rect 0 n = _
    rw [hret]
    exact congrArg (NMap.get · 0 n) hrect
  · unfold State.upJob
    dsimp only
    rw [hret]
    dsimp only
    rw [hxjobs, hjobs, List.map_cons, List.map_nil, beq_self_eq_true, if_pos rfl]
  · exact (x.returnPartition_job _ cl).trans (if_pos (State.mem_ownedBy.2 ⟨hcl, hjob⟩))
  · change (x.returnPartition _).damage = _
    rw [hret]
    exact hxd
  · change (x.returnPartition _).poison = _
    rw [hret]
    exact hxp

/-- A reset of clusters without a job leaves nothing else of that. -/
theorem LeftBehind.reset {j : Job} {v : Word} {n : Nat} {s t : State} (h : LeftBehind j v n s t) (cls : List Nat) :
    NMap.get (t.resetClusters cls).hub.rect 0 n = v ∧
      (∃ q, (t.resetClusters cls).jobs = [q] ∧ q.colour = j.colour ∧ q.ending = j.ending ∧ q.contain = false) ∧
      ∀ x ∈ j.clusters, (s.cluster x).job = some j.colour → ((t.resetClusters cls).cluster x).job = none := by
  obtain ⟨under, g⟩ := State.resetClusters_undamaged h.damage h.poison cls
  obtain ⟨q, hq, hrest⟩ := h.job
  refine ⟨?_, ⟨q, ?_, hrest⟩, fun x hx hjob => ?_⟩
  · rw [g.units]
    exact h.rect
  · rw [g.units]
    exact hq
  · rw [g.owners]
    exact h.clusters x hx hjob

/-- One job with an end of its own is inside while the host link is down: it leaves, and its record waits (R420). -/
theorem exec_containment_waits {n : Nat} {s : State} {j : Job} {e : Ending} {cl : Nat} (h : (NMap.get s.hub.rect 0 n).getLsbD 62 = true)
    (hjobs : s.jobs = [j]) (he : j.ending = some e) (hlink : s.hub.link ≠ .up) (hcl : cl < 32)
    (hin : inRect (NMap.get s.hub.rect 0 n) cl = true) (hjob : (s.cluster cl).job = some j.colour) :
    let v := NMap.get s.hub.rect 0 n
    let u := (s.rectDone n).leave j
    exec (.containment n) s = .next (u.resetClusters (((List.range 32).filter (inRect v)).filter fun cl => (u.cluster cl).job.isNone)) := by
  intro v u
  have hj : s.job? j.colour = some j := by
    unfold State.job?
    rw [hjobs, List.find?_cons, beq_self_eq_true]
  have hinside : s.jobs.filter (fun j => ((List.range 32).filter (inRect v)).any fun cl => (s.cluster cl).job == some j.colour) = [j] := by
    rw [hjobs]
    exact List.filter_eq_self.2 fun q hq => by
      obtain rfl := List.mem_singleton.1 hq
      exact List.any_eq_true.2 ⟨cl, mem_inside.2 ⟨hcl, hin⟩, beq_iff_eq.2 hjob⟩
  have hended (d : Nat) : s.endJob j.colour 6 d = s :=
    State.endJob_of_ending hj (by rw [he]; exact Option.some_ne_none e) _ _ _
  have hj' : (s.rectDone n).job? j.colour = some j := hj
  change execContainment n s = _
  unfold execContainment
  dsimp only
  rw [h, Bool.not_true, if_neg Bool.false_ne_true, hinside]
  dsimp only [List.foldl_cons, List.foldl_nil]
  rw [hended, show s.upHub _ = s.rectDone n from rfl, hj']
  dsimp only
  rw [he]
  dsimp only
  rw [if_neg (by exact hlink)]

end Sys2Proof.Machine

namespace Sys2Proof.Proofs
open Sys2Proof.Machine

/-- Settles O53: a pre-emption by whether it is due and whether its job has missed a Tick, the way back by what switching in
restores, the end of a job and containment by what leaving a partition and a common reset keep. -/
theorem jobsLeaveTheirPartition : Obligations.JobsLeaveTheirPartition := by
  unfold Obligations.JobsLeaveTheirPartition
  refine ⟨fun colour s j hj hc => ?_, fun colour s hj => ?_, fun colour s j hj hch _ hn => runs_resumption hj hch hn,
    fun colour s j e hj _ he hen ht hwf => runs_jobEnd hj he hen ht hwf, fun colour s j hj he => ?_, fun n v s => ?_, fun n s => ?_⟩
  · subst hc
    have hdue := State.preemptionDue_iff (s := s) (j := j)
    refine ⟨fun h => ?_, fun hopen hmissed => ?_, fun hopen hmissed hdrained hd hheir => ?_,
      fun hopen hmissed hdrained l cx cy hheir ht hr hs hl hf => ?_⟩
    · refine exec_preemption_idle hj (Bool.eq_false_iff.2 fun hd => ?_)
      obtain ⟨hopen, hwhy⟩ := hdue.1 hd
      rcases h with h | ⟨hdrained, hmissed⟩
      · exact h hopen
      · exact hwhy.elim hmissed fun h => ne_true_of_eq_false hdrained h
    · exact runs_preemption_missed hj (hdue.2 ⟨hopen, .inl hmissed⟩) hmissed
    · obtain ⟨hjob, hcaches, hheld, hfree, hothers, hmem⟩ := State.switchOut_spec hj hopen.2.2.1 hd
      have hgrant : (s.switchOut j).grantHeir j = s.switchOut j := by
        unfold State.grantHeir
        rw [hheir]
      refine ⟨s.switchOut j, ?_, hjob, hcaches, hheld, hfree, hothers, hmem⟩
      rw [exec_preemption_rests hj (hdue.2 ⟨hopen, .inr hdrained⟩) hmissed, hgrant]
    · rw [exec_preemption_rests hj (hdue.2 ⟨hopen, .inr hdrained⟩) hmissed, State.grantHeir_dispatch hheir ht hr hs hl hf]
  · refine ⟨?_, ?_, ?_⟩
    · change execPreemption colour s = _
      unfold execPreemption
      rw [hj]
    · change execResumption colour s = _
      unfold execResumption
      rw [hj]
      cases s.choice with
      | none => rfl
      | some c => cases c <;> rfl
    · change execJobEnd colour s = _
      unfold execJobEnd
      rw [hj]
  · change execJobEnd colour s = _
    unfold execJobEnd
    rw [hj]
    dsimp only
    rw [he]
  · refine ⟨fun h => exec_contRectDefine_idle v (.inl h), runs_contRectDefine v, fun h => ?_, fun h => ?_, runs_contRectGo⟩
    · exact exec_contRectGo_idle (h.imp id .inl)
    · exact ⟨exec_contRectDefine_idle v (.inr h), exec_contRectGo_idle (.inr (.inr h))⟩
  · refine ⟨exec_containment_idle, runs_containment_empty, fun j e cl h hjobs he hlink hcl hin hjob hd hp => ?_⟩
    obtain ⟨hrect, ⟨q, hq, hcolour, hending, hcontain⟩, hclusters⟩ :=
      (State.leave_leftBehind (s := s.rectDone n) (j := j) hjobs hd hp n).reset _
    refine ⟨_, exec_containment_waits h hjobs he hlink hcl hin hjob, ?_, ⟨q, hq, hcolour, hending.trans he, hcontain⟩, hclusters⟩
    rw [hrect, State.rectDone_rect]
    exact getLsbD_idle _

end Sys2Proof.Proofs
end

section
/-! SUPPORT. Accumulators and the steps of the Tile Engine (R118, R141, R142, R264, R265, R269). -/

namespace Sys2Proof.Machine

/-! ### Elements of an accumulator -/

theorem NMap.get_erase_eq {α : Type} (m : NMap α) (z : α) (k j : Nat) :
    NMap.get (NMap.erase m k) z j = if k = j then z else NMap.get m z j := by
  by_cases h : k = j
  · rw [if_pos h, ← h, NMap.get_erase]
  · have hset := NMap.get_set m z z k j
    rw [if_neg h] at hset
    rw [if_neg h, ← hset, NMap.set, NMap.get, if_neg h]
    rfl

@[simp] theorem Core.accAt_setAcc (k : Core) (i : Nat) (v : W32) (j : Nat) :
    (k.setAcc i v).accAt j = if i = j then v else k.accAt j := by
  unfold Core.accAt Core.setAcc
  dsimp only
  by_cases hv : v = 0
  · rw [if_pos hv, NMap.get_erase_eq, hv]
  · rw [if_neg hv, NMap.get_set]

/-- Accumulator `a` of a core holds the elements `f`, and nothing else of the core has changed. -/
structure AccSet (a : Nat) (f : Nat → W32) (k k' : Core) : Prop where
  inside : ∀ n, n < 256 → k'.accAt (256 * a + n) = f n
  others : ∀ n, n < 256 * a ∨ 256 * a + 256 ≤ n → k'.accAt n = k.accAt n
  rest : k' = { k with acc := k'.acc }

/-- Elements written one after the other from element `b + o` on. -/
theorem Core.setAccs_spec (vs : List W32) (b o : Nat) (k : Core) :
    let k' := (vs.zipIdx o).foldl (fun k (v, i) => Core.setAcc k (b + i) v) k
    (∀ n (h : n < vs.length), k'.accAt (b + o + n) = vs[n]) ∧
    (∀ n, n < b + o ∨ b + o + vs.length ≤ n → k'.accAt n = k.accAt n) ∧ k' = { k with acc := k'.acc } := by
  induction vs generalizing o k with
  | nil => exact ⟨fun n h => absurd h (Nat.not_lt_zero n), fun _ _ => rfl, rfl⟩
  | cons v vs ih =>
    obtain ⟨hin, hout, hrest⟩ := ih (o + 1) (k.setAcc (b + o) v)
    refine ⟨fun n h => ?_, fun n h => ?_, hrest⟩
    · cases n with
      | zero => exact (hout _ (by omega)).trans (by rw [Core.accAt_setAcc, if_pos (by omega)]; rfl)
      | succ n =>
        rw [show b + o + (n + 1) = b + (o + 1) + n by omega]
        exact hin n (Nat.lt_of_succ_lt_succ h)
    · rw [List.length_cons] at h
      exact (hout n (by omega)).trans (by rw [Core.accAt_setAcc, if_neg (by omega)])

/-- Elements of a core written from element `b` on. -/
def Core.setAccs (b : Nat) (vs : List W32) (k : Core) : Core := vs.zipIdx.foldl (fun k (v, i) => Core.setAcc k (b + i) v) k

theorem Core.setAccs_set (a : Nat) (k : Core) {vs : List W32} (hlen : vs.length = 256) :
    AccSet a (fun n => vs[n]?.getD 0) k (k.setAccs (256 * a) vs) := by
  obtain ⟨hin, hout, hrest⟩ := Core.setAccs_spec vs (256 * a) 0 k
  refine ⟨fun n hn => ?_, fun n hn => hout n (by omega), hrest⟩
  rw [List.getElem?_eq_getElem (by omega)]
  exact hin n (by omega)

theorem State.core_putAcc (s : State) (c a : Nat) (vs : List W32) (j : Nat) :
    (s.putAcc c a vs).core j = if c = j then (s.core c).setAccs (256 * a) vs else s.core j :=
  s.core_upCore c j (Core.setAccs (256 * a) vs)

/-- What an instruction of the executing core that writes accumulator `a` leaves behind (R264). -/
structure AccWritten (h : Head) (a : Nat) (f : Nat → W32) (s t : State) : Prop where
  past : Past h s t
  registers : Registers [] [] [] s t
  cores : SameCores s t
  bytes : SameBytes s t
  inside : ∀ n, n < 256 → t.me.accAt (256 * a + n) = f n
  others : ∀ n, n < 256 * a ∨ 256 * a + 256 ≤ n → t.me.accAt n = s.me.accAt n

theorem Walked.accAt {s t : State} (h : Walked s t) (n : Nat) : t.me.accAt n = s.me.accAt n := by
  obtain ⟨e, he⟩ := h.me; rw [he]; rfl

/-- An accumulator is written behind the walks of an access, and the instruction goes on. -/
theorem AccWritten.of_putAcc (h : Head) (a : Nat) {s u : State} (w : Walked s u) {vs : List W32} (hlen : vs.length = 256) :
    AccWritten h a (fun n => vs[n]?.getD 0) s ((u.putAcc s.cur a vs).advance h) := by
  rw [← w.cur]
  have hset : AccSet a (fun n => vs[n]?.getD 0) u.me (u.putAcc u.cur a vs).me := by
    rw [show (u.putAcc u.cur a vs).me = u.me.setAccs (256 * a) vs from (u.core_putAcc u.cur a vs u.cur).trans (if_pos rfl)]
    exact u.me.setAccs_set a hlen
  generalize hv : u.putAcc u.cur a vs = v at hset
  have hcur : v.cur = u.cur := by rw [← hv]; rfl
  have hmem : v.mem = u.mem := by rw [← hv]; rfl
  have hacc : (v.advance h).me.accAt = v.me.accAt := by rw [State.me_advance]; rfl
  have hpc : v.pc = s.pc := (congrArg (fun k : Core => k.lv[k.lvl].pc) hset.rest).trans w.pc
  refine ⟨State.past_advance h hpc, ?_, fun c hc => ?_, fun x => ?_, fun n hn => ?_, fun n hn => ?_⟩
  · refine (w.registers.trans (.of_sameFile ?_ _ _ _)).trans (Registers.advance _ _ _ v h)
    rw [hset.rest]
    exact .of_eq rfl rfl rfl rfl rfl
  · rw [State.core_advance_ne v h c (by rw [hcur, w.cur]; exact hc), ← hv, State.core_putAcc, if_neg (by rw [w.cur]; exact Ne.symm hc)]
    exact w.cores c hc
  · rw [State.advance_mem, hmem, w.mem]
  · rw [hacc, hset.inside n hn]
  · rw [hacc, hset.others n hn, w.accAt]

theorem AccWritten.congr {h : Head} {a : Nat} {f g : Nat → W32} {s t : State} (w : AccWritten h a f s t)
    (hfg : ∀ n, n < 256 → f n = g n) : AccWritten h a g s t :=
  { w with inside := fun n hn => (w.inside n hn).trans (hfg n hn) }

/-! ### Accesses of an accumulator (R264) -/

theorem sext_32 (w : Word) : sext 32 w = (w.setWidth 32).signExtend 64 := by
  unfold sext sextNat
  rw [if_neg (by decide), BitVec.signExtend, BitVec.toInt_eq_toNat_cond, BitVec.toNat_setWidth]
  split
  · rw [if_pos (by omega), BitVec.ofInt_natCast]
  · rw [if_neg (by omega)]

theorem State.rowStride_eq (s : State) (t : Option XReg) : s.rowStride t =
    match t with | some r => ((s.getX r).setWidth 32).signExtend 64 | none => 64 := by
  cases t with
  | none => rfl
  | some r => exact sext_32 _

theorem State.accHeld_free {s : State} {a : Nat} (hopen : s.me.accOpen a = false) (hbusy : s.accBusy s.cur a = false) (f : State) :
    s.accHeld a f = f := by
  unfold State.accHeld
  rw [hopen, hbusy]
  rfl

theorem State.accRead_sound {s : State} {a : Nat} (hsound : s.badStripe (accKey s.cur (1024 * a)) 1024 = none) (h : Head) (va : Word)
    (es : List Elem) (f : State) : s.accRead h a va es f = f := by
  unfold State.accRead
  rw [hsound]
  cases vecPlan es <;> rfl

theorem State.badStripe_undamaged {s : State} (hd : s.damage = []) (key n : Nat) : s.badStripe key n = none := by
  unfold State.badStripe State.badStripes
  rw [hd]
  rfl

/-- Elements numbered from 0 that the plans of their accesses place at keys. -/
theorem lies_of_plans {s : State} {va : Nat → Word} {len count : Nat} {wr : Bool} {ok : Allow} {key : Nat → Nat}
    (hkey : ∀ n, n < count → ∃ own cached walk, s.plan (va n) len wr ok = .go (key n) own cached walk) :
    Lies ((List.range count).map fun n => ⟨n, va n, s.plan (va n) len wr ok⟩) key := by
  intro n hn
  rw [List.getElem_map, List.getElem_range]
  exact ⟨rfl, hkey n (by simpa using hn)⟩

section
variable {h : Head} {d : AccReg} {a : XReg} {s : State} (hopen : s.me.accOpen d.toNat = false)
  (hbusy : s.accBusy s.cur d.toNat = false)
include hopen hbusy

theorem runs_tzero (u : BitVec 4) : Runs (.tzero h d u) s (AccWritten h d.toNat (fun _ => 0) s) := by
  refine ⟨_, congrArg Host.Outcome.next (State.accHeld_free hopen hbusy _), ?_⟩
  refine (AccWritten.of_putAcc h d.toNat (.refl s) List.length_replicate).congr fun n hn => ?_
  rw [List.getElem?_replicate, if_pos hn]
  rfl

theorem runs_tlda {t : Option XReg} {st disp : Word} (hst : s.rowStride t = st) {key : Nat → Nat}
    (hkey : ∀ n, n < 256 → ∃ own cached walk,
      s.plan (s.getX a + disp + BitVec.ofNat 64 (n / 16) * st + BitVec.ofNat 64 (4 * (n % 16))) 4 false ⟨false, true, true⟩ =
        .go (key n) own cached walk)
    (hsound : s.badStripe (accKey s.cur (1024 * d.toNat)) 1024 = none) :
    Runs (.tlda h d a t disp) s
      (AccWritten h d.toNat (fun n => BitVec.ofNat 32 (leVal (s.bytesAt s.cur (key n) 4))) s) := by
  have hlies : Lies (s.accElems (s.ea a disp) (s.rowStride t) false) key := by
    rw [hst]
    exact lies_of_plans hkey
  have hlen : (s.accElems (s.ea a disp) (s.rowStride t) false).length = 256 := by
    unfold State.accElems
    rw [List.length_map, List.length_range]
  change ∃ x, execTlda h d a t disp s = .next x ∧ _
  unfold execTlda
  rw [State.accHeld_free hopen hbusy, State.accRead_sound hsound, State.access_of_lies _ _ _ _ _ _ hlies]
  refine ⟨_, rfl, (AccWritten.of_putAcc h d.toNat (s.startWalks_walked _ _) (by rw [List.length_map, List.length_range])).congr
    fun n hn => ?_⟩
  obtain ⟨cached, hk⟩ := hlies.elemKey n (by omega)
  rw [List.getElem?_map, List.getElem?_range hn, Option.map_some, hk]
  rfl

end

/-! ### Stores of several pieces (R114, R264) -/

/-- A piece of a store: its key, whether it is cached, and its bytes. -/
abbrev Piece := Nat × Bool × List Byte

/-- Two pieces share no byte. -/
def Piece.ApartFrom (p q : Piece) : Prop := p.1 + p.2.2.length ≤ q.1 ∨ q.1 + q.2.2.length ≤ p.1

/-- Core `c` stores a piece that waits for no ring slot, or one that does. -/
def State.putPiece (c : Nat) (s : State) (p : Piece) : State :=
  if s.heldSlot p.1 p.2.2.length then s.ackedStore c p.1 p.2.2 p.2.1 else s.storeAt c p.1 p.2.2 p.2.1

theorem State.storePieces_eq (s : State) (ps : List Piece) : s.storePieces ps =
    let t := ps.foldl (State.putPiece s.cur) s
    (t.upMe fun k => { k with stores := k.stores + 1 }).pushFree (.storeAck t.cur) := rfl

/-- Pieces stand in memory, and nothing else has changed but what is known of their lines. -/
structure Placed (ps : List Piece) (s t : State) : Prop where
  only : MemoryOnly s t
  bytes : ∀ p ∈ ps, ∀ b (h : b < p.2.2.length), t.mem.read (p.1 + b) = p.2.2[b]
  others : ∀ x, (∀ p ∈ ps, x < p.1 ∨ p.1 + p.2.2.length ≤ x) → t.mem.read x = s.mem.read x

/-- One more piece in front of those placed behind it. -/
theorem Placed.cons {p : Piece} {ps : List Piece} {s t u : State} (hwf : s.mem.wf = true) (hst : MemoryOnly s t)
    (hmem : t.mem = s.mem.writeBytes p.1 p.2.2) (hapart : ∀ q ∈ ps, p.ApartFrom q) (h : Placed ps t u) : Placed (p :: ps) s u := by
  refine ⟨hst.trans h.only, fun q hq b hb => ?_, fun x hx => ?_⟩
  · rcases List.mem_cons.1 hq with rfl | hq
    · rw [h.others _ fun r hr => by have := hapart r hr; unfold Piece.ApartFrom at this; omega, hmem,
        Memory.read_writeBytes_in _ _ _ hwf hb]
    · exact h.bytes q hq b hb
  · rw [h.others x fun q hq => hx q (List.mem_cons_of_mem _ hq), hmem,
      Memory.read_writeBytes_out _ _ _ hwf (hx p List.mem_cons_self)]

theorem State.putPieces_placed (c : Nat) {ps : List Piece} (hapart : ps.Pairwise Piece.ApartFrom) {s : State}
    (hheld : ∀ p ∈ ps, s.heldSlot p.1 p.2.2.length = false) (hwf : s.mem.wf = true)
    (hreplay : s.replaying (s.core c).colour = false) : Placed ps s (ps.foldl (State.putPiece c) s) := by
  induction ps generalizing s with
  | nil => exact ⟨.refl s, fun p hp => absurd hp List.not_mem_nil, fun _ _ => rfl⟩
  | cons p ps ih =>
    obtain ⟨hp, hps⟩ := List.pairwise_cons.1 hapart
    have hfree := hheld p List.mem_cons_self
    have hput : State.putPiece c s p = s.storeAt c p.1 p.2.2 p.2.1 := if_neg (by rw [hfree]; exact Bool.false_ne_true)
    obtain ⟨hmem, honly⟩ := s.storeAt_free c p.1 p.2.2 p.2.1 false hfree hreplay
    rw [List.foldl_cons, hput]
    exact .cons hwf honly hmem hp (ih hps (fun q hq => (honly.heldSlot _ _).trans (hheld q (List.mem_cons_of_mem _ hq)))
      (by rw [hmem]; exact Memory.wf_writeBytes _ _ hwf) (by rw [honly.replaying, honly.core]; exact hreplay))

/-- Pieces `n < count` of `len` bytes have been stored; the instruction has not gone on yet. -/
structure PiecesDone (count len : Nat) (key : Nat → Nat) (byte : Nat → Nat → Byte) (s t : State) : Prop where
  cur : t.cur = s.cur
  pc : t.pc = s.pc
  ten : t.lev.ten = s.lev.ten
  registers : Registers [] [] [] s t
  cores : SameCores s t
  stores : t.me.stores = s.me.stores + 1
  bytes : ∀ n b, n < count → b < len → t.mem.read (key n + b) = byte n b
  others : ∀ a, (∀ n, n < count → a < key n ∨ key n + len ≤ a) → t.mem.read a = s.mem.read a

theorem PiecesDone.advance {count len : Nat} {key : Nat → Nat} {byte : Nat → Nat → Byte} {s t : State}
    (w : PiecesDone count len key byte s t) (h : Head) : StoredPieces h count len key byte s (t.advance h) := by
  refine ⟨State.past_advance h w.pc, w.registers.trans (Registers.advance _ _ _ t h), fun c hc => ?_, ?_, w.bytes, w.others⟩
  · rw [State.core_advance_ne t h c (by rw [w.cur]; exact hc)]
    exact w.cores c hc
  · rw [State.me_advance]
    exact w.stores

/-- Flags whose traps are not enabled join those of the running level (R138). -/
theorem PiecesDone.setFlags {count len : Nat} {key : Nat → Nat} {byte : Nat → Nat → Byte} {s t : State}
    (w : PiecesDone count len key byte s t) (hten : s.lev.ten = 0) (fs : List FpFlags) :
    PiecesDone count len key byte s (t.setFlags fs) := by
  have hset : t.setFlags fs = t.upLev fun v => { v with flags := v.flags ||| orFlags fs } := by
    unfold State.setFlags
    dsimp only
    rw [w.ten, hten, if_pos (by simp)]
  rw [hset]
  refine ⟨w.cur, ?_, ?_, w.registers.trans (.of_sameFile ?_ _ _ _), fun c hc => ?_, ?_, w.bytes, w.others⟩
  · rw [← w.pc]; unfold State.pc; rw [State.lev_upLev]
  · rw [← w.ten, State.lev_upLev]
  · rw [State.me_upLev]; exact .upLv _ _ (fun _ => rfl) fun _ => rfl
  · rw [State.core_upLev_ne t _ c (by rw [w.cur]; exact hc)]; exact w.cores c hc
  · rw [State.me_upLev]; exact w.stores

/-- Piece `n` of a store with the bytes `bs n`. -/
def pieces (count : Nat) (key : Nat → Nat) (cached : Nat → Bool) (bs : Nat → List Byte) : List Piece :=
  (List.range count).map fun n => (key n, cached n, bs n)

theorem PiecesDone.of_storePieces {count len : Nat} {key : Nat → Nat} {bs : Nat → List Byte} {byte : Nat → Nat → Byte}
    {s u : State} (w : Walked s u) (cached : Nat → Bool) (hlen : ∀ n, (bs n).length = len)
    (hbyte : ∀ n b (h : b < (bs n).length), (bs n)[b] = byte n b) (hapart : Apart s count len key) (hwf : s.mem.wf = true)
    (hreplay : s.replaying s.me.colour = false) :
    PiecesDone count len key byte s (u.storePieces (pieces count key cached bs)) := by
  obtain ⟨hkeys, hheld⟩ := hapart
  have hmem : ∀ n, n < count → (key n, cached n, bs n) ∈ pieces count key cached bs := fun n hn =>
    List.mem_map.2 ⟨n, List.mem_range.2 hn, rfl⟩
  have hpair : (pieces count key cached bs).Pairwise Piece.ApartFrom := by
    refine List.pairwise_map.2 (List.Pairwise.imp_of_mem (fun hi hj hij => ?_) List.pairwise_lt_range)
    have := hkeys _ _ (List.mem_range.1 hi) (List.mem_range.1 hj) (Nat.ne_of_lt hij)
    unfold Piece.ApartFrom
    rw [hlen, hlen]
    exact this
  have hfree : ∀ p ∈ pieces count key cached bs, u.heldSlot p.1 p.2.2.length = false := by
    rintro p hp
    obtain ⟨n, hn, rfl⟩ := List.mem_map.1 hp
    rw [w.heldSlot, hlen]
    exact hheld n (List.mem_range.1 hn)
  have hplaced := State.putPieces_placed u.cur hpair hfree (by rw [w.mem]; exact hwf)
    (by rw [w.replaying]; exact (congrArg _ w.colour).trans hreplay)
  rw [State.storePieces_eq]
  dsimp only
  generalize List.foldl (State.putPiece u.cur) u (pieces count key cached bs) = v at hplaced
  have hcur : v.cur = s.cur := hplaced.only.cur.trans w.cur
  obtain ⟨e, he⟩ := w.me
  have hme : ((v.upMe fun k => { k with stores := k.stores + 1 }).pushFree (.storeAck v.cur)).me =
      { s.me with evc := e, stores := s.me.stores + 1 } := by
    rw [State.me_pushFree, State.me_upMe, hplaced.only.me, he]
  have hlev := congrArg (fun k : Core => k.lv[k.lvl]) hme
  refine ⟨hcur, congrArg Level.pc hlev, congrArg Level.ten hlev, .of_sameFile ?_ _ _ _, fun c hc => ?_, ?_, fun n b hn hb => ?_,
    fun x hx => ?_⟩
  · rw [hme]; exact .of_eq rfl rfl rfl rfl rfl
  · rw [State.core_pushFree, State.core_upMe_ne v _ c (by rw [hcur]; exact hc), hplaced.only.core]
    exact w.cores c hc
  · rw [hme]
  · have hb' : b < (bs n).length := by rw [hlen]; exact hb
    exact (hplaced.bytes _ (hmem n hn) b hb').trans (hbyte n b hb')
  · refine (hplaced.others x fun p hp => ?_).trans (by rw [w.mem])
    obtain ⟨n, hn, rfl⟩ := List.mem_map.1 hp
    rw [hlen]
    exact hx n (List.mem_range.1 hn)

/-! ### TSTA and TSTA.Q (R264, R265) -/

theorem getElem_leBytes {n v b : Nat} (h : b < (leBytes n v).length) : (leBytes n v)[b] = BitVec.ofNat 8 (v / 2 ^ (8 * b)) := by
  induction n generalizing v b with
  | zero => exact absurd h (Nat.not_lt_zero b)
  | succ n ih =>
    cases b with
    | zero => rw [Nat.mul_zero, Nat.pow_zero, Nat.div_one]; rfl
    | succ b =>
      refine (ih (v := v / 256) (Nat.lt_of_succ_lt_succ h)).trans ?_
      rw [Nat.div_div_eq_div_mul, show 8 * (b + 1) = 8 + 8 * b by omega, Nat.pow_add]

theorem setWidth_ushiftRight (w : W32) (k : Nat) : (w >>> k).setWidth 8 = BitVec.ofNat 8 (w.toNat / 2 ^ k) := by
  apply BitVec.eq_of_toNat_eq
  rw [BitVec.toNat_setWidth, BitVec.toNat_ushiftRight, Nat.shiftRight_eq_div_pow, BitVec.toNat_ofNat]

theorem State.accStoreOk_single {s : State} (h : s.inTwin = false) (es : List Elem) : s.accStoreOk es = true := by
  have hnone : es.any (fun e => s.twinStore e.va) = false := List.any_eq_false.2 fun e _ => by
    unfold State.twinStore
    rw [h]
    exact Bool.false_ne_true
  unfold State.accStoreOk
  rw [hnone]
  rfl

theorem Lies.pieces {es : List Elem} {key : Nat → Nat} (h : Lies es key) {count : Nat} (hlen : es.length = count)
    (bs : Nat → List Byte) : ∃ cached, (List.range count).filterMap (fun n => (Machine.elemKey es n).map fun k => (k.1, k.2, bs n)) =
      Machine.pieces count key cached bs := by
  choose! cached hk using h.elemKey
  refine ⟨cached, List.filterMap_eq_map_iff_forall_eq_some.2 fun n hn => ?_⟩
  rw [hk n (by rw [hlen]; exact List.mem_range.1 hn)]
  rfl

/-- Elements none of whose translations walk start no walk. -/
theorem State.startWalks_of_still {es : List Elem} (h : ∀ e ∈ es, e.plan.walks = false) (s : State) (wr : Bool) :
    s.startWalks es wr = s := by
  unfold State.startWalks
  rw [List.filter_eq_nil_iff.2 fun e he => by rw [h e he]; exact Bool.false_ne_true]
  rfl

theorem mapM_of_forall_some {α β : Type} {f : α → Option β} {g : α → β} {l : List α} (h : ∀ x ∈ l, f x = some (g x)) :
    l.mapM f = some (l.map g) := by
  induction l with
  | nil => rfl
  | cons x l ih =>
    rw [List.mapM_cons, h x List.mem_cons_self, ih fun y hy => h y (List.mem_cons_of_mem _ hy)]
    rfl

/-- Block `j` of blocks of one length. -/
theorem take_drop_flatMap {α β : Type} {f : α → List β} {k : Nat} (hf : ∀ x, (f x).length = k) {l : List α} {j : Nat}
    (hj : j < l.length) : ((l.flatMap f).drop (j * k)).take k = f l[j] := by
  induction l generalizing j with
  | nil => exact absurd hj (Nat.not_lt_zero j)
  | cons x l ih =>
    rw [List.flatMap_cons]
    cases j with
    | zero => rw [Nat.zero_mul, List.drop_zero, List.take_append_of_le_length (by rw [hf]), List.take_of_length_le (by rw [hf])]; rfl
    | succ j =>
      rw [show (j + 1) * k = (f x).length + j * k by rw [hf, Nat.succ_mul, Nat.add_comm], List.drop_length_add_append]
      exact ih (Nat.lt_of_succ_lt_succ hj)

/-- Bytes of one output of width `w`, but for those that are packed two to a byte (R127, R265). -/
def outputBytes (w : Nat) : Nat := if w = 32 then 4 else if w = 16 then 2 else 1

theorem outputBytes_fmtWidth (fmt : Nat) : Nat.max 1 (fmtWidth fmt / 8) = outputBytes (fmtWidth fmt) := by
  unfold fmtWidth
  split <;> rfl

theorem rowBytes_eq {w : Nat} (hw : w ≠ 4) (cs : List Nat) : rowBytes w cs = cs.flatMap (leBytes (outputBytes w)) := by
  unfold rowBytes
  split
  · rfl
  · rfl
  · exact absurd rfl hw
  · next h32 h16 _ =>
    rw [outputBytes, if_neg h32, if_neg h16, List.map_eq_flatMap]
    rfl

/-- Outputs of row `i` of accumulator `a` with their flags, output `j` by entry `j` of the table (R143, R265). -/
def State.rescaledRow (s : State) (a : Nat) (i32 : Bool) (rs : List Resc) (i : Nat) : List (Nat × FpFlags) :=
  rs.zipIdx.map fun (r, j) => r.apply (accNum i32 (s.me.accAt (256 * a + 16 * i + j)))

/-- The output of element `n` of accumulator `a` (R265). -/
def State.rescaled (s : State) (a : Nat) (i32 : Bool) (rs : Nat → Resc) (n : Nat) : Nat :=
  ((rs (n % 16)).apply (accNum i32 (s.me.accAt (256 * a + n)))).1

/-- The bytes of element `n` in its row of outputs. -/
theorem State.rescaledRow_bytes (s : State) (a : Nat) (i32 : Bool) (rs : Nat → Resc) {w : Nat} (hw : w ≠ 4) {n : Nat} (hn : n < 256) :
    ((rowBytes w ((((List.range 16).map (s.rescaledRow a i32 ((List.range 16).map rs)))[n / 16]?.getD []).map
      (·.1))).drop (n % 16 * outputBytes w)).take (outputBytes w) =
      leBytes (outputBytes w) (s.rescaled a i32 rs n) := by
  have hrow : ((List.range 16).map (s.rescaledRow a i32 ((List.range 16).map rs)))[n / 16]?.getD [] =
      s.rescaledRow a i32 ((List.range 16).map rs) (n / 16) := by
    rw [List.getElem?_map, List.getElem?_range (by omega)]
    rfl
  have hlen : (s.rescaledRow a i32 ((List.range 16).map rs) (n / 16)).length = 16 := by
    unfold State.rescaledRow
    rw [List.length_map, List.length_zipIdx, List.length_map, List.length_range]
  rw [hrow, rowBytes_eq hw, take_drop_flatMap (fun v => leBytes_length _ v) (by rw [List.length_map, hlen]; omega), List.getElem_map]
  unfold State.rescaledRow
  rw [List.getElem_map, List.getElem_zipIdx, List.getElem_map, List.getElem_range, Nat.zero_add]
  unfold State.rescaled
  dsimp only
  rw [Nat.add_assoc, Nat.div_add_mod]

/-- The table of TSTA.Q is read in the own scratchpad, where no access walks (R143, R265). -/
theorem State.access_table {s : State} {va : Nat → Word} {count len : Nat} {ok : Allow}
    (hreads : ∀ j, j < count → ∃ k, s.plan (va j) len false ok = .go k true true false) (h : Head) (go : State → State) :
    s.access h false none ((List.range count).map fun j => ⟨j, va j, s.plan (va j) len false ok⟩) go = go s := by
  choose! k hk using hreads
  rw [State.access_of_lies _ _ _ _ _ _ (lies_of_plans fun n hn => ⟨true, true, false, hk n hn⟩), State.startWalks_of_still]
  intro e he
  obtain ⟨j, hj, rfl⟩ := List.mem_map.1 he
  exact congrArg Plan.walks (hk j (List.mem_range.1 hj))

section
variable {h : Head} {d : AccReg} {a : XReg} {s : State} (hopen : s.me.accOpen d.toNat = false)
  (hbusy : s.accBusy s.cur d.toNat = false) (hdamage : s.damage = []) (htwin : s.inTwin = false) (hwf : s.mem.wf = true)
  (hreplay : s.replaying s.me.colour = false)
include hopen hbusy hdamage htwin hwf hreplay

theorem runs_tsta {t : Option XReg} {st disp : Word} (hst : s.rowStride t = st) {key : Nat → Nat}
    (hkey : ∀ n, n < 256 → ∃ own cached walk,
      s.plan (s.getX a + disp + BitVec.ofNat 64 (n / 16) * st + BitVec.ofNat 64 (4 * (n % 16))) 4 true ⟨false, true, true⟩ =
        .go (key n) own cached walk)
    (hapart : Apart s 256 4 key) : Runs (.tsta h d a t disp) s
      (StoredPieces h 256 4 key (fun n b => (s.me.accAt (256 * d.toNat + n) >>> (8 * b)).setWidth 8) s) := by
  have hlies : Lies (s.accElems (s.ea a disp) (s.rowStride t) true) key := by
    rw [hst]
    exact lies_of_plans hkey
  have hlen : (s.accElems (s.ea a disp) (s.rowStride t) true).length = 256 := by
    unfold State.accElems
    rw [List.length_map, List.length_range]
  obtain ⟨cached, hpieces⟩ := hlies.pieces hlen fun n => leBytes 4 (s.me.accAt (256 * d.toNat + n)).toNat
  change ∃ x, execTsta h d a t disp s = .next x ∧ _
  unfold execTsta
  dsimp only
  rw [State.accHeld_free hopen hbusy, State.accStoreOk_single htwin, Bool.not_true, if_neg Bool.false_ne_true,
    State.accRead_sound (s.badStripe_undamaged hdamage _ _), State.access_of_lies _ _ _ _ _ _ hlies, hpieces]
  refine ⟨_, rfl, PiecesDone.advance (.of_storePieces (s.startWalks_walked _ _) cached (fun n => leBytes_length _ _)
    (fun n b hb => ?_) hapart hwf hreplay) h⟩
  rw [getElem_leBytes, setWidth_ushiftRight]

/-- TSTA.Q stores every output where the plans of its elements place it, once its table has been read (R265). -/
theorem runs_tstaQ {t : XReg} {disp : Word} {i32 : Bool} {rs : Nat → Resc} {w : Nat} {key : Nat → Nat}
    {tab : Nat} {st : Word} (hfield : bits (s.getX t) 32 18 = tab) (hst : sext 32 (s.getX t) = st) (htab : tab % 16 = 0)
    (hreads : ∀ j, j < 16 → ∃ k, s.plan (0xFF00000000000000 + BitVec.ofNat 64 (tab + 16 * j)) 16 false
      ⟨false, false, false⟩ = .go k true true false)
    (hrs : ∀ j, j < 16 → s.rescAt (tab + 16 * j) = some (rs j) ∧ fmtWidth (rs j).fmt = w) (hw : w ≠ 4)
    (hkey : ∀ n, n < 256 → ∃ own cached walk,
      s.plan (s.getX a + disp + BitVec.ofNat 64 (n / 16) * st + BitVec.ofNat 64 (n % 16 * outputBytes w))
        (outputBytes w) true ⟨false, true, true⟩ = .go (key n) own cached walk)
    (hapart : Apart s 256 (outputBytes w) key) (hten : s.lev.ten = 0) : Runs (.tstaQ h d a t disp i32) s
      (StoredPieces h 256 (outputBytes w) key (fun n b => BitVec.ofNat 8 (s.rescaled d.toNat i32 rs n / 2 ^ (8 * b))) s) := by
  have hlies := lies_of_plans hkey
  obtain ⟨cached, hpieces⟩ := hlies.pieces (by rw [List.length_map, List.length_range]) fun n =>
    leBytes (outputBytes w) (s.rescaled d.toNat i32 rs n)
  have hfmt : fmtWidth ((((List.range 16).map rs).head?.map (·.fmt)).getD 0) = w := (hrs 0 (by decide)).2
  have hstep : Nat.max 1 (w / 8) = outputBytes w := by rw [← hfmt]; exact outputBytes_fmtWidth _
  have hsame : ((List.range 16).map rs).any (fun r => fmtWidth r.fmt != w) = false := by
    rw [List.any_map]
    exact List.any_eq_false.2 fun j hj => by simp [(hrs j (List.mem_range.1 hj)).2]
  change ∃ x, execTstaQ h d a t disp i32 s = .next x ∧ _
  unfold execTstaQ
  dsimp only
  rw [hfield, hst, State.accHeld_free hopen hbusy, if_neg (not_not.2 htab),
    State.access_table (va := fun j => 0xFF00000000000000 + BitVec.ofNat 64 (tab + 16 * j)) hreads,
    mapM_of_forall_some fun j hj => (hrs j (List.mem_range.1 hj)).1]
  dsimp only
  rw [hfmt, hsame, if_neg Bool.false_ne_true]
  simp only [hw, false_and, if_false, List.filterMap_eq_map', hstep]
  unfold State.ea
  rw [State.accStoreOk_single htwin, Bool.not_true, if_neg Bool.false_ne_true,
    State.accRead_sound (s.badStripe_undamaged hdamage _ _), State.access_of_lies _ _ _ _ _ _ hlies, List.filterMap_map]
  refine ⟨_, rfl, PiecesDone.advance (PiecesDone.setFlags ?_ hten _) h⟩
  rw [List.filterMap_congr (g := fun n => (elemKey _ n).map fun k => (k.1, k.2, leBytes (outputBytes w)
      (s.rescaled d.toNat i32 rs n))) fun n hn => ?_, hpieces]
  · exact .of_storePieces (s.startWalks_walked _ _) cached (fun n => leBytes_length _ _) (fun n b hb => getElem_leBytes hb)
      hapart hwf hreplay
  · exact congrArg (Option.map · _) (funext fun k => congrArg (fun bs => (k.1, k.2, bs))
      (s.rescaledRow_bytes d.toNat i32 rs hw (List.mem_range.1 hn)))

end

/-! ### TACCQ (R264) -/

theorem accSet_eq (f : Nat → Bool) : accSet f = (f 0).toNat + 2 * (f 1).toNat + 4 * (f 2).toNat + 8 * (f 3).toNat := by
  have weight (b : Bool) (n : Nat) : (if b then n else 0) = n * b.toNat := by cases b <;> simp
  change 0 + (if f 0 then 1 else 0) + (if f 1 then 2 else 0) + (if f 2 then 4 else 0) + (if f 3 then 8 else 0) = _
  rw [weight, weight, weight, weight]
  omega

theorem accSet_lt (f : Nat → Bool) : accSet f < 2 ^ 4 := by
  have h0 := (f 0).toNat_le
  have h1 := (f 1).toNat_le
  have h2 := (f 2).toNat_le
  have h3 := (f 3).toNat_le
  rw [accSet_eq]
  omega

theorem testBit_accSet (f : Nat → Bool) {a : Nat} (ha : a < 4) : (accSet f).testBit a = f a := by
  have hbits : ∀ b0 b1 b2 b3 : Bool, let n := b0.toNat + 2 * b1.toNat + 4 * b2.toNat + 8 * b3.toNat
      n.testBit 0 = b0 ∧ n.testBit 1 = b1 ∧ n.testBit 2 = b2 ∧ n.testBit 3 = b3 := by decide
  obtain ⟨h0, h1, h2, h3⟩ := hbits (f 0) (f 1) (f 2) (f 3)
  rw [accSet_eq]
  match a, ha with
  | 0, _ => exact h0
  | 1, _ => exact h1
  | 2, _ => exact h2
  | 3, _ => exact h3

theorem pack_five (x y z n m : Nat) : pack [(0, x), (4, y), (8, z), (16, n), (24, m)] =
    BitVec.ofNat 64 (2 ^ 4 * (2 ^ 4 * (2 ^ 8 * (n + 2 ^ 8 * m) + z) + y) + x) := by
  unfold pack
  rw [List.map_cons, List.map_cons, List.map_cons, List.map_cons, List.map_cons, List.map_nil, List.foldl_cons, List.foldl_cons,
    List.foldl_cons, List.foldl_cons, List.foldl_cons, List.foldl_nil]
  dsimp only
  rw [show 0 + x * 2 ^ 0 + y * 2 ^ 4 + z * 2 ^ 8 + n * 2 ^ 16 + m * 2 ^ 24 =
    2 ^ 4 * (2 ^ 4 * (2 ^ 8 * (n + 2 ^ 8 * m) + z) + y) + x by ring]

/-- Three 4-bit fields of a word, with anything above them. -/
theorem lowFields_ofNat {x y z : Nat} (hx : x < 2 ^ 4) (hy : y < 2 ^ 4) (hz : z < 2 ^ 4) (r : Nat) :
    let w : Word := BitVec.ofNat 64 (2 ^ 4 * (2 ^ 4 * (2 ^ 8 * r + z) + y) + x)
    (∀ a, a < 4 → w.getLsbD a = x.testBit a ∧ w.getLsbD (4 + a) = y.testBit a) ∧ (w.extractLsb' 8 4).toNat = z := by
  refine ⟨fun a ha => ⟨?_, ?_⟩, ?_⟩
  · rw [BitVec.getLsbD_ofNat, Nat.testBit_two_pow_mul_add _ hx, if_pos ha, decide_eq_true (by omega), Bool.true_and]
  · rw [BitVec.getLsbD_ofNat, Nat.testBit_two_pow_mul_add _ hx, if_neg (by omega), Nat.add_sub_cancel_left,
      Nat.testBit_two_pow_mul_add _ hy, if_pos ha, decide_eq_true (by omega), Bool.true_and]
  · rw [BitVec.extractLsb'_toNat, BitVec.toNat_ofNat, Nat.shiftRight_eq_div_pow]
    omega

theorem runs_taccq (h : Head) (d : XReg) (u : BitVec 4) (s : State) : Runs (.taccq h d u) s fun t => Past h s t ∧ Frame [d] [] [] s t ∧
    (d ≠ 0 → let w := t.getX d
      (∀ a, a < 4 → w.getLsbD a = s.accBusy s.cur a ∧ w.getLsbD (4 + a) = s.me.accOpen a) ∧ w.extractLsb' 8 4 = s.me.asat) := by
  obtain ⟨t, ht, hx, hpast, hframe⟩ := Runs.of_setX (i := .taccq h d u) (s := s) rfl
  refine ⟨t, ht, hpast, hframe, fun hd => ?_⟩
  obtain ⟨hsets, hsat⟩ := lowFields_ofNat (accSet_lt (s.accBusy s.cur)) (accSet_lt s.me.accOpen) s.me.asat.isLt
    (s.me.openB.length + 2 ^ 8 * s.me.batches.length)
  rw [hx, if_neg hd, pack_five]
  refine ⟨fun a ha => ?_, BitVec.eq_of_toNat_eq hsat⟩
  rw [← testBit_accSet (s.accBusy s.cur) ha, ← testBit_accSet s.me.accOpen ha]
  exact hsets a ha

/-! ### An integer step of one element (R130, R142) -/

theorem sat32_fst (v : Int) : (sat32 v).1 = BitVec.ofInt 32 (max (-2 ^ 31) (min (2 ^ 31 - 1) v)) := by
  refine congrArg (BitVec.ofInt 32) ?_
  change (clampInt (-2147483648, 2147483647) v false).1 = _
  unfold clampInt
  split
  · omega
  · split <;> omega

theorem stepElem_int {form : Nat} (hform : 10 ≤ form) (fa fb : Nat) (sw : W32) (a b : List Nat) (acc : W32) :
    (stepElem form fa fb sw a b acc).1 = BitVec.ofInt 32 (max (-2 ^ 31) (min (2 ^ 31 - 1)
      (acc.toInt + ((a.zip b).map (fun p => intOf fa p.1 * (intOf fb p.2 - zeroPoint form sw))).sum))) := by
  unfold stepElem
  rw [if_neg (by omega)]
  dsimp only
  rw [← List.sum_eq_foldl]
  exact sat32_fst _

/-! ### The steps of the engine (R262, R269) -/

theorem State.settleSlots_undamaged {s : State} (hd : s.damage = []) (c : Nat) (t : TileStep) : s.settleSlots c t = s := by
  unfold State.settleSlots
  dsimp only
  rw [s.settle_undamaged hd, s.settle_undamaged hd]

theorem runs_tileStepStart {c : Nat} {b : Batch} {r : List Batch} {t : TileStep} {ts : List TileStep} {s : State}
    (hb : (s.core c).batches = b :: r) (ht : b.steps = t :: ts) (hd : s.damage = []) :
    Runs (.tileStepStart c) s fun u => u.core c = { s.core c with batches := { b with started := true } :: r } ∧
      (∀ c', c' ≠ c → u.core c' = s.core c') ∧ u = { s with cores := u.cores } := by
  refine ⟨s.upCore c fun k => { k with batches := { b with started := true } :: r }, ?_, ?_, fun c' hc => ?_, rfl⟩
  · change execTileStepStart c s = _
    unfold execTileStepStart
    rw [hb]
    dsimp only
    rw [ht]
    dsimp only
    rw [State.settleSlots_undamaged (by exact hd)]
  · rw [State.core_upCore, if_pos rfl]
  · rw [State.core_upCore, if_neg (Ne.symm hc)]

theorem State.lostBytes_undamaged {s : State} (hd : s.damage = []) (key n : Nat) : s.lostBytes key n = false := by
  unfold State.lostBytes State.badStripes
  rw [hd]
  rfl

theorem State.stepAcc_length (s : State) (c : Nat) (t : TileStep) : (s.stepAcc c t).length = 256 := by
  unfold State.stepAcc
  simp only [List.length_flatMap, List.length_map, List.length_zipIdx, State.slotRows, List.length_range, List.map_const',
    List.sum_replicate]
  rfl

theorem Core.ringAt_setRing_same (k : Core) (r : Ring) {i : Nat} (hi : i < 8) : (k.setRing i r).ringAt i = r := by
  unfold Core.ringAt Core.setRing
  dsimp only
  rw [Vector.getElem?_setIfInBounds_self_of_lt hi]
  rfl

theorem Core.ringAt_setRing_ne (k : Core) (r : Ring) {i j : Nat} (h : i ≠ j) : (k.setRing i r).ringAt j = k.ringAt j := by
  unfold Core.ringAt Core.setRing
  dsimp only
  rw [Vector.getElem?_setIfInBounds_ne h]

theorem Core.saturate_units (k : Core) (a : Nat) (b : Bool) : k.saturate a b = { k with asat := (k.saturate a b).asat } := by
  unfold Core.saturate
  split <;> rfl

theorem Core.releaseStep_units (k : Core) (t : TileStep) : k.releaseStep t = { k with ring := (k.releaseStep t).ring } := by
  unfold Core.releaseStep
  dsimp only
  split <;> rfl

/-- A step gives one slot of its ring of A back (R262). -/
theorem Core.releaseStep_ring (k : Core) (t : TileStep) (hring : t.ra ≠ t.rb ∨ t.claimB = false) (ha : t.ra < 8) :
    (k.releaseStep t).ringAt t.ra = { k.ringAt t.ra with held := (k.ringAt t.ra).held - 1 } := by
  unfold Core.releaseStep
  dsimp only
  split
  · next hclaim =>
    have hne : t.ra ≠ t.rb := hring.resolve_right (by rw [hclaim]; decide)
    rw [Core.ringAt_setRing_ne _ _ (Ne.symm hne), Core.ringAt_setRing_same _ _ ha]
  · exact Core.ringAt_setRing_same _ _ ha

/-- A core whose oldest batch `b` has retired its step `t`, with the elements `vs` of its accumulator (R141, R142, R262). -/
def Core.retireStep (k : Core) (b : Batch) (r : List Batch) (t : TileStep) (ts : List TileStep) (vs : List W32) (clamped : Bool) : Core :=
  { ((k.setAccs (256 * t.acc) vs).saturate t.acc clamped).releaseStep t with batches := { b with steps := ts, started := false } :: r }

/-- A core whose oldest batch `b` has retired whole when no step `ts` is left of it (R263). -/
def Core.retireBatch (k : Core) (b : Batch) (r : List Batch) (ts : List TileStep) : Core :=
  if ts = [] then { k.keepStatus b.num 0 with batches := r } else k

theorem Core.retireBatch_acc (k : Core) (b : Batch) (r : List Batch) (ts : List TileStep) (n : Nat) :
    (k.retireBatch b r ts).accAt n = k.accAt n := by
  unfold Core.retireBatch
  split <;> rfl

theorem Core.retireBatch_ring (k : Core) (b : Batch) (r : List Batch) (ts : List TileStep) (i : Nat) :
    (k.retireBatch b r ts).ringAt i = k.ringAt i := by
  unfold Core.retireBatch
  split <;> rfl

theorem Core.retireBatch_last (k : Core) (b : Batch) (r : List Batch) :
    (k.retireBatch b r []).batches = r ∧ (b.num, 0) ∈ (k.retireBatch b r []).bstat :=
  ⟨rfl, List.mem_append_left _ (List.mem_append_right _ (List.mem_singleton.2 rfl))⟩

theorem Core.retireStep_acc (k : Core) (b : Batch) (r : List Batch) (t : TileStep) (ts : List TileStep) (vs : List W32) (clamped : Bool)
    (n : Nat) : (k.retireStep b r t ts vs clamped).accAt n = (k.setAccs (256 * t.acc) vs).accAt n := by
  unfold Core.retireStep
  rw [Core.releaseStep_units, Core.saturate_units]
  rfl

theorem Core.retireStep_ring (k : Core) (b : Batch) (r : List Batch) (t : TileStep) (ts : List TileStep) {vs : List W32}
    (hvs : vs.length = 256) (clamped : Bool) (hring : t.ra ≠ t.rb ∨ t.claimB = false) (ha : t.ra < 8) :
    (k.retireStep b r t ts vs clamped).ringAt t.ra = { k.ringAt t.ra with held := (k.ringAt t.ra).held - 1 } := by
  have hsame : ((k.setAccs (256 * t.acc) vs).saturate t.acc clamped).ringAt t.ra = k.ringAt t.ra := by
    rw [Core.saturate_units, (k.setAccs_set t.acc hvs).rest]
    rfl
  rw [← hsame]
  exact Core.releaseStep_ring _ t hring ha

/-- Core `c` has become `k`, and nothing else has changed. -/
structure CoreBecomes (c : Nat) (k : Core) (s t : State) : Prop where
  core : t.core c = k
  others : ∀ c', c' ≠ c → t.core c' = s.core c'
  units : t = { s with cores := t.cores }

theorem CoreBecomes.upCore {c : Nat} {k : Core} {s t : State} (h : CoreBecomes c k s t) (f : Core → Core) :
    CoreBecomes c (f k) s (t.upCore c f) := by
  refine ⟨?_, fun c' hc => ?_, ?_⟩
  · rw [State.core_upCore, if_pos rfl, h.core]
  · rw [State.core_upCore, if_neg (Ne.symm hc), h.others c' hc]
  · rw [show t.upCore c f = { t with cores := (t.upCore c f).cores } from rfl, h.units]

theorem CoreBecomes.upCore_same {c : Nat} {k : Core} {s t : State} (h : CoreBecomes c k s t) {f : Core → Core} (hf : f k = k) :
    CoreBecomes c k s (t.upCore c f) := by
  have hup := h.upCore f
  rwa [hf] at hup

theorem CoreBecomes.count {c : Nat} {k : Core} {s t : State} (h : CoreBecomes c k s t) (ev n : Nat) :
    ∃ e, CoreBecomes c { k with evc := e } s (t.count c ev n) :=
  ⟨_, h.upCore fun k => { k with evc := k.evc.map (fun e =>
    if e.event.toNat = ev ∧ (e.mode = 0 ∨ (e.mode = 1 ∧ k.lvl = 0) ∨ (e.mode = 2 ∧ k.lvl ≠ 0)) then
      { e with count := e.count + BitVec.ofNat 48 n } else e) }⟩

theorem CoreBecomes.releaseHeld {c : Nat} {k : Core} {s t : State} (h : CoreBecomes c k s t) (hheld : s.heldWrites = []) :
    CoreBecomes c k s t.releaseHeld := by
  have ht : t.heldWrites = [] := by rw [h.units]; exact hheld
  have hsame : ({ t with heldWrites := [] } : State) = t := by rw [← ht]
  unfold State.releaseHeld
  rw [ht, hsame]
  exact h

theorem CoreBecomes.putAcc {s : State} (hd : s.damage = []) (c a : Nat) (vs : List W32) :
    CoreBecomes c ((s.core c).setAccs (256 * a) vs) s (s.putAcc c a vs) := by
  have hclear : clearDamage s.damage (accKey c (1024 * a)) 1024 = s.damage := by rw [hd]; rfl
  refine ⟨(s.core_putAcc c a vs c).trans (if_pos rfl), fun c' hc => (s.core_putAcc c a vs c').trans (if_neg (Ne.symm hc)), ?_⟩
  change ({ s with cores := (s.putAcc c a vs).cores, damage := clearDamage s.damage (accKey c (1024 * a)) 1024 } : State) = _
  rw [hclear]

theorem State.completeBind_none (s : State) (c src sym : Nat) (w1 w2 : Word) : s.completeBind c src sym none w1 w2 = s := rfl

section
variable {c : Nat} {b : Batch} {r : List Batch} {t : TileStep} {ts : List TileStep} {s : State}
  (hb : (s.core c).batches = b :: r) (ht : b.steps = t :: ts) (hd : s.damage = []) (hbind : b.bind = none)
  (hpert : (s.core c).tpert = none) (hheld : s.heldWrites = []) (hstatus : b.status = 0)
include hb ht hd hbind hpert hheld hstatus

/-- A step of a batch without a node, in a state that nothing disturbs, changes its core only. -/
theorem runs_tileStepRetire_core : ∃ e, Runs (.tileStepRetire c) s (CoreBecomes c
      (({ (s.core c).retireStep b r t ts ((s.stepAcc c t).map (·.1)) ((s.stepAcc c t).any (·.2)) with evc := e } : Core).retireBatch b r ts)
      s) := by
  obtain ⟨num, steps, started, status, all, bind⟩ := b
  obtain rfl : steps = t :: ts := ht
  obtain rfl : bind = none := hbind
  obtain rfl : status = 0 := hstatus
  have hput := CoreBecomes.putAcc hd c t.acc ((s.stepAcc c t).map (·.1))
  have hsat := hput.upCore fun k => k.saturate t.acc ((s.stepAcc c t).any (·.2))
  have hnone : (((s.core c).setAccs (256 * t.acc) ((s.stepAcc c t).map (·.1))).saturate t.acc ((s.stepAcc c t).any (·.2))).tpert = none := by
    rw [Core.saturate_units, ((s.core c).setAccs_set t.acc (by rw [List.length_map, s.stepAcc_length])).rest]
    exact hpert
  have hkeep := hsat.upCore_same (f := fun k => match k.tpert with
    | some (i, v) => if i / 256 = t.acc then { (k.setAcc i (k.accAt i + v)) with tpert := none } else k
    | none => k) (by rw [hnone])
  have hstep : CoreBecomes c ((s.core c).retireStep ⟨num, t :: ts, started, 0, all, none⟩ r t ts ((s.stepAcc c t).map (·.1))
      ((s.stepAcc c t).any (·.2))) s _ :=
    hkeep.upCore fun k => { (k.releaseStep t) with batches := ⟨num, ts, false, 0, all, none⟩ :: r }
  have hfree := hstep.releaseHeld hheld
  obtain ⟨e, hcount⟩ := hfree.count 8 1
  refine ⟨e, ?_⟩
  change ∃ u, execTileStepRetire c s = .next u ∧ _
  unfold execTileStepRetire
  rw [hb]
  dsimp only
  rw [State.lostBytes_undamaged hd, s.settle_undamaged hd]
  simp only [Bool.false_and, Bool.false_eq_true, if_false]
  rw [State.settleSlots_undamaged hd]
  cases ts with
  | nil =>
    refine ⟨_, rfl, ?_⟩
    rw [if_pos (by rfl), State.completeBind_none, if_neg (by decide)]
    exact hcount.upCore fun k => { k.keepStatus num 0 with batches := r }
  | cons t' ts => exact ⟨_, rfl, hcount⟩

theorem runs_tileStepRetire :
    Runs (.tileStepRetire c) s fun u =>
      (∀ n, n < 256 → (u.core c).accAt (256 * t.acc + n) = (((s.stepAcc c t)[n]?).map (·.1)).getD 0) ∧
      (∀ n, n < 256 * t.acc ∨ 256 * t.acc + 256 ≤ n → (u.core c).accAt n = (s.core c).accAt n) ∧
      (t.ra ≠ t.rb ∨ t.claimB = false → t.ra < 8 →
        (u.core c).ringAt t.ra = { (s.core c).ringAt t.ra with held := ((s.core c).ringAt t.ra).held - 1 }) ∧
      (ts = [] → (u.core c).batches = r ∧ (b.num, 0) ∈ (u.core c).bstat) ∧
      (ts ≠ [] → (u.core c).batches = { b with steps := ts, started := false } :: r) ∧
      (∀ c', c' ≠ c → u.core c' = s.core c') ∧ u.mem = s.mem := by
  obtain ⟨e, u, hu, hcore, hothers, hunits⟩ := runs_tileStepRetire_core hb ht hd hbind hpert hheld hstatus
  have hvs : ((s.stepAcc c t).map (·.1)).length = 256 := by rw [List.length_map, s.stepAcc_length]
  have hset := (s.core c).setAccs_set t.acc hvs
  refine ⟨u, hu, fun n hn => ?_, fun n hn => ?_, fun hring ha => ?_, fun hts => ?_, fun hts => ?_, hothers, by rw [hunits]⟩
  · rw [hcore, Core.retireBatch_acc, ← List.getElem?_map, ← hset.inside n hn]
    exact (s.core c).retireStep_acc b r t ts _ _ _
  · rw [hcore, Core.retireBatch_acc, ← hset.others n hn]
    exact (s.core c).retireStep_acc b r t ts _ _ _
  · rw [hcore, Core.retireBatch_ring]
    exact (s.core c).retireStep_ring b r t ts hvs _ hring ha
  · rw [hcore, hts]
    exact Core.retireBatch_last _ _ _
  · rw [hcore, Core.retireBatch, if_neg hts]
    rfl

end

end Sys2Proof.Machine

namespace Sys2Proof.Proofs
open Sys2Proof.Machine

/-- Settles O35: the accumulator instructions by what their accesses read and place, TACCQ by the fields of its word, and a step
of the engine by what it changes of its core. -/
theorem tileAccumulators : Obligations.TileAccumulators := by
  unfold Obligations.TileAccumulators
  refine ⟨fun h d a t disp u s hopen hbusy => ?_, fun h d a t disp i32 s rs w key => ?_, runs_taccq, fun form fa fb sw a b acc hform => ?_,
    fun c b r t ts s hb ht hd => ⟨runs_tileStepStart hb ht hd, fun hbind hpert hheld hstatus => ?_⟩⟩
  · intro st va el Sets
    have hst : s.rowStride t = st := State.rowStride_eq s t
    have sets {i : Instr} {f : Nat → W32} (hi : Runs i s (AccWritten h d.toNat f s)) : Sets i f := by
      obtain ⟨x, hx, hw⟩ := hi
      exact ⟨x, hx, hw.past, hw.registers, hw.cores, hw.bytes, hw.inside, hw.others⟩
    exact ⟨sets (runs_tzero hopen hbusy u), fun key hkey hsound => sets (runs_tlda hopen hbusy hst hkey hsound),
      fun key hd htwin hwf hreplay hkey hapart => runs_tsta hopen hbusy hd htwin hwf hreplay hst hkey hapart⟩
  · intro x tab step va out hopen hbusy hd htwin hwf hreplay htab hreads hrs hw hkey hapart hten
    have hfin (j : Nat) (hj : j < 16) : Fin.ofNat 16 j = ⟨j, hj⟩ := Fin.ext (Nat.mod_eq_of_lt hj)
    exact runs_tstaQ hopen hbusy hd htwin hwf hreplay (rs := fun j => rs (Fin.ofNat 16 j)) (bits_eq_extractLsb' x 32 18) (sext_32 x) htab
      (fun j hj => hreads ⟨j, hj⟩) (fun j hj => hfin j hj ▸ hrs ⟨j, hj⟩) hw hkey hapart hten
  · exact stepElem_int hform fa fb sw a b acc
  · exact runs_tileStepRetire hb ht hd hbind hpert hheld hstatus

end Sys2Proof.Proofs
end
